-- ==== Sys2Proof/Word.lean ====
section
/-!
DEFINITION. The word types of the TH8 manual and their plainest arithmetic.

Every register is 64 bits wide (R8), every address 48 bits, every stored byte 8 bits (R7).  A bit
vector is used only for what software sees as bits; counts, cycles and indexes are `Nat` or `Fin`.
-/

namespace Sys2Proof

/-- One byte of any memory of the module (R7). -/
abbrev Byte := BitVec 8

/-- The 32-bit word of an FP32 value, a serial number or a step number. -/
abbrev W32 := BitVec 32

/-- A register of the module (R8). -/
abbrev W64 := BitVec 64

end Sys2Proof
end

