-- ==== Sys2Proof/Syntax.lean ====
section
/-!
DEFINITION. The commands of the TH8: one constructor of `Instr` for each row of
spec/opcode_table.json, with the operands the row's rules give it.

A command is what reaches the module from outside (a register write, a doorbell, a management
command, a pin, a flit) or one of the module's own steps (a pass of an engine starts, a timer
expires).  A step that the module takes by itself has as operands the agent that takes it, and
whatever the manual leaves to the world: a measured value, a cycle that depends on a latency the
manual does not fix, the outcome of a training.  Everything else a step needs is in the state.
-/

namespace Sys2Proof

/-- Flat logical unit index (R12). -/
abbrev UnitIx := Fin 768
/-- Flat cluster index (R169). -/
abbrev CluIx := Fin 192
/-- Flat region index die × 4 + region; also the cache slice of that region (R289). -/
abbrev RgnIx := Fin 32
/-- Compute die. -/
abbrev DieIx := Fin 8
/-- Hub die. -/
abbrev HubIx := Fin 2
/-- Global channel number 64 × die + dc (R280). -/
abbrev ChanIx := Fin 512
/-- Fabric port (R344). -/
abbrev PortIx := Fin 24
/-- Stream address generator of a unit. -/
abbrev GenIx := Fin 4
/-- Task context of a unit. -/
abbrev TaskIx := Fin 8
/-- Collective engine (R393). -/
abbrev CleIx := Fin 4
/-- Queue number (R406). -/
abbrev QIx := Fin 262144
/-- Monitor block: 0 to 7 a compute die, 8 hub 0, 9 hub 1 (R583). -/
abbrev MonIx := Fin 10

/-- The two engines of a unit (R71). -/
inductive Eng where
  | fwd
  | bwd
  deriving DecidableEq, Repr

/-- The three engine slots of a unit (R182). -/
inductive Slot where
  | fwd
  | bwd
  | rru
  deriving DecidableEq, Repr

/-- The two register requesters (R595). -/
inductive Who where
  | host
  | mgmt
  deriving DecidableEq, Repr

/-- What a channel delivers for one 32-byte sector (R281, R298). -/
inductive SectorOutcome where
  /-- No error. -/
  | clean
  /-- One symbol wrong: delivered corrected. -/
  | corrected
  /-- Detected and uncorrectable: delivered poisoned. -/
  | uncorrectable
  /-- The side-plane checksum fails on arrival at the slice (R298). -/
  | sideCheck
  deriving DecidableEq, Repr

/-- A request at a cache slice (R290, R291): one that a stream generator issued, named by its place
among the requests of its stream, or one of another agent of the module. -/
inductive SliceReq where
  /-- Request `i` of the stream of task `t` of generator `g` of unit `u`. -/
  | stream (u : UnitIx) (g : GenIx) (t : TaskIx) (i : Nat)
  /-- A read of `len` bytes at a device address, with its hint (R291: 0 STREAM, 1 KEEP, 2 LAST_USE). -/
  | read (addr : BitVec 48) (len : Nat) (hint : Fin 3)
  /-- A write of bytes at a device address, with its hint. -/
  | write (addr : BitVec 48) (data : List Byte) (hint : Fin 3)
  deriving DecidableEq, Repr

/-- The contents of an INIT control flit (R351). -/
structure InitFlit where
  peer : W64
  gen  : BitVec 16
  dir  : Fin 6
  k    : Fin 4
  rxOk : Bool
  deriving DecidableEq, Repr

/-- The fields of a LINK control flit (R354).  `credits` holds the four cumulative counts (R380). -/
structure LinkFlit where
  ack     : Option (BitVec 12)
  nak     : Option (BitVec 12)
  replay  : Option (BitVec 12)
  credits : List W64
  deriving DecidableEq, Repr

/-- A CONTROL flit by its CKIND (R354). -/
inductive Ctrl where
  | link (f : LinkFlit)
  | init (f : InitFlit)
  | sleep
  | sleepAck
  /-- A reserved CKIND: the flit is ignored. -/
  | reserved
  deriving DecidableEq, Repr

/-- One slot of a codeword (R348): the KIND of its two header bits (0 IDLE, 1 HEAD, 2 BODY, 3 CONTROL) and
its 64 bytes. -/
structure SlotIn where
  kind  : Fin 4
  bytes : List Byte
  deriving DecidableEq, Repr

/-- A received codeword after the RS(544,514) decoder (R349). -/
inductive CodewordIn where
  /-- An ALIGN codeword (R348). -/
  | align
  /-- Decoded, with `symErrs` corrected symbols, 0 to 15. -/
  | decoded (symErrs : Nat) (slots : List SlotIn)
  | uncorrectable
  deriving DecidableEq, Repr

/-- A packet of the fabric: the 64 bytes of its header and its payload (R373). -/
structure Packet where
  hdr     : List Byte
  payload : List Byte
  deriving DecidableEq, Repr

/-- Where a router takes a packet from: an input port and virtual channel, or the injection queue of
the module's own engines. -/
inductive RouteSrc where
  | port (p : PortIx) (vc : Fin 4)
  | inject
  deriving DecidableEq, Repr

/-- A function that reports in PKG_READY (R487). -/
inductive Func where
  | mmc
  | hif
  | fab0
  | hub1
  | flash
  | die (d : DieIx)
  | stack (d : DieIx) (s : Fin 2)
  | port (p : PortIx)
  deriving DecidableEq, Repr

/-- What the self-test of one compute die found (R14, R61, R65, R160): for each of its 28 physical
clusters whether its control core, crossbar, counters, store and generators passed, and for each of
its 112 physical units the failed physical columns of its six arrays, a bit mask each. -/
structure SelfTest where
  clusterOk : List Bool
  colFaults : List (List (BitVec 66))
  deriving DecidableEq, Repr

/-- How a function's bring-up ended (R483, R486). -/
inductive ReadyOutcome where
  /-- Ready; a die brings its self-test results, an HBM stack for each of its channels the lanes that its
  training replaced, none where training or the default test failed (R282, R304, R312). -/
  | ready (t : SelfTest) (ch : List (Option (Fin 6)))
  /-- The function could not come up. -/
  | failed
  /-- HBM stack only: the stack's fitted capacity differs from the fused ordering code (R486). -/
  | capacityMismatch
  deriving DecidableEq, Repr

/-- How the read of a submission ring ended (R418). -/
inductive RingRead where
  | ok
  | unsupportedRequest
  | completerAbort
  | poisoned
  deriving DecidableEq, Repr

/-- A host's response to a page request group (R435). -/
inductive PageResp where
  | success
  | invalidRequest
  | responseFailure
  deriving DecidableEq, Repr

/-- An error on its way to a handler (R516, R517).  A halt travels as an error of class HALTED with
its reason and the type words of its event (R243, R424). -/
structure Err where
  code   : Nat
  cls    : Nat
  scope  : Nat
  index  : Nat
  detail : W64
  reason : Nat
  /-- Type words 2, 3 and 4 of a HALT event. -/
  w2 : W64
  w3 : W64
  w4 : W64
  /-- ESC, DEFER, INJ of R529. -/
  esc   : Bool
  defer : Bool
  inj   : Bool
  deriving DecidableEq, Repr

/-- A strike of a handler (R522): its domain, and the error detected in its own resources, none where it has
not finished the error it handles within its time limit. -/
structure Strike where
  index : Nat
  own   : Option Err
  deriving DecidableEq, Repr

/-- The verdicts of the boot chain (R489, R490): for each boot-flash bank whether the signature of its MMC
image holds and the digest of the public key that it carries, whether the hub 1 and compute-die images
verify, and the SHA-384 digests of the images of bank A, bank B, hub 1 and the compute dies. -/
structure BootVerdict where
  bankOk : Bool × Bool
  bankKey : BitVec 384 × BitVec 384
  hub1Ok : Bool
  dieOk  : Bool
  digests : List (BitVec 384) := []
  deriving DecidableEq, Repr

/-- What the input-loss comparator measured (R578). -/
structure InputLoss where
  vmin  : BitVec 16
  vhold : BitVec 16
  /-- The flush of the Almanac mirror has been written whole from the hold-up bank (R542, R543). -/
  flushed : Bool
  /-- The input has risen through the lockout release by the end of the sequence (R577). -/
  recovered : Bool
  deriving DecidableEq, Repr

/-- One measurement of a margin (R560, R562): what the path monitors of the die give at an operating
point under its present offset plus `n` steps, for n = 0, 1, 2, ... -/
abbrev MarginRun := List Int

/-- A test-access-port instruction (R590). -/
inductive TapInstr where
  | extest
  | intest
  | clamp
  | highz
  | bypass
  | idcode
  | sample
  deriving DecidableEq, Repr

/-- A change of the management port's bus mode (R581). -/
inductive I3cOp where
  | setdasa (addr : BitVec 7)
  | entdaa (addr : BitVec 7)
  | rstdaa
  deriving DecidableEq, Repr

/-- An SPDM request by its kind (R585). -/
inductive SpdmReq where
  | getCertificate
  | challenge (nonce : Nat)
  | getMeasurements (index : Nat) (nonce : Nat)
  /-- Key exchange; `chained`: the requester authenticated with a certificate chained to the anchor
  (R586, R587). -/
  | keyExchange (chained : Bool)
  | endSession (id : Nat)
  deriving DecidableEq, Repr

/-- The ACLK cycles of a descriptor's admission and of the end of its preparation, whose latency the manual
bounds only below (R183). -/
structure PrepTimes where
  admitted : Nat
  ended : Nat
  deriving DecidableEq, Repr

/-- How a window that did not meet its target ended (R303): whether the previous settings verify, and whether
the training needed more spare lanes than R282 allows. -/
structure WindowEnd where
  restored : Bool
  lanes : Bool
  deriving DecidableEq, Repr

/-- The result of a training at the fallback rate: the lanes spared (R282) and whether it passed (R304). -/
structure FallbackEnd where
  spared : Fin 6
  passed : Bool
  deriving DecidableEq, Repr

/-- A flash segment of a slot is written: the rate measured over it in bytes a second (R453). -/
structure SegmentEnd where
  slot : Fin 2
  rate : BitVec 40
  deriving DecidableEq, Repr

/-- A move of the migration engine of a die, and what reading each sector of the unit gives. -/
structure UnitMove where
  die : DieIx
  sectors : List SectorOutcome
  deriving DecidableEq, Repr

/-- A TG_CTRL write with STOP, and the faulty sectors of the pass that it cuts short, with their lanes
(R314, R315). -/
structure TgHalt where
  ctrl : W64
  faulty : List (Nat × W64)
  deriving DecidableEq, Repr

/-- A queue's message; `late`: COAL_US has passed since the first entry that no message has reported (R422). -/
structure QueueMsg where
  queue : QIx
  late : Bool
  deriving DecidableEq, Repr

/-- The commands of the TH8, in the order of spec/opcode_table.json. -/
inductive Instr where
  /- Control-core commands and what they start (07_layer_programs, 08_static_schedule). A control-core
     command names its cluster; its words are those the control core fetches next (R188). -/
  | cfg (c : CluIx)
  | dcrcCheck (u : UnitIx) (sl : Slot)
  | patch (c : CluIx)
  | patchTakeEffect (c : CluIx)
  | go (c : CluIx)
  | goAdmit (u : UnitIx) (sl : Slot)
  | goPrepare (u : UnitIx) (sl : Slot) (t : PrepTimes)
  | goStart (u : UnitIx) (sl : Slot)
  | strm (c : CluIx)
  | waittok (c : CluIx)
  | waittokRelease (c : CluIx)
  | tokenTimeout (c : CluIx)
  | sigtok (c : CluIx)
  /-- The `i`-th token addition in flight arrives. -/
  | tokenAdd (i : Nat)
  | replay (c : CluIx)
  | swap (c : CluIx)
  | swapTakeEffect (c : CluIx)
  | fence (c : CluIx)
  | fenceRelease (c : CluIx)
  | halt (c : CluIx)
  | programEnd (c : CluIx)
  /- Engines, scales and chains (02 to 06). -/
  | passStart (u : UnitIx) (e : Eng)
  /-- `parity`: accumulator words whose parity fails, as (array, row, physical column) (R67). -/
  | drainStart (u : UnitIx) (e : Eng) (parity : List (Fin 6 × Fin 64 × Fin 66))
  | descriptorComplete (u : UnitIx) (sl : Slot)
  | scaleReport (i : Nat)
  | scaleClose (i : Nat)
  | chainRowArrive (u : UnitIx)
  | chainAbort (u : UnitIx)
  | watchdog (u : UnitIx)
  /- Streams (09). -/
  | streamStart (u : UnitIx)
  | streamIssue (u : UnitIx) (g : GenIx)
  /-- `t`: the ACLK cycle of the delivery (R264). -/
  | elementDelivery (u : UnitIx) (g : GenIx) (k : TaskIx) (t : Nat)
  | faultTimeout (u : UnitIx) (g : GenIx) (k : TaskIx)
  /- Memory system (10, 18). -/
  | sliceRequest (r : SliceReq)
  | lineFill (ch : ChanIx) (line : Nat) (sectors : List SectorOutcome)
  | retrainWindowOpen (ch : ChanIx)
  | retrainReopen (ch : ChanIx) (spared : Fin 6)
  | retrainTimeout (ch : ChanIx) (restored : WindowEnd)
  | fallbackTrainingDone (ch : ChanIx) (passed : FallbackEnd)
  | migrationUnitMove (d : UnitMove)
  | patrolRead (ch : ChanIx) (sector : Nat) (o : SectorOutcome)
  | tgStart (ch : ChanIx) (v : W64)
  | tgStop (ch : ChanIx) (v : TgHalt)
  /-- `faulty`: sectors the checker finds failing beyond what the stored bytes show, with their wrong
  data lanes (R313). -/
  | tgProgramEnd (ch : ChanIx) (faulty : List (Nat × W64))
  | mscFlush (sl : RgnIx)
  | mscFlushDone (sl : RgnIx)
  | unpinAll (sl : RgnIx)
  /- Update engine (11). -/
  | upeJobTake (d : DieIx)
  | upeTokenRelease (d : DieIx)
  | upeTokenTimeout (d : DieIx)
  | update (d : DieIx)
  | norm (d : DieIx)
  | statBlend (d : DieIx)
  | rootPrep (d : DieIx)
  | rootT (d : DieIx)
  | upeJobComplete (d : DieIx)
  /- Links (12). -/
  | linkTrainingDone (p : PortIx)
  | trainFail (p : PortIx)
  | initSend (p : PortIx)
  | initFlit (p : PortIx) (f : InitFlit)
  | codewordReceive (p : PortIx) (cw : CodewordIn)
  | linkFlit (p : PortIx) (f : LinkFlit)
  | nakRepeat (p : PortIx)
  | ackTimer (p : PortIx)
  | replayTimeout (p : PortIx)
  | lockLoss (p : PortIx)
  | partnerSignalLoss (p : PortIx)
  | reinject (p : PortIx)
  | autoRetrain (p : PortIx)
  | lnkRetrain (p : PortIx)
  | lnkEnable (p : PortIx) (on : Bool)
  | lanternSend (p : PortIx)
  | clrCnt (p : PortIx)
  | portSleep (p : PortIx)
  | sleep (p : PortIx)
  | sleepAck (p : PortIx)
  | sleepAckTimeout (p : PortIx)
  | signalDetectWake (p : PortIx)
  /-- The detector sees `bursts` bursts within 70 µs, each within 20 % of nominal (R366). -/
  | lanternDetect (p : PortIx) (bursts : Nat)
  | autoWakeLantern (p : PortIx)
  /- Fabric (13). -/
  | packetRoute (src : RouteSrc)
  | packetForward (src : RouteSrc)
  | put
  | putAck
  | msg
  | token
  | coll
  | collCredit
  | vigilStart (w : Who) (v : W64)
  | vigilStop
  | vigilCount
  | vigilCommit
  | vigilRollback
  | vigilResume
  | vigilReply
  | vigilStageTimeout
  | vigilSelfResume
  | fabRetire (v : W64)
  | fabClrMon
  | copyOut (h : HubIx)
  | transferTimeout (h : HubIx)
  | reduceScatter (e : CleIx)
  | allGather (e : CleIx)
  | allReduce (e : CleIx)
  | ringPass (e : CleIx)
  | collComplete (e : CleIx)
  | collTimeout (e : CleIx)
  /- Host interface (14). -/
  | bar4Read (off : Nat) (len : Nat)
  | bar4Write (off : Nat) (data : List Byte)
  /-- A write of `size` bytes at a BAR2 offset (R411). -/
  | doorbell (off : BitVec 22) (size : Nat) (v : W64)
  | doorbellArm (off : BitVec 22) (size : Nat) (v : W64)
  | queueEnable (q : QIx) (v : W64)
  | queueDisable (q : QIx) (v : W64)
  | sqFetch (q : QIx) (r : RingRead)
  /-- The target `tgt` (0 firmware, 1 + d update engine, 9 + h transfer engine, 11 + e collective
  engine) takes its next entry. -/
  | sqEntryTake (tgt : Fin 15)
  | completionPost (tgt : Fin 15)
  | msixSend (q : QueueMsg)
  | eventDelivery
  | load
  /-- `t`: the ACLK cycle of the application on every die's count. -/
  | slotMapApply (t : Nat)
  | start
  | programStart
  | grant
  | revoke
  | pageRefuse
  | clusterReset
  | unload
  /-- The host's answer to a translation request for the stream: read, write, and log2 of the size
  returned (R434). -/
  | atsTranslationResponse (u : UnitIx) (g : GenIx) (k : TaskIx) (r w : Bool) (logSize : Nat)
  | pageRequestResponse (u : UnitIx) (g : GenIx) (k : TaskIx) (r : PageResp)
  | atsInvalidation (addr : BitVec 48) (len : Nat)
  | priEnableClear
  | hostInterfaceReset
  /- Harvest (15). -/
  | harvestRingPoll
  | harvestTokenRelease
  | equinox
  | equinoxAgreed
  | harvestCopyCommit
  | record
  | digest
  | restore
  | verify
  | capture
  | list
  | harvestPut
  | generationRecordReread
  /-- Measured usable energy of the bank in units of 10 mJ, measured power of the flash domain in mW (R453,
  R477). -/
  | flashSegmentStart (slot : Fin 2) (eCap : BitVec 16) (pHold : BitVec 32)
  | holdupRecheck (slot : Fin 2) (eCap : BitVec 16) (pHold : BitVec 32)
  | flashSegmentDone (d : SegmentEnd)
  | isolationTimeout
  /- Bring-up, clocks, power (16). -/
  | powerOnColdReset (b : BootVerdict) (maddr : BitVec 4)
  /-- The verdicts of the boot that follows the warm reset (R482, R489). -/
  | perstAssert (b : BootVerdict)
  | perstDeassert
  | functionReady (f : Func) (o : ReadyOutcome)
  | rootClockLoss
  | dieClockLoss (d : DieIx)
  | pwrOpVWr (d : DieIx) (v : W64)
  | pwrOpFWr (d : DieIx) (v : W64)
  | pwrOpTWr (d : DieIx) (v : W64)
  | voltageSlewDone (d : DieIx)
  | pwrStretchWrite (v : W64)
  | reqActive
  | reqIdle
  | reqDormant
  | reqSolstice
  | powerEntryComplete
  | d3hotToD0
  | pwrTimerExpiry
  /-- Whether the CRC of each keep-store copy holds (R509). -/
  | wakeComplete (copies : Bool × Bool)
  /- Errors and the Almanac (17). -/
  /-- The `i`-th error in flight reaches its handler, or an error that a block detects by itself. -/
  | errorArrival (e : Nat ⊕ Err)
  /-- The handler of level `lvl` (0 unit, 1 cluster, 2 region, 3 die, 4 package) and domain `ix`
  finishes its error. -/
  | errorHandlingEnd (lvl : Fin 5) (ix : Nat)
  | handlerStrike (lvl : Fin 5) (x : Strike)
  | rateLimitReport (lvl : Fin 5) (ix : Nat) (code : BitVec 16)
  | pkgErrInj (v : W64)
  | almanacMirror
  | almanacRestore
  | opsecTick
  | timeBaseSave
  /- Monitors and ageing (18). -/
  | monitorSample (b : MonIx) (n : Fin 128) (v : W32)
  | windowClose (b : MonIx) (n : Fin 128)
  | monClose (b : MonIx) (n : Fin 128)
  /-- The hottest junction sensor of the die in 1/16 °C, its number, and whether 1 ms has passed since
  the last change of the thermal stretch (R553, R554). -/
  | thermalControl (d : DieIx) (tj : BitVec 12) (hot : Fin 32) (aged : Bool)
  /-- A sample of source 0x23 in 0.1 W, the 10 ms average in W, the input voltage in 10 mV, and which
  of the 1 ms and 10 ms steps of R555 fall due. -/
  | powerControl (sample : Nat) (avg10 : BitVec 16) (vin : Nat) (msDue tenMsDue : Bool)
  /-- Die 0 to 7, or hub 8 + h. -/
  | thermalTrip (dom : Fin 10) (sensor : Fin 32) (temp : BitVec 12)
  | jubileeDue (d : DieIx)
  | jubileeStart (d : DieIx) (v : W64)
  | jubileeRun (d : DieIx)
  /-- The margins measured at OP0 to OP4 (R562). -/
  | jubileeComplete (d : DieIx) (runs : List MarginRun)
  /-- The failed physical columns of the unit's six arrays (R61). -/
  | columnTestDone (u : UnitIx) (faults : List (BitVec 66))
  /- Module interfaces (19). -/
  | inputUndervoltage (m : InputLoss)
  | inputOvervoltage (m : InputLoss)
  | inputCurrentLimit (m : InputLoss)
  | regRead (off : BitVec 28) (size : Nat)
  | regWrite (auth : Bool) (off : BitVec 28) (size : Nat) (v : W64)
  | coldReset (auth : Bool) (b : BootVerdict) (maddr : BitVec 4)
  | warmReset (auth : Bool) (b : BootVerdict)
  | powerState (auth : Bool) (req : Fin 8)
  | wake
  | admitModule (auth : Bool) (gen : BitVec 16)
  | retireNotice (auth : Bool) (gen : BitVec 16)
  | channelRetire (auth : Bool) (ch : ChanIx)
  | channelTest (auth : Bool) (ch : ChanIx)
  /-- One unit, or all units. -/
  | columnTest (auth : Bool) (u : Option UnitIx)
  | readAlmanac (archive : Bool) (ix : BitVec 16)
  | clearAlmanac (auth : Bool)
  | readBringup (n : Nat)
  | activate (auth : Bool)
  | testAccess (auth : Bool)
  | setAnchor (auth : Bool) (digest : BitVec 384)
  | channelTrain (auth : Bool) (ch : ChanIx) (passed : Bool) (spared : Fin 6)
  | pldmFirmwareUpdate (image : Nat) (svn : BitVec 16) (activateFirmware : Bool)
  | pldmSensorRead (id : BitVec 16)
  | spdmRequest (r : SpdmReq)
  | i3cAddressAssign (o : I3cOp)
  | xmodemBundle (image : Nat) (svn : BitVec 16)
  | tapIntrusiveInstruction (i : TapInstr)
  | trst
  /- Register transactions and register writes (20, 08). -/
  | pkgTxnBegin (w : Who) (v : W64)
  | pkgTxnCommit (w : Who) (v : W64)
  | pkgTxnRollback (w : Who) (v : W64)
  | txnTimeout (w : Who)
  /-- A host write of `size` bytes at byte `off` of the shadow block. -/
  | shadowBlockWrite (u : UnitIx) (sl : Slot) (off : Fin 1024) (size : Nat) (v : W64)
  | activeBlockLiveWrite (u : UnitIx) (sl : Slot) (off : Fin 1024) (size : Nat) (v : W64)
  | pstoreWindowWrite (c : CluIx) (off : Fin 131072) (size : Nat) (v : W64)
  | swapReq (c : CluIx)
  | ccBreak (c : CluIx)
  | ccResume (c : CluIx)
  | snapRingEnable (v : W64)
  | registerWrite (w : Who) (off : BitVec 28) (size : Nat) (v : W64)
  | dieLinkRelock (d : Fin 7) (longer : Bool)
  | hbmPhyLockLoss (ch : ChanIx)
  | harvestTokenTimeout
  | transferTokenTimeout (h : HubIx)
  | d3hotEntry
  | pldmEventRetrieval
  deriving DecidableEq, Repr

end Sys2Proof
end

