-- ==== Sys2Proof/Decode.lean ====
section
/-!
DEFINITION. The command that a word spells by the opcode table's bits.

The table of the TH8 gives no row any bits: its rows are steps and events of the block, not encoded
instructions.  So no word spells a command.
-/

namespace Sys2Proof

/-- The command of a word of the opcode table: no row of the table has bits, so there is none. -/
def decodeTableWord (_nbits _w : Nat) : Option Instr := none

end Sys2Proof
end

