-- ==== Sys2Proof/Config.lean ====
section
/-!
DEFINITION. What the manual fixes in fuses and does not print, and the values it leaves free.

A constant here has no body: no proof can see what it is, and every statement about the machine
holds whatever it is.
-/

namespace Sys2Proof.Config

/-- The fused ordering code: true for WTH8-768A, false for WTH8-512A (R2, R602 ORDER). -/
opaque order768 : Bool

/-- The fused module identity (R602 MODULE_ID). -/
opaque moduleId : W64

/-- Byte `n` of the free bytes: the contents of poisoned data, which carry no promise (R290), and of
data the manual leaves open. -/
opaque freeByte : Nat → Byte

/-- Free 64-bit value `n`, for a value the manual does not state. -/
opaque freeWord : Nat → W64

/-- The fields of register `k` that only time drives, as the `n`-th reading finds them: a frame position, a
fraction of a second, a count of milliseconds or of cycles. -/
opaque freeField : Nat → Nat → W64

/-- Bytes 1 to 59 of an INIT flit of a sender's identity, generation, direction, index and RX_OK: R351 names
its fields and the manual gives them no place in the flit. -/
opaque initBody : W64 → Nat → Nat → Nat → Bool → List Byte

/-- The fields of a received INIT flit, read from its bytes. -/
opaque initPeer : List Byte → W64
opaque initGen : List Byte → BitVec 16
opaque initDir : List Byte → Fin 6
opaque initK : List Byte → Fin 4
opaque initRxOk : List Byte → Bool

end Sys2Proof.Config
end

