-- ==== Sys2Proof/Machine/State.lean ====
section
/-!
DEFINITION. Everything the manual gives the TH8 to hold, as plain data, and its value at reset.

Every register of BAR0 has one home, the sparse table `regs`, keyed by its BAR0 offset with the
physical cluster number in place of the cluster window (R603, R22); a key that is not listed reads as
the register's reset value (`Reg.reset`).  A `SMap` is a list of key and value pairs in one canonical
form: keys strictly rising, and no entry equal to the default of its table.
-/

namespace Sys2Proof.Machine

/-- Sparse data by key.  The default of an unlisted key belongs to each table. -/
abbrev SMap (α : Type) := List (Nat × α)

/-! ### Units -/

/-- Where a queued or running command comes from (R224, R242): its ticket, word index, bank and
REPLAY run, and whether it runs speculatively (R229). -/
structure Prov where
  ticket : Nat := 0
  pc     : Nat := 0
  bank   : Nat := 0
  iter   : Nat := 0
  spec   : Bool := false
  deriving DecidableEq, Repr

/-- A command in the queue of an engine slot (R191). -/
inductive QCmd where
  /-- CFG: source (0 bank, 1 device memory) and address. -/
  | cfg (src addr : Nat)
  /-- GO with its PHASE. -/
  | go (phase : Nat)
  deriving DecidableEq, Repr

/-- How far a queued GO is (R183). -/
inductive Stage where
  | queued
  | admitted
  | prepared
  deriving DecidableEq, Repr

/-- An entry of the queue of an engine slot. -/
structure QEnt where
  cmd   : QCmd
  prov  : Prov
  stage : Stage := .queued
  deriving DecidableEq, Repr

/-- An entry of the stream queue: a STRM (R189). -/
structure SEnt where
  gen  : Nat
  task : Nat
  src  : Nat
  addr : Nat
  prov : Prov
  /-- The program, once it has been read and has passed its checks: header and instructions (R255). -/
  prog : Option (List W64 × List (List W64)) := none
  deriving DecidableEq, Repr

/-- A ticketed command in the scoreboard (R224 to R227): its declared regions as bit masks.  A dead
command will never complete. -/
structure SbEnt where
  ticket   : Nat
  rd       : Nat := 0
  wr       : Nat := 0
  declared : Bool := false
  dead     : Bool := false
  /-- A speculative command that has finished and completes at confirmation (R231). -/
  done     : Bool := false
  /-- While speculative: its regions that it has written (R232). -/
  wrote    : Nat := 0
  deriving DecidableEq, Repr

/-- What a descriptor's conversions report (R151). -/
structure Report where
  amax : W32 := 0#32
  novf : Nat := 0
  nnf  : Nat := 0
  deriving DecidableEq, Repr

/-- A prepared or started descriptor: the copied words 0 to 26, what preparation read (R53, R150,
R183), and its progress. -/
structure RunSt where
  slot     : Nat
  desc     : List W64
  prov     : Prov
  cyc0     : Nat := 0
  phaseWait : Bool := false
  started  : Bool := false
  dead     : Bool := false
  /-- A row of its drains was refused (R220). -/
  refused  : Bool := false
  seed     : W64 := 0#64
  step     : W32 := 0#32
  tA       : Int := 0
  tB       : Int := 0
  tOut     : Int := 0
  tRru     : Int := 0
  recOut   : Option Nat := none
  recRru   : Option Nat := none
  /-- The masks as bit vectors, bit x for index x. -/
  rowMask  : Nat := 0
  colMask  : Nat := 0
  kMask    : Nat := 0
  widths   : List Nat := []
  /-- Passes of the descriptor, passes started, passes drained. -/
  total    : Nat := 0
  fed      : Nat := 0
  drained  : Nat := 0
  /-- Passes whose total a chain tail has delivered. -/
  landed   : Nat := 0
  repOut   : Report := {}
  repRru   : Report := {}
  /-- X elements held for the RRU, keyed m × N + n, and its poisoned segments, keyed m × 4096 + n div
  64. -/
  xs       : SMap W32 := []
  xPoison  : SMap Bool := []
  /-- Cycle in which its write regions complete, once its last drain has landed. -/
  endCyc   : Nat := 0
  deriving DecidableEq, Repr

/-- One pass of an engine (R39, R40). -/
structure PassRec where
  ticket : Nat
  /-- Number within the descriptor. -/
  index  : Nat
  page   : Nat
  rb     : Nat
  /-- Output columns of each array of the engine. -/
  cols   : List (List Nat)
  s      : Nat
  /-- The cycle after its last fill slot. -/
  fin    : Nat
  /-- Drain start, once the drain has started. -/
  d      : Option Nat := none
  deriving DecidableEq, Repr

/-- A block kept in the block-completion buffer (R58): its active values by output column. -/
structure BlockKeep where
  blk    : Nat := 0
  vals   : List (Nat × W32) := []
  poison : Bool := false
  deriving DecidableEq, Repr

/-- What an operand port of an engine holds between passes (R80, R81): the cycles in which the last column
group but one and the last one have been fed, the words of the scale records that it holds with the
descriptor that read them, and the first cycle that used them. -/
structure PortHold where
  old    : Nat := 0
  fed    : Nat := 0
  recs   : List Nat := []
  ticket : Nat := 0
  recAt  : Nat := 0
  deriving DecidableEq, Repr

/-- One engine of a unit. -/
structure EngSt where
  /-- Passes since reset (R35). -/
  count  : Nat := 0
  /-- The accumulators, keyed ((array × 2 + page) × 64 + row) × 66 + physical column. -/
  page   : SMap W32 := []
  /-- Poisoned pages, keyed array × 2 + page (R68). -/
  poison : SMap Bool := []
  /-- Passes, latest first: those not yet drained and the last drained ones. -/
  hist   : List PassRec := []
  /-- The block-completion buffer, one block a row. -/
  blocks : SMap (Option BlockKeep) := []
  /-- The operand ports by agent. -/
  ports  : SMap PortHold := []
  /-- The last freeze of debug serialise mode (R247): its first cycle and its length. -/
  frzAt  : Nat := 0
  frzLen : Nat := 0
  deriving DecidableEq, Repr

/-- The conformance tag of R132. -/
structure ChainTag where
  id    : Nat
  rnd   : Nat
  pass  : Nat
  width : Nat
  deriving DecidableEq, Repr

/-- A row on a reduction chain: its engine, pass and row, for each array the values of its slice and
their poison; the tag travels with the first row of a pass. -/
structure ChainRow where
  eng    : Nat
  pass   : Nat
  row    : Nat
  vals   : List (List W32)
  pois   : List Bool
  tag    : Option ChainTag := none
  /-- ACLK cycle in which it lands, or for an own row reaches the adder. -/
  cyc    : Nat := 0
  /-- Cycle in which the sender's own row of this sum reached its adder. -/
  sum    : Option Nat := none
  /-- Sending physical cluster and its tag (R470). -/
  src    : Nat × Nat := (0, 0)
  /-- Descriptor of an own row, and its task context. -/
  ticket : Nat := 0
  task   : Nat := 0
  deriving DecidableEq, Repr

/-- The reduction-chain side of a unit. -/
structure ChainSt where
  /-- Rows of the predecessor on the link. -/
  link  : List ChainRow := []
  /-- Rows in the chain buffer. -/
  buf   : List ChainRow := []
  /-- Own drained rows that wait for their partner. -/
  own   : List ChainRow := []
  /-- Sums at the tail, held until the pass is whole (R137). -/
  tail  : List ChainRow := []
  /-- An abort has been sent to this unit. -/
  abort : Bool := false
  /-- The region gateway reports the predecessor's link dead (R137). -/
  dead  : Bool := false
  /-- Latest adder cycle in which a buffered row was taken, keyed engine × 2 + pass mod 2 (R247). -/
  readAt : SMap Nat := []
  deriving DecidableEq, Repr

/-- One outstanding request of a stream (R258). -/
structure Req where
  /-- Its number among all requests of the module. -/
  num   : Nat
  addr  : Nat
  len   : Nat
  write : Bool
  hint  : Nat
  host  : Bool
  /-- Elements it serves, each with true for the data, false for the scale bytes. -/
  elems : List (Nat × Bool)
  /-- The request has reached its slices. -/
  asked : Bool := false
  /-- For a write the bytes to store, for a read the bytes that have come, each with its poison, by
  offset within the request. -/
  got   : List (Nat × Byte × Bool) := []
  /-- Bytes of a write that have been accepted. -/
  acc   : Nat := 0
  deriving DecidableEq, Repr

/-- Accepted whole, or returned whole. -/
def Req.done (r : Req) : Bool := if r.write then r.acc == r.len else r.got.length == r.len

/-- A running stream (R255). -/
structure StreamSt where
  hdr    : List W64
  instrs : List (List W64)
  /-- The parameter registers read at the start. -/
  pr     : List W64
  prov   : Prov
  /-- Next element to issue, next element to deliver. -/
  next   : Nat := 0
  dlv    : Nat := 0
  /-- First cycle after the stream's last access, by port: owned ports by their PORT value, the banks of a
  PUSH's destination from 2^16 up (R253, R263). -/
  ports  : SMap Nat := []
  total  : Nat := 0
  reqs   : List Req := []
  /-- A translation request of the next element is at the host (R434). -/
  xlat   : Bool := false
  /-- Blocked on a failed translation (R271), and the FAULT_ID of a device page. -/
  blocked : Bool := false
  faultId : Option Nat := none
  /-- A page request group is outstanding, and one has been answered with Success (R435). -/
  prg    : Bool := false
  retry  : Bool := false
  /-- A failed translation of a speculative stream that is raised at confirmation: the subcode of a
  halt, 256 for a device page, 257 for a host page (R274). -/
  pend   : Option Nat := none
  /-- Address of the request whose translation failed last or is asked for, and the first address of
  it that is not present (R270, R278, R431). -/
  faddr  : Nat := 0
  fpage  : Nat := 0
  halted : Bool := false
  deriving DecidableEq, Repr

/-- A scale-record update in flight to its slice (R151 to R154): the record's address, a report, and
whether a CLOSE follows; the issuing cluster. -/
structure ScaleUpd where
  addr   : Nat
  report : Option Report
  close  : Bool
  clu    : Nat
  deriving DecidableEq, Repr

/-- A host-visible effect of speculative work, held until confirmation (R230). -/
inductive HeldEff where
  /-- Add `n` to the field of a unit register. -/
  | bump (addr hi lo n : Nat)
  /-- Set a field of a register. -/
  | setf (addr hi lo v : Nat)
  | err (e : Err)
  /-- An uncorrectable sector (R281): global channel and channel offset. -/
  | ue (ch off : Nat)
  /-- A sector that fails its check at its slice (R298): global channel and channel offset. -/
  | side (ch off : Nat)
  /-- An accumulator parity error of a column, at a number of seconds (R67). -/
  | parity (key sec : Nat)
  /-- A scale-record update. -/
  | scale (x : ScaleUpd)
  /-- A halt of the unit: reason, source, command and the three words of a collision. -/
  | halt (reason source : Nat) (p : Prov) (serial task sub port owner pos word : Nat)
  deriving DecidableEq, Repr

/-- A recent access to a unit port: port, cycle, owner, and what the access replaced, so that a second
access of the cycle can undo it (R219). -/
structure SlipRec where
  /-- It was performed one position outside its run and counted (R218). -/
  slip  : Bool
  port  : Nat
  cyc   : Nat
  owner : Nat
  source : Nat
  word  : Nat
  prov  : Prov
  serial : Nat
  undo  : List (Nat × Byte)
  pois  : Bool
  /-- LAST_POS before the slip (R221). -/
  last  : Nat
  /-- For a write of the RRU, the cycle in which the row that it comes from entered. -/
  seg   : Option Nat := none
  /-- For a word of a PUSH, the physical unit that sent it. -/
  src   : Option Nat := none
  deriving DecidableEq, Repr

/-- One physical unit, but for its registers. -/
structure UnitSt where
  /-- The tile store by offset (R76), unlisted bytes read 0. -/
  tile    : SMap Byte := []
  /-- Poison of a bank word, keyed offset div 32 (R297). -/
  tpoison : SMap Bool := []
  /-- Poisoned words whose error a squash has discarded, so that the next read raises it again (R524). -/
  unseen  : SMap Bool := []
  fwd     : EngSt := {}
  bwd     : EngSt := {}
  queues  : SMap (List QEnt) := []
  squeue  : List SEnt := []
  runs    : List RunSt := []
  /-- Streams keyed generator × 8 + task. -/
  streams : SMap (Option StreamSt) := []
  /-- Elements issued since the current task was selected, per generator (R266). -/
  sinceSel : SMap Nat := []
  sb      : List SbEnt := []
  /-- Stale regions (R232). -/
  stale   : Nat := 0
  /-- Shadow-block validity and HOSTMOD by slot (R176, R237). -/
  shadowOk : SMap Bool := []
  hostmod  : SMap Bool := []
  /-- Shadow blocks as they were before a speculative CFG: words, validity, HOSTMOD (R232). -/
  saved   : SMap (Option (List W64 × Bool × Bool)) := []
  chain   : ChainSt := {}
  held    : List HeldEff := []
  slips   : List SlipRec := []
  /-- First cycle behind an owner's last access to a bank that the manual does not time, keyed owner × 64 +
  bank (R76, R205). -/
  bankNext : SMap Nat := []
  /-- One more than the OPSEC of the last accumulator parity error, by array × 66 + physical column
  (R67). -/
  parity  : SMap Nat := []
  /-- A column test is due when no program is loaded (R67). -/
  testDue : Bool := false
  /-- Slots whose last CFG failed or was refused: no GO behind it declares its regions (R224). -/
  cfgBad  : SMap Bool := []
  deriving DecidableEq, Repr

/-! ### Clusters -/

/-- One level of lists being run (R194): its first word, length, position, runs left, and the
increment of each run after the first. -/
structure Frame where
  list  : Nat
  len   : Nat
  pos   : Nat := 0
  left  : Nat := 0
  run   : Nat := 0
  inc   : W64 := 0#64
  incEn : Bool := false
  incPr : Nat := 0
  units : Nat := 0
  deriving DecidableEq, Repr

/-- A register change that waits under R186: a PATCH or a REPLAY increment. -/
structure PatchSt where
  units : Nat
  pr    : Nat
  /-- 0 SET, 1 ADD, 2 LOAD. -/
  mode  : Nat
  value : W64
  pc    : Nat
  /-- Commands with a lower ticket must have read their registers first. -/
  ticket : Nat
  /-- True for the increment of a REPLAY. -/
  incr  : Bool
  deriving DecidableEq, Repr

/-- Where a token addition goes (R189). -/
inductive TokDest where
  /-- Flat logical cluster of this module. -/
  | clu (c : Nat)
  /-- Another module: its EID and cluster. -/
  | remote (eid c : Nat)
  deriving DecidableEq, Repr

/-- A SIGTOK addition bound to a descriptor or stream (R196): the unit within the cluster and the
ticket it waits for. -/
structure SigSt where
  unit   : Nat
  ticket : Nat
  dest   : TokDest
  ctr    : Nat
  add    : Nat
  /-- Order of the SIGTOK among the cluster's commands (for FENCE). -/
  seq    : Nat
  deriving DecidableEq, Repr

/-- What a control core waits for. -/
inductive CcWait where
  | none
  /-- WAITTOK: counter and value; the word index of the command. -/
  | token (ctr value tmo pc : Nat)
  /-- FENCE over the units, for work up to the ticket. -/
  | fence (units ticket pc : Nat)
  | patch (p : PatchSt)
  deriving DecidableEq, Repr

/-- One physical cluster, but for its registers. -/
structure CluSt where
  /-- The program store: bank × 262144 + offset (R171). -/
  store   : SMap Byte := []
  /-- Poisoned command words, keyed bank × 32768 + word (R526). -/
  spoison : SMap Bool := []
  /-- Innermost frame first. -/
  frames  : List Frame := []
  /-- Pipeline lists still to run (R203): first word and length. -/
  order   : List (Nat × Nat) := []
  wait    : CcWait := .none
  /-- A command that ends the program has been executed; the end awaits the CFG checks (R200). -/
  ending  : Bool := false
  /-- Ticket and command counter (R224). -/
  seq     : Nat := 1
  /-- A break has been requested and takes effect before the next command (R245). -/
  breakReq : Bool := false
  sigs    : List SigSt := []
  /-- The last GO of unit × 4 + slot, and the last STRM of unit × 4 + generator, in this run. -/
  lastGo  : SMap Nat := []
  lastStrm : SMap Nat := []
  /-- Speculative execution has stopped until the WAITTOK releases (R229). -/
  specStop : Bool := false
  /-- A start waits for a staged slot map or a pending swap (R216, R235). -/
  startReq : Bool := false
  /-- The END event's account: how the run ended (R424), none while it has not. -/
  ended   : Option Nat := none
  /-- Commands executed speculatively, counted in CMDS at confirmation (R230), and the word index of the
  last of them. -/
  specCmds : Nat := 0
  specPc   : Nat := 0
  /-- Run of the innermost REPLAY of the command that CLU_CC_STAT.PC names, and of the last one executed
  speculatively (R243). -/
  pcIter   : Nat := 0
  specIter : Nat := 0
  /-- The core's lists as they stood when the WAITTOK it waits for was executed, with the last GOs and STRMs:
  where a break taken while it waits goes on (R245). -/
  back     : Option (List Frame × List (Nat × Nat) × SMap Nat × SMap Nat) := none
  deriving DecidableEq, Repr

/-- A token addition in flight (R196): the physical cluster that sent it with its tag (R470), none for
one from the fabric or the update engine, and its destination. -/
structure TokFlight where
  src    : Option (Nat × Nat)
  dest   : TokDest
  ctr    : Nat
  add    : Nat
  seq    : Nat
  /-- An addition for another module that has passed its gateway and waits to be injected. -/
  passed : Bool := false
  deriving DecidableEq, Repr

/-! ### The slot map (R213 to R216) -/

structure SlotRec where
  port   : Nat
  owner  : Nat
  start  : Nat
  len    : Nat
  period : Nat
  reps   : Nat
  tight  : Bool
  deriving DecidableEq, Repr

/-- A slot map: frame length, record lists by logical unit, logical cluster and die, and region
tables by logical unit. -/
structure SlotMap where
  frameLen : Nat := 0
  units    : SMap (List SlotRec) := []
  clus     : SMap (List SlotRec) := []
  dies     : SMap (List SlotRec) := []
  regions  : SMap (List W64) := []
  deriving DecidableEq, Repr

/-- The program of a load (R170, R202): bank written, ORDER, J. -/
structure Program where
  bank  : Nat := 0
  order : List Nat := []
  deriving DecidableEq, Repr

/-! ### Memory -/

/-- A line of a cache slice (R289): global channel and line number (offset div 128), 128 bytes, one
poison bit a sector. -/
structure Line where
  ch     : Nat
  line   : Nat
  dirty  : Bool := false
  pinned : Bool := false
  data   : List Byte
  poison : List Bool
  deriving DecidableEq, Repr

/-- The piece of a request that lies in one line: bytes [lo, lo + n) of the line, from byte `off` of
the request on.  It waits for a line fill, or is held (R302). -/
structure Wait where
  ch    : Nat
  line  : Nat
  lo    : Nat
  n     : Nat
  off   : Nat
  req   : SliceReq
  deriving DecidableEq, Repr

/-- One cache slice: its lines, most recently used first, and its held requests in arrival order. -/
structure SliceSt where
  lines : List Line := []
  held  : List Wait := []
  /-- Pieces that wait for a line fill. -/
  fills : List Wait := []
  /-- Lines that were dirty when the running flush started (R295). -/
  flush : List (Nat × Nat) := []
  /-- The slice has stopped with its region (R310). -/
  lost  : Bool := false
  deriving DecidableEq, Repr

/-- One channel, but for its registers and bytes. -/
structure ChanSt where
  /-- Consecutive windows that ended on the previous settings (R303). -/
  badWindows : Nat := 0
  /-- The channel failed in its window and trains at the fallback rate (R303). -/
  failing  : Bool := false
  /-- Uncorrectable sectors reported in the present hour (R304). -/
  ueHour   : Nat := 0
  /-- Units that a write or an eviction has moved ahead of the sweep (R306). -/
  moved    : SMap Bool := []
  /-- The traffic generator's program, as START read it: MEMC_TG_CTRL and the eight steps (R313). -/
  tg       : List W64 := []
  /-- The checker has met a failing sector since START (R315 FIRST_SECT). -/
  tgHit    : Bool := false
  deriving DecidableEq, Repr

/-! ### Jobs and queues -/

/-- A tensor of an update-engine job as its checks read it (R322): entry, group record, evaluated
coefficients (R327), index list, T_DATA of GSCALE and T_NEXT of WSCALE. -/
structure UpeTensor where
  ent : List W64
  grp : List W64 := []
  lr  : W32 := 0#32
  wd  : W32 := 0#32
  b1  : W32 := 0#32
  b2  : W32 := 0#32
  idx : List Nat := []
  tG  : Int := 0
  tW  : Int := 0
  deriving DecidableEq, Repr

/-- A job that a target has taken from a submission queue (R415). -/
structure Job where
  /-- Its eight words. -/
  words : List W64
  sqn   : Nat
  cqn   : Nat
  /-- 0 taken; 1 waiting for its token; 2 running; 3 its work done, effects still to be accepted;
  4 ended, its completion to be posted. -/
  stage : Nat := 0
  status : Nat := 0
  /-- Words 2 to 7 of its completion (R420). -/
  res   : List W64 := []
  /-- What an update-engine job's checks read, and its increments of UPE_COUNT. -/
  tensors : List UpeTensor := []
  prec  : List W64 := []
  counts : List Nat := [0, 0, 0, 0]
  /-- Tags of the unacknowledged PUTs of a transfer (R392); its `counts` are the PUTs sent and the bytes
  acknowledged. -/
  out    : List Nat := []
  deriving DecidableEq, Repr

/-- A target of submission queues: its job, and one more than the queue of its last entry (R416). -/
structure TgtSt where
  job  : Option Job := none
  last : Nat := 0
  deriving DecidableEq, Repr

/-- One queue, but for its context registers: entries read from an SQ's ring and not yet taken (R415),
entries written to a CQ or EQ since its last message (R422). -/
structure QueueSt where
  buf   : List (List W64) := []
  fresh : Nat := 0
  deriving DecidableEq, Repr

/-- A translation in the cache of hub 0 (R434): the PASID that it was asked under, the page's base and the log2
of its size, its rights. -/
structure AtcEnt where
  pasid : Option Nat
  base  : Nat
  size  : Nat
  rd    : Bool
  wr    : Bool
  deriving DecidableEq, Repr

/-- A host request behind a BAR4 access that waits for a held channel (R302, R404): device addresses of BAR4
accesses, a doorbell's offset in BAR2, size and value. -/
inductive HostReq where
  | write (addr : Nat) (data : List Byte)
  | read (addr n : Nat)
  | bell (off size : Nat) (v : W64)
  deriving DecidableEq, Repr

/-! ### Events -/

/-- An event on its way to its queue, or held for it (R423). -/
structure Evt where
  type   : Nat
  cls    : Nat := 0
  reason : Nat := 0
  scope  : Nat := 0
  index  : Nat := 0
  w2     : W64 := 0#64
  w3     : W64 := 0#64
  w4     : W64 := 0#64
  w5     : W64 := 0#64
  /-- Index of its Almanac record. -/
  alm    : Nat := 0xFFFFFFFF
  /-- Its number and timestamp, once it has been numbered. -/
  seq    : Nat := 0
  time   : W64 := 0#64
  deriving DecidableEq, Repr

/-! ### Links and fabric (chapters 12 and 13) -/

/-- A packet whose flits are in a port's replay buffer (R353): the LSN of its HEAD flit and how many of
its flits have been acknowledged. -/
structure TxPkt where
  pkt   : Packet
  lsn   : Nat
  acked : Nat := 0
  deriving DecidableEq, Repr

/-- A packet in an input buffer (R380); `ready` once it has been judged and checked (R361, R374). -/
structure RxPkt where
  pkt   : Packet
  ready : Bool := false
  deriving DecidableEq, Repr

/-- One port, but for its registers. -/
structure PortSt where
  /-- Receiver (R355): next expected LSN, DISCARD state, flits to drop as already accepted after a
  REPLAY, flits of the packet being accepted, accepted flits not yet acknowledged. -/
  exp   : Nat := 0
  disc  : Bool := false
  skip  : Nat := 0
  part  : List (List Byte) := []
  unack : Nat := 0
  /-- Input buffers by virtual channel, oldest first, and buffers freed since the port went UP. -/
  inp   : SMap (List RxPkt) := []
  freed : List Nat := [0, 0, 0, 0]
  /-- Sender (R353 to R357): next LSN, replay buffer, the LSN at which replays started and their count,
  credits, returns reported by the partner. -/
  lsn   : Nat := 0
  sent  : List TxPkt := []
  runAt : Nat := 0
  run   : Nat := 0
  cred  : List Nat := [0, 0, 0, 0]
  seen  : List Nat := [0, 0, 0, 0]
  /-- Packets that this port sends ahead of others, each with the port whose replay buffer held it (R360). -/
  reinj : List (Packet × Nat) := []
  /-- Packets taken from the replay buffer at DOWN, each with its port (R359). -/
  lost  : List (Packet × Nat) := []
  /-- INIT (R351): an INIT has been received; sent and received with RX_OK. -/
  gotInit : Bool := false
  sentOk  : Bool := false
  gotOk   : Bool := false
  /-- Sleep handshake (R364): 0 none, 1 asked, 2 SLEEP sent, 3 a received SLEEP to be answered. -/
  sleep : Nat := 0
  /-- Lantern sends under AUTO_WAKE without a training signal (R367). -/
  lanterns : Nat := 0
  /-- The receiver has seen the partner's training signal since the port became LOW_POWER (R367). -/
  heard : Bool := false
  deriving DecidableEq, Repr

/-- A Vigil as one module sees it (R385 to R388). -/
structure VigilSt where
  /-- This module is the root of a running Vigil. -/
  root   : Bool := false
  /-- The stage whose answers are being collected; 0 none. -/
  stage  : Nat := 0
  /-- The children that have answered it. -/
  answered : List Nat := []
  /-- Sums of the children's COUNT answers. -/
  inj    : Nat := 0
  dlv    : Nat := 0
  bz     : Bool := false
  ok     : Bool := true
  /-- The previous COUNT wave at the root: INJ, DLV, BUSY. -/
  prev   : Option (Nat × Nat × Bool) := none
  /-- A COMMIT has been sent (root). -/
  commitSent : Bool := false
  /-- This module has exchanged its banks in this Vigil; its EPOCH before. -/
  exchanged : Bool := false
  epoch0 : Nat := 0
  /-- NEW_EPOCH of the COMMIT. -/
  newEpoch : Nat := 0
  /-- Result that the RESUME will leave. -/
  result : Nat := 0
  deriving DecidableEq, Repr

/-- Router, flows and tables (R361, R370, R378, R385), but for registers. -/
structure FabSt where
  /-- Next FSN of each outgoing flow, keyed direction × 4 + VC. -/
  fsn   : SMap Nat := []
  /-- E of each incoming flow, and the FSNs above E that have been delivered. -/
  rxE   : SMap Nat := []
  rxSet : SMap (List Nat) := []
  /-- Partner identity and generation recorded for a direction (R362). -/
  peers : SMap (Option (W64 × Nat)) := []
  /-- Packets held for a direction in a hub, keyed direction × 2 + hub (R360). -/
  held  : SMap (List (Packet × Nat)) := []
  /-- The virtual channel that an output port served last (R382). -/
  rr    : SMap Nat := []
  /-- Packets that the module's own engines wait to inject, each with its hub, and packets delivered to
  its consumers with their arrival port. -/
  inject : List (Packet × Nat) := []
  local_ : List (Packet × Nat) := []
  inj   : W64 := 0#64
  dlv   : W64 := 0#64
  busy  : Bool := false
  /-- The two banks of the route table and of the intermediate list. -/
  rt0   : SMap W64 := []
  rt1   : SMap W64 := []
  val0  : SMap W64 := []
  val1  : SMap W64 := []
  /-- Draw registers of the two hubs (R378). -/
  lfsr0 : W32 := 1#32
  lfsr1 : W32 := 1#32
  vigil : VigilSt := {}
  deriving DecidableEq, Repr

/-- A segment in a collective engine (R394): kind, number, 2,048 bytes or fewer, poison by sector, and the
traffic class of the packet that brought it. -/
structure Seg where
  kind : Nat
  seg  : Nat
  data : List Byte
  pois : List Bool
  tc   : Nat := 0
  deriving DecidableEq, Repr

/-- The progress of the collective an engine runs, by kind where it has one (R394 to R397). -/
structure CleSt where
  /-- Received segments that wait to be sent on or written, oldest first, with the EID they came from. -/
  held  : List (Nat × Seg) := []
  /-- Segments sent and granted to the next rank (by kind), to the previous rank. -/
  sentN : List Nat := [0, 0, 0, 0]
  sentP : List Nat := [0, 0, 0, 0]
  grantN : List Nat := [0, 0, 0, 0]
  grantP : List Nat := [0, 0, 0, 0]
  /-- Buffers freed for the next and the previous rank, by kind. -/
  freedN : List Nat := [0, 0, 0, 0]
  freedP : List Nat := [0, 0, 0, 0]
  /-- Own segments put into the line or written so far (forward, reverse). -/
  own   : Nat := 0
  back  : Nat := 0
  /-- Segments written to the output. -/
  wrote : Nat := 0
  /-- RING_PASS: the step, segments of the step sent and received, the token of the step taken. -/
  step  : Nat := 1
  stepTx : Nat := 0
  stepRx : Nat := 0
  stepOk : Bool := false
  /-- Segments sent and received by this job. -/
  nTx   : Nat := 0
  nRx   : Nat := 0
  eids  : List Nat := []
  deriving DecidableEq, Repr

/-! ### Snapshots (chapter 15) -/

/-- A job of the Harvest engine (R445): its eight words and its progress. -/
structure HJob where
  words : List W64
  /-- 0 not accepted; 1 waiting for its token; 2 to be run; 3 agreeing; 4 sending PUTs. -/
  stage : Nat := 0
  status : Nat := 0
  /-- Holder being served, or segment being restored; phase (0 FILLING record, 1 manifest copy and data, 2
  COMPLETE record, 3 step record, 4 restored record and manifest, 5 restored segment); next PUT. -/
  holder : Nat := 0
  phase : Nat := 0
  next  : Nat := 0
  /-- Tags of unacknowledged PUTs. -/
  out   : List Nat := []
  /-- The manifest or its copy, the generation record or step record, the running CRC of each segment. -/
  man   : List Byte := []
  grec  : List Byte := []
  crcs  : List W32 := []
  poison : Bool := false
  /-- Manifest entries whose release tokens have been sent. -/
  freed : List Nat := []
  /-- Device address of its ring entry. -/
  entry : Nat := 0
  deriving DecidableEq, Repr

/-- A generation in flash (R451): its slot, generation record, manifest copy, step record ring, the data
segments it uses, how many are written, whether its commit record is. -/
structure FlashGen where
  slot : Nat
  grec : List Byte
  man  : List Byte
  ring : List Byte
  segs : List Nat
  done : Nat := 0
  /-- A segment is being written. -/
  run  : Bool := false
  committed : Bool := false
  deriving DecidableEq, Repr

/-- The record of one bring-up of a die (R485): what its self-test found, and for each of its channels
MEMC_CH_STAT, MEMC_TG_STAT and MEMC_TG_LANE. -/
structure BringUp where
  test  : SelfTest
  chans : List (W64 × W64 × W64)
  deriving DecidableEq, Repr

/-- A copy of the Almanac in a flash segment (R542): the records, COUNT of its header being their number, CLEARS
of its header, and whether its CRC-32C holds. -/
structure AlmCopy where
  recs   : List (List W64) := []
  clears : Nat := 0
  sound  : Bool := true
  deriving DecidableEq, Repr

/-- The snapshot flash: its journal in order of writing, data by segment × 2^30 + offset, the Almanac's copies
and archive, bring-up records. -/
structure FlashSt where
  gens   : List FlashGen := []
  data   : SMap Byte := []
  /-- Segments 4 and 5, and whether segment 5 was written last (R542). -/
  copy4  : AlmCopy := {}
  copy5  : AlmCopy := {}
  last5  : Bool := false
  /-- The mirror held fewer records than the Almanac at the last power loss (R543). -/
  short  : Bool := false
  /-- Segment 6, the archive, and segment 7, its mirror (R544). -/
  seg6   : AlmCopy := {}
  seg7   : AlmCopy := {}
  bringup : List BringUp := []
  /-- Write rates of the last 16 segments in bytes a second (R453). -/
  rates : List Nat := []
  deriving DecidableEq, Repr

/-! ### Management (chapters 16 and 19) -/

/-- What the boot flash, the fuses and the MMC hold. -/
structure MmcSt where
  /-- Bank selected for the next boot, image and SVN of each bank. -/
  sel    : Bool := false
  imgA   : Nat := 0
  imgB   : Nat := 0
  svnA   : Nat := 0
  svnB   : Nat := 0
  fuse   : Nat := 0
  anchor : Option (BitVec 384) := none
  maddr  : Nat := 0
  /-- Dynamic I3C address (R581). -/
  i3c    : Option Nat := none
  /-- SPDM sessions, with whether their requester is authenticated. -/
  sessions : List (Nat × Bool) := []
  testAccess : Bool := false
  tapUsed : Bool := false
  /-- The four key slots in hub 0's fuses: the digest of a public key, and whether it is revoked (R489). -/
  keys   : List (BitVec 384 × Bool) := List.replicate 4 (0#384, false)
  /-- Digests of the images verified at the last boot, for SPDM attestation (R489). -/
  meas   : List (BitVec 384) := []
  /-- Saved time base (R514). -/
  savedTime : W64 := 0#64
  /-- PLDM events kept for retrieval (R583). -/
  events : List Evt := []
  /-- Records of earlier Jubilees by die: OPSEC and OP0 offset, latest first (R564). -/
  jubs   : SMap (List (Nat × Nat)) := []
  /-- Offsets and other restored words by die: MON_MARGIN, MON_JUB. -/
  margin : SMap W64 := []
  jubWord : SMap W64 := []
  deriving DecidableEq, Repr

/-- Power and PCIe function state, but for registers. -/
structure PwrSt where
  /-- A wake source that has arrived during an entry (R507). -/
  wakeSrc : Option Nat := none
  /-- PKG_READY bits that the wake in progress waits for. -/
  wait   : Nat := 0
  /-- The state the wake comes from. -/
  src    : Nat := 0
  d3hot  : Bool := false
  d3cold : Bool := false
  perst  : Bool := false
  /-- The 50 V input is gone (R577). -/
  off    : Bool := false
  /-- Operating-point changes in progress, by die: the point that the voltage slews to, and the dies of the
  TARGET request whose frequencies change together after it (R498, R500). -/
  goal   : SMap (Option (Nat × List Nat)) := []
  /-- The operating point before a Jubilee, by die. -/
  jubOp  : SMap Nat := []
  deriving DecidableEq, Repr

/-! ### Errors (chapter 17) -/

/-- One handler (R518, R519): the error it handles, those pending, whether its domain has been declared
dead. -/
structure HandlerSt where
  cur  : Option Err := none
  q    : List Err := []
  dead : Bool := false
  deriving DecidableEq, Repr

/-- A pair of code and domain whose report is limited (R528): level, domain, code, errors counted since
the last report, and the last of them. -/
structure RateRec where
  lvl  : Nat
  ix   : Nat
  code : Nat
  n    : Nat := 0
  last : Err
  deriving DecidableEq, Repr

/-! ### Monitors and transactions (chapters 18 and 20) -/

/-- The live bank of a monitor point (R548). -/
structure MonSt where
  min  : Nat := 0xFFFFFFFF
  max  : Nat := 0
  cnt  : Nat := 0
  bins : List Nat := List.replicate 16 0
  deriving DecidableEq, Repr

/-- A requester's open transaction (R597 to R599): staged registers by key with the value that their RWT
fields take, the staged keys that the other requester has committed since, whether a write was lost. -/
structure TxnSt where
  staged : List (Nat × W64) := []
  conflict : List Nat := []
  ovf    : Option Nat := none
  deriving DecidableEq, Repr

/-! ### What leaves the module -/

/-- Something the outside world sees, in the order it left. -/
inductive Out where
  /-- A read of the host or of the management port answered with its bytes. -/
  | readData (who : Who) (bytes : List Byte)
  /-- A page request group of a stream: unit, generator, task, address, write, and the PASID
  it carries (R434, R435). -/
  | pageRequest (u g t addr : Nat) (write : Bool) (pasid : Option Nat)
  /-- An ATS translation request of a stream (R434). -/
  | xlatRequest (u g t addr : Nat) (pasid : Option Nat)
  /-- The completion of an ATS invalidation (R269). -/
  | invalidateDone (addr len : Nat)
  /-- Flits of a packet placed on a port, first or again: the LSN of the first one sent, and how many flits
  of the packet come before it (R353, R356). -/
  | packet (port lsn skip : Nat) (p : Packet)
  /-- A CONTROL flit sent by a port: its 64 bytes (R354). -/
  | control (port : Nat) (flit : List Byte)
  /-- One Lantern (R366). -/
  | lantern (port : Nat)
  /-- A BAR4 read completion: data and EP bit, or Unsupported Request (R403). -/
  | bar4 (bytes : Option (List Byte × Bool))
  /-- An MSI-X message (R422). -/
  | msix (vector : Nat)
  /-- An answer of the management port: completion code and bytes (R586). -/
  | mgmt (code : Nat) (bytes : List Byte)
  /-- A PLDM platform event retrieved (R583). -/
  | pldmEvent (e : Evt)
  /-- An answer of the SPDM responder (R585). -/
  | spdm (bytes : List Byte)
  /-- The UART prints an Almanac record or a boot stage (R589). -/
  | uart (words : List W64)
  /-- The WAKE# pin (R506). -/
  | wakePin (asserted : Bool)
  deriving DecidableEq, Repr

/-! ### The machine -/

/-- Why the machine could stop for good.  The manual stops nothing outside its own state: every halt,
error and refusal of the TH8 is a state it reports.  So this has no use in the meanings of the model;
it is never raised, which is safe. -/
inductive Fault where
  /-- Raised by no meaning. -/
  | none
  deriving DecidableEq, Repr

/-- Why a command has no meaning. -/
inductive Refusal where
  /-- A command of the table that the model does not give a meaning: raised by its arm of `exec`
  only.  Safe: the machine does not go on. -/
  | notModelled (mnemonic : String)
  deriving DecidableEq, Repr

/-- The state of the TH8. -/
structure State where
  /-- The commands that wait, first in, first out. -/
  pending : List Instr := []
  /-- Every register, by BAR0 offset with the physical cluster number (R603). -/
  regs    : SMap W64 := []
  /-- How many free values have been used. -/
  ctr     : Nat := 0
  /-- What left the module, latest first. -/
  out     : List Out := []
  units   : SMap UnitSt := []
  clus    : SMap CluSt := []
  tokens  : List TokFlight := []
  scaleQ  : List ScaleUpd := []
  slotMap : SlotMap := {}
  staged  : Option (SlotMap × Program) := none
  program : Option Program := none
  /-- Physical clusters of the program that START began and whose end has not been reported (R424). -/
  running : Option (List Nat) := none
  /-- ACLK cycle at which the frame counter of the die stood at 0. -/
  frame0  : SMap Nat := []
  /-- Die boundaries whose latency a re-lock has made longer (1) or shorter (2), by the lower die
  (R206). -/
  relock  : SMap Nat := []
  slices  : SMap SliceSt := []
  chans   : SMap ChanSt := []
  /-- Bytes of the channels, keyed channel × 2^31 + offset; unlisted bytes read 0. -/
  chanBytes : SMap Byte := []
  /-- Poisoned sectors, keyed (channel × 2^31 + offset) div 32 (R297), and those of them whose error a squash
  has discarded (R524). -/
  chanPoison : SMap Bool := []
  chanUnseen : SMap Bool := []
  /-- Dies that have been lost (R311). -/
  lostDies : SMap Bool := []
  /-- The device page table (R268), keyed address div 2^21: bit 0 PRESENT, bit 1 WRITABLE. -/
  pages   : SMap Nat := []
  /-- Targets of submission queues: 0 firmware, 1 + d update engine, 9 + h transfer engine, 11 + e
  collective engine (R414). -/
  targets : SMap TgtSt := []
  queues  : SMap QueueSt := []
  /-- Open page faults: FAULT_ID and page (R431). -/
  faults  : SMap (Option Nat) := []
  /-- Requests of streams so far. -/
  reqSeq  : Nat := 0
  /-- The translation cache of hub 0 (R434). -/
  atc     : List AtcEnt := []
  /-- ATS invalidations that wait for requests issued to their range: I/O address and length (R269). -/
  invals  : List (Nat × Nat) := []
  /-- ATS and PRI are enabled in configuration space (R434, R435), and a Response Failure has stopped
  page requests. -/
  ats     : Bool := true
  pri     : Bool := true
  priStop : Bool := false
  /-- Slots whose COMPLETE generation waits for FLASH to be written to flash (R484). -/
  flashDue : List Nat := []
  /-- MSI-X Enable and Function Mask in configuration space (R422). -/
  msixEn   : Bool := true
  msixMask : Bool := false
  /-- The host's memory by PASID and I/O address: rings and stream data; unlisted bytes read 0. -/
  hostMem : SMap Byte := []
  /-- Errors on the way to a handler (R516). -/
  errFlight : List Err := []
  /-- Events on the way to their queue (R423). -/
  evtFlight : List Evt := []
  /-- The Almanac: eight words a record, by index (R533, R534). -/
  almanac : SMap (List W64) := []
  /-- Records held while the Almanac is being restored (R543). -/
  almStage : List (List (List W64)) := []
  ports   : SMap PortSt := []
  fab     : FabSt := {}
  cles    : SMap CleSt := []
  /-- Harvest engine: its job (R444). -/
  hjob    : Option HJob := none
  flash   : FlashSt := {}
  mmc     : MmcSt := {}
  pwr     : PwrSt := {}
  /-- Handlers, keyed level × 1000 + domain. -/
  handlers : SMap HandlerSt := []
  rates   : List RateRec := []
  /-- Live banks of monitor points, keyed block × 128 + point. -/
  mons    : SMap MonSt := []
  txnHost : TxnSt := {}
  txnMgmt : TxnSt := {}
  /-- BAR4 accesses that wait for a held channel, with what arrived behind them, oldest first. -/
  hostQ   : List HostReq := []
  /-- The command being executed has met an access that is held (R302). -/
  waited  : Bool := false
  /-- Hub 0's event buffer (R426): queue and event, oldest first; events lost by queue. -/
  evtBuf  : List (Nat × Evt) := []
  evtLost : SMap Nat := []
  evtSeq  : Nat := 0
  /-- Hub 1 has been lost (R30), so that no job work continues (R516); a MODULE_FATAL error has occurred since
  the last cold reset (R572). -/
  hub1Lost : Bool := false
  fatal   : Bool := false
  /-- The whole module has been lost (R29): no function comes up before the next reset. -/
  modLost : Bool := false
  /-- Regions that have been lost (R310), and physical clusters that have been declared dead (R485). -/
  lostRegions : SMap Bool := []
  deadClus : SMap Bool := []
  /-- Pairs for which a DROP record has been written: physical cluster and tag (R470), source EID and
  generation (R374). -/
  gwDrops : List (Nat × Nat) := []
  fabDrops : List (Nat × Nat) := []
  deriving DecidableEq, Repr

/-- The machine after reset: every register at its reset value, every memory, queue and buffer
empty. -/
def State.reset : State := {}

end Sys2Proof.Machine
end

