-- ==== Sys2Proof/Machine/Ops.lean ====
section
/-!
DEFINITION. The named operations over the state: sparse tables, registers and their fields, units,
clusters, and the free values.
-/

namespace Sys2Proof.Machine

/-! ### Sparse tables -/

/-- The value at key `k`, `d` where the table lists none. -/
def smGet {α : Type} (d : α) : List (Nat × α) → Nat → α
  | [], _ => d
  | (k', v) :: m, k => if k' = k then v else smGet d m k

/-- The table without key `k`. -/
def smErase {α : Type} : List (Nat × α) → Nat → List (Nat × α)
  | [], _ => []
  | (k', v) :: m, k => if k' = k then smErase m k else (k', v) :: smErase m k

/-- Key `k` added before the first greater key. -/
def smInsert {α : Type} : List (Nat × α) → Nat → α → List (Nat × α)
  | [], k, v => [(k, v)]
  | (k', v') :: m, k, v => if k < k' then (k, v) :: (k', v') :: m else (k', v') :: smInsert m k v

/-- The table with `v` at key `k`; the default removes the entry, so equal tables are equal data. -/
def smSet {α : Type} [DecidableEq α] (d : α) (m : List (Nat × α)) (k : Nat) (v : α) :
    List (Nat × α) :=
  if v = d then smErase m k else smInsert (smErase m k) k v

/-- The table with consecutive values from key `k` on. -/
def smSetL {α : Type} [DecidableEq α] (d : α) (m : List (Nat × α)) (k : Nat) :
    List α → List (Nat × α)
  | [] => m
  | v :: vs => smSetL d (smSet d m k v) (k + 1) vs

/-- `n` consecutive values from key `k` on. -/
def smGetL {α : Type} (d : α) (m : List (Nat × α)) (k n : Nat) : List α :=
  (List.range n).map fun i => smGet d m (k + i)

/-- The canonical form: keys strictly rising, and no entry at the default. -/
def smWf {α : Type} [DecidableEq α] (d : α) : List (Nat × α) → Bool
  | [] => true
  | (k, v) :: m => decide (v ≠ d) && m.all (fun e => decide (k < e.1)) && smWf d m

/-! ### Bytes and words -/

/-- R7: the value of little-endian bytes. -/
def leVal : List Byte → Nat
  | [] => 0
  | b :: bs => b.toNat + 256 * leVal bs

/-- R7: the `n` little-endian bytes of a value. -/
def leBytes : Nat → Nat → List Byte
  | 0, _ => []
  | n + 1, v => BitVec.ofNat 8 v :: leBytes n (v / 256)

/-- Bits [hi:lo] of a natural number. -/
def bitsOf (v hi lo : Nat) : Nat := v / 2 ^ lo % 2 ^ (hi + 1 - lo)

/-- Bit `i` of a natural number used as a bit vector. -/
def bitAt (v i : Nat) : Bool := v / 2 ^ i % 2 == 1

/-- Bits [hi:lo] of a word. -/
def fld (w : W64) (hi lo : Nat) : Nat := bitsOf w.toNat hi lo

/-- The word with bits [hi:lo] replaced. -/
def setFld (w : W64) (hi lo v : Nat) : W64 :=
  BitVec.ofNat 64 (w.toNat % 2 ^ lo + v % 2 ^ (hi + 1 - lo) * 2 ^ lo + w.toNat / 2 ^ (hi + 1) * 2 ^ (hi + 1))

/-- The signed value of an `n`-bit two's-complement field. -/
def sgn (n v : Nat) : Int := if v < 2 ^ (n - 1) then v else (v : Int) - 2 ^ n

/-- The `i`-th word of a list, 0 beyond its end. -/
def wordAt (ws : List W64) (i : Nat) : W64 := ws.getD i 0#64

/-! ### CRC-32C (R296) -/

def crcBits : Nat → BitVec 32 → BitVec 32
  | 0, c => c
  | n + 1, c => crcBits n (if c.getLsbD 0 then (c >>> 1) ^^^ 0x82F63B78#32 else c >>> 1)

/-- CRC-32C of bytes in ascending address order. -/
def crc32c (bs : List Byte) : W32 :=
  (bs.foldl (fun c b => crcBits 8 (c ^^^ b.setWidth 32)) 0xFFFFFFFF#32) ^^^ 0xFFFFFFFF#32

/-! ### The block map (R603 to R607) -/

/-- Base of the window of physical cluster `pc` = region × 7 + physical number. -/
def regClu0 (pc : Nat) : Nat := 0x1000000 * (pc / 28 + 1) + 0x400000 * (pc / 7 % 4) + 0x80000 * (pc % 7)

/-- A cluster register of physical cluster `pc`. -/
def rClu (pc off : Nat) : Nat := regClu0 pc + 0x40000 + off

/-- A register of physical unit `pu` = pc × 4 + unit. -/
def rUnit (pu off : Nat) : Nat := regClu0 (pu / 4) + 0x10000 * (pu % 4) + off

/-- A window-7 register of region `r`. -/
def rRgn (r off : Nat) : Nat := 0x1000000 * (r / 4 + 1) + 0x400000 * (r % 4) + 0x380000 + off

/-- A die register of die `d`. -/
def rDie (d off : Nat) : Nat := rRgn (4 * d) (0x40000 + off)

/-- A register of channel `ch`. -/
def rChan (ch off : Nat) : Nat :=
  rRgn (4 * (ch / 64) + ch % 64 / 16) (0x20000 + 0x100 * (ch % 16) + off)

/-- A LNK register of port `p`. -/
def rLnk (p off : Nat) : Nat := 0x100000 * (p / 12 + 1) + 0x10000 + 0x400 * (p % 12) + off

/-- A CLE register of engine `e`: engines 0 and 1 on hub 0, 2 and 3 on hub 1. -/
def rCle (e off : Nat) : Nat := 0x100000 * (e / 2 + 1) + 0x20000 + 0x100 * (e % 2) + off

/-- A SNAP register. -/
def rSnap (off : Nat) : Nat := 0x230000 + off

/-- A register of monitor point `n` of block `b` (0 to 7 a die, 8 hub 0, 9 hub 1). -/
def rMon (b n off : Nat) : Nat :=
  if b < 8 then rDie b (0x20000 + 0x80 * n + off)
  else 0x100000 * (b - 7) + 0x60000 + 0x80 * n + off

/-- A FAB register. -/
def rFab (off : Nat) : Nat := 0x300000 + off

/-- The management port's own PKG_TXN registers: the same offsets, a second copy (R597). -/
def rTxn (w : Who) (off : Nat) : Nat :=
  match w with
  | .host => off
  | .mgmt => 0x100000000 + off

/-! ### Reset values -/

/-- Reset value of a unit register by its offset in the unit's block. -/
def resetUnit (off : Nat) : Nat :=
  if off = 0x70 then 0x2710 else if off = 0x78 then 0x1F40 else 0

/-- Reset value of a monitor point's register. -/
def resetMon (off : Nat) : Nat := if off = 0x68 then 0xFFFFFFFF else if off = 0x78 then 0xFFFFFFFF00000000 else 0

/-- Reset value of a window-7 register; `g0` for region 0 of a die. -/
def resetW7 (g0 : Bool) (off : Nat) : Nat :=
  if off = 0 then 7 * 2 ^ 25 + 0x3FFFF
  else if g0 then
    if off = 0x40010 then 0x24A
    else if off = 0x40030 then 100 * 2 ^ 24
    else if off = 0x40040 then 15 * 2 ^ 8
    else if 0x60000 ≤ off ∧ off < 0x64000 then resetMon (off % 0x80)
    else 0
  else 0

/-- Reset value of a register of the Almanac's trigger table (R537). -/
def resetTrig (off : Nat) : Nat :=
  let n := off / 0x40
  match off % 0x40 with
  | 0x00 => (if n ≤ 1 then 2 ^ 63 + 2 ^ 48 else 0) + 0xFFFFFFFF0000 +
      (if n = 0 then 4 else if n = 1 then 3 else 0xFF) * 2 ^ 8
  | 0x08 => if n = 0 then 0xC0000108C0000100 else if n = 1 then 0xC0000000 else 0
  | 0x10 => if n = 0 then 0xC0000118C0000110 else 0
  | _ => 0

/-- Reset value of a hub register; `h` the hub, `off` within the hub. -/
def resetHub (h off : Nat) : Nat :=
  if off = 0 then h
  else if 0x10000 ≤ off ∧ off < 0x13000 then
    let p := (off - 0x10000) / 0x400
    match off % 0x400 with
    | 0x00 => 0x29
    | 0x08 => 2 ^ 60 + p / 2 * 2 ^ 53 + (2 * h + p % 2) * 2 ^ 51
    | _ => 0
  else if h = 1 ∧ off = 0x30000 then 2 * 2 ^ 21 + 3 * 2 ^ 19
  else if h = 1 ∧ off = 0x30040 then 4 * 2 ^ 53
  else if h = 1 ∧ off = 0x30048 then 0x3E8
  else if h = 0 ∧ off = 0x50000 then 8000 * 2 ^ 32 + 7600 * 2 ^ 16
  else if 0x60000 ≤ off ∧ off < 0x64000 then resetMon (off % 0x80)
  else 0

/-- Reset value of a register of the package area. -/
def resetPkg (off : Nat) : Nat :=
  if off < 0x30000 then
    match off with
    | 0x00 => 0x7E08 * 2 ^ 48 + 0xB0 * 2 ^ 40 + (if Config.order768 then 1 else 2) * 2 ^ 32 + 0x01000200
    | 0x10 => Config.moduleId.toNat
    | 0x30 => if Config.order768 then 0xFFF else 0x0FF
    | 0x10100 => 0x100
    | 0x20000 => 28
    | _ => 0
  else if off < 0x38000 then (if off % 16 = 8 then 2 ^ 32 else 0)
  else if 0x41000 ≤ off ∧ off < 0x42000 then resetTrig (off - 0x41000)
  else if 0x100000 ≤ off ∧ off < 0x300000 then resetHub (off / 0x100000 - 1) (off % 0x100000)
  else if off = 0x300008 then 8
  else if off = 0x300028 then 0x3E8 * 2 ^ 32
  else if 0x301000 ≤ off ∧ off < 0x301300 then 0x800
  else 0

/-- The value of a register after reset. -/
def regReset (a : Nat) : W64 :=
  BitVec.ofNat 64 <|
    if a < 0x1000000 then resetPkg a
    else if a < 0x9000000 then
      let w := a / 0x80000 % 8
      if w = 7 then resetW7 (a / 0x400000 % 4 == 0) (a % 0x80000)
      else if a % 0x80000 < 0x40000 then resetUnit (a % 0x10000)
      else 0
    else 0

/-! ### Registers -/

namespace State

/-- The value of a register. -/
def reg (s : State) (a : Nat) : W64 := smGet (regReset a) s.regs a

/-- The state with a register set. -/
def setReg (s : State) (a : Nat) (v : W64) : State := { s with regs := smSet (regReset a) s.regs a v }

/-- Bits [hi:lo] of a register. -/
def regF (s : State) (a hi lo : Nat) : Nat := fld (s.reg a) hi lo

/-- The state with bits [hi:lo] of a register set. -/
def setRegF (s : State) (a hi lo v : Nat) : State := s.setReg a (setFld (s.reg a) hi lo v)

/-! ### Units, clusters, memory blocks -/

def unit (s : State) (pu : Nat) : UnitSt := smGet {} s.units pu
def setUnit (s : State) (pu : Nat) (u : UnitSt) : State := { s with units := smSet {} s.units pu u }
def updUnit (s : State) (pu : Nat) (f : UnitSt → UnitSt) : State := s.setUnit pu (f (s.unit pu))

def clu (s : State) (pc : Nat) : CluSt := smGet {} s.clus pc
def setClu (s : State) (pc : Nat) (c : CluSt) : State := { s with clus := smSet {} s.clus pc c }
def updClu (s : State) (pc : Nat) (f : CluSt → CluSt) : State := s.setClu pc (f (s.clu pc))

def slice (s : State) (r : Nat) : SliceSt := smGet {} s.slices r
def setSlice (s : State) (r : Nat) (x : SliceSt) : State := { s with slices := smSet {} s.slices r x }

def chan (s : State) (ch : Nat) : ChanSt := smGet {} s.chans ch
def setChan (s : State) (ch : Nat) (x : ChanSt) : State := { s with chans := smSet {} s.chans ch x }
def updChan (s : State) (ch : Nat) (f : ChanSt → ChanSt) : State := s.setChan ch (f (s.chan ch))

def tgt (s : State) (k : Nat) : TgtSt := smGet {} s.targets k
def setTgt (s : State) (k : Nat) (x : TgtSt) : State := { s with targets := smSet {} s.targets k x }

/-- The job of a target changed. -/
def updJob (s : State) (k : Nat) (f : Job → Job) : State :=
  match (s.tgt k).job with
  | some j => s.setTgt k { s.tgt k with job := some (f j) }
  | none => s

def port (s : State) (p : Nat) : PortSt := smGet {} s.ports p
def setPort (s : State) (p : Nat) (x : PortSt) : State := { s with ports := smSet {} s.ports p x }
def updPort (s : State) (p : Nat) (f : PortSt → PortSt) : State := s.setPort p (f (s.port p))

def cle (s : State) (e : Nat) : CleSt := smGet {} s.cles e
def setCle (s : State) (e : Nat) (x : CleSt) : State := { s with cles := smSet {} s.cles e x }

def updFab (s : State) (f : FabSt → FabSt) : State := { s with fab := f s.fab }
def updMmc (s : State) (f : MmcSt → MmcSt) : State := { s with mmc := f s.mmc }
def updPwr (s : State) (f : PwrSt → PwrSt) : State := { s with pwr := f s.pwr }

def queueSt (s : State) (q : Nat) : QueueSt := smGet {} s.queues q
def setQueueSt (s : State) (q : Nat) (x : QueueSt) : State := { s with queues := smSet {} s.queues q x }

/-- What left the module, with one more item. -/
def emit (s : State) (o : Out) : State := { s with out := o :: s.out }

/-- An error sent to its handler (R516). -/
def raise (s : State) (e : Err) : State := { s with errFlight := s.errFlight ++ [e] }

/-- `n` free bytes, and the state that has used them. -/
def freeBytes (s : State) (n : Nat) : List Byte × State :=
  ((List.range n).map fun i => Config.freeByte (s.ctr + i), { s with ctr := s.ctr + n })

/-- A free 64-bit value, and the state that has used it. -/
def freeWord (s : State) : W64 × State := (Config.freeWord s.ctr, { s with ctr := s.ctr + 1 })

/-- A timestamp (R515): PCYC and OPSEC of ALM_TIME, and a free FRAC, which the model does not count. -/
def now (s : State) : W64 × State :=
  let f := s.freeWord
  (setFld (s.reg 0x40000) 15 0 f.1.toNat, f.2)

end State

end Sys2Proof.Machine
end

