-- ==== Sys2Proof/Machine/Flags.lean ====
section
/-!
DEFINITION. Every way the manual advances a status field: counts modulo the field's width, counts that
saturate, sticky bits, and W1C bits.
-/

namespace Sys2Proof.Machine.State

/-- A count in bits [hi:lo] of a register advanced by `n`, modulo its width. -/
def bump (s : State) (a hi lo n : Nat) : State := s.setRegF a hi lo (s.regF a hi lo + n)

/-- A count that stops at its largest value. -/
def bumpSat (s : State) (a hi lo n : Nat) : State :=
  s.setRegF a hi lo (min (s.regF a hi lo + n) (2 ^ (hi + 1 - lo) - 1))

/-- A bit set by hardware. -/
def setBit (s : State) (a i : Nat) : State := s.setRegF a i i 1

/-- A bit cleared by hardware. -/
def clrBit (s : State) (a i : Nat) : State := s.setRegF a i i 0

/-- A bit of a register. -/
def bit (s : State) (a i : Nat) : Bool := s.regF a i i == 1

/-- A field that keeps the larger of its value and `v`. -/
def maxF (s : State) (a hi lo v : Nat) : State := s.setRegF a hi lo (max (s.regF a hi lo) v)

/-- A write of a register whose function reports in bit `b` of PKG_READY: discarded and counted in
PKG_BOOT.DISCARDED while that bit is 0 (R483, R594). -/
def gate (s : State) (b : Nat) (f : State → State) : State := if s.bit 0x18 b then f s else s.bump 0x28 15 0 1

end Sys2Proof.Machine.State
end

