-- ==== Sys2Proof/Machine/Operands.lean ====
section
/-!
DEFINITION. Operand forms: the logical and physical names of units and clusters (R12 to R22), device
addresses and channels (R284 to R287, R305), the fields of descriptors (R177 to R179), commands (R189)
and stream programs (R249, R250), and the errors' names (R517).
-/

namespace Sys2Proof.Machine

/-! ### Engines and slots -/

/-- The number of an engine (R71). -/
def engIx : Eng → Nat
  | .fwd => 0
  | .bwd => 1

/-- The number of an engine slot (R182). -/
def slotIx : Slot → Nat
  | .fwd => 0
  | .bwd => 1
  | .rru => 2

/-! ### Logical and physical names -/

/-- The physical cluster of flat logical cluster `c`, from LOG_TO_PHYS (R20); none when absent. -/
def State.physClu (s : State) (c : Nat) : Option Nat :=
  let p := s.regF (rRgn (c / 6) 0) (3 * (c % 6) + 2) (3 * (c % 6))
  if p = 7 then none else some (c / 6 * 7 + p)

/-- The physical unit of flat logical unit `u`. -/
def State.physUnit (s : State) (u : Nat) : Option Nat :=
  (s.physClu (u / 4)).map fun pc => pc * 4 + u % 4

/-- The flat logical cluster that physical cluster `pc` stands for. -/
def State.logClu (s : State) (pc : Nat) : Option Nat :=
  (List.range 6).findSome? fun c =>
    if s.physClu (pc / 7 * 6 + c) = some pc then some (pc / 7 * 6 + c) else none

/-- The flat logical unit that physical unit `pu` stands for; an unassigned one keeps no number, and
its reports name unit 0 of its region. -/
def State.logUnit (s : State) (pu : Nat) : Nat :=
  match s.logClu (pu / 4) with
  | some c => c * 4 + pu % 4
  | none => pu / 28 * 24

/-- The die of a flat logical unit. -/
def dieOfUnit (u : Nat) : Nat := u / 96

/-! ### Device addresses -/

/-- Capacity of an HBM stack in GiB, of which each of the 8 dies has two, and its channels (R279). -/
def stackGiB : Nat := if Config.order768 then 48 else 32
def stackChans : Nat := 32

/-- HBM capacity in GiB (R2). -/
def hbmGiB : Nat := 16 * stackGiB

/-- Bytes of one channel (R280). -/
def cch : Nat := if Config.order768 then 1536 * 2 ^ 20 else 1024 * 2 ^ 20

/-- A populated device address (R2). -/
def populated (a : Nat) : Bool := decide (a < hbmGiB * 2 ^ 30)

/-- A device address of a spare stripe (R287). -/
def spareStripe (a : Nat) : Bool :=
  decide ((if Config.order768 then 0xBD00000000 else 0x7E00000000) ≤ a) && populated a

/-- The host range of stream addresses (R267). -/
def hostAddr (a : Nat) : Bool := decide (2 ^ 47 ≤ a)

/-- Channel and channel offset of a device address (R285, R286). -/
def State.chanAddr (s : State) (A : Nat) : Nat × Nat :=
  let sl := A / 2 ^ 36
  let a := A % 2 ^ 36
  if bitAt (s.reg 0x30).toNat sl then
    let g := a / 1024
    (64 * (g % 8) + g / 8 % 64, sl * 2 ^ 27 + g / 512 * 1024 + a % 1024)
  else
    let b := a % 2 ^ 33
    let g := b / 4096
    (64 * (a / 2 ^ 33) + g % 64, sl * 2 ^ 27 + g / 64 * 4096 + b % 4096)

/-- The slice that homes a channel (R289). -/
def sliceOf (ch : Nat) : Nat := ch / 64 * 4 + ch % 64 / 16

/-- The set of a line (R289). -/
def setOf (ch line : Nat) : Nat := (line * 16 + ch % 16) % 16384

/-- Where unit `x` of retired channel `ch` moves: its target channel and the offset of the unit
(R305). -/
def migTarget (ch x : Nat) : Nat × Nat :=
  let dc := ch % 64
  let t := x % 63
  (ch / 64 * 64 + (if t < dc then t else t + 1), 63 * cch / 64 + x / 63 * 1024)

/-! ### Descriptors -/

/-- Bits [hi:lo] of word `w` of a descriptor or another list of words. -/
def dfld (d : List W64) (w hi lo : Nat) : Nat := fld (wordAt d w) hi lo

/-- A tile map (R178, R82). -/
structure TileMap where
  base : Nat
  twin : Nat
  tstrR : Nat
  tstrC : Nat
  rot0 : Nat
  rotR : Nat
  rotC : Nat
  sbase : Nat
  deriving DecidableEq, Repr

/-- The tile map in words `w` and `w + 1`. -/
def tileMap (d : List W64) (w : Nat) : TileMap :=
  { rotC := dfld d w 57 52, rotR := dfld d w 51 46, rot0 := dfld d w 45 40, tstrC := dfld d w 39 30,
    tstrR := dfld d w 29 20, twin := dfld d w 19 10, base := dfld d w 9 0,
    sbase := dfld d (w + 1) 20 0 }

/-- Reserved bits of the two words of a tile map (R178). -/
def tileMapRsvd (d : List W64) (w : Nat) : Bool :=
  dfld d w 63 58 != 0 || dfld d (w + 1) 63 21 != 0

/-- The regions a REGIONS word reads and writes, as masks (R179). -/
def regionMasks (w : W64) : Nat × Nat :=
  let f := fun i => let v := fld w (7 * i + 6) (7 * i); if 64 ≤ v then 2 ^ (v % 64) else 0
  (f 0 ||| f 1 ||| f 2 ||| f 3, f 4 ||| f 5)

/-- Accessors of the layer descriptor (R177). -/
def dEngine (d : List W64) : Nat := dfld d 0 47 46
def dTask (d : List W64) : Nat := dfld d 0 50 48
def dSerial (d : List W64) : Nat := dfld d 0 31 0
def dM (d : List W64) : Nat := 64 * dfld d 1 60 48
def dN (d : List W64) : Nat := 64 * dfld d 1 44 32
def dK (d : List W64) : Nat := 64 * dfld d 1 16 0
def dDrain (d : List W64) : Nat := dfld d 3 27 26
def dTail (d : List W64) : Nat := dfld d 15 11 10
def dFirst (d : List W64) : Nat := dfld d 15 25 16
def dLast (d : List W64) : Nat := dfld d 15 41 32
def dRruOp (d : List W64) : Nat := dfld d 16 5 0

/-- The descriptor is the tail of its chain on logical unit `u` (R129). -/
def isTail (d : List W64) (u : Nat) : Bool := dDrain d == 2 && dLast d == u

/-- Where rows end up: 0 TILE_FP32, 1 TILE_CONV, 2 nowhere (a member that is no tail), 3 RRU. -/
def finalTarget (d : List W64) (u : Nat) : Nat :=
  if dDrain d = 2 then
    if isTail d u then (if dTail d = 2 then 3 else dTail d) else 2
  else dDrain d

/-- The descriptor uses the RRU (R183). -/
def usesRru (d : List W64) (u : Nat) : Bool :=
  dEngine d == 2 || finalTarget d u == 3

/-! ### Errors (R517, R565) -/

/-- Class and handler level of an error code (R517, R565). -/
def errInfo : Nat → Nat × Nat
  | 0x0101 => (2, 0) | 0x0102 => (2, 0) | 0x0103 => (1, 0) | 0x0201 => (4, 2)
  | 0x0301 => (2, 2) | 0x0302 => (4, 3) | 0x0401 => (1, 3) | 0x0402 => (2, 3)
  | 0x0403 => (1, 3) | 0x0404 => (2, 3) | 0x0405 => (4, 4) | 0x0406 => (2, 4)
  | 0x0501 => (1, 4) | 0x0502 => (2, 4) | 0x0503 => (2, 4) | 0x0504 => (4, 4)
  | 0x0505 => (2, 4) | 0x0506 => (5, 4) | 0x0507 => (5, 4) | 0x0508 => (5, 4)
  | 0x0509 => (5, 4) | 0x0601 => (1, 3) | 0x0602 => (4, 4) | 0x0603 => (1, 4)
  | 0x0604 => (1, 3) | 0x0605 => (1, 3) | 0x0606 => (1, 3)
  | _ => (0, 0)

/-- Scopes (R423): 0 module, 1 die, 2 region, 3 cluster, 4 unit, 5 hub, 6 port, 7 channel, 8 queue,
9 EID. -/
def mkErr (code scope index : Nat) (detail : W64) : Err :=
  { code := code, cls := (errInfo code).1, scope := scope, index := index, detail := detail,
    reason := 0, w2 := 0#64, w3 := 0#64, w4 := 0#64, esc := false, defer := false, inj := false }

/-- An error of the manual raised by its code (R517). -/
def State.raiseCode (s : State) (code scope index : Nat) (detail : Nat) : State :=
  s.raise (mkErr code scope index (BitVec.ofNat 64 detail))

end Sys2Proof.Machine
end

