-- ==== Sys2Proof/Machine/Mem.lean ====
section
/-!
DEFINITION. Device memory (chapter 10): channels with their side plane, the cache slices in front of
them, the routing of a retired channel, and the access every agent makes through the slice that homes a
byte.  Accesses here are atomic; the rows that show a request waiting at its slice are in Hbm.lean.
-/

namespace Sys2Proof.Machine

/-! ### Channels and migration -/

/-- MEMC_CH_STAT.STATE of a channel (R283). -/
def State.chState (s : State) (ch : Nat) : Nat := s.regF (rChan ch 0) 63 60

/-- Data rate of a channel in 100 kb/s a pin: 9.375 Gb/s, or 4.6875 Gb/s at FALLBACK, the only other (R279,
R283). -/
def State.pinRate (s : State) (ch : Nat) : Nat := if s.bit (rChan ch 0) 55 then 46875 else 93750

/-- A retired channel, readable or dead (R304). -/
def State.retired (s : State) (ch : Nat) : Bool := decide (4 ≤ s.chState ch)

/-- The channel is the first retired one of its die, whose units have spare stripes (R305). -/
def State.migrating (s : State) (ch : Nat) : Bool :=
  s.retired ch && s.regF (rDie (ch / 64) 0x18) 63 60 != 0 && s.regF (rDie (ch / 64) 0x18) 57 52 == ch % 64

/-- Unit `x` of a retired channel has been moved (R306). -/
def State.unitMoved (s : State) (ch x : Nat) : Bool :=
  s.migrating ch && (decide (x < s.regF (rDie (ch / 64) 0x18) 20 0) || smGet false (s.chan ch).moved x)

/-- Where the bytes of a channel offset are stored now (R306). -/
def State.home (s : State) (ch off : Nat) : Nat × Nat :=
  if s.retired ch && s.unitMoved ch (off / 1024) then
    let t := migTarget ch (off / 1024)
    (t.1, t.2 + off % 1024)
  else (ch, off)

/-- One sector as its channel holds it: 32 bytes and its poison.  A dead channel's unmoved sector is poisoned
(R306), and so is every sector that a second retired channel of a die holds (R308). -/
def State.getSector (s : State) (ch off : Nat) : List Byte × Bool :=
  let h := s.home ch off
  let k := h.1 * 2 ^ 31 + h.2
  (smGetL 0#8 s.chanBytes k 32,
    smGet false s.chanPoison (k / 32) ||
      (s.chState ch == 5 && !s.unitMoved ch (off / 1024)) ||
      (s.retired h.1 && !s.migrating h.1))

/-- The checksum that the side plane holds beside a sector (R296, R297): every write computes it from the bytes it
leaves, and every move carries it with them (R298), so it is that of the bytes.  A checked word that fails is an
outcome of the world, which leaves the poison bit. -/
def State.sectorSum (s : State) (ch off : Nat) : W32 := crc32c (s.getSector ch off).1

/-- One sector written where it is stored. -/
def State.putSector (s : State) (ch off : Nat) (bs : List Byte) (poison : Bool) : State :=
  let h := s.home ch off
  let k := h.1 * 2 ^ 31 + h.2
  { s with chanBytes := smSetL 0#8 s.chanBytes k bs,
           chanPoison := smSet false s.chanPoison (k / 32) poison }

/-- The die of a channel has been lost (R311). -/
def State.chLost (s : State) (ch : Nat) : Bool := smGet false s.lostDies (ch / 64)

/-! ### Lines of a slice -/

/-- The line of a slice that holds line number `ln` of channel `ch`. -/
def SliceSt.find (x : SliceSt) (ch ln : Nat) : Option Line :=
  x.lines.find? fun l => l.ch == ch && l.line == ln

def SliceSt.drop (x : SliceSt) (ch ln : Nat) : SliceSt :=
  { x with lines := x.lines.filter fun l => !(l.ch == ch && l.line == ln) }

/-- The line replaced in its place of the recency order. -/
def SliceSt.put (x : SliceSt) (l : Line) : SliceSt :=
  { x with lines := x.lines.map fun m => if m.ch == l.ch && m.line == l.line then l else m }

/-- The line made most recently used. -/
def SliceSt.touch (x : SliceSt) (l : Line) : SliceSt :=
  { x.drop l.ch l.line with lines := l :: (x.drop l.ch l.line).lines }

def SliceSt.ways (x : SliceSt) (ch ln : Nat) : List Line :=
  x.lines.filter fun l => setOf l.ch l.line == setOf ch ln

/-- MSC_STAT of a slice (R294). -/
def rMsc (r off : Nat) : Nat := rRgn r (0x10000 + off)

/-- MSC_STAT.PINNED follows the lines (R294). -/
def State.countPins (s : State) (r : Nat) : State :=
  s.setRegF (rMsc r 0) 31 14 ((s.slice r).lines.filter (·.pinned)).length

/-- One unit of 1 KiB moved to its target: a sector present in the slice is taken from there, a dead channel's
other sectors are written poisoned (R306); `bad` are sectors of the channel that the move finds
uncorrectable or failing their check (R281, R298). -/
def State.moveUnit (s : State) (ch x : Nat) (bad : List Bool := []) : State :=
  if s.unitMoved ch x then s
  else
    let t := migTarget ch x
    let sl := s.slice (sliceOf ch)
    let secs : List (List Byte × Bool) := (List.range 32).map fun i =>
      let off := x * 1024 + 32 * i
      match sl.find ch (off / 128) with
      | some l => ((l.data.drop (off % 128)).take 32, l.poison.getD (off % 128 / 32) false)
      | none => let y := s.getSector ch off; (y.1, y.2 || bad.getD i false)
    let s := { s with
      chanBytes := smSetL 0#8 s.chanBytes (t.1 * 2 ^ 31 + t.2) (secs.map Prod.fst).flatten,
      chanPoison := smSetL false s.chanPoison ((t.1 * 2 ^ 31 + t.2) / 32) (secs.map Prod.snd) }
    let s := s.updChan ch fun c => { c with moved := smSet false c.moved x true }
    if secs.any (·.2) then s.bump (rDie (ch / 64) 0x18) 41 21 1 else s

/-- A dirty line written back to its channel; of an unmoved unit of a retired channel, its unit is moved
first (R306). -/
def State.writeBack (s : State) (l : Line) : State :=
  let s := if s.migrating l.ch then s.moveUnit l.ch (l.line / 8) else s
  (List.range 4).foldl (fun s i =>
    s.putSector l.ch (l.line * 128 + 32 * i) ((l.data.drop (32 * i)).take 32) (l.poison.getD i false)) s

/-- A channel whose lines are held: in a retrain window, in test or failing (R302, R312). -/
def State.chHeld (s : State) (ch : Nat) : Bool := s.chState ch == 3 || s.chState ch == 1

/-- The channel that stores a line now is held (R302, R306). -/
def State.lineHeld (s : State) (ch ln : Nat) : Bool := s.chHeld (s.home ch (ln * 128)).1

/-- A way that may be chosen as a victim (R290, R302). -/
def State.victim? (s : State) (l : Line) : Bool := !l.pinned && !(l.dirty && s.lineHeld l.ch l.line)

/-- Room for a line: with 16 ways in use the least recently used victim is written back if dirty and
dropped (R290); `none` when the set has no victim (R302). -/
def State.makeRoom (s : State) (ch ln : Nat) : Option State :=
  let r := sliceOf ch
  let sl := s.slice r
  if (sl.ways ch ln).length < 16 then some s
  else
    match ((sl.ways ch ln).filter s.victim?).reverse.head? with
    | none => none
    | some v =>
      let s := if v.dirty then s.writeBack v else s
      some (s.setSlice r ((s.slice r).drop v.ch v.line))

/-- A line placed in its slice under a hint: KEEP pinned, while fewer than 12 ways of the set are, and
most recently used; STREAM least recently used (R291, R292).  A refused pin is counted, for the unit `who` of
speculative work when it is confirmed (R230). -/
def State.place (s : State) (l : Line) (hint : Nat) (who : Option Nat := none) : State :=
  let r := sliceOf l.ch
  let sl := (s.slice r).drop l.ch l.line
  if hint = 1 then
    let pins := ((sl.ways l.ch l.line).filter (·.pinned)).length
    let ok := l.pinned || decide (pins < 12)
    let s := s.setSlice r { sl with lines := { l with pinned := ok } :: sl.lines }
    (if ok then s else match who with
      | none => s.bump (rMsc r 0) 63 48 1
      | some pu => s.updUnit pu fun u => { u with held := u.held ++ [.bump (rMsc r 0) 63 48 1] }).countPins r
  else s.setSlice r { sl with lines := sl.lines ++ [l] }

/-- A line as the channel holds it. -/
def State.fetchLine (s : State) (ch ln : Nat) : Line :=
  let secs := (List.range 4).map fun i => s.getSector ch (ln * 128 + 32 * i)
  { ch := ch, line := ln, data := (secs.map (·.1)).flatten, poison := secs.map (·.2) }

/-- The effect of a hit on the recency order and the pins (R291). -/
def State.hit (s : State) (l : Line) (hint : Nat) (who : Option Nat := none) : State :=
  if hint = 1 then s.place l 1 who else s

/-- A LAST_USE read drops its line without write-back.  What a dirty line held is lost: each of its
sectors then holds either the value it had or an earlier one, unpoisoned (R293). -/
def State.dropLine (s : State) (l : Line) : State :=
  let r := sliceOf l.ch
  let s := s.setSlice r ((s.slice r).drop l.ch l.line)
  let s := s.countPins r
  if l.dirty then
    let s := s.bump (rMsc r 0) 47 32 1
    (List.range 4).foldl (fun s i =>
      let pick := (Config.freeByte s.ctr).getLsbD 0
      let s := { s with ctr := s.ctr + 1 }
      let off := l.line * 128 + 32 * i
      let old := (s.getSector l.ch off).1
      s.putSector l.ch off (if pick then (l.data.drop (32 * i)).take 32 else old) false) s
  else s

/-! ### One line access -/

/-- What is held in a window waits, and so does the command that makes the access (R302). -/
def State.hold (s : State) (b : Bool) : State := if b then { s with waited := true } else s

/-- A command whose accesses to device memory wait for a held channel has no effect yet: it is made again when
the channel is back (R302, log entry 27). -/
def State.orWait (s : State) (f : State → State) : State :=
  let t := f { s with waited := false }
  if t.waited then s else { t with waited := s.waited }

/-- Accesses that wait elsewhere, or act at once although their channel is held (log entry 27). -/
def State.calm (s : State) (f : State → State) : State := { f s with waited := s.waited }

/-- The line of an access: a hit with its effect, a miss filled under its hint, unless its channel is held or
its set has no victim (R302).  Without a slice the line stays in its channel (R310). -/
def State.access (s : State) (ch ln hint : Nat) (who : Option Nat := none) : State × Line :=
  let r := sliceOf ch
  match (s.slice r).find ch ln with
  | some l => (s.hit l hint who, l)
  | none =>
    let l := s.fetchLine ch ln
    if (s.slice r).lost then (s, l)
    else
      match s.makeRoom ch ln with
      | none => (s.hold true, l)
      | some t => ((t.place l hint who).hold (s.lineHeld ch ln), l)

/-- A sector's bytes as a reader sees them: the bytes of a poisoned one are free (R290). -/
def State.seen (s : State) (bs : List Byte) (poison : Bool) : State × List Byte :=
  if poison then let f := s.freeBytes bs.length; (f.2, f.1) else (s, bs)

/-- A read of bytes [lo, lo + n) of one line: their values and poison. -/
def State.readLine (s : State) (ch ln lo n hint : Nat) (who : Option Nat := none) : State × List Byte × List Bool :=
  if s.chLost ch then
    let f := s.freeBytes n
    (f.2, f.1, List.replicate n true)
  else
    let r := sliceOf ch
    let (s, l) :=
      if hint = 2 then
        match (s.slice r).find ch ln with
        | some l => (s.dropLine l, l)
        | none => (s.hold (!(s.slice r).lost && s.lineHeld ch ln), s.fetchLine ch ln)
      else s.access ch ln hint who
    let ps := (List.range n).map fun i => l.poison.getD ((lo + i) / 32) false
    let (s, bs) := ((List.range n).map fun i => (l.data.getD (lo + i) 0#8, ps.getD i false)).foldl
      (fun (acc : State × List Byte) b =>
        let v := acc.1.seen [b.1] b.2
        (v.1, acc.2 ++ v.2)) (s, [])
    (s, bs, ps)

/-- Poison of the sectors of a line after a write of bytes [lo, lo + n) with the given poison flags:
a whole clean sector clears it, a partial write leaves it set, a poisoned byte sets it (R299). -/
def writePoison (old : List Bool) (lo : Nat) (ps : List Bool) : List Bool :=
  (List.range 4).map fun i =>
    let inSec := (List.range ps.length).filter fun k => (lo + k) / 32 == i
    let bad := inSec.any fun k => ps.getD k false
    if inSec.length = 32 then bad else old.getD i false || bad

/-- Bytes [lo, lo + n) of a list replaced. -/
def splice (old : List Byte) (lo : Nat) (bs : List Byte) : List Byte :=
  old.take lo ++ bs ++ old.drop (lo + bs.length)

/-- A write of bytes to one line; of an unmoved unit of a dead channel, its unit is moved first (R306). -/
def State.writeLine (s : State) (ch ln lo : Nat) (bs : List Byte) (ps : List Bool) (hint : Nat) : State :=
  if s.chLost ch then s.raiseCode 0x0406 7 ch (ch * 2 ^ 32)
  else
    let r := sliceOf ch
    let h := if hint = 2 then 0 else hint
    let s := if s.chState ch = 5 ∧ s.migrating ch then s.moveUnit ch (ln / 8) else s
    let (s, l) :=
      if bs.length = 128 then
        match (s.slice r).find ch ln with
        | some l => (s.hit l h, l)
        | none =>
          let l : Line := { ch := ch, line := ln, data := bs, poison := List.replicate 4 false }
          if (s.slice r).lost then (s, l)
          else match s.makeRoom ch ln with
            | none => (s.hold true, l)
            | some s => (s.place l h, l)
      else s.access ch ln h
    let data := splice l.data lo bs
    let pois := writePoison l.poison lo ps
    match (s.slice r).find ch ln with
    | some m => s.setSlice r ((s.slice r).put { m with dirty := true, data := data, poison := pois })
    | none => s.writeBack { l with data := data, poison := pois }

/-! ### Accesses by device address -/

/-- The pieces of an access that lie in one line each: device address and length. -/
def pieces : Nat → Nat → Nat → List (Nat × Nat)
  | 0, _, _ => []
  | fuel + 1, a, n =>
    if n = 0 then []
    else
      let k := min n (128 - a % 128)
      (a, k) :: pieces fuel (a + k) (n - k)

/-- A read of `n` bytes at device address `a`: bytes and poison flags. -/
def State.memRead (s : State) (a n hint : Nat) : State × List Byte × List Bool :=
  (pieces (n / 128 + 2) a n).foldl (fun (acc : State × List Byte × List Bool) p =>
    let c := acc.1.chanAddr p.1
    let x := acc.1.readLine c.1 (c.2 / 128) (c.2 % 128) p.2 hint
    (x.1, acc.2.1 ++ x.2.1, acc.2.2 ++ x.2.2)) (s, [], [])

/-- A write of bytes with their poison flags at device address `a`. -/
def State.memWriteP (s : State) (a : Nat) (bs : List Byte) (ps : List Bool) (hint : Nat) : State :=
  ((pieces (bs.length / 128 + 2) a bs.length).foldl (fun (acc : State × List Byte × List Bool) p =>
    let c := acc.1.chanAddr p.1
    (acc.1.writeLine c.1 (c.2 / 128) (c.2 % 128) (acc.2.1.take p.2) (acc.2.2.take p.2) hint,
      acc.2.1.drop p.2, acc.2.2.drop p.2)) (s, bs, ps)).1

/-- A write of unpoisoned bytes. -/
def State.memWrite (s : State) (a : Nat) (bs : List Byte) (hint : Nat) : State :=
  s.memWriteP a bs (List.replicate bs.length false) hint

/-- The value at a device address without any effect on the slice: what its slice would answer.  The bytes
of a lost die cannot be read (R31, R311). -/
def State.peekByte (s : State) (a : Nat) : Byte × Bool :=
  let c := s.chanAddr a
  if s.chLost c.1 then (Config.freeByte a, true)
  else match (s.slice (sliceOf c.1)).find c.1 (c.2 / 128) with
  | some l => (l.data.getD (c.2 % 128) 0#8, l.poison.getD (c.2 % 128 / 32) false)
  | none =>
    let x := s.getSector c.1 (c.2 / 32 * 32)
    (x.1.getD (c.2 % 32) 0#8, x.2)

/-! ### Pages and host memory -/

/-- A device page is present to the loaded program (R268). -/
def State.pagePresent (s : State) (a : Nat) : Bool := smGet 0 s.pages (a / 2 ^ 21) % 2 == 1

def State.pageWritable (s : State) (a : Nat) : Bool := smGet 0 s.pages (a / 2 ^ 21) / 2 % 2 == 1

/-- The first device address of the spare stripes (R287). -/
def State.spareBase : Nat := if Config.order768 then 0xBD00000000 else 0x7E00000000

/-- The first device address of the partner memory, or of the spare stripes without one (R439). -/
def State.partnerBase (s : State) : Nat := State.spareBase - s.regF (rSnap 0) 8 0 * 2 ^ 30

/-- Every byte of a range lies on pages present to the loaded program (R190, R248). -/
def State.rangePresent (s : State) (a n : Nat) : Bool :=
  populated (a + n - 1) && populated a &&
    (List.range ((a + n - 1) / 2 ^ 21 - a / 2 ^ 21 + 1)).all fun i =>
      smGet 0 s.pages (a / 2 ^ 21 + i) % 2 == 1

/-- The key of host address `a` under a PASID: every address space of the host is apart (R417, R434). -/
def hostKey (pasid : Option Nat) (a : Nat) : Nat := a + (match pasid with | some p => (p + 1) * 2 ^ 64 | none => 0)

def State.hostRead (s : State) (pasid : Option Nat) (a n : Nat) : List Byte := smGetL 0#8 s.hostMem (hostKey pasid a) n

def State.hostWrite (s : State) (pasid : Option Nat) (a : Nat) (bs : List Byte) : State :=
  { s with hostMem := smSetL 0#8 s.hostMem (hostKey pasid a) bs }

end Sys2Proof.Machine
end

