-- ==== Sys2Proof/Machine/Num.lean ====
section
/-!
DEFINITION. Numbers of the TH8: exact values, the one rounding of R108, the formats of chapter 04,
the FP32 primitives of R125 and R139, FP32X, the conversion of R110 and the generator of R157.

Every value is exact until it is rounded: a finite value is `(-1)^neg × m × 2^e` with natural `m`.
-/

namespace Sys2Proof.Machine

/-! ### Exact values -/

/-- A decoded value (R93): NaN, an infinity, or the finite value `(-1)^neg × m × 2^e`.  A zero has
`m = 0` and keeps its sign (R95). -/
inductive FV where
  | nan
  | inf (neg : Bool)
  | fin (neg : Bool) (m : Nat) (e : Int)
  deriving DecidableEq, Repr

/-- `m × 2^k` for a `k` that is known not to be negative. -/
def shl (m : Nat) (k : Int) : Nat := m * 2 ^ k.toNat

/-- The sign of a value; NaN counts as positive. -/
def FV.neg? : FV → Bool
  | .nan => false
  | .inf n => n
  | .fin n _ _ => n

def FV.isNan : FV → Bool
  | .nan => true
  | _ => false

def FV.isFin : FV → Bool
  | .fin _ _ _ => true
  | _ => false

def FV.isZero : FV → Bool
  | .fin _ m _ => m == 0
  | _ => false

/-- The value with its sign changed. -/
def FV.negate : FV → FV
  | .nan => .nan
  | .inf n => .inf (!n)
  | .fin n m e => .fin (!n) m e

/-- The exact product (R124, R125): NaN with a NaN operand and for 0 × ∞. -/
def FV.mul : FV → FV → FV
  | .nan, _ => .nan
  | _, .nan => .nan
  | .inf a, .inf b => .inf (a != b)
  | .inf a, .fin b m _ => if m = 0 then .nan else .inf (a != b)
  | .fin a m _, .inf b => if m = 0 then .nan else .inf (a != b)
  | .fin a m e, .fin b n f => .fin (a != b) (m * n) (e + f)

/-- The exact sum of two values with the special cases of R125. -/
def FV.add : FV → FV → FV
  | .nan, _ => .nan
  | _, .nan => .nan
  | .inf a, .inf b => if a = b then .inf a else .nan
  | .inf a, .fin _ _ _ => .inf a
  | .fin _ _ _, .inf b => .inf b
  | .fin a m e, .fin b n f =>
    let g := min e f
    let x : Int := shl m (e - g)
    let y : Int := shl n (f - g)
    let z := (if a then -x else x) + (if b then -y else y)
    if z = 0 then .fin (a && b) 0 0 else .fin (decide (z < 0)) z.natAbs g

/-- The exact sum of a list; of an empty list, +0.  The zero of a list of zeros is −0 only when every
term is −0 (R125). -/
def FV.sum : List FV → FV
  | [] => .fin false 0 0
  | [x] => x
  | x :: xs => x.add (FV.sum xs)

/-- `x × 2^k`, exact. -/
def FV.scale (x : FV) (k : Int) : FV :=
  match x with
  | .nan => .nan
  | .inf n => .inf n
  | .fin n m e => .fin n m (e + k)

/-- Whether `m × 2^e ≤ n × 2^f`. -/
def leMag (m : Nat) (e : Int) (n : Nat) (f : Int) : Bool :=
  let g := min e f
  decide (shl m (e - g) ≤ shl n (f - g))

/-! ### The one rounding (R108) -/

/-- The three modes of R108; `u` is the 24-bit random value of SR. -/
inductive Rnd where
  | rne
  | sr (u : Nat)
  | rtz
  deriving DecidableEq, Repr

/-- ⌊log₂ (num/den)⌋ for positive `num` and `den`. -/
def log2Q (num den : Nat) : Int :=
  let l : Int := (num.log2 : Int) - (den.log2 : Int)
  let ok := if 0 ≤ l then decide (den * 2 ^ l.toNat ≤ num) else decide (den ≤ num * 2 ^ (-l).toNat)
  if ok then l else l - 1

/-- Whether the discarded fraction `rem / d` rounds the magnitude `n` up (R108). -/
def roundsUp (mode : Rnd) (n rem d : Nat) : Bool :=
  match mode with
  | .rne => decide (d < 2 * rem) || (decide (2 * rem = d) && n % 2 == 1)
  | .sr u => decide (2 ^ 24 ≤ rem * 2 ^ 24 / d + u)
  | .rtz => false

/-- R108 on the magnitude `num / den × 2^sh` with `F` fraction bits and smallest normal exponent
`emin`: the rounded magnitude as `(M, q)`, of value `M × 2^q`. -/
def roundMag (F : Nat) (emin : Int) (mode : Rnd) (num den : Nat) (sh : Int) : Nat × Int :=
  if num = 0 then (0, emin - F)
  else
    let e := max (log2Q num den + sh) emin
    let q := e - F
    let k := sh - q
    let N := if 0 ≤ k then num * 2 ^ k.toNat else num
    let D := if 0 ≤ k then den else den * 2 ^ (-k).toNat
    let n := N / D
    let m := if roundsUp mode n (N % D) D then n + 1 else n
    if m = 2 ^ (F + 1) then (2 ^ F, q + 1) else (m, q)

/-! ### Binary formats (R93, R97) -/

/-- A binary format: fraction bits, bias, sign position, and the code of its largest finite value. -/
structure BinFmt where
  frac : Nat
  bias : Int
  signBit : Nat
  maxCode : Nat
  deriving DecidableEq, Repr

def fFP32 : BinFmt := ⟨23, 127, 31, 0x7F7FFFFF⟩
def fBF16 : BinFmt := ⟨7, 127, 15, 0x7F7F⟩
def fG8E5 : BinFmt := ⟨2, 15, 7, 0x7B⟩
def fF8E4 : BinFmt := ⟨3, 7, 7, 0x7E⟩
def fG6B : BinFmt := ⟨2, 3, 5, 0x1F⟩
def fF4B : BinFmt := ⟨1, 1, 3, 0x7⟩

/-- The magnitude code (exponent field and fraction) of `M × 2^q` as `roundMag` gives it. -/
def magCode (f : BinFmt) (M : Nat) (q : Int) : Nat :=
  if M < 2 ^ f.frac then M else (q + f.frac + f.bias).toNat * 2 ^ f.frac + (M - 2 ^ f.frac)

/-- R93: the exact value of a code that is no special code. -/
def decodeBin (f : BinFmt) (code : Nat) : FV :=
  let neg := code / 2 ^ f.signBit % 2 == 1
  let mag := code % 2 ^ f.signBit
  let e := mag / 2 ^ f.frac
  let fr := mag % 2 ^ f.frac
  if e = 0 then .fin neg fr (1 - f.bias - f.frac)
  else .fin neg (2 ^ f.frac + fr) (e - f.bias - f.frac)

/-- The code with sign `neg` and magnitude code `c`. -/
def signed (f : BinFmt) (neg : Bool) (c : Nat) : Nat := (if neg then 2 ^ f.signBit else 0) + c

/-! ### FP32 (R96, R97, R100) -/

/-- The canonical FP32 NaN (R96). -/
def nan32 : W32 := 0x7FC00000#32

def inf32 (neg : Bool) : W32 := if neg then 0xFF800000#32 else 0x7F800000#32

def zero32 : W32 := 0#32

/-- The exact value of an FP32 word. -/
def val32 (w : W32) : FV :=
  let mag := w.toNat % 2 ^ 31
  let neg := w.toNat / 2 ^ 31 == 1
  if 0x7F800000 < mag then .nan
  else if mag = 0x7F800000 then .inf neg
  else decodeBin fFP32 w.toNat

/-- An exact value rounded once to FP32, overflow giving an infinity (R125, R139). -/
def round32 (mode : Rnd) (x : FV) : W32 :=
  match x with
  | .nan => nan32
  | .inf n => inf32 n
  | .fin n m e =>
    let r := roundMag 23 (-126) mode m 1 e
    let c := magCode fFP32 r.1 r.2
    if fFP32.maxCode < c then inf32 n else BitVec.ofNat 32 (signed fFP32 n c)

/-- The positive rational `num / den × 2^sh`, with a sign, rounded to FP32 by RNE. -/
def ratio32 (neg : Bool) (num den : Nat) (sh : Int) : W32 :=
  let r := roundMag 23 (-126) .rne num den sh
  let c := magCode fFP32 r.1 r.2
  if fFP32.maxCode < c then inf32 neg else BitVec.ofNat 32 (signed fFP32 neg c)

def isNan32 (w : W32) : Bool := (val32 w).isNan

/-- The order key of an FP32 word that is no NaN: −0 below +0, otherwise by value. -/
def key32 (w : W32) : Int :=
  let mag : Int := (w.toNat % 2 ^ 31 : Nat)
  if w.toNat / 2 ^ 31 = 1 then -1 - mag else mag

/-! ### FP32 primitives of the RRU (R139) -/

def fAdd (a b : W32) : W32 := round32 .rne ((val32 a).add (val32 b))
def fNeg (a : W32) : W32 := if isNan32 a then nan32 else a ^^^ 0x80000000#32
def fSub (a b : W32) : W32 := fAdd a (fNeg b)
def fMul (a b : W32) : W32 := round32 .rne ((val32 a).mul (val32 b))
def fFma (a b c : W32) : W32 := round32 .rne (((val32 a).mul (val32 b)).add (val32 c))

def fMax (a b : W32) : W32 :=
  if isNan32 a || isNan32 b then nan32 else if key32 a ≤ key32 b then b else a

def fMin (a b : W32) : W32 :=
  if isNan32 a || isNan32 b then nan32 else if key32 a ≤ key32 b then a else b

/-- DIV and, with `a` = 1, RCP. -/
def fDiv (a b : W32) : W32 :=
  match val32 a, val32 b with
  | .nan, _ => nan32
  | _, .nan => nan32
  | .inf _, .inf _ => nan32
  | .inf x, .fin y _ _ => inf32 (x != y)
  | .fin x _ _, .inf y => BitVec.ofNat 32 (signed fFP32 (x != y) 0)
  | .fin x m e, .fin y n f =>
    if n = 0 then (if m = 0 then nan32 else inf32 (x != y))
    else ratio32 (x != y) m n (e - f)

def one32 : W32 := 0x3F800000#32
def half32 : W32 := 0x3F000000#32

def fRcp (a : W32) : W32 := fDiv one32 a

/-- RSQRT: 1/√x through ⌊√(2^400 / x)⌋ with a sticky bit, so the one rounding is exact. -/
def fRsqrt (a : W32) : W32 :=
  match val32 a with
  | .nan => nan32
  | .inf n => if n then nan32 else zero32
  | .fin n m e =>
    if m = 0 then inf32 n
    else if n then nan32
    else
      -- x = m' × 2^(2h); 1/√x = √(2^400 / m') × 2^(-200-h)
      let odd := e % 2
      let m' := if odd = 1 then m * 2 else m
      let h := (e - odd) / 2
      let t := 2 ^ 400 / m'
      let r := t.sqrt
      let exact := decide (r * r * m' = 2 ^ 400)
      ratio32 false (2 * r + (if exact then 0 else 1)) 2 (-200 - h)

/-- SQRT, correctly rounded (the update engine, R329). -/
def fSqrt (a : W32) : W32 :=
  match val32 a with
  | .nan => nan32
  | .inf n => if n then nan32 else inf32 false
  | .fin n m e =>
    if m = 0 then a
    else if n then nan32
    else
      let odd := e % 2
      let m' := if odd = 1 then m * 2 else m
      let h := (e - odd) / 2
      let t := m' * 2 ^ 200
      let r := t.sqrt
      let exact := decide (r * r = t)
      ratio32 false (2 * r + (if exact then 0 else 1)) 2 (h - 100)

/-! e^x to 2^-640 by its series: enough to round every FP32 argument correctly, since no result of
EXP or TANH lies nearer than 2^-200 to a rounding boundary. -/

/-- The unit of the fixed-point series. -/
def fixOne : Nat := 2 ^ 640

/-- Σ terms of the series from `term` on; `x` is the argument in fixed point. -/
def expSeries (x : Nat) : Nat → Nat → Nat → Nat → Nat
  | 0, _, _, acc => acc
  | fuel + 1, k, term, acc =>
    let t := term * x / fixOne / k
    expSeries x fuel (k + 1) t (acc + t)

/-- e^x in fixed point for the non-negative fixed-point `x` below 128. -/
def expFix (x : Nat) : Nat := expSeries x 700 1 fixOne fixOne

/-- |m × 2^e| in fixed point (R93 gives e ≥ −149, so it is exact). -/
def toFix (m : Nat) (e : Int) : Nat := shl m (e + 640)

/-- EXP. -/
def fExp (a : W32) : W32 :=
  match val32 a with
  | .nan => nan32
  | .inf n => if n then zero32 else inf32 false
  | .fin n m e =>
    if m = 0 then one32
    else if !(leMag m e 128 0) then (if n then zero32 else inf32 false)
    else
      let E := expFix (toFix m e)
      if n then ratio32 false (2 * (fixOne * fixOne / E) + 1) 2 (-640)
      else ratio32 false (2 * E + 1) 2 (-640)

/-- TANH: (e^2x − 1) / (e^2x + 1). -/
def fTanh (a : W32) : W32 :=
  match val32 a with
  | .nan => nan32
  | .inf n => if n then fNeg one32 else one32
  | .fin n m e =>
    if m = 0 then a
    else if !(leMag m e 16 0) then (if n then fNeg one32 else one32)
    else
      let E := expFix (2 * toFix m e)
      ratio32 n (E - fixOne) (E + fixOne) 0

/-- A natural number as FP32. -/
def ofNat32 (n : Nat) : W32 := round32 .rne (.fin false n 0)

/-! ### The counter generator (R157) -/

def rotl32 (x : BitVec 32) (n : Nat) : BitVec 32 := (x <<< n) ||| (x >>> (32 - n))

def genRound (s : W32 × W32 × W32 × W32) : W32 × W32 × W32 × W32 :=
  let (a, b, c, d) := s
  let a := a + b
  let d := rotl32 (d ^^^ a) 16
  let c := c + d
  let b := rotl32 (b ^^^ c) 12
  let a := a + b
  let d := rotl32 (d ^^^ a) 8
  let c := c + d
  let b := rotl32 (b ^^^ c) 20
  (a, b, c, d)

/-- R157: the 24-bit value of a draw. -/
def generator (seed : W64) (step tid : W32) (index : Nat) : Nat :=
  let a := seed.setWidth 32 ^^^ 0x5A17C3E9#32
  let b := (seed >>> 32).setWidth 32 ^^^ 0x2B9E604D#32
  let c := step ^^^ 0xD3F01B87#32
  let d := tid ^^^ 0x6C48A25F#32
  let a := a + BitVec.ofNat 32 index
  let c := c + BitVec.ofNat 32 (index / 2 ^ 32 % 256)
  let (a, b, c, d) := genRound (genRound (genRound (genRound (a, b, c, d))))
  ((a + c) ^^^ b ^^^ d).toNat / 256

/-- The inputs of a draw that do not depend on the element. -/
structure GenKey where
  seed : W64
  step : W32
  tid  : W32
  deriving DecidableEq, Repr

/-- gen_seed of an accumulation event (kind 2) or a chain hop (kind 3) (R127, R131). -/
def GenKey.kinded (k : GenKey) (kind i : Nat) : GenKey :=
  { k with seed := k.seed ^^^ BitVec.ofNat 64 (kind * 2 ^ 62) ^^^ BitVec.ofNat 64 (i * 2 ^ 32) }

def GenKey.draw (k : GenKey) (index : Nat) : Nat := generator k.seed k.step k.tid index

/-! ### Formats (R90) and conversion (R110) -/

/-- The formats of R90. -/
inductive Format where
  | fp32 | bf16 | f8e4 | g8e5 | f4b | g6b | fp32x
  deriving DecidableEq, Repr

/-- R90: the format of a code; reserved codes give none. -/
def formatOf : Nat → Option Format
  | 0 => some .fp32
  | 1 => some .bf16
  | 2 => some .f8e4
  | 3 => some .g8e5
  | 4 => some .f4b
  | 5 => some .g6b
  | 6 => some .fp32x
  | _ => none

def Format.code : Format → Nat
  | .fp32 => 0 | .bf16 => 1 | .f8e4 => 2 | .g8e5 => 3 | .f4b => 4 | .g6b => 5 | .fp32x => 6

def Format.blockScaled : Format → Bool
  | .f4b => true
  | .g6b => true
  | _ => false

def Format.tensorScaled : Format → Bool
  | .f8e4 => true
  | .g8e5 => true
  | _ => false

/-- Container bits of an element in the tile store (R77). -/
def Format.cb : Format → Nat
  | .f4b => 4 | .g6b => 8 | .f8e4 => 8 | .g8e5 => 8 | .bf16 => 16 | .fp32 => 32 | .fp32x => 32

/-- Words per bank of a tile (R77). -/
def Format.q : Format → Nat
  | .f4b => 1 | .g6b => 2 | .f8e4 => 2 | .g8e5 => 2 | .bf16 => 4 | .fp32 => 8 | .fp32x => 8

/-- The binary format of the codes. -/
def Format.bin : Format → BinFmt
  | .fp32 => fFP32 | .bf16 => fBF16 | .f8e4 => fF8E4 | .g8e5 => fG8E5
  | .f4b => fF4B | .g6b => fG6B | .fp32x => fFP32

/-- The value of a code of a format, with `k` the exponent of its tensor or block scale; `none` is a
NaN scale (R96 to R104). -/
def decodeElem (f : Format) (code : Nat) (k : Option Int) : FV :=
  match k with
  | none => .nan
  | some k =>
    match f with
    | .fp32 => val32 (BitVec.ofNat 32 code)
    | .fp32x => val32 (BitVec.ofNat 32 code)
    | .bf16 => val32 (BitVec.ofNat 32 (code * 65536))
    | .g8e5 =>
      let m := code % 128
      if 0x7C < m then .nan else if m = 0x7C then .inf (code / 128 % 2 == 1)
      else (decodeBin fG8E5 (code % 256)).scale k
    | .f8e4 => if code % 128 = 0x7F then .nan else (decodeBin fF8E4 (code % 256)).scale k
    | .f4b => (decodeBin fF4B (code % 16)).scale k
    | .g6b => (decodeBin fG6B (code % 64)).scale k

/-- The exponent of an E8M0 scale byte (R103). -/
def e8m0 (s : Nat) : Option Int := if s = 0xFF then none else some ((s : Int) - 127)

/-- The conversion control byte (R91). -/
structure Cvt where
  grad : Bool
  special : Bool
  rnd : Nat
  deriving DecidableEq, Repr

def cvtOf (b : Nat) : Cvt := ⟨b / 8 % 2 == 1, b / 4 % 2 == 1, b % 4⟩

/-- A CVT byte that R92 refuses. -/
def cvtBad (b : Nat) : Bool := decide (16 ≤ b) || b % 4 == 3

/-- Whether a conversion draws (R111). -/
def usesSR (f : Format) (c : Cvt) : Bool :=
  c.grad || f == .g8e5 || f == .g6b || c.rnd == 1

/-- R111: the mode of a conversion, with its draw. -/
def modeOf (f : Format) (c : Cvt) (u : Nat) : Rnd :=
  if usesSR f c then .sr u else if c.rnd = 2 then .rtz else .rne

/-- What one conversion gives: the code, whether a finite source overflowed, whether the source was
not finite (R115). -/
structure CvtOut where
  code : Nat
  ovf  : Bool
  nonfin : Bool
  deriving DecidableEq, Repr

/-- R112: the code of an infinite source. -/
def infCode (f : Format) (c : Cvt) (neg : Bool) : Nat :=
  match f with
  | .f8e4 => if c.special then 0x7F else signed fF8E4 neg 0x7E
  | .g8e5 => signed fG8E5 neg 0x7C
  | .bf16 => signed fBF16 neg 0x7F80
  | .fp32 => signed fFP32 neg 0x7F800000
  | .fp32x => signed fFP32 neg 0x7F800000
  | .f4b => 0
  | .g6b => 0

/-- R112: the code of a finite source whose rounded magnitude is above the largest finite value. -/
def ovfCode (f : Format) (c : Cvt) (neg : Bool) : Nat :=
  match f with
  | .f8e4 => if c.special then 0x7F else signed fF8E4 neg 0x7E
  | .g8e5 => if c.special then signed fG8E5 neg 0x7C else signed fG8E5 neg 0x7B
  | .bf16 => if c.special then signed fBF16 neg 0x7F80 else signed fBF16 neg 0x7F7F
  | .fp32 => if c.special then signed fFP32 neg 0x7F800000 else signed fFP32 neg 0x7F7FFFFF
  | .fp32x => if c.special then signed fFP32 neg 0x7F800000 else signed fFP32 neg 0x7F7FFFFF
  | .f4b => signed fF4B neg 0x7
  | .g6b => signed fG6B neg 0x1F

/-- R96: the canonical NaN of a destination. -/
def nanCode : Format → Nat
  | .fp32 => 0x7FC00000 | .bf16 => 0x7FC0 | .g8e5 => 0x7E | .f8e4 => 0x7F
  | .fp32x => 0x7FC00000 | .f4b => 0 | .g6b => 0

/-- R110 for every destination but FP32X: `k` is the exponent t of the tensor scale or E of the
block. -/
def convert (f : Format) (c : Cvt) (k : Int) (u : Nat) (x : FV) : CvtOut :=
  match x with
  | .nan => ⟨nanCode f, false, true⟩
  | .inf n => ⟨infCode f c n, false, true⟩
  | .fin n m e =>
    let b := f.bin
    if m = 0 then ⟨signed b n 0, false, false⟩
    else
      let r := roundMag b.frac (1 - b.bias) (modeOf f c u) m 1 (e - k)
      let code := magCode b r.1 r.2
      if b.maxCode < code then ⟨ovfCode f c n, true, false⟩ else ⟨signed b n code, false, false⟩

/-- R117: a value widened to FP32, beyond the finite range an infinity. -/
def widen (x : FV) : W32 := round32 .rne x

/-- The larger of two magnitudes held as FP32 words without sign. -/
def maxMag (a b : W32) : W32 := if a.toNat ≤ b.toNat then b else a

/-- The magnitude of an FP32 word as an amax: +0 when it is not finite (R115). -/
def amaxOf (w : W32) : W32 :=
  if (val32 w).isFin then BitVec.ofNat 32 (w.toNat % 2 ^ 31) else zero32

/-! ### Blocks (R113) -/

/-- One element of a block to be converted: whether it is active, its FP32 value, its draw. -/
structure BlockElem where
  active : Bool
  val : W32
  u : Nat
  deriving DecidableEq, Repr

/-- R113, steps 1 to 4: the block exponent for a positive amax. -/
def blockExp (f : Format) (amax : W32) : Int :=
  match val32 amax with
  | .fin _ m e =>
    let emax : Int := if f = .f4b then 2 else 4
    let E := (m.log2 : Int) + e - emax
    let b := f.bin
    let r := roundMag b.frac (1 - b.bias) .rne m 1 (e - E)
    let E := if b.maxCode < magCode b r.1 r.2 then E + 1 else E
    max E (-127)
  | _ => -127

/-- R113 and R57: the scale byte and the element codes of a block; `none` when no element is
active. -/
def convertBlock (f : Format) (c : Cvt) (xs : List BlockElem) : Option (Nat × List Nat) :=
  let act := xs.filter (·.active)
  if act.isEmpty then none
  else if act.any (fun x => !(val32 x.val).isFin) then some (0xFF, xs.map fun _ => 0)
  else
    let amax := act.foldl (fun a x => maxMag a (amaxOf x.val)) zero32
    if amax = zero32 then
      some (0, xs.map fun x => if x.active then signed f.bin (val32 x.val).neg? 0 else 0)
    else
      let E := blockExp f amax
      some ((E + 127).toNat,
        xs.map fun x => if x.active then (convert f c E x.u (val32 x.val)).code else 0)

/-! ### FP32X (R105, R106) -/

/-- The exact value of an FP32X pair. -/
def valX (w : W32) (xb : Nat) : FV :=
  match val32 w with
  | .fin n m e => .fin n (m * 256 + xb) (e - 8)
  | v => v

/-- What one conversion to FP32X gives. -/
structure CvtX where
  w : W32
  xb : Nat
  ovf : Bool
  nonfin : Bool
  deriving DecidableEq, Repr

/-- R110 for FP32X: 31 fraction bits, the exponent range of FP32 (R108). -/
def convertX (mode : Rnd) (special : Bool) (x : FV) : CvtX :=
  match x with
  | .nan => ⟨nan32, 0, false, true⟩
  | .inf n => ⟨inf32 n, 0, false, true⟩
  | .fin n m e =>
    let r := roundMag 31 (-126) mode m 1 e
    let c := magCode fFP32 (r.1 / 256) (r.2 + 8)
    if fFP32.maxCode < c then
      if special then ⟨inf32 n, 0, true, false⟩
      else ⟨BitVec.ofNat 32 (signed fFP32 n 0x7F7FFFFF), 255, true, false⟩
    else ⟨BitVec.ofNat 32 (signed fFP32 n c), r.1 % 256, false, false⟩

end Sys2Proof.Machine
end

