-- ==== Sys2Proof/Machine/Tile.lean ====
section
/-!
DEFINITION. The tile store (chapter 03): the skew layout, tile maps, elements, scale records, masks, and
the side plane of its words.
-/

namespace Sys2Proof.Machine

/-- Slot, word address and rotation of tile (tr, tc) (R82). -/
def tileSlot (m : TileMap) (tr tc : Nat) : Nat := (tr * m.tstrR + tc * m.tstrC) % m.twin

def tileRot (m : TileMap) (tr tc : Nat) : Nat := (m.rot0 + tr * m.rotR + tc * m.rotC) % 64

/-- R78: tile-store offset of the byte of element (r, c) of a tile at word address `a` with rotation
`rho`. -/
def skewOff (f : Format) (a rho r c : Nat) : Nat :=
  let e := 256 / f.cb
  let h := c / e
  (a + h) * 2048 + (r + h * (64 / f.q) + rho) % 64 * 32 + c % e * f.cb / 8

/-- Offset of element (R, C) of the stored tensor under its tile map. -/
def elemOff (f : Format) (m : TileMap) (R C : Nat) : Nat :=
  skewOff f (m.base + tileSlot m (R / 64) (C / 64) * f.q) (tileRot m (R / 64) (C / 64)) (R % 64) (C % 64)

/-- Offset of the scale byte of the block of element (R, C) (R81). -/
def scaleOff (m : TileMap) (R C : Nat) : Nat :=
  m.sbase + 128 * tileSlot m (R / 64) (C / 64) + 64 * (C % 64 / 32) + R % 64

def UnitSt.byte (u : UnitSt) (o : Nat) : Byte := smGet 0#8 u.tile o

/-- The checksum that the side plane holds beside bank word `w` (R297, R298), that of its bytes. -/
def UnitSt.wordSum (u : UnitSt) (w : Nat) : W32 := crc32c (smGetL 0#8 u.tile (32 * w) 32)

def UnitSt.poisoned (u : UnitSt) (o : Nat) : Bool := smGet false u.tpoison (o / 32)

/-- The code of an element. -/
def UnitSt.code (u : UnitSt) (f : Format) (m : TileMap) (R C : Nat) : Nat :=
  let o := elemOff f m R C
  match f with
  | .f4b => if C % 2 = 0 then (u.byte o).toNat % 16 else (u.byte o).toNat / 16
  | _ => leVal ((List.range (f.cb / 8)).map fun i => u.byte (o + i))

/-- The value of an element of an operand with tensor exponent `t` (R93, R99, R104), and whether its
word or its scale record's word is poisoned. -/
def UnitSt.elem (u : UnitSt) (f : Format) (m : TileMap) (t : Int) (R C : Nat) : FV × Bool :=
  let o := elemOff f m R C
  if f.blockScaled then
    let so := scaleOff m R C
    (decodeElem f (u.code f m R C) (e8m0 (u.byte so).toNat), u.poisoned o || u.poisoned so)
  else (decodeElem f (u.code f m R C) (some (if f.tensorScaled then t else 0)), u.poisoned o)

/-- The bytes of a vector in the tile store as one number: element x of a mask is bit x (R53). -/
def UnitSt.bitsAt (u : UnitSt) (o n : Nat) : Nat := leVal ((List.range n).map fun i => u.byte (o + i))

def UnitSt.rangePoison (u : UnitSt) (o n : Nat) : Bool :=
  (List.range ((o + n - 1) / 32 - o / 32 + 1)).any fun i => smGet false u.tpoison (o / 32 + i)

/-- An FP32 word of a vector in the tile store. -/
def UnitSt.fp32 (u : UnitSt) (o : Nat) : W32 :=
  BitVec.ofNat 32 (leVal ((List.range 4).map fun i => u.byte (o + i)))

/-- Byte writes gathered by bank word, in ascending offset of the word. -/
def groupWords (bs : List (Nat × Byte)) : SMap (List (Nat × Byte)) :=
  bs.foldl (fun m b => smSet [] m (b.1 / 32) (smGet [] m (b.1 / 32) ++ [b])) []

/-- One byte-enabled write to a bank word with the poison rule of R299. -/
def UnitSt.writeWord (u : UnitSt) (w : Nat) (bs : List (Nat × Byte)) (poison : Bool) : UnitSt :=
  { u with
    tile := bs.foldl (fun t b => smSet 0#8 t b.1 b.2) u.tile,
    tpoison := smSet false u.tpoison w
      (if bs.length = 32 then poison else poison || smGet false u.tpoison w) }

/-- Bytes written to the tile store of physical unit `pu`; the bytes of a poisoned write are free. -/
def State.tileWrite (s : State) (pu : Nat) (bs : List (Nat × Byte)) (poison : Bool) : State :=
  let f := s.freeBytes bs.length
  let bs' := if poison then (bs.zip f.1).map fun p => (p.1.1, p.2) else bs
  let s := if poison then f.2 else s
  s.updUnit pu fun u => (groupWords bs').foldl (fun u g => u.writeWord g.1 g.2 poison) u

/-! ### Regions (R222) -/

/-- A region's register: VALID, BASE, LIMIT. -/
def State.breg (s : State) (pu r : Nat) : Option (Nat × Nat) :=
  let w := s.reg (rUnit pu (0x400 + 8 * r))
  if fld w 63 63 = 1 then some (fld w 20 0, fld w 52 32) else none

/-- The offsets [o, o + n) lie within the regions of a mask (R83 step 2): every byte in some one of
them. -/
def State.covered (s : State) (pu mask o n : Nat) : Bool :=
  let rs := (List.range 64).filterMap fun r => if bitAt mask r then s.breg pu r else none
  -- the first byte not covered moves up region by region
  let go := (List.range 64).foldl (fun x _ =>
    match rs.find? fun r => decide (r.1 ≤ x) && decide (x < r.2) with
    | some r => r.2
    | none => x) o
  n == 0 || decide (o + n ≤ go)

/-- A declared write region shares a byte with another valid region of the unit (R223). -/
def State.overlaps (s : State) (pu mask : Nat) : Bool :=
  (List.range 64).any fun r =>
    bitAt mask r &&
      match s.breg pu r with
      | none => false
      | some a => (List.range 64).any fun q =>
          q != r && match s.breg pu q with
            | none => false
            | some b => decide (max a.1 b.1 < min a.2 b.2)

end Sys2Proof.Machine
end

