-- ==== Sys2Proof/Machine/Slots.lean ====
section
/-!
DEFINITION. The slot checker (chapter 08): runs, offsets, the judgement of an access, slips.
-/

namespace Sys2Proof.Machine

/-- Whether a run of the record covers frame position `pos` (R214). -/
def SlotRec.covers (r : SlotRec) (F pos : Nat) : Bool :=
  (List.range (r.reps + 1)).any fun i => decide ((pos + F * (i + 1) * (r.period + 1) - (r.start + i * r.period) % F) % F < r.len)

/-- What the checker finds (R218). -/
inductive Verdict where
  | own
  | slip
  | collide
  deriving DecidableEq, Repr

/-- R217, R218: an access of `owner` to `port` at position `pos` of a frame of `F` cycles. -/
def judge (recs : List SlotRec) (F port owner pos : Nat) : Verdict :=
  let here := recs.filter fun r => r.port == port
  let mine := here.filter fun r => r.owner == owner
  if mine.any fun r => r.covers F pos then .own
  else if (mine.any fun r => r.covers F ((pos + 1) % F) || r.covers F ((pos + F - 1) % F)) &&
      !(here.any (·.tight)) && !(here.any fun r => r.covers F pos) then .slip
  else .collide

/-- The agent and task of an access as one owner value (R212). -/
def ownerOf (task agent : Nat) : Nat := task * 8192 + agent

/-- Some work of the unit is speculative (R229). -/
def UnitSt.speculates (u : UnitSt) : Bool :=
  u.runs.any (·.prov.spec) || u.streams.any (fun x => (x.2.map (·.prov.spec)).getD false)

namespace State

/-- Frame position of a die at an ACLK cycle (R208). -/
def framePos (s : State) (die cyc : Nat) : Nat :=
  let F := s.slotMap.frameLen
  if F = 0 then 0 else (cyc + F * (smGet 0 s.frame0 die / F + 1) - smGet 0 s.frame0 die) % F

/-- Records of the unit ports of logical unit `u`. -/
def unitRecs (s : State) (u : Nat) : List SlotRec := smGet [] s.slotMap.units u

/-- A register's count held while the work is speculative (R230). -/
def bumpSpec (s : State) (pu : Nat) (spec : Bool) (a hi lo n : Nat) : State :=
  if n = 0 then s
  else if spec then s.updUnit pu fun u => { u with held := u.held ++ [.bump a hi lo n] }
  else s.bump a hi lo n

/-- A field set, held while the work is speculative. -/
def setSpec (s : State) (pu : Nat) (spec : Bool) (a hi lo v : Nat) : State :=
  if spec then s.updUnit pu fun u => { u with held := u.held ++ [.setf a hi lo v] }
  else s.setRegF a hi lo v

/-- An error of a unit, held while the work is speculative (R524). -/
def raiseSpec (s : State) (pu : Nat) (spec : Bool) (e : Err) : State :=
  if spec then s.updUnit pu fun u => { u with held := u.held ++ [.err { e with defer := true }] }
  else s.raise e

/-- One slip recorded in a slip register: COUNT, LAST_POS (R221). -/
def countSlip (s : State) (pu : Nat) (spec : Bool) (a pos : Nat) : State :=
  (s.bumpSpec pu spec a 63 40 1).setSpec pu spec a 23 0 pos

end State

end Sys2Proof.Machine
end

