-- ==== Sys2Proof/Machine/Halt.lean ====
section
/-!
DEFINITION. Precise halts (R69, R192, R239 to R243): of a unit, of a control core, the squash of
speculative work, the end of a program.
-/

namespace Sys2Proof.Machine

/-- What a unit's halt reports (R242). -/
structure HaltInfo where
  reason : Nat
  source : Nat
  prov   : Prov
  task   : Nat := 0
  serial : Nat := 0
  /-- STREAM_FAULT subcode. -/
  sub    : Nat := 0
  port   : Nat := 0
  owner  : Nat := 0
  pos    : Nat := 0
  word   : Nat := 0
  /-- The halt cycle, where the halt arises in a known one (R69). -/
  cyc    : Option Nat := none
  deriving DecidableEq, Repr

/-- A command that will never complete (R227). -/
def UnitSt.kill (u : UnitSt) (t : Nat) : UnitSt :=
  { u with sb := u.sb.map fun e => if e.ticket == t then { e with dead := true } else e }

/-- Commands that will never complete, by a test of their tickets. -/
def UnitSt.killAll (u : UnitSt) (p : Nat → Bool) : UnitSt :=
  { u with sb := u.sb.map fun e => if p e.ticket && !e.done then { e with dead := true } else e }

namespace State

/-- The unit has halted (R242). -/
def unitHalted (s : State) (pu : Nat) : Bool := s.regF (rUnit pu 0x100) 63 56 != 0

/-- Control-core state (R201). -/
def ccState (s : State) (pc : Nat) : Nat := s.regF (rClu pc 0) 63 60

/-- R233. -/
def fetching (s : State) (pc : Nat) : Bool :=
  let st := s.ccState pc
  (decide (1 ≤ st) && decide (st ≤ 4)) || (st == 5 && s.regF (rClu pc 0) 55 48 == 0x10)

/-- The bank being fetched, or the next start's (R201). -/
def ccBank (s : State) (pc : Nat) : Nat := s.regF (rClu pc 0) 56 56

/-- Every physical cluster that stands for a logical one, with its flat logical number. -/
def present (s : State) : List (Nat × Nat) :=
  (List.range 192).filterMap fun c => (s.physClu c).map fun pc => (c, pc)

/-- Any control core of the module is fetching. -/
def anyFetching (s : State) : Bool := (List.range 224).any fun pc => s.fetching pc

/-- A chain abort on the link to the successor of logical unit `u` (R137). -/
def sendAbort (s : State) (u : Nat) : State :=
  match s.physUnit (u + 1) with
  | some q => s.updUnit q fun x => { x with chain := { x.chain with abort := true } }
  | none => s

/-- The HALT error of a unit (R243, R424). -/
def haltErr (s : State) (pu : Nat) (h : HaltInfo) (deferred : Bool) : Err :=
  let n := fun (b : Bool) => if b then 1 else 0
  -- R137: a chain abort names the predecessor, as SCOPE and INDEX of word 1 of an event would (log entry 28)
  { mkErr 0 4 (s.logUnit pu)
      (if h.sub = 7 ∨ h.sub = 8 then BitVec.ofNat 64 (4 * 2 ^ 56 + (s.logUnit pu - 1)) else 0#64) with
    cls := 3
    reason := h.reason
    w2 := BitVec.ofNat 64 (h.source * 2 ^ 61 + h.task * 2 ^ 58 + n deferred * 2 ^ 57 + h.prov.bank * 2 ^ 49 +
      h.prov.pc * 2 ^ 32 + h.prov.iter % 65536)
    w3 := s.reg (rUnit pu 0x108)
    w4 := BitVec.ofNat 64 (h.serial * 2 ^ 32 + s.regF (rUnit pu 0x110) 63 32)
    defer := deferred }

/-- UNIT_HALT0 to UNIT_HALT3 of a halt (R242); the LAST fields keep what completion wrote. -/
def setHaltRegs (s : State) (pu : Nat) (h : HaltInfo) (deferred : Bool) : State :=
  let n := fun (b : Bool) => if b then 1 else 0
  let s := s.setReg (rUnit pu 0x100) (BitVec.ofNat 64
    (h.reason * 2 ^ 56 + h.source * 2 ^ 53 + h.task * 2 ^ 50 + h.prov.bank * 2 ^ 49 + n deferred * 2 ^ 48 +
      h.prov.pc * 2 ^ 32 + h.serial))
  let s := s.setRegF (rUnit pu 0x110) 31 0 (h.prov.iter % 65536 * 65536 + h.port)
  -- R278: a stream fault that halts
  let s := if h.reason = 0x0B then s.setRegF (rUnit pu 0x140) 63 54 (h.sub * 4 + 2) else s
  s.setReg (rUnit pu 0x118) (BitVec.ofNat 64 (h.owner * 2 ^ 48 + h.pos * 2 ^ 24 + h.word))

/-- A started descriptor whose drains had all started and none of whose rows was refused, earlier than
the halted command: it completes normally (R69). -/
def survives (h : HaltInfo) (r : RunSt) : Bool :=
  r.started && r.drained == r.total && !r.refused && decide (r.prov.ticket < h.prov.ticket) && !r.dead

/-- A stream that stops for good (R257). -/
def stopped (st : StreamSt) : StreamSt := { st with halted := true, blocked := false, xlat := false, pend := none }

def stopStream (x : Nat × Option StreamSt) : Nat × Option StreamSt := (x.1, x.2.map stopped)

/-- A stream of an earlier command than the one the halt names: it completes normally (R239). -/
def streamLives (t : Nat) (st : StreamSt) : Bool := !st.halted && decide (st.prov.ticket < t)

/-- Own rows of the run's started drains wait for their partners at the chain adder. -/
def rowsWait (u : UnitSt) (r : RunSt) : Bool := u.chain.own.any fun x => x.ticket == r.prov.ticket

/-- The unit stopped by a halt that names ticket `t`: nothing more is fed, undrained passes are discarded,
queues end, later streams end, and what will not complete is marked so (R69, R192, R239, R257).  A chain
descriptor whose started drains still wait for rows stays, dead, until they have been sent on (R137). -/
def stopUnit (s : State) (pu t : Nat) (keep : RunSt → Bool) : State :=
  s.updUnit pu fun u =>
    let live := (u.runs.filter keep).map (·.prov.ticket) ++
      u.streams.filterMap fun (x : Nat × Option StreamSt) => match x.2 with
        | some st => if streamLives t st then some st.prov.ticket else none
        | none => none
    let runs := u.runs.filterMap fun r => if keep r then some r
      else if rowsWait u r then some { r with dead := true } else none
    let u := { u with
      runs := runs
      queues := []
      squeue := []
      fwd := { u.fwd with hist := u.fwd.hist.filter (·.d.isSome), blocks := [] }
      bwd := { u.bwd with hist := u.bwd.hist.filter (·.d.isSome), blocks := [] }
      streams := u.streams.map fun (x : Nat × Option StreamSt) => match x.2 with
        | some st => if streamLives t st then x else stopStream x
        | none => x
      chain := if runs.any fun r => dDrain r.desc == 2 then u.chain
        else { u.chain with link := [], buf := [], own := [], tail := [] } }
    u.killAll fun k => !live.contains k

/-- A CHAIN descriptor is running on the unit (R147). -/
def chainRuns (s : State) (pu : Nat) : Bool :=
  (s.unit pu).runs.any fun r => r.started && !r.dead && r.slot != 2 && dDrain r.desc == 2

/-- PENDING of the latest stream fault follows its stream (R278). -/
def settlePending (s : State) (pu : Nat) : State :=
  let a := rUnit pu 0x140
  match smGet none (s.unit pu).streams (8 * s.regF a 53 52 + s.regF a 51 49) with
  | some st => if st.blocked then s else s.setRegF a 54 54 0
  | none => s.setRegF a 54 54 0

/-- The unit runs a chain descriptor of which it is not the tail, so its halt sends an abort on. -/
def runsChain (s : State) (pu : Nat) : Bool :=
  (s.unit pu).runs.any fun r => r.started && dDrain r.desc == 2 && !isTail r.desc (s.logUnit pu)

/-- The streams of a fault that no stream waits on any more are forgotten: the fault closes (R431). -/
def closeFaults (s : State) : State :=
  let used := fun (i : Nat) => s.units.any fun u => u.2.streams.any fun x => match x.2 with
    | some st => st.faultId == some i && st.blocked && !st.halted
    | none => false
  { s with faults := s.faults.filter fun (x : Nat × Option Nat) => used x.1 }

/-- A halt of a unit (R69, R192, R241, R243).  A unit already halted reports nothing more. -/
def haltUnit (s : State) (pu : Nat) (h : HaltInfo) (deferred : Bool := false) : State :=
  if s.unitHalted pu then s
  else
    let chained := s.runsChain pu
    let e := s.haltErr pu h deferred
    let s := s.setHaltRegs pu h deferred
    let s := (s.stopUnit pu h.prov.ticket (survives h)).settlePending pu
    let s := if s.chainRuns pu then s else s.clrBit (rUnit pu 0x58) 0
    let s := if chained then s.sendAbort (s.logUnit pu) else s
    (s.raise e).closeFaults

/-- A halt that speculative work meets is held and raised at confirmation; its command stops (R230). -/
def haltWork (s : State) (pu : Nat) (h : HaltInfo) : State :=
  if h.prov.spec then
    s.updUnit pu fun u =>
      { u with
        held := u.held ++ [.halt h.reason h.source h.prov h.serial h.task h.sub h.port h.owner h.pos h.word]
        runs := u.runs.map fun r => if r.prov.ticket == h.prov.ticket then { r with dead := true } else r }
  else s.haltUnit pu h

/-! ### Squash of speculative work (R232) -/

/-- The tile-store word (offset div 32) that a TILE_CHECK error names (R517). -/
def errWord (e : Err) : Nat := fld e.detail 9 0 * 64 + fld e.detail 21 16

/-- Speculative work of one unit squashed: descriptors and streams stop, the regions they wrote become
stale, shadow blocks return, held effects are discarded (R232); the poison of discarded errors stays and is
detected again (R524). -/
def squashUnit (s : State) (pu : Nat) : State :=
  let u := s.unit pu
  let spec := fun (t : Nat) =>
    u.runs.any (fun r => r.prov.spec && r.prov.ticket == t) ||
    u.streams.any (fun x => match x.2 with | some st => st.prov.spec && st.prov.ticket == t | none => false) ||
    u.squeue.any (fun e => e.prov.spec && e.prov.ticket == t) ||
    (u.queues.any fun q => q.2.any fun e => e.prov.spec && e.prov.ticket == t) ||
    u.sb.any (fun e => e.done && e.ticket == t)
  let wrote := (u.sb.filter fun e => spec e.ticket).foldl (fun m e => m ||| e.wrote) 0
  -- no block is held across descriptors (R58)
  let stop := fun (x : EngSt) => { x with
    hist := x.hist.filter fun p => p.d.isSome || !spec p.ticket
    blocks := match (x.hist.filter (·.d.isSome)).head? with
      | some p => if spec p.ticket then [] else x.blocks
      | none => x.blocks }
  let s := [0, 1, 2].foldl (fun s sl =>
    match smGet none u.saved sl with
    | none => s
    | some (ws, ok, hm) =>
      let s := (List.range 128).foldl (fun s i =>
        s.setReg (rUnit pu (0x1000 + 0x400 * sl + 8 * i)) (wordAt ws i)) s
      s.updUnit pu fun u => { u with shadowOk := smSet false u.shadowOk sl ok,
                                     hostmod := smSet false u.hostmod sl hm }) s
  let s := u.held.foldl (fun s e => match e with
    | .ue ch off | .side ch off =>
      { s with chanUnseen := smSet false s.chanUnseen ((ch * 2 ^ 31 + off) / 32) true }
    | .err e => if e.code = 0x0102 then s.updUnit pu fun u => { u with unseen := smSet false u.unseen (errWord e) true }
        else s
    | _ => s) s
  s.updUnit pu fun u => { u with
    runs := u.runs.filter fun r => !r.prov.spec
    queues := u.queues.map fun (q : Nat × List QEnt) => (q.1, q.2.filter fun e => !e.prov.spec)
    squeue := u.squeue.filter fun e => !e.prov.spec
    streams := u.streams.map fun x =>
      if (x.2.map (·.prov.spec)).getD false then stopStream x else x
    fwd := stop u.fwd
    bwd := stop u.bwd
    sb := u.sb.filter fun e => !spec e.ticket
    stale := u.stale ||| wrote
    saved := []
    held := [] }

/-- The speculative work of a control core squashed (R232). -/
def squash (s : State) (pc : Nat) : State :=
  (List.range 4).foldl (fun s u => s.squashUnit (pc * 4 + u)) s

/-! ### The control core -/

/-- The END event once every cluster of the program has ended (R200, R424). -/
def endCheck (s : State) : State :=
  match s.running with
  | none => s
  | some pcs =>
    if pcs.all fun pc => (s.clu pc).ended.isSome then
      let bad := (s.present.filter fun x => pcs.contains x.2 && (s.clu x.2).ended != some 0).map fun x =>
        (x.1, ((s.clu x.2).ended).getD 0)
      let lost := (pcs.filter fun pc => (s.clu pc).ended != some 0).length
      let e : Evt := match bad with
        | [] => { type := 5, w2 := BitVec.ofNat 64 (lost * 2 ^ 32) }
        | b :: _ => { type := 5, reason := b.2, w2 := BitVec.ofNat 64 (lost * 2 ^ 32 + b.1) }
      { s with running := none, evtFlight := s.evtFlight ++ [e] }
    else s

/-- The cluster's program has ended with a reason, unless it has ended before.  A halted core keeps the
nesting it stopped at (R201 DEPTH). -/
def clusterEnd (s : State) (pc reason : Nat) : State :=
  (s.updClu pc fun c => { c with ended := if c.ended.isSome then c.ended else some reason, frames := if reason = 0 then [] else c.frames, order := [], wait := .none,
                                 ending := false, specStop := false }).endCheck

/-- A halt of the control core, naming the word index of its command (R192, R232, R243) and the REPLAY run in which
it was issued: that of the command in CLU_CC_STAT.PC, unless it is another. -/
def haltCc (s : State) (pc reason word : Nat) (at_ : Option Nat := none) : State :=
  if s.ccState pc = 5 ∧ s.regF (rClu pc 0) 55 48 ≠ 0x10 then s
  else
    let iter := at_.getD (s.clu pc).pcIter
    let s := s.setRegF (rClu pc 0) 63 60 5
    let s := s.setRegF (rClu pc 0) 55 48 reason
    let s := s.setRegF (rClu pc 0) 46 32 word
    let s := s.squash pc
    -- a break goes on behind the WAITTOK that the core waits for (R232, R245)
    let s := match (s.clu pc).back with
      | some b => s.updClu pc fun c => { c with
          frames := b.1, order := b.2.1, lastGo := b.2.2.1, lastStrm := b.2.2.2
          specCmds := 0, specStop := false, ending := false, back := if reason = 0x10 then c.back else none }
      | none => s
    let e : Err := { mkErr 0 3 ((s.logClu pc).getD (pc / 7 * 6)) 0#64 with
      cls := 3
      reason := reason
      w2 := BitVec.ofNat 64 (s.ccBank pc * 2 ^ 49 + word * 2 ^ 32 + iter % 65536) }
    let s := s.raise e
    if reason = 0x10 then s else s.clusterEnd pc reason

/-- All units of a physical cluster and its control core halt with FENCED (R240, R470). -/
def fenceCluster (s : State) (pc : Nat) : State :=
  let s := (List.range 4).foldl (fun s u =>
    s.haltUnit (pc * 4 + u) { reason := 0x0E, source := 4, prov := {} }) s
  s.haltCc pc 0x0E (s.regF (rClu pc 0) 46 32)

end State

end Sys2Proof.Machine
end

