-- ==== Sys2Proof/Machine/Fault.lean ====
section
/-!
DEFINITION. Elements of streams (R251 to R253), failed translations and what they block or halt (R267 to
R274, R431, R435), and the confirmation of speculative work (R230, R231).
-/

namespace Sys2Proof.Machine

/-! ### Elements -/

/-- Iteration count of dimension `d` (R249, R251). -/
def sCount (hdr : List W64) (d : Nat) : Nat :=
  if d < dfld hdr 0 50 48 then dfld hdr (d + 1) 63 48 + 1 else 1

/-- Stride of dimension `d`. -/
def sStride (hdr : List W64) (d : Nat) : Int := sgn 48 (dfld hdr (d + 1) 47 0)

def sInstrs (hdr : List W64) : Nat := dfld hdr 0 55 52 + 1

/-- Elements of a stream (R251). -/
def sTotal (hdr : List W64) : Nat :=
  ((List.range 6).map (sCount hdr)).foldl (· * ·) (sInstrs hdr)

/-- Instruction index of element `E`. -/
def sInstr (hdr : List W64) (E : Nat) : Nat := E % sInstrs hdr

/-- Index of dimension `d` at element `E`. -/
def sIndex (hdr : List W64) (E d : Nat) : Nat :=
  E / ((List.range d).map (sCount hdr)).foldl (· * ·) (sInstrs hdr) % sCount hdr d

/-- The instruction of element `E`. -/
def StreamSt.instr (st : StreamSt) (E : Nat) : List W64 := st.instrs.getD (sInstr st.hdr E) []

def iOp (w : List W64) : Nat := dfld w 0 63 60
def iFmt (w : List W64) : Format := (formatOf (dfld w 0 59 56)).getD .fp32

/-- The coordinate that a selector names, 0 under 0b111. -/
def StreamSt.coord (st : StreamSt) (E sel : Nat) : Nat := if sel = 7 then 0 else sIndex st.hdr E sel

/-- Row r, tile row tr, tile column tc of element `E` (R252). -/
def StreamSt.tile (st : StreamSt) (E : Nat) : Nat × Nat × Nat :=
  let w := st.instr E
  (st.coord E (dfld w 0 53 51), st.coord E (dfld w 0 50 48), st.coord E (dfld w 0 47 45))

/-- Memory bytes of an element's row (R252). -/
def rowBytes : Format → Nat
  | .fp32 => 256 | .bf16 => 128 | .f8e4 => 64 | .g8e5 => 64 | .g6b => 48 | .f4b => 32 | .fp32x => 256

def StreamSt.prAt (st : StreamSt) (r : Nat) : Nat := (st.pr.getD r 0#64).toNat

/-- Data address of element `E` (R252). -/
def StreamSt.addr (st : StreamSt) (E : Nat) : Nat :=
  let w := st.instr E
  let off : Int := ((List.range 6).map fun d => (sIndex st.hdr E d : Int) * sStride st.hdr d).foldl (· + ·) 0
  (((st.prAt (dfld w 0 44 40) + dfld w 0 39 0 : Nat) : Int) + off).emod (2 ^ 48) |>.toNat

/-- Scale-plane address of element `E` (R253). -/
def StreamSt.saddr (st : StreamSt) (E : Nat) : Nat :=
  let w := st.instr E
  let x := st.tile E
  (st.prAt (dfld w 1 58 54) + (64 * x.2.1 + x.1) * dfld w 1 39 16 + 2 * x.2.2) % 2 ^ 48

/-- Elements of an instruction that write memory. -/
def StreamSt.stores (st : StreamSt) (E : Nat) : Bool := iOp (st.instr E) == 1

namespace State

/-- The stream of task `t` of generator `g`. -/
def stream (s : State) (pu g t : Nat) : Option StreamSt := smGet none (s.unit pu).streams (8 * g + t)

def setStream (s : State) (pu g t : Nat) (x : Option StreamSt) : State :=
  s.updUnit pu fun u => { u with streams := smSet none u.streams (8 * g + t) x }

def updStream (s : State) (pu g t : Nat) (f : StreamSt → StreamSt) : State :=
  match s.stream pu g t with
  | some st => s.setStream pu g t (some (f st))
  | none => s

/-! ### UNIT_SFLT (R278) -/

/-- The registers of the latest stream fault; `blocking` counts one. -/
def setSflt (s : State) (pu g t : Nat) (st : StreamSt) (addr : Nat) (blocking : Bool) : State :=
  let E := st.next
  let ix := fun d => sIndex st.hdr E d
  let b := fun (x : Bool) n => if x then 2 ^ n else 0
  let s := s.setReg (rUnit pu 0x140) (BitVec.ofNat 64
    (b blocking 54 + g * 2 ^ 52 + t * 2 ^ 49 + b (hostAddr addr) 48 + addr % 2 ^ 48))
  let n := s.regF (rUnit pu 0x148) 15 0 + (if blocking then 1 else 0)
  let s := s.setReg (rUnit pu 0x148) (BitVec.ofNat 64 (E % 2 ^ 32 * 2 ^ 32 + sInstr st.hdr E * 2 ^ 28 + n % 65536))
  let s := s.setReg (rUnit pu 0x150) (BitVec.ofNat 64 (ix 3 * 2 ^ 48 + ix 2 * 2 ^ 32 + ix 1 * 2 ^ 16 + ix 0))
  s.setReg (rUnit pu 0x158) (BitVec.ofNat 64 (ix 5 * 2 ^ 16 + ix 4))

/-- The fault registers without an element, for a fault that has none; FAULTS stays. -/
def clearSflt (s : State) (pu : Nat) : State :=
  let s := s.setReg (rUnit pu 0x140) 0#64
  let s := s.setRegF (rUnit pu 0x148) 63 16 0
  (s.setReg (rUnit pu 0x150) 0#64).setReg (rUnit pu 0x158) 0#64

/-- PENDING clears when the blocked stream goes on. -/
def clearPending (s : State) (pu g t : Nat) : State :=
  if s.regF (rUnit pu 0x140) 53 52 = g ∧ s.regF (rUnit pu 0x140) 51 49 = t
  then s.setRegF (rUnit pu 0x140) 54 54 0 else s

/-- A stream halts its unit with STREAM_FAULT (R257, R273, R275). -/
def streamHalt (s : State) (pu g t : Nat) (st : StreamSt) (addr sub : Nat) (deferred : Bool) : State :=
  if s.unitHalted pu then ((s.setStream pu g t (some (stopped st))).settlePending pu).closeFaults
  else (s.setSflt pu g t st addr false).haltUnit pu
    { reason := 0x0B, source := 3, prov := st.prov, task := t, sub := sub } deferred

/-! ### Page faults -/

/-- FAULT_ID of a page, and whether it is new: the lowest free one (R431). -/
def faultOf (s : State) (page : Nat) : Nat × Bool :=
  match s.faults.find? fun (x : Nat × Option Nat) => x.2 == some page with
  | some x => (x.1, false)
  | none => (((List.range 65536).find? fun i => (smGet none s.faults i).isNone).getD 0, true)

/-- The PAGE event (R270, R424). -/
def pageEvt (u id addr g t : Nat) (write : Bool) : Evt :=
  { type := 3, scope := 4, index := u, w2 := BitVec.ofNat 64 (id * 2 ^ 48 + addr % 2 ^ 48),
    w3 := BitVec.ofNat 64 ((if write then 32 else 0) + g * 8 + t) }

/-- A stream blocks on a device page (R270, R271, R431).  Firmware refuses a page reserved for partner
memory or for spare stripes at once (R268, R273). -/
def blockDevice (s : State) (pu g t : Nat) (st : StreamSt) (deferred : Bool) : State :=
  let f := s.faultOf (st.fpage / 2 ^ 21)
  let s := s.setSflt pu g t st st.faddr true
  let st := { st with blocked := true, faultId := some f.1 }
  let s := s.setStream pu g t (some st)
  let s := if f.2 then
      { s with faults := smSet none s.faults f.1 (some (st.fpage / 2 ^ 21)),
               evtFlight := s.evtFlight ++ [pageEvt (s.logUnit pu) f.1 st.fpage g t (st.stores st.next)] }
    else s
  if s.partnerBase ≤ st.fpage then s.streamHalt pu g t st st.faddr 4 deferred else s

/-- Page request groups outstanding (R435). -/
def groupsOut (s : State) : Nat :=
  (s.units.map fun u => (u.2.streams.filter fun x => match x.2 with
    | some st => st.prg
    | none => false).length).foldl (· + ·) 0

/-- The PASID that translation and page requests carry (R434). -/
def streamPasid (s : State) : Option Nat := if s.bit 0x20020 20 then some (s.regF 0x20020 19 0) else none

/-- A page request group of a blocked stream sent, if one is free and page requests are not stopped
(R435). -/
def sendPageReq (s : State) (pu g t : Nat) : State :=
  match s.stream pu g t with
  | none => s
  | some st =>
    if !st.blocked || st.prg || st.faultId.isSome || st.halted || s.priStop || 512 ≤ s.groupsOut then s
    else
      let s := s.setStream pu g t (some { st with prg := true })
      s.emit (.pageRequest (s.logUnit pu) g t st.fpage (st.stores st.next) s.streamPasid)

/-- A stream blocks on a host page; with PRI disabled it halts (R435). -/
def blockHost (s : State) (pu g t : Nat) (st : StreamSt) (deferred : Bool) : State :=
  if !s.pri then s.streamHalt pu g t st st.faddr 4 deferred
  else
    let s := s.setSflt pu g t st st.faddr true
    (s.setStream pu g t (some { st with blocked := true, xlat := false })).sendPageReq pu g t

/-- A failed translation of the request that the stream names: 256 for a device page, 257 for a host
page, else the subcode of a halt.  Speculative work keeps it for its confirmation (R274). -/
def failXlat (s : State) (pu g t : Nat) (st : StreamSt) (code : Nat) (deferred : Bool) : State :=
  let st := { st with xlat := false }
  if st.prov.spec then s.setStream pu g t (some { st with pend := some code })
  else
    let st := { st with pend := none }
    if code = 256 then s.blockDevice pu g t st deferred
    else if code = 257 then s.blockHost pu g t st deferred
    else s.streamHalt pu g t st st.faddr code deferred

/-! ### Errors of memory that speculative work may meet (R67, R230, R281, R298, R304) -/

/-- Units of 1 KiB that a retired channel moves (R305). -/
def migUnits : Nat := 63 * cch / 64 / 1024

/-- DIE_MIG_STAT of a die. -/
def rMig (d : Nat) : Nat := rDie d 0x18

/-- A channel retired (R304, R308); `empty` at bring-up, when it holds no data.  A window that it was in has
ended. -/
def retireChan (s : State) (ch : Nat) (dead empty : Bool) : State :=
  let d := ch / 64
  let st := if dead then 5 else 4
  let s := s.updChan ch fun c => { c with failing := false, badWindows := 0 }
  let s := s.setRegF (rChan ch 0) 63 60 st
  -- a readable one goes on at the fallback rate (R306)
  let s := if dead then s else s.setRegF (rChan ch 0) 55 55 1
  let s := s.raiseCode 0x0403 7 ch (ch * 2 ^ 32 + st)
  if s.regF (rMig d) 63 60 = 0 then
    let s := s.setRegF (rMig d) 57 52 (ch % 64)
    let s := s.setRegF (rMig d) 51 51 (if dead then 1 else 0)
    if empty then (s.setRegF (rMig d) 20 0 migUnits).setRegF (rMig d) 63 60 2
    else s.setRegF (rMig d) 63 60 1
  else
    let s := s.setRegF (rMig d) 63 60 3
    let s := s.setRegF (rMig d) 50 45 (ch % 64)
    s.raiseCode 0x0404 7 ch (ch * 2 ^ 32)

/-- The errors of a sector at a controller's place and at a slice (R517). -/
def ueErr (ch off : Nat) : Err := mkErr 0x0402 7 ch (BitVec.ofNat 64 (ch * 2 ^ 32 + off))

def sideErr (ch off : Nat) : Err := mkErr 0x0301 2 (sliceOf ch) (BitVec.ofNat 64 (ch * 2 ^ 32 + off))

/-- An uncorrectable sector counted at the controller that holds it; more than 1,000 in an hour retire the
channel, one in a window when its window ends (R281, R304). -/
def countUe (s : State) (h : Nat) : State :=
  let s := s.bump (rChan h 0) 39 24 1
  let s := s.updChan h fun c => { c with ueHour := c.ueHour + 1 }
  if 1000 < (s.chan h).ueHour && !s.retired h && s.chState h != 3 then s.retireChan h false false else s

/-- An accumulator parity error of a column counted, and the column test that a second one within
1,000 operating hours calls for (R67). -/
def noteParity (s : State) (pu key sec : Nat) : State :=
  s.updUnit pu fun v =>
    let n := smGet 0 v.parity key
    { v with parity := smSet 0 v.parity key (sec + 1)
             testDue := v.testDue || (decide (0 < n) && decide (sec < n + 3600000)) }

/-! ### Confirmation (R230, R231) -/

/-- One held effect applied (R230). -/
def applyHeld (s : State) (pu : Nat) : HeldEff → State
  | .bump a hi lo n => s.bump a hi lo n
  | .setf a hi lo v => s.setRegF a hi lo v
  | .err e => s.raise e
  | .ue ch off => (s.raise { ueErr ch off with defer := true }).countUe ch
  | .side ch off => s.raise { sideErr ch off with defer := true }
  | .parity key sec => s.noteParity pu key sec
  | .scale x => { s with scaleQ := s.scaleQ ++ [x] }
  | .halt reason source p serial task sub port owner pos word =>
    s.haltUnit pu { reason := reason, source := source, prov := { p with spec := false }, serial := serial,
                    task := task, sub := sub, port := port, owner := owner, pos := pos, word := word } true

/-- A ticket and a key put into a list that rises by ticket. -/
def insTicket (x : Nat × Nat) : List (Nat × Nat) → List (Nat × Nat)
  | [] => [x]
  | y :: ys => if x.1 < y.1 then x :: y :: ys else y :: insTicket x ys

/-- The streams of a unit that pass a test, in program order (R241): ticket, and generator × 8 + task. -/
def streamsBy (s : State) (pu : Nat) (p : StreamSt → Bool) : List (Nat × Nat) :=
  (s.unit pu).streams.foldl (fun l x => match x.2 with
    | some st => if p st then insTicket (st.prov.ticket, x.1) l else l
    | none => l) []

/-- A failed translation that a speculative stream has met is raised (R274). -/
def raisePend (s : State) (pu k : Nat) : State :=
  match s.stream pu (k / 8) (k % 8) with
  | some st => match st.pend with
    | some code => s.failXlat pu (k / 8) (k % 8) st code true
    | none => s
  | none => s

/-- Speculative work of one unit confirmed: what has finished completes in ticket order, what runs
continues as confirmed work, held effects are applied (R230, R231). -/
def confirmUnit (s : State) (pu : Nat) : State :=
  let held := (s.unit pu).held
  let c := fun (p : Prov) => { p with spec := false }
  let s := s.updUnit pu fun u =>
    let wr := (u.sb.filter (·.done)).foldl (fun m e => m ||| e.wr) 0
    { u with
      runs := u.runs.map fun r => { r with prov := c r.prov }
      queues := u.queues.map fun (q : Nat × List QEnt) => (q.1, q.2.map fun e => { e with prov := c e.prov })
      squeue := u.squeue.map fun e => { e with prov := c e.prov }
      streams := u.streams.map fun x => (x.1, x.2.map fun st => { st with prov := c st.prov })
      sb := u.sb.filter fun e => !e.done
      stale := u.stale &&& (u.stale ^^^ (u.stale &&& wr))
      saved := []
      held := [] }
  -- of the halts that are raised now, the unit reports the one of R241
  let key := fun (e : HeldEff) => match e with
    | .halt r _ p .. => some (p.ticket, r)
    | _ => none
  let first := (held.filterMap key).foldl (fun (a : Option (Nat × Nat)) x => match a with
    | some y => if x.1 < y.1 || (x.1 == y.1 && decide (x.2 < y.2)) then some x else some y
    | none => some x) none
  let s := (held.filter fun e => (key e).isNone).foldl (fun s e => s.applyHeld pu e) s
  let pends := s.streamsBy pu fun st => st.pend.isSome && !st.halted
  let early := fun (x : Nat × Nat) => match first with
    | some y => decide (x.1 < y.1)
    | none => true
  let s := (pends.filter early).foldl (fun s x => s.raisePend pu x.2) s
  let s := (held.filter fun e => (key e).isSome && key e == first).foldl (fun s e => s.applyHeld pu e) s
  (pends.filter fun x => !early x).foldl (fun s x => s.raisePend pu x.2) s

end State

end Sys2Proof.Machine
end

