-- ==== Sys2Proof/Machine/Almanac.lean ====
section
/-!
DEFINITION. Reading a register as its BAR0 window shows it, and the Almanac recorder (R533 to R541).
-/

namespace Sys2Proof.Machine.State

/-! ### What a register shows -/

/-- The key of a BAR0 offset: a cluster window reaches the physical cluster it names (R22); an absent
one reaches nothing. -/
def bar0Key (s : State) (off : Nat) : Option Nat :=
  if off < 0x1000000 ∨ 0x9000000 ≤ off then some off
  else
    let w := off / 0x80000 % 8
    if w = 7 then some off
    else
      let r := (off / 0x1000000 - 1) * 4 + off / 0x400000 % 4
      let p := if w = 6 then s.regF (rRgn r 0) 27 25 else s.regF (rRgn r 0) (3 * w + 2) (3 * w)
      if p = 7 then none else some (regClu0 (r * 7 + p) + off % 0x80000)

/-- UNIT_SB_PEND (R228). -/
def sbPend (s : State) (pu : Nat) : W64 :=
  let u := s.unit pu
  BitVec.ofNat 64 ((u.sb.foldl (fun m e => m ||| e.wr) 0) ||| u.stale)

/-- UNIT_STRM_STATg (R277): the fields that follow the streams, over the counted ones. -/
def strmStat (s : State) (pu g : Nat) : W64 :=
  let u := s.unit pu
  let st := fun t => smGet none u.streams (8 * g + t)
  let mask := fun (p : StreamSt → Bool) =>
    (List.range 8).foldl (fun m t => match st t with
      | some x => if p x then m + 2 ^ t else m
      | none => m) 0
  let w := s.reg (rUnit pu (0x120 + 8 * g))
  let outst := (List.range 8).foldl (fun n t => match st t with
      | some x => n + (x.reqs.filter fun r => !r.done).length
      | none => n) 0
  setFld (setFld (setFld w 63 56 (mask fun x => !x.halted)) 55 48 (mask (·.blocked))) 40 32 outst

/-- A register whose fields, or some of them, only time drives: the frame position of a die (R211), the
fraction of a second (R515), the time since a port went UP (R368), the stall cycles (R383). -/
def timed (s : State) (k : Nat) (w : W64) : W64 :=
  let f := (Config.freeField s.ctr k).toNat
  if k = 0x40000 then setFld w 15 0 f
  else if 0x301400 ≤ k ∧ k < 0x301700 then BitVec.ofNat 64 f
  else if 0x100000 ≤ k ∧ k < 0x300000 then
    let o := k % 0x100000
    if 0x10000 ≤ o ∧ o < 0x13000 ∧ o % 0x400 = 8 ∧ fld w 63 60 = 3 then setFld w 31 0 f else w
  else if 0x1000000 ≤ k ∧ k < 0x9000000 ∧ k % 0x400000 = 0x3C0000 ∧ k / 0x400000 % 4 = 0 ∧ fld w 47 24 ≠ 0 then
    setFld (setFld w 63 48 (f / 2 ^ 24)) 23 0 (f % 2 ^ 24 % fld w 47 24)
  else w

/-- The value of a register by its key, with the fields that follow other state, or time, put in. -/
def view (s : State) (k : Nat) : W64 :=
  if 0x1000000 ≤ k ∧ k < 0x9000000 ∧ k / 0x80000 % 8 ≠ 7 then
    let pc := ((k / 0x1000000 - 1) * 4 + k / 0x400000 % 4) * 7 + k / 0x80000 % 8
    let o := k % 0x80000
    if o < 0x40000 then
      let pu := pc * 4 + o / 0x10000
      let uo := o % 0x10000
      if uo = 0x68 then s.sbPend pu
      else if 0x120 ≤ uo ∧ uo ≤ 0x138 then s.strmStat pu ((uo - 0x120) / 8)
      else s.reg k
    else if o = 0x40000 then setFld (s.reg k) 59 57 ((s.clu pc).frames.length - 1)
    else s.reg k
  else s.timed k (s.reg k)

/-! ### Functions that are not ready, and lost ones (R405, R483, R487) -/

/-- Recovery mode (R490, R492). -/
def recovery (s : State) : Bool := s.regF 0x28 63 56 == 0xE0

/-- The PKG_READY bit of a register's function; none for the package, clock, power and Almanac registers,
which the always-on domain answers in every state. -/
def regFunc (k : Nat) : Option Nat :=
  if k < 0x20000 then none
  else if k < 0x40000 then some 1
  else if k < 0x100000 then none
  else if k < 0x300000 then
    let h := k / 0x100000 - 1
    let o := k % 0x100000
    if 0x10000 ≤ o ∧ o < 0x13000 then some (32 + 12 * h + (o - 0x10000) / 0x400)
    else if h = 1 then some 3
    else if 0x20000 ≤ o ∧ o < 0x30000 then some 2
    else some 0
  else if k < 0x1000000 then some 2
  else if k < 0x9000000 then
    let d := k / 0x1000000 - 1
    let o := k % 0x80000
    if k / 0x80000 % 8 = 7 ∧ 0x20000 ≤ o ∧ o < 0x21000 then some (16 + 2 * d + k / 0x400000 % 4 / 2)
    else some (8 + d)
  else some 1

/-- The register's function is lost (R30, R31). -/
def regLost (s : State) (k : Nat) : Bool :=
  match regFunc k with
  | some b => if b = 3 ∨ 44 ≤ b then s.hub1Lost else
      if 0x1000000 ≤ k ∧ k < 0x9000000 then smGet false s.lostDies (k / 0x1000000 - 1) else false
  | none => false

/-- The register's function reports ready.  In recovery mode only the PKG registers answer (R490). -/
def regReady (s : State) (k : Nat) : Bool :=
  if s.recovery then decide (k < 0x100)
  else match regFunc k with
  -- a port's registers need its hub as well (R484)
  | some b => s.bit 0x18 b && (decide (b < 32) || s.bit 0x18 (2 + (b - 32) / 12))
  | none => true

/-- The reset value that a read finds: MON_MARGIN and the restored fields of MON_JUB come from the boot
flash (R566). -/
def resetShown (s : State) (k : Nat) : W64 :=
  if 0x1000000 ≤ k ∧ k < 0x9000000 ∧ k % 0x1000000 = 0x3C0038 then smGet 0#64 s.mmc.margin (k / 0x1000000 - 1)
  else if 0x1000000 ≤ k ∧ k < 0x9000000 ∧ k % 0x1000000 = 0x3C0040 then
    setFld (regReset k) 63 16 (fld (smGet 0#64 s.mmc.jubWord (k / 0x1000000 - 1)) 63 16)
  else regReset k

/-- What a read of a register returns (R405). -/
def shown (s : State) (k : Nat) : W64 :=
  if s.regLost k then 0xFFFFFFFFFFFFFFFF#64
  else if s.regReady k then s.view k
  else s.resetShown k

/-- The BAR0 address of flat logical cluster `c`'s window (R22). -/
def windowBase (c : Nat) : Nat := 0x1000000 * (c / 24 + 1) + 0x400000 * (c / 6 % 4) + 0x80000 * (c % 6)

/-- The BAR0 address of a domain's block, for REL selectors: 0 for every other scope, so that the offset
is absolute (R538). -/
def relBase (scope index : Nat) : Nat :=
  match scope with
  | 4 => windowBase (index / 4) + 0x10000 * (index % 4)
  | 3 => windowBase index + 0x40000
  | 2 => rRgn index 0
  | 1 => rDie index 0
  | _ => 0

/-! ### The recorder -/

/-- ALM_STAT (R545). -/
def rAlm : Nat := 0x40008

/-- FAB_VIGIL.BANK (R385), and the entry of an EID in the active and in the staging route table and
intermediate list (R370, R378). -/
def rtBank (s : State) : Nat := s.regF (rFab 0x28) 57 57
def rtActive (s : State) (e : Nat) : W64 := smGet 0#64 (if s.rtBank = 0 then s.fab.rt0 else s.fab.rt1) e
def rtStage (s : State) (e : Nat) : W64 := smGet 0#64 (if s.rtBank = 0 then s.fab.rt1 else s.fab.rt0) e
def valStage (s : State) (i : Nat) : Nat :=
  fld (smGet 0#64 (if s.rtBank = 0 then s.fab.val1 else s.fab.val0) i) 15 0

/-- The register that a BAR0 offset reaches, the entries of the route tables among them, as it reads. -/
def shownAt (s : State) (off : Nat) : W64 :=
  if 0x400000 ≤ off ∧ off < 0x510000 ∧ s.regReady off ∧ !s.regLost off then
    if off < 0x480000 then s.rtActive ((off - 0x400000) / 8)
    else if off < 0x500000 then s.rtStage ((off - 0x480000) / 8)
    else BitVec.ofNat 64 (s.valStage ((off - 0x500000) / 8))
  else match s.bar0Key off with
    | some k => s.shown k
    | none => if s.regLost off then 0xFFFFFFFFFFFFFFFF#64 else 0#64

/-- One selector of a trigger entry read for a record (R537, R538). -/
def selRead (s : State) (scope index sel : Nat) : W64 :=
  s.shownAt (bitsOf sel 27 0 + (if bitAt sel 30 then relBase scope index else 0))

/-- Whether trigger entry `n` agrees with a record (R536, R537). -/
def trigMatch (s : State) (n type code cls reason scope : Nat) : Bool :=
  let m := s.reg (0x41000 + 0x40 * n)
  fld m 63 63 == 1 && fld m 55 48 == type &&
    (type != 2 || fld m 47 32 == 0xFFFF || fld m 47 32 == code) &&
    bitAt (fld m 31 24) cls &&
    (fld m 23 16 == 0xFF || fld m 23 16 == reason) &&
    (fld m 15 8 == 0xFF || fld m 15 8 == scope)

/-- The registers snapshot for a record: the values of the valid selectors of the first entry that
agrees, and whether one of them stands at position 4 or above (R536, R539). -/
def snapshot (s : State) (type code cls reason scope index : Nat) : List W64 × Bool :=
  match (List.range 64).find? fun n => s.trigMatch n type code cls reason scope with
  | none => ([], false)
  | some n =>
    let sels := (List.range 8).map fun i =>
      let w := s.reg (0x41008 + 0x40 * n + 8 * (i / 2))
      if i % 2 = 0 then fld w 31 0 else fld w 63 32
    (((sels.filter fun x => bitAt x 31).map fun x => s.selRead scope index x),
      (List.range 8).any fun i => decide (4 ≤ i) && bitAt (sels.getD i 0) 31)

/-- A record or a pair of records put at the next indices and printed (R589), or counted as dropped
(R533, R541). -/
def putRecords (s : State) (rs : List (List W64)) : State :=
  let n := s.regF rAlm 60 44
  match rs with
  | [] => s
  | r :: more =>
    if 65536 ≤ n then s.bump rAlm 26 11 (1 + more.length)
    else
      let r := if !more.isEmpty && n == 65535 then
          (setFld (setFld (wordAt r 0) 11 11 0) 10 10 1) :: r.drop 1 else r
      let rs := (if n = 65535 then [r] else r :: more)
      let s := rs.foldl (fun s r => s.emit (.uart r)) { s with almanac := smSetL [] s.almanac n rs }
      let s := s.setRegF rAlm 60 44 (n + rs.length)
      if n + rs.length = 65536 then s.setBit rAlm 63 else s

/-- The index the next record takes, all ones when none is written (R541). -/
def nextAlm (s : State) : Nat :=
  let n := s.regF rAlm 60 44
  if 65536 ≤ n then 0xFFFFFFFF
  else if s.bit rAlm 62 then 0xFFFFFFFF else n

/-- A record with its snapshot and continuation, staged while the Almanac is being restored (R534,
R539, R543). -/
def record (s : State) (type cls reason scope index : Nat) (w2 w3 : W64) : State :=
  let snap := if type = 1 ∨ type = 2 ∨ type = 0x10
    then s.snapshot type (fld w2 63 48) cls reason scope index else ([], false)
  let w0 := BitVec.ofNat 64 (type * 2 ^ 56 + cls * 2 ^ 48 + reason * 2 ^ 40 + scope * 2 ^ 32 + index * 2 ^ 12 +
    (if snap.2 then 2 ^ 11 else 0))
  let t := s.now
  let time := t.1
  let s := t.2
  let regs := fun i => wordAt snap.1 i
  let r := [w0, time, w2, w3, regs 0, regs 1, regs 2, regs 3]
  let c := [setFld (setFld w0 63 56 0x12) 11 11 0, time, 0#64, 0#64, regs 4, regs 5, regs 6, regs 7]
  let rs := if snap.2 then [r, c] else [r]
  if s.bit rAlm 62 then
    if s.almStage.flatten.length + rs.length ≤ 256 then { s with almStage := s.almStage ++ [rs] }
    else s.bump rAlm 26 11 rs.length
  else s.putRecords rs

/-! ### The region gateway (R470) -/

/-- Field c of RGN_GEN for a flat logical cluster. -/
def rgnGen (s : State) (c : Nat) : Nat := s.regF (rRgn (c / 6) 8) (8 * (c % 6) + 7) (8 * (c % 6))

/-- CLU_GEN of a physical cluster. -/
def cluGen (s : State) (pc : Nat) : Nat := s.regF (rClu pc 0x20) 7 0

/-- The gateway forwards what left physical cluster `pc` with `tag`. -/
def gatewayOk (s : State) (pc tag : Nat) : Bool :=
  match s.logClu pc with
  | some c => s.rgnGen c == tag
  | none => false

/-- A dropped item: one DROP record for the pair, and the physical cluster is fenced unless it is already
dead (R470). -/
def gatewayDrop (s : State) (pc tag : Nat) : State :=
  let s := if s.gwDrops.contains (pc, tag) then s
    else { s.record 0x10 0 0 2 (pc / 7) (BitVec.ofNat 64 (pc * 2 ^ 48 + tag * 2 ^ 32 + 2 * 2 ^ 8)) 0#64 with
      gwDrops := (pc, tag) :: s.gwDrops }
  if smGet false s.deadClus pc then s else s.fenceCluster pc

end Sys2Proof.Machine.State
end

