-- ==== Sys2Proof/Machine/Control.lean ====
section
/-!
DEFINITION. The control cores (chapters 07 and 08): fetching, the ten commands and what they start,
queues and tickets, the scoreboard, tokens, speculation.
-/

namespace Sys2Proof.Machine

/-! ### The scoreboard (R224 to R226) -/

/-- Uncompleted declared commands of region `r`. -/
def UnitSt.holders (u : UnitSt) (r : Nat) : Nat :=
  (u.sb.filter fun e => e.declared && bitAt (e.rd ||| e.wr) r).length

/-- A command's regions become known: it declares them unless one of them already holds 8 (R226). -/
def UnitSt.declare (u : UnitSt) (t : Nat) (rw : Nat × Nat) : UnitSt :=
  let full := (List.range 64).any fun r => bitAt (rw.1 ||| rw.2) r && decide (8 ≤ u.holders r)
  { u with sb := u.sb.map fun e =>
      if e.ticket == t && !e.declared && !full then { e with rd := rw.1, wr := rw.2, declared := true } else e }

/-- The queue of a slot. -/
def UnitSt.queue (u : UnitSt) (sl : Nat) : List QEnt := smGet [] u.queues sl

def UnitSt.setQueue (u : UnitSt) (sl : Nat) (q : List QEnt) : UnitSt :=
  { u with queues := smSet [] u.queues sl q }

/-- R225 without its first condition for `t` itself: the scoreboard admits the command. -/
def UnitSt.admits (u : UnitSt) (t : Nat) : Bool :=
  match u.sb.find? fun e => e.ticket == t with
  | none => false
  | some m =>
    m.declared &&
    (u.sb.filter fun e => decide (e.ticket < t)).all (fun e =>
      e.declared && (m.rd &&& e.wr) == 0 && (m.wr &&& (e.rd ||| e.wr)) == 0) &&
    (m.rd &&& u.stale) == 0

/-- Every earlier command has completed (R247).  DESIGN CHOICE 11: an effect counts as applied with the command's
scoreboard entry; posted updates of scale records (R154) are not waited for. -/
def UnitSt.idleBefore (u : UnitSt) (t : Nat) : Bool := u.sb.all fun e => decide (t ≤ e.ticket)

/-- Every region of a mask has SPEC_OK (R229). -/
def State.specOk (s : State) (pu mask : Nat) : Bool :=
  (List.range 64).all fun r => !bitAt mask r || fld (s.reg (rUnit pu (0x400 + 8 * r))) 62 62 == 1

namespace State

/-- GOs of the slot queues whose earlier CFGs have all passed their check declare word 12 of their shadow
block, and read streams their header's regions (R224, R226). -/
def declareAll (s : State) (pu : Nat) : State :=
  [0, 1, 2].foldl (fun s sl =>
    let q := (s.unit pu).queue sl
    let gos := if smGet false (s.unit pu).cfgBad sl then []
      else q.takeWhile fun e => match e.cmd with | .go _ => true | .cfg _ _ => false
    gos.foldl (fun s e =>
      let w12 := s.reg (rUnit pu (0x1000 + 0x400 * sl + 96))
      s.updUnit pu fun u => u.declare e.prov.ticket (regionMasks w12)) s)
    -- a stream whose program has been read, but would have been the ninth of a region (R226)
    (s.updUnit pu fun u => u.squeue.foldl (fun u e => match e.prog with
      | some p => u.declare e.prov.ticket (regionMasks (wordAt p.1 0))
      | none => u) u)

/-- A command completes: its scoreboard entry goes, and a confirmed writer ends the staleness of its
regions (R225, R232).  A speculative command keeps its entry until confirmation (R231). -/
def complete (s : State) (pu : Nat) (p : Prov) : State :=
  let s := s.updUnit pu fun u =>
    if p.spec then
      { u with sb := u.sb.map fun e => if e.ticket == p.ticket then { e with done := true } else e }
    else
      let wr := (u.sb.filter fun e => e.ticket == p.ticket).foldl (fun m e => m ||| e.wr) 0
      { u with sb := u.sb.filter fun e => e.ticket != p.ticket, stale := u.stale &&& (u.stale ^^^ (u.stale &&& wr)) }
  s.declareAll pu

/-! ### Tokens (R195 to R197, R470) -/

/-- An addition to a token counter: it stops at 65,535 and sets SAT (R196). -/
def addToken (s : State) (pc ctr n : Nat) : State :=
  let a := rClu pc (0x1000 + 8 * ctr)
  let v := s.regF a 15 0 + n
  if 65535 < v then (s.setRegF a 15 0 65535).setBit a 16 else s.setRegF a 15 0 v

/-- An addition leaves a control core with its physical cluster and tag.  A module without an EID discards
one for another module at the source (R196). -/
def sendTok (s : State) (pc : Nat) (dest : TokDest) (ctr n seq : Nat) : State :=
  let away := match dest with | .remote _ _ => true | .clu _ => false
  if away && !s.bit (rFab 0) 48 then s
  else { s with tokens := s.tokens ++ [{ src := some (pc, s.cluGen pc), dest := dest, ctr := ctr, add := n, seq := seq }] }

/-- SIGTOK additions whose descriptor or stream has completed are sent; those that never will be are
dropped (R196). -/
def flushSigs (s : State) (pc : Nat) : State :=
  let c := s.clu pc
  let find := fun (g : SigSt) => (s.unit (pc * 4 + g.unit)).sb.find? fun e => e.ticket == g.ticket
  let isDue := c.sigs.filter fun g => (find g).isNone
  let rest := c.sigs.filter fun g => ((find g).map fun e => !e.dead).getD false
  let s := s.setClu pc { c with sigs := rest }
  isDue.foldl (fun s g => s.sendTok pc g.dest g.ctr g.add g.seq) s

/-! ### Fetching (R188, R190, R194, R203) -/

/-- Debug serialise mode (R246). -/
def serialise (s : State) : Bool := s.bit 0x38 0

/-- A word of the bank being fetched. -/
def ccWord (s : State) (pc w : Nat) : W64 :=
  BitVec.ofNat 64 (leVal (smGetL 0#8 (s.clu pc).store (s.ccBank pc * 262144 + 8 * w) 8))

def ccPoison (s : State) (pc w : Nat) : Bool := smGet false (s.clu pc).spoison (s.ccBank pc * 32768 + w)

/-- The control core executes commands behind a waiting WAITTOK (R198). -/
def speculating (s : State) (pc : Nat) : Bool := s.ccState pc == 3

/-- The next command may be fetched: RUN, a stall that is tried again, or speculation behind a WAITTOK,
which ends at the first command that is not CFG, STRM or GO (R191, R229, R247). -/
def canFetch (s : State) (pc op : Nat) : Bool :=
  let c := s.clu pc
  if s.speculating pc then
    !c.specStop && !c.breakReq && !s.serialise && (op == 1 || op == 3 || op == 4)
  else ((s.ccState pc == 1 && !c.ending) || (s.ccState pc == 2 && c.wait == .none))

/-- The lists moved on after their end: a further run of a replayed list, the list that named it, or the
next pipeline list; at the end of all the program ends (R194, R203).  A run with an increment waits for
it under R186. -/
def advance (s : State) (pc : Nat) : Nat → State
  | 0 => s
  | fuel + 1 =>
    let c := s.clu pc
    match c.frames with
    | [] =>
      match c.order with
      | [] => s.setClu pc { c with ending := true }
      | (l, n) :: rest =>
        (s.setClu pc { c with order := rest, frames := [{ list := l, len := n }] }).advance pc fuel
    | f :: fs =>
      if f.pos < f.len then s
      else if f.left = 0 then (s.setClu pc { c with frames := fs }).advance pc fuel
      else
        let g := { f with pos := 0, left := f.left - 1, run := f.run + 1 }
        if f.incEn then
          if s.speculating pc then s.setClu pc { c with specStop := true }
          else
            (s.setClu pc { c with
              frames := g :: fs
              wait := .patch { units := f.units, pr := f.incPr, mode := 1, value := f.inc,
                               pc := f.list, ticket := c.seq, incr := true } }).setRegF (rClu pc 0) 63 60 2
        else s.setClu pc { c with frames := g :: fs }

/-- The lists moved on as far as they go: each step ends a list or takes up a pipeline list. -/
def moveOn (s : State) (pc : Nat) : State :=
  s.advance pc ((s.clu pc).frames.length + 2 * (s.clu pc).order.length + 1)

/-- The position in the innermost list moved on by `n` words. -/
def stepFrames (n : Nat) : List Frame → List Frame
  | f :: fs => { f with pos := f.pos + n } :: fs
  | [] => []

/-- The break takes effect before the next command (R245). -/
def breakNow (s : State) (pc : Nat) : State :=
  if (s.clu pc).breakReq && s.ccState pc == 1 && !(s.clu pc).ending then
    (s.updClu pc fun c => { c with breakReq := false }).haltCc pc 0x10 (s.regF (rClu pc 0) 46 32)
  else s

/-- A command of `n` words has been executed: CMDS, the position in its list (R201). -/
def executed (s : State) (pc n : Nat) : State :=
  let spec := s.speculating pc
  let s := s.updClu pc fun c => { c with
    seq := c.seq + 1
    specCmds := if spec then c.specCmds + 1 else c.specCmds
    specPc := match spec, c.frames with | true, f :: _ => f.list + f.pos | _, _ => c.specPc
    specIter := match spec, c.frames with | true, f :: _ => f.run | _, _ => c.specIter
    frames := stepFrames n c.frames }
  let s := if spec then s else s.bump (rClu pc 0) 31 0 1
  (s.moveOn pc).breakNow pc

/-- The core goes on after a command: RUN, unless it runs behind a WAITTOK. -/
def running1 (s : State) (pc : Nat) : State :=
  if s.speculating pc then s else s.setRegF (rClu pc 0) 63 60 1

/-- The command stalls: a selected queue is full or a selected unit has halted (R191, R192). -/
def stall (s : State) (pc : Nat) : State :=
  if s.speculating pc then s else s.setRegF (rClu pc 0) 63 60 2

/-- R188, R190: the command at the core's position, if it has opcode `op`.  A word beyond the bank, a
poisoned word, a reserved opcode and a field that fails its check halt the core.  `bad` judges the
fields; `body` gets the two words and the word index. -/
def command (s : State) (c : Nat) (op : Nat) (two : W64 → Bool)
    (bad : State → Nat → W64 → W64 → Bool) (body : State → Nat → W64 → W64 → Nat → State) : State :=
  match s.physClu c with
  | none => s
  | some pc =>
    match (s.clu pc).frames with
    | [] => s
    | f :: _ =>
      let w := f.list + f.pos
      if f.len ≤ f.pos then s
      else if !s.canFetch pc op then s
      else if s.speculating pc && (decide (32767 < w) || s.ccPoison pc w || fld (s.ccWord pc w) 63 56 != op) then s
      else if 32767 < w then s.haltCc pc 2 w f.run
      else if s.ccPoison pc w then s.haltCc pc 0x0A w f.run
      else
        let w0 := s.ccWord pc w
        let o := fld w0 63 56
        if o = 0 ∨ 0x0A < o then s.haltCc pc 1 w f.run
        else if o ≠ op then s
        else
          let t := two w0
          if t && decide (f.len ≤ f.pos + 1 ∨ 32767 ≤ w) then
            (if s.speculating pc then s.updClu pc fun c => { c with specStop := true } else s.haltCc pc 2 w f.run)
          else if t && s.ccPoison pc (w + 1) then
            (if s.speculating pc then s.updClu pc fun c => { c with specStop := true } else s.haltCc pc 0x0A w f.run)
          else
            let w1 := if t then s.ccWord pc (w + 1) else 0#64
            if bad s pc w0 w1 then
              -- a fault of speculative work is raised once the work is confirmed (R230)
              (if s.speculating pc then s.updClu pc fun c => { c with specStop := true } else s.haltCc pc 2 w f.run)
            else
              let s := if s.speculating pc then s
                else (s.setRegF (rClu pc 0) 46 32 w).updClu pc fun c => { c with pcIter := f.run }
              body s pc w0 w1 w

/-- Units selected by UNITS, as physical units (R188). -/
def selUnits (pc : Nat) (w0 : W64) : List Nat :=
  (List.range 4).filterMap fun u => if bitAt (fld w0 55 52) u then some (pc * 4 + u) else none

/-- The provenance of a command queued now. -/
def provNow (s : State) (pc word : Nat) : Prov :=
  let c := s.clu pc
  { ticket := c.seq, pc := word, bank := s.ccBank pc, spec := s.speculating pc,
    iter := match c.frames with | f :: _ => f.run | [] => 0 }

/-- A command placed in the queue of a slot of every selected unit, or a stall (R191, R192). -/
def enqueue (s : State) (pc : Nat) (w0 : W64) (word n : Nat) (cmd : QCmd) : State :=
  let us := selUnits pc w0
  let sl := fld w0 51 50
  if us.any fun pu => s.unitHalted pu || decide (16 ≤ ((s.unit pu).queue sl).length) then s.stall pc
  else
    let p := s.provNow pc word
    let isGo := match cmd with | .go _ => true | .cfg _ _ => false
    let s := us.foldl (fun s pu =>
      let s := s.updUnit pu fun u =>
        let u := u.setQueue sl (u.queue sl ++ [{ cmd := cmd, prov := p }])
        if isGo then { u with sb := u.sb ++ [{ ticket := p.ticket }] } else u
      s.declareAll pu) s
    let s := if isGo then s.updClu pc fun c => { c with
        lastGo := us.foldl (fun m pu => smSet 0 m (pu % 4 * 4 + sl) p.ticket) c.lastGo } else s
    (s.running1 pc).executed pc n

/-! ### CFG -/

/-- CFG (R189, R193): one entry in the queue of its slot in every selected unit. -/
def fxCfg (s : State) (c : Nat) : State :=
  s.command c 1 (fun _ => true)
    (fun s _ w0 w1 => fld w0 55 52 == 0 || fld w0 51 50 == 3 || fld w0 48 0 != 0 || fld w1 63 48 != 0 ||
      (if fld w0 49 49 = 0 then fld w1 47 0 % 1024 != 0 || decide (262144 ≤ fld w1 47 0)
       else fld w1 47 0 % 64 != 0 || !s.rangePresent (fld w1 47 0) 1024))
    (fun s pc w0 w1 w => s.enqueue pc w0 w 2 (.cfg (fld w0 49 49) (fld w1 47 0)))

/-- The 1,024 bytes of a CFG's source, and whether they are poisoned (R193, R526). -/
def cfgSource (s : State) (pc : Nat) (bank src addr : Nat) : State × List Byte × Bool :=
  if src = 0 then
    (s, smGetL 0#8 (s.clu pc).store (bank * 262144 + addr) 1024,
      (List.range 128).any fun i => smGet false (s.clu pc).spoison (bank * 32768 + addr / 8 + i))
  else
    let r := s.memRead addr 1024 0
    (r.1, r.2.1, r.2.2.any id)

/-- The 64-bit words of bytes. -/
def words : Nat → List Byte → List W64
  | 0, _ => []
  | n + 1, bs => BitVec.ofNat 64 (leVal (bs.take 8)) :: words n (bs.drop 8)

/-- Words written to consecutive registers. -/
def setRegs (s : State) (a : Nat) (ws : List W64) : State :=
  (List.range ws.length).foldl (fun s i => s.setReg (a + 8 * i) (wordAt ws i)) s

/-- The words of a shadow block. -/
def shadow (s : State) (pu sl : Nat) : List W64 :=
  (List.range 128).map fun i => s.reg (rUnit pu (0x1000 + 0x400 * sl + 8 * i))

/-- DCRC of a block's words: CRC-32C of bytes 0 to 1,015 (R176). -/
def dcrcOk (ws : List W64) : Bool :=
  crc32c (((ws.take 127).map fun w => leBytes 8 w.toNat).flatten) == BitVec.ofNat 32 (dfld ws 127 31 0)

/-- DCRC_CHECK: the CFG at the head of the slot's queue fills the shadow block and is checked when the
last word arrives; the entry is freed (R176, R191, R237).  Poison halts the control core and nothing
enters the block (R526).  A speculative CFG waits while an earlier one of the slot is unconfirmed, and
one that would fail waits for its confirmation (R229, R230). -/
def fxDcrcCheck (s : State) (u sl : Nat) : State :=
  match s.physUnit u with
  | none => s
  | some pu =>
    match (s.unit pu).queue sl with
    | { cmd := .cfg src addr, prov := p, stage := _ } :: rest =>
      let pc := pu / 4
      if p.spec && (smGet none (s.unit pu).saved sl).isSome then s
      else
        let x := s.cfgSource pc p.bank src addr
        let ws := words 128 x.2.1
        let ok := dcrcOk ws
        if p.spec && (x.2.2 || !ok) then s
        else
          let s := x.1
          let old := (s.shadow pu sl, smGet false (s.unit pu).shadowOk sl, smGet false (s.unit pu).hostmod sl)
          let s := s.updUnit pu fun v => v.setQueue sl rest
          let s := if ok && !x.2.2 then s else s.updUnit pu fun v => { v with cfgBad := smSet false v.cfgBad sl true }
          if x.2.2 then (s.haltCc pc 0x0A p.pc p.iter).declareAll pu
          else
            let s := s.setRegs (rUnit pu (0x1000 + 0x400 * sl)) ws
            let s := s.updUnit pu fun v => { v with
              shadowOk := smSet false v.shadowOk sl ok
              hostmod := smSet false v.hostmod sl false
              saved := if p.spec then smSet none v.saved sl (some old) else v.saved }
            let s := if ok then s else s.haltCc pc 9 p.pc p.iter
            s.declareAll pu
    | _ => s

/-! ### PATCH and REPLAY -/

/-- PATCH (R189): the change waits in the control core until it may take effect (R186). -/
def fxPatch (s : State) (c : Nat) : State :=
  s.command c 2 (fun _ => true)
    (fun s _ w0 w1 => fld w0 55 52 == 0 || fld w0 51 50 != 0 || fld w0 49 48 == 3 || fld w0 47 37 != 0 ||
      fld w0 31 0 != 0 ||
      (fld w0 49 48 == 2 && (fld w1 63 48 != 0 || fld w1 47 0 % 8 != 0 || !s.rangePresent (fld w1 47 0) 8)))
    (fun s pc w0 w1 w =>
      let s := s.bump (rClu pc 0) 31 0 1
      let s := s.updClu pc fun c => { c with
        seq := c.seq + 1
        frames := stepFrames 2 c.frames
        wait := .patch { units := fld w0 55 52, pr := fld w0 36 32, mode := fld w0 49 48, value := w1,
                         pc := w, ticket := c.seq, incr := false } }
      s.setRegF (rClu pc 0) 63 60 2)

/-- R186: every earlier GO of the unit has been prepared and every earlier STRM has started.  DESIGN CHOICE 11: one
that a halt of the unit has discarded from its queue holds nothing back. -/
def patchReady (s : State) (pu t : Nat) : Bool :=
  let u := s.unit pu
  ([0, 1, 2].all fun sl => (u.queue sl).all fun e => decide (t ≤ e.prov.ticket) || e.stage == .prepared ||
      (match e.cmd with | .cfg _ _ => true | .go _ => false)) &&
    u.squeue.all fun e => decide (t ≤ e.prov.ticket)

/-- PATCH_TAKE_EFFECT: a waiting PATCH or REPLAY increment is applied in every unit of UNITS and the
next command may be fetched (R186, R193, R194).  A poisoned LOAD halts the control core. -/
def fxPatchTakeEffect (s : State) (c : Nat) : State :=
  match s.physClu c with
  | none => s
  | some pc =>
    match (s.clu pc).wait with
    | .patch p =>
      let us := (List.range 4).filterMap fun u => if bitAt p.units u then some (pc * 4 + u) else none
      if s.ccState pc ≠ 2 ∨ !(us.all fun pu => s.patchReady pu p.ticket) then s
      else
        let s := s.updClu pc fun c => { c with wait := .none }
        let x := if p.mode = 2 then s.memRead (fld p.value 47 0) 8 0 else (s, [], [])
        if p.mode = 2 && x.2.2.any id then x.1.haltCc pc 0x0A p.pc
        else
          let v := if p.mode = 2 then BitVec.ofNat 64 (leVal x.2.1) else p.value
          let s := us.foldl (fun s pu =>
            let a := rUnit pu (0x200 + 8 * p.pr)
            s.setReg a (if p.mode = 1 then s.reg a + v else v)) x.1
          let s := s.setRegF (rClu pc 0) 63 60 1
          (s.moveOn pc).breakNow pc
    | _ => s

/-- REPLAY (R189, R194). -/
def fxReplay (s : State) (c : Nat) : State :=
  s.command c 7 (fun _ => true)
    (fun _ _ w0 w1 => fld w0 55 52 == 0 || fld w0 29 15 == 0 || decide (32768 < fld w0 14 0 + fld w0 29 15) ||
      fld w1 63 32 != 0)
    (fun s pc w0 w1 w =>
      let c := s.clu pc
      if 5 ≤ c.frames.length then s.haltCc pc 1 w
      else
        let f : Frame := { list := fld w0 14 0, len := fld w0 29 15, left := fld w0 45 30,
                           inc := BitVec.ofInt 64 (sgn 32 (fld w1 31 0)), incEn := fld w0 51 51 == 1,
                           incPr := fld w0 50 46, units := fld w0 55 52 }
        let s := s.bump (rClu pc 0) 31 0 1
        let s := s.setClu pc { c with
          seq := c.seq + 1
          frames := f :: stepFrames 2 c.frames }
        (s.setRegF (rClu pc 0) 63 60 1).breakNow pc)

/-! ### GO and STRM -/

/-- GO (R189, R224). -/
def fxGo (s : State) (c : Nat) : State :=
  s.command c 3 (fun _ => false)
    (fun _ _ w0 _ => fld w0 55 52 == 0 || fld w0 51 50 == 3 || fld w0 49 24 != 0)
    (fun s pc w0 _ w => s.enqueue pc w0 w 1 (.go (fld w0 23 0)))

/-- STRM (R189, R248): one entry in the stream queue of every selected unit. -/
def fxStrm (s : State) (c : Nat) : State :=
  s.command c 4 (fun _ => true)
    (fun s _ w0 w1 => fld w0 55 52 == 0 || fld w0 48 43 != 0 || fld w0 39 0 != 0 || fld w1 63 48 != 0 ||
      fld w1 47 0 % 64 != 0 ||
      (if fld w0 49 49 = 0 then decide (262144 < fld w1 47 0 + 96) else !s.rangePresent (fld w1 47 0) 96))
    (fun s pc w0 w1 w =>
      let us := selUnits pc w0
      if us.any fun pu => s.unitHalted pu || decide (16 ≤ (s.unit pu).squeue.length) then s.stall pc
      else
        let p := s.provNow pc w
        let g := fld w0 51 50
        let s := us.foldl (fun s pu => s.updUnit pu fun u => { u with
          squeue := u.squeue ++ [{ gen := g, task := fld w0 42 40, src := fld w0 49 49, addr := fld w1 47 0, prov := p }]
          sb := u.sb ++ [{ ticket := p.ticket }] }) s
        let s := s.updClu pc fun c => { c with
          lastStrm := us.foldl (fun m pu => smSet 0 m (pu % 4 * 4 + g) p.ticket) c.lastStrm }
        (s.running1 pc).executed pc 2)

/-- A GO or a stream writes something other than SPEC_OK regions, or sends: such work waits for its
confirmation (R229). -/
def specWaits (s : State) (pu : Nat) (t : Nat) (chain : Bool) : Bool :=
  match (s.unit pu).sb.find? fun e => e.ticket == t with
  | some e => chain || !s.specOk pu e.wr
  | none => true

/-- GO_ADMIT (R183): the GO at the head of its slot's queue is admitted. -/
def fxGoAdmit (s : State) (u sl : Nat) : State :=
  match s.physUnit u with
  | none => s
  | some pu =>
    let v := s.unit pu
    match v.queue sl with
    | { cmd := .go ph, prov := p, stage := .queued } :: rest =>
      let d := s.shadow pu sl
      let slotFree := (v.runs.filter fun r => r.slot == sl).all fun r =>
        sl != 2 && decide (0 < r.total) && decide (r.total ≤ r.fed)
      let rruFree := !usesRru d u || v.runs.all fun r => !usesRru r.desc u || !r.started
      if s.unitHalted pu || !slotFree || !v.admits p.ticket || !rruFree ||
          (s.serialise && !v.idleBefore p.ticket) ||
          (p.spec && s.specWaits pu p.ticket (dDrain d == 2)) then s
      else s.updUnit pu fun v => v.setQueue sl ({ cmd := .go ph, prov := p, stage := .admitted } :: rest)
    | _ => s

/-! ### WAITTOK, SIGTOK -/

/-- The lists moved on behind a waiting WAITTOK; the end of the program waits for the release. -/
def advanceSpec (s : State) (pc : Nat) : State :=
  let t := s.moveOn pc
  if (t.clu pc).ending then s.updClu pc fun c => { c with specStop := true } else t

/-- WAITTOK (R189, R197). -/
def fxWaittok (s : State) (c : Nat) : State :=
  s.command c 5 (fun _ => false) (fun _ _ w0 _ => fld w0 55 48 != 0 || fld w0 23 16 != 0)
    (fun s pc w0 _ w =>
      if fld w0 39 24 = 0 then (s.running1 pc).executed pc 1
      else
        let s := s.updClu pc fun c => { c with
          wait := .token (fld w0 47 40) (fld w0 39 24) (fld w0 15 0) w
          seq := c.seq + 1
          specStop := false
          frames := stepFrames 1 c.frames }
        let s := s.bump (rClu pc 0) 31 0 1
        let s := s.updClu pc fun c => { c with back := some (c.frames, c.order, c.lastGo, c.lastStrm) }
        -- the list is moved on behind the waiting command, so that later commands can be speculative
        (s.setRegF (rClu pc 0) 63 60 3).advanceSpec pc)

/-- WAITTOK_RELEASE: the counter has reached VALUE; it is subtracted, the work behind is confirmed and
the core goes on (R197, R231). -/
def fxWaittokRelease (s : State) (c : Nat) : State :=
  match s.physClu c with
  | none => s
  | some pc =>
    match (s.clu pc).wait with
    | .token ctr value _ _ =>
      let a := rClu pc (0x1000 + 8 * ctr)
      if s.ccState pc ≠ 3 ∨ s.regF a 15 0 < value then s
      else
        let s := s.setRegF a 15 0 (s.regF a 15 0 - value)
        let s := s.setRegF (rClu pc 0) 63 60 1
        let n := (s.clu pc).specCmds
        let s := s.bump (rClu pc 0) 31 0 n
        -- PC keeps the word index of the last command executed (R200, R201)
        let s := if n = 0 then s else (s.setRegF (rClu pc 0) 46 32 (s.clu pc).specPc).updClu pc fun c =>
          { c with pcIter := c.specIter }
        let s := s.updClu pc fun c => { c with wait := .none, specStop := false, specCmds := 0, back := none }
        let s := (List.range 4).foldl (fun s u => s.confirmUnit (pc * 4 + u)) s
        let s := (List.range 4).foldl (fun s u => s.declareAll (pc * 4 + u)) s
        ((s.flushSigs pc).moveOn pc).breakNow pc
    | _ => s

/-- TOKEN_TIMEOUT (R197): TMO µs have passed without release; the counter is not changed. -/
def fxTokenTimeout (s : State) (c : Nat) : State :=
  match s.physClu c with
  | none => s
  | some pc =>
    match (s.clu pc).wait with
    | .token ctr value tmo w =>
      if s.ccState pc ≠ 3 ∨ tmo = 0 ∨ value ≤ s.regF (rClu pc (0x1000 + 8 * ctr)) 15 0 then s
      else s.haltCc pc 0x0C w
    | _ => s

/-- SIGTOK (R189, R190, R196). -/
def fxSigtok (s : State) (c : Nat) : State :=
  s.command c 6 (fun w0 => fld w0 31 30 == 2)
    (fun s _ w0 w1 =>
      let dest := fld w0 31 30
      let wh := fld w0 49 48
      fld w0 55 54 != 0 || wh == 3 || (wh == 1 && fld w0 51 50 == 3) || fld w0 39 32 == 0 || dest == 3 ||
        fld w0 29 24 != 0 || fld w0 15 0 != 0 ||
        (dest == 1 && (decide (192 ≤ fld w0 23 16) || (s.physClu (fld w0 23 16)).isNone)) ||
        (dest == 2 && (decide (192 ≤ fld w0 23 16) || fld w1 63 16 != 0)))
    (fun s pc w0 w1 _ =>
      let dest : TokDest := match fld w0 31 30 with
        | 1 => .clu (fld w0 23 16)
        | 2 => .remote (fld w1 15 0) (fld w0 23 16)
        | _ => .clu ((s.logClu pc).getD 0)
      let k := fld w0 53 52 * 4 + fld w0 51 50
      let cl := s.clu pc
      let t := match fld w0 49 48 with
        | 1 => smGet 0 cl.lastGo k
        | 2 => smGet 0 cl.lastStrm k
        | _ => 0
      let s :=
        if t = 0 then s.sendTok pc dest (fld w0 47 40) (fld w0 39 32) cl.seq
        else
          (s.updClu pc fun c => { c with sigs := c.sigs ++
            [{ unit := fld w0 53 52, ticket := t, dest := dest, ctr := fld w0 47 40, add := fld w0 39 32, seq := c.seq }] }).flushSigs pc
      (s.running1 pc).executed pc (if fld w0 31 30 = 2 then 2 else 1))

/-- TOKEN_ADD: the `i`-th addition in flight arrives at its counter (R196).  One from another cluster is
judged by the gateway of its sender's region (R470).  One for another module passes its gateway and then
stays in flight until the fabric takes it; without an EID it is discarded. -/
def fxTokenAdd (s : State) (i : Nat) : State :=
  match s.tokens[i]? with
  | none => s
  | some t =>
    match t.dest with
    | .remote _ _ =>
      if !s.bit (rFab 0) 48 then { s with tokens := s.tokens.eraseIdx i }
      else match t.src with
        | none => { s with tokens := s.tokens.set i { t with passed := true } }
        | some (src, tag) =>
          if t.passed || s.gatewayOk src tag then { s with tokens := s.tokens.set i { t with passed := true } }
          else ({ s with tokens := s.tokens.eraseIdx i }).gatewayDrop src tag
    | .clu c =>
      let s := { s with tokens := s.tokens.eraseIdx i }
      let dst := s.physClu c
      match t.src with
      | none => match dst with | some pc => s.addToken pc t.ctr t.add | none => s
      | some (src, tag) =>
        if dst = some src then s.addToken src t.ctr t.add
        else if !s.gatewayOk src tag then s.gatewayDrop src tag
        else match dst with | some pc => s.addToken pc t.ctr t.add | none => s

/-! ### SWAP, FENCE, HALT, the end -/

/-- SWAP (R190, R235): not in a replayed list. -/
def fxSwap (s : State) (c : Nat) : State :=
  s.command c 8 (fun _ => false) (fun _ _ w0 _ => fld w0 55 0 != 0)
    (fun s pc _ _ w =>
      if 1 < (s.clu pc).frames.length then s.haltCc pc 1 w
      else ((s.setBit (rClu pc 0x10) 0).running1 pc).executed pc 1)

/-- SWAP_TAKE_EFFECT (R235): the control core is not fetching. -/
def fxSwapTakeEffect (s : State) (c : Nat) : State :=
  match s.physClu c with
  | none => s
  | some pc =>
    if !s.bit (rClu pc 0x10) 0 || s.fetching pc then s
    else (s.clrBit (rClu pc 0x10) 0).setRegF (rClu pc 0) 56 56 (1 - s.ccBank pc)

/-- FENCE (R189, R199). -/
def fxFence (s : State) (c : Nat) : State :=
  s.command c 9 (fun _ => false) (fun _ _ w0 _ => fld w0 55 52 == 0 || fld w0 51 0 != 0)
    (fun s pc w0 _ w =>
      let s := s.bump (rClu pc 0) 31 0 1
      let s := s.updClu pc fun c => { c with
        wait := .fence (fld w0 55 52) c.seq w
        seq := c.seq + 1
        frames := stepFrames 1 c.frames }
      s.setRegF (rClu pc 0) 63 60 4)

/-- R199: what a FENCE waits for has completed, or never will. -/
def fenceDone (s : State) (pc units t : Nat) : Bool :=
  ((List.range 4).all fun u => !bitAt units u ||
    (s.unit (pc * 4 + u)).sb.all fun e => decide (t ≤ e.ticket) || e.dead) &&
  ((s.clu pc).sigs.all fun g => decide (t ≤ g.seq) ||
    (match (s.unit (pc * 4 + g.unit)).sb.find? fun e => e.ticket == g.ticket with
     | some e => e.dead | none => false)) &&
  (s.tokens.all fun k => match k.src with
    | some (src, _) => src != pc || decide (t ≤ k.seq)
    | none => true) &&
  (s.scaleQ.all fun x => x.clu != pc)

/-- FENCE_RELEASE (R199). -/
def fxFenceRelease (s : State) (c : Nat) : State :=
  match s.physClu c with
  | none => s
  | some pc =>
    match (s.clu pc).wait with
    | .fence units t _ =>
      if s.ccState pc ≠ 4 ∨ !s.fenceDone pc units t then s
      else
        let s := s.updClu pc fun c => { c with wait := .none }
        ((s.setRegF (rClu pc 0) 63 60 1).moveOn pc).breakNow pc
    | _ => s

/-- HALT (R189, R200): CODE 0x00 ends the program, CODE 0x10 stops it, resumably. -/
def fxHalt (s : State) (c : Nat) : State :=
  s.command c 0x0A (fun _ => false)
    (fun _ _ w0 _ => fld w0 55 8 != 0 || !(fld w0 7 0 == 0 || fld w0 7 0 == 0x10))
    (fun s pc w0 _ w =>
      if fld w0 7 0 = 0 then
        let s := s.bump (rClu pc 0) 31 0 1
        (s.updClu pc fun c => { c with seq := c.seq + 1, frames := [], order := [], ending := true }).setRegF (rClu pc 0) 63 60 1
      else ((s.running1 pc).executed pc 1).haltCc pc 0x10 w)

/-- PROGRAM_END (R200, R203): the lists have ended, or a HALT CODE 0x00 has, and every CFG has been
checked. -/
def fxProgramEnd (s : State) (c : Nat) : State :=
  match s.physClu c with
  | none => s
  | some pc =>
    let open_ := (List.range 4).any fun u => [0, 1, 2].any fun sl =>
      ((s.unit (pc * 4 + u)).queue sl).any fun e => match e.cmd with | .cfg _ _ => true | .go _ => false
    if !(s.clu pc).ending || s.ccState pc != 1 || open_ then s
    else
      let s := s.setRegF (rClu pc 0) 63 60 0
      let s := s.setRegF (rClu pc 0) 55 48 0
      s.clusterEnd pc 0

/-! ### Debug (R245) and SWAP_REQ -/

/-- CC_BREAK: a write of 1 to CLU_CC_CTRL.BREAK.  The core halts before it fetches its next command: at
once in RUN and while it executes commands behind a WAITTOK, else once it fetches again.  DESIGN CHOICE 11: a
core that is halted with DEBUG_BREAK ignores it. -/
def fxCcBreak (s : State) (c : Nat) : State :=
  match s.physClu c with
  | none => s
  | some pc =>
    if !s.fetching pc || s.ccState pc == 5 then s
    else if s.speculating pc && !(s.clu pc).specStop && !s.serialise then
      s.haltCc pc 0x10 (s.regF (rClu pc 0) 46 32)
    else (s.updClu pc fun c => { c with breakReq := true }).breakNow pc

/-- CC_RESUME: a control core HALTED with DEBUG_BREAK continues at the command after the break, or in the
wait that the break met. -/
def fxCcResume (s : State) (c : Nat) : State :=
  match s.physClu c with
  | none => s
  | some pc =>
    if s.ccState pc = 5 ∧ s.regF (rClu pc 0) 55 48 = 0x10 then
      s.setRegF (rClu pc 0) 63 60 (match (s.clu pc).wait with
        | .patch _ => 2
        | .token .. => 3
        | .fence .. => 4
        | .none => 1)
    else s

/-- SWAP_REQ: a write of 1 to CLU_PSTORE_STAT.SWAP_REQ (R235). -/
def fxSwapReq (s : State) (c : Nat) : State :=
  match s.physClu c with
  | none => s
  | some pc => s.setBit (rClu pc 0x10) 0

end State

/-! ### The meanings of the commands -/

/-- CFG (R193). -/
def execCfg (c : CluIx) (s : State) : Host.Outcome State Fault Refusal :=
  .next (s.fxCfg c.val)

/-- DCRC_CHECK (R176). -/
def execDcrcCheck (u : UnitIx) (sl : Slot) (s : State) : Host.Outcome State Fault Refusal :=
  .next (s.orWait fun s => s.fxDcrcCheck u.val (slotIx sl))

/-- PATCH (R193). -/
def execPatch (c : CluIx) (s : State) : Host.Outcome State Fault Refusal :=
  .next (s.fxPatch c.val)

/-- PATCH_TAKE_EFFECT (R186). -/
def execPatchTakeEffect (c : CluIx) (s : State) : Host.Outcome State Fault Refusal :=
  .next (s.orWait fun s => s.fxPatchTakeEffect c.val)

/-- GO (R183). -/
def execGo (c : CluIx) (s : State) : Host.Outcome State Fault Refusal :=
  .next (s.fxGo c.val)

/-- GO_ADMIT (R183). -/
def execGoAdmit (u : UnitIx) (sl : Slot) (s : State) : Host.Outcome State Fault Refusal :=
  .next (s.fxGoAdmit u.val (slotIx sl))

/-- STRM (R255). -/
def execStrm (c : CluIx) (s : State) : Host.Outcome State Fault Refusal :=
  .next (s.fxStrm c.val)

/-- WAITTOK (R197). -/
def execWaittok (c : CluIx) (s : State) : Host.Outcome State Fault Refusal :=
  .next (s.fxWaittok c.val)

/-- WAITTOK_RELEASE (R197). -/
def execWaittokRelease (c : CluIx) (s : State) : Host.Outcome State Fault Refusal :=
  .next (s.fxWaittokRelease c.val)

/-- TOKEN_TIMEOUT (R197). -/
def execTokenTimeout (c : CluIx) (s : State) : Host.Outcome State Fault Refusal :=
  .next (s.fxTokenTimeout c.val)

/-- SIGTOK (R196). -/
def execSigtok (c : CluIx) (s : State) : Host.Outcome State Fault Refusal :=
  .next (s.fxSigtok c.val)

/-- TOKEN_ADD (R196). -/
def execTokenAdd (i : Nat) (s : State) : Host.Outcome State Fault Refusal :=
  .next (s.fxTokenAdd i)

/-- REPLAY (R194). -/
def execReplay (c : CluIx) (s : State) : Host.Outcome State Fault Refusal :=
  .next (s.fxReplay c.val)

/-- SWAP (R235). -/
def execSwap (c : CluIx) (s : State) : Host.Outcome State Fault Refusal :=
  .next (s.fxSwap c.val)

/-- SWAP_TAKE_EFFECT (R235). -/
def execSwapTakeEffect (c : CluIx) (s : State) : Host.Outcome State Fault Refusal :=
  .next (s.fxSwapTakeEffect c.val)

/-- FENCE (R199). -/
def execFence (c : CluIx) (s : State) : Host.Outcome State Fault Refusal :=
  .next (s.fxFence c.val)

/-- FENCE_RELEASE (R199). -/
def execFenceRelease (c : CluIx) (s : State) : Host.Outcome State Fault Refusal :=
  .next (s.fxFenceRelease c.val)

/-- HALT (R200). -/
def execHalt (c : CluIx) (s : State) : Host.Outcome State Fault Refusal :=
  .next (s.fxHalt c.val)

/-- PROGRAM_END (R200). -/
def execProgramEnd (c : CluIx) (s : State) : Host.Outcome State Fault Refusal :=
  .next (s.fxProgramEnd c.val)

/-- SWAP_REQ (R235). -/
def execSwapReq (c : CluIx) (s : State) : Host.Outcome State Fault Refusal :=
  .next (s.gate (8 + c.val / 24) fun s => s.fxSwapReq c.val)

/-- CC_BREAK (R245). -/
def execCcBreak (c : CluIx) (s : State) : Host.Outcome State Fault Refusal :=
  .next (s.gate (8 + c.val / 24) fun s => s.fxCcBreak c.val)

/-- CC_RESUME (R245). -/
def execCcResume (c : CluIx) (s : State) : Host.Outcome State Fault Refusal :=
  .next (s.gate (8 + c.val / 24) fun s => s.fxCcResume c.val)

end Sys2Proof.Machine
end

