-- ==== Sys2Proof/Machine/Access.lean ====
section
/-!
DEFINITION. Accesses to owned unit ports (R204 to R220): how the slot checker's judgement acts on them,
slips and their undoing, and the cycle of an access that the manual does not time.
-/

namespace Sys2Proof.Machine

/-! ### Positions of an owner -/

/-- Positions from `pos` to the next one that a run of the record covers. -/
def SlotRec.dist (r : SlotRec) (F pos : Nat) : Nat :=
  (List.range (r.reps + 1)).foldl (fun a i =>
    let st := (r.start + i * r.period) % F
    let x := (pos + F - st) % F
    min a (if x < r.len then 0 else F - x)) F

/-- How many of the `m` positions from `pos` on the record covers, for `m` up to `F`. -/
def SlotRec.count (r : SlotRec) (F pos m : Nat) : Nat :=
  ((List.range (r.reps + 1)).map fun i =>
    let d := ((r.start + i * r.period) % F + F - pos) % F
    min r.len (m - d) + min (d + r.len - F) m).foldl (· + ·) 0

/-- The cycle, from `lo` to `hi`, of the first position of an owner on a port, by the records of the
port's list and the frame position of cycle `lo`. -/
def ownCyc (recs : List SlotRec) (F port owner pos lo hi : Nat) : Option Nat :=
  let mine := recs.filter fun r => r.port == port && r.owner == owner
  let d := mine.foldl (fun a r => min a (r.dist F pos)) F
  if mine.isEmpty || decide (hi < lo + d) then none else some (lo + d)

/-- Positions of an owner on a port in the `n` cycles from frame position `pos` on. -/
def ownCount (recs : List SlotRec) (F port owner pos n : Nat) : Nat :=
  let mine := recs.filter fun r => r.port == port && r.owner == owner
  let of := fun (m : Nat) => (mine.map fun r => r.count F pos m).foldl (· + ·) 0
  if F = 0 then 0 else n / F * of F + of (n % F)

/-! ### The command that makes an access -/

/-- The command whose work makes an access. -/
structure Cmd where
  task   : Nat
  serial : Nat
  source : Nat
  prov   : Prov
  deriving DecidableEq, Repr

def RunSt.cmd (r : RunSt) : Cmd :=
  { task := dTask r.desc, serial := dSerial r.desc, source := r.slot, prov := r.prov }

/-- The COLLIDE halt of an access of a command. -/
def collide (c : Cmd) (port owner cyc pos word : Nat) : HaltInfo :=
  { reason := 6, source := c.source, prov := c.prov, task := c.task, serial := c.serial,
    port := port, owner := owner, pos := pos, word := word, cyc := some cyc }

/-- The COLLIDE halt of a recorded access. -/
def SlipRec.halt (x : SlipRec) (pos : Nat) : HaltInfo :=
  collide { task := x.owner / 8192, serial := x.serial, source := x.source, prov := x.prov } x.port x.owner x.cyc pos x.word

/-- The halt of a port that two accesses of one unit meet at: the access with the lower OWNER (R219). -/
def clash (x : SlipRec) (h : HaltInfo) : HaltInfo :=
  if x.owner < h.owner then
    { h with owner := x.owner, prov := x.prov, serial := x.serial, source := x.source, word := x.word,
             task := x.owner / 8192 }
  else h

/-- R241: a halt that is reported before another: the earlier cycle, then the earlier ticket, the lower
reason code, the lower owner. -/
def HaltInfo.before (x y : HaltInfo) : Bool :=
  let k := fun (h : HaltInfo) => [h.cyc.getD 0, h.prov.ticket, h.reason, h.owner]
  decide (k x < k y)

/-- The halt of two that the unit reports. -/
def firstHalt (a b : Option HaltInfo) : Option HaltInfo :=
  match a, b with
  | some x, some y => if y.before x then some y else some x
  | some x, none => some x
  | none, y => y

namespace State

/-- A speculative command has written a word, whose offset is given, of its regions (R232). -/
def noteWrote (s : State) (pu : Nat) (p : Prov) (off : Nat) : State :=
  if !p.spec then s
  else
    let hit := fun (wr : Nat) => (List.range 64).foldl (fun m r => if bitAt wr r then
        match s.breg pu r with
        | some x => if x.1 < off + 32 ∧ off < x.2 then m ||| 2 ^ r else m
        | none => m
      else m) 0
    s.updUnit pu fun u => { u with
      sb := u.sb.map fun e => if e.ticket == p.ticket then { e with wrote := e.wrote ||| hit e.wr } else e }

/-! ### Accesses to owned ports (R217 to R220) -/

/-- A slip that was not performed after all is not counted (R218, R219): COUNT, and LAST_POS where the
slip at `pos` set it last. -/
def uncountSlip (s : State) (pu pos : Nat) (x : SlipRec) : State :=
  let a := rUnit pu 0x60
  if x.prov.spec then
    s.updUnit pu fun u => { u with held := (u.held.erase (.bump a 63 40 1)).erase (.setf a 23 0 pos) }
  else
    let s := s.bump a 63 40 (2 ^ 24 - 1)
    if s.regF a 23 0 = pos then s.setRegF a 23 0 x.last else s

/-- The tile-store bytes that an access replaced, put back with their word's poison. -/
def putBack (u : UnitSt) (x : SlipRec) : UnitSt :=
  { u with
    tile := x.undo.foldl (fun t b => smSet 0#8 t b.1 b.2) u.tile
    tpoison := match x.undo with
      | [] => u.tpoison
      | b :: _ => smSet false u.tpoison (b.1 / 32) x.pois }

/-- The undone effect of an earlier access of the cycle (R219): the bytes it replaced; what a row that
entered the RRU wrote; a row that entered the chain adder.  Its descriptor has a refused row (R220), its stream
goes no further. -/
def undoSlip (s : State) (pu pos : Nat) (x : SlipRec) : State :=
  let s := if x.slip then s.uncountSlip pu pos x else s
  let caused := (s.unit pu).slips.filter fun y =>
    x.port == 0x4000 && y.seg == some x.cyc && y.prov.ticket == x.prov.ticket
  let late := fun (y : ChainRow) => x.port == 0x5000 && y.sum == some x.cyc && y.src.1 == pu / 4
  let s := s.updUnit pu fun u =>
    let u := caused.foldl putBack (putBack u x)
    { u with
      -- they stay, without an effect, so that a further access of the cycle meets them
      slips := u.slips.map fun y =>
        if caused.contains y || (y.port == x.port && y.cyc == x.cyc) then { y with undo := [], slip := false } else y
      runs := u.runs.map fun r => if x.src.isNone && r.prov.ticket == x.prov.ticket then { r with refused := true } else r
      streams := u.streams.map fun y =>
        if x.src.isNone && (y.2.map (·.prov.ticket)) == some x.prov.ticket then stopStream y else y
      chain := { u.chain with
        own := u.chain.own.filter fun y => !(x.port == 0x5000 && y.cyc == x.cyc)
        tail := u.chain.tail.filter fun y => !late y } }
  match s.physUnit (s.logUnit pu + 1) with
  | none => s
  | some q => s.updUnit q fun v => { v with chain := { v.chain with link := v.chain.link.filter fun y => !late y } }

/-- An access remembered for as long as another of its cycle can meet it. -/
def noteUse (s : State) (pu : Nat) (x : SlipRec) : State :=
  s.updUnit pu fun v => { v with slips := x :: v.slips.filter fun y => decide (x.cyc < y.cyc + 256) }

/-- An access of unit `who` whose halt would be `h` meets the recorded access `y` (R219): neither is performed.  A
PUSH's word and an access of the unit that it comes to halt both units. -/
def meetUse (s : State) (pu pos who : Nat) (y : SlipRec) (h : HaltInfo) : State × Option HaltInfo :=
  let s := s.undoSlip pu pos y
  let q := y.src.getD pu
  if q = who then (s, some (clash y h)) else (s.haltWork q (y.halt pos), some h)

/-- One access of a command to a unit port in a cycle: the state with its slip counted, and the halt of
a refused one.  `undo` is what the access is about to replace, `seg` the cycle of the row that caused
it at the RRU. -/
def portUse (s : State) (pu u port agent cyc word : Nat) (k : Cmd) (undo : List (Nat × Byte)) (pois : Bool)
    (seg : Option Nat := none) : State × Option HaltInfo :=
  let pos := s.framePos (dieOfUnit u) cyc
  let owner := ownerOf k.task agent
  let h := collide k port owner cyc pos word
  let x : SlipRec := { slip := false, port := port, cyc := cyc, owner := owner, source := k.source,
                       word := word, prov := k.prov, serial := k.serial, undo := undo, pois := pois,
                       last := s.regF (rUnit pu 0x60) 23 0, seg := seg }
  match judge (s.unitRecs u) s.slotMap.frameLen port owner pos,
      (s.unit pu).slips.find? fun y => y.port == port && y.cyc == cyc with
  | _, some y => s.meetUse pu pos pu y h
  | .own, none => (s.noteUse pu x, none)
  | .collide, none => (s.noteUse pu { x with undo := [] }, some h)
  | .slip, none => ((s.countSlip pu k.prov.spec (rUnit pu 0x60) pos).noteUse pu { x with slip := true }, none)

/-- A stream's access to a bank word of unit `pu` (logical `u`), presented by a generator of unit `who` in a
position of its own: performed unless it meets another (R219); `undo` is what a write is about to replace. -/
def streamUse (s : State) (pu u who : Nat) (k : Cmd) (agent cyc off : Nat) (undo : List (Nat × Byte)) :
    State × Option HaltInfo :=
  let pos := s.framePos (dieOfUnit u) cyc
  let bank := off / 32 % 64
  let owner := ownerOf k.task agent
  match (s.unit pu).slips.find? fun y => y.port == bank && y.cyc == cyc with
  | some y => s.meetUse pu pos who y (collide k bank owner cyc pos (off / 2048))
  | none =>
    let x : SlipRec := { slip := false, port := bank, cyc := cyc, owner := owner, source := k.source,
                         word := off / 2048, prov := k.prov, serial := k.serial, undo := undo,
                         pois := (s.unit pu).poisoned off, last := 0,
                         src := if who = pu then none else some who }
    (s.noteUse pu x, none)

/-! ### Accesses that the manual does not time -/

/-- When an agent's words may be read or written. -/
structure Window where
  lo   : Nat
  hi   : Nat
  /-- The cycle in which an access without a position of its own is presented. -/
  due  : Nat
  deriving DecidableEq, Repr

/-- The first position of an owner on a port in the cycles from `lo` to `hi` that no other access has taken:
tried at most `fuel` times. -/
def openCyc (s : State) (pu u port owner hi : Nat) : Nat → Nat → Option Nat
  | 0, _ => none
  | fuel + 1, lo =>
    match ownCyc (s.unitRecs u) s.slotMap.frameLen port owner (s.framePos (dieOfUnit u) lo) lo hi with
    | none => none
    | some c =>
      if (s.unit pu).slips.any fun y => y.port == port && y.cyc == c then s.openCyc pu u port owner hi fuel (c + 1)
      else some c

/-- The cycle of one access to a bank that the manual does not time: the first open position of its owner in
the window, after the owner's last such access to that bank; without one, the cycle in which it is due (log
entry 4). -/
def placeCyc (s : State) (pu u bank owner : Nat) (w : Window) : Nat :=
  (s.openCyc pu u bank owner w.hi 64 (max w.lo (smGet 0 (s.unit pu).bankNext (64 * owner + bank)))).getD w.due

/-- The owner's next access to the bank comes later than cycle `c`, unless the window was that cycle alone. -/
def notePlace (s : State) (pu bank owner c : Nat) (w : Window) : State :=
  if w.lo = w.hi then s
  else s.updUnit pu fun v => { v with
    bankNext := smSet 0 v.bankNext (64 * owner + bank) (max (c + 1) (smGet 0 v.bankNext (64 * owner + bank))) }

/-- Words (offset div 32) read by an agent within a window, each judged (R85, R205, R218), with the latest
cycle of them. -/
def readWords (s : State) (pu u agent : Nat) (k : Cmd) (w : Window) (ws : List Nat) :
    State × Nat × Option HaltInfo :=
  let o := ownerOf k.task agent
  ws.foldl (fun (acc : State × Nat × Option HaltInfo) x =>
    let c := acc.1.placeCyc pu u (x % 64) o w
    let z := acc.1.portUse pu u (x % 64) agent c (x / 64) k [] false
    (z.1.notePlace pu (x % 64) o c w, max acc.2.1 c, firstHalt acc.2.2 z.2)) (s, w.lo, none)

/-- Bytes written by an agent within a window, word by word; a refused word keeps its bytes (R220). -/
def writeWords (s : State) (pu u agent : Nat) (k : Cmd) (w : Window) (bs : List (Nat × Byte)) (poison : Bool)
    (seg : Option Nat) : State × Option HaltInfo :=
  let o := ownerOf k.task agent
  (groupWords bs).foldl (fun (acc : State × Option HaltInfo) g =>
    let s := acc.1
    let c := s.placeCyc pu u (g.1 % 64) o w
    let v := s.unit pu
    let x := s.portUse pu u (g.1 % 64) agent c (g.1 / 64) k (g.2.map fun b => (b.1, v.byte b.1))
      (v.poisoned (32 * g.1)) seg
    let t := x.1.notePlace pu (g.1 % 64) o c w
    match x.2 with
    | some h => (t, firstHalt acc.2 (some h))
    | none => ((t.noteWrote pu k.prov (32 * g.1)).tileWrite pu g.2 poison, acc.2)) (s, none)

/-- A row segment of a descriptor enters the RRU (port class 4) at the first open position of its owner from
cycle `cyc` on, and where there is none in a frame, in that cycle. -/
def enterRru (s : State) (pu u : Nat) (k : Cmd) (cyc : Nat) : State × Nat × Option HaltInfo :=
  let c := (s.openCyc pu u 0x4000 (ownerOf k.task 0x010) (cyc + s.slotMap.frameLen) 64 cyc).getD cyc
  let z := s.portUse pu u 0x4000 0x010 c 0 k [] false
  (z.1, c, z.2)

end State

end Sys2Proof.Machine
end

