-- ==== Sys2Proof/Machine/Convert.lean ====
section
/-!
DEFINITION. Rows of FP32 values converted and written to the tile store: what a TILE_FP32 or TILE_CONV
drain, a chain tail and the RRU do with a row (R56, R57, R110, R113, R115).
-/

namespace Sys2Proof.Machine

/-- One element of a row on its way to the tile store: output column, value, the array it comes from
(for the owner of the access, R85), and its poison. -/
structure ColVal where
  n   : Nat
  v   : W32
  arr : Nat := 0
  p   : Bool := false
  deriving DecidableEq, Repr

/-- One byte on its way to the tile store: offset, value, the array it comes from, the offset whose word
decides the owner of its access (R85), and its poison. -/
structure OutByte where
  off : Nat
  b   : Byte
  arr : Nat
  key : Nat
  p   : Bool
  deriving DecidableEq, Repr

/-- Where and how a row is written: format, tile map, conversion control, tensor exponent, draw key, the
output's N. -/
structure OutSpec where
  fmt : Format
  map : TileMap
  cvt : Cvt
  t   : Int
  key : GenKey
  n   : Nat
  deriving DecidableEq, Repr

/-- What a row's conversion gives: bytes, report, finite overflows of BF16 and FP32 (R115, R146). -/
structure RowOut where
  bytes : List OutByte := []
  rep   : Report := {}
  ovf   : Nat := 0
  deriving DecidableEq, Repr

def Report.add (a b : Report) : Report :=
  { amax := maxMag a.amax b.amax, novf := a.novf + b.novf, nnf := a.nnf + b.nnf }

/-- The draw of an element, only made under SR (R159). -/
def OutSpec.u (o : OutSpec) (m n : Nat) : Nat :=
  if usesSR o.fmt o.cvt then o.key.draw (m * o.n + n) else 0

/-- Bytes at consecutive offsets. -/
def bytesAt (a : Nat) (bs : List Byte) (arr : Nat) (p : Bool) : List OutByte :=
  bs.zipIdx.map fun x => ⟨a + x.2, x.1, arr, a + x.2, p⟩

/-- The bytes of one element of a format without block scale.  A poisoned element reports nothing
(R151); its overflow to BF16 counts like any other (R115, R146; DESIGN CHOICE 5). -/
def OutSpec.elem (o : OutSpec) (m : Nat) (c : ColVal) : RowOut :=
  let r := convert o.fmt o.cvt (if o.fmt.tensorScaled then o.t else 0) (o.u m c.n) (val32 c.v)
  { bytes := bytesAt (elemOff o.fmt o.map m c.n) (leBytes (o.fmt.cb / 8) r.code) c.arr c.p
    rep := if o.fmt.tensorScaled && !c.p then
        { amax := amaxOf c.v, novf := if r.ovf then 1 else 0, nnf := if r.nonfin then 1 else 0 } else {}
    ovf := if !o.fmt.tensorScaled && r.ovf then 1 else 0 }

/-- The bytes of one block of 32 columns of row `m`: its elements and its scale byte, whole (R57); the
scale byte goes with the word of the elements (R85).  The RRU's blocks are written by the same rule: a
masked element of a partly masked block as +0 (R113; DESIGN CHOICE 5, R138 says that the RRU writes no
masked column). -/
def OutSpec.block (o : OutSpec) (m b arr : Nat) (poison : Bool) (cs : List (Nat × W32)) : List OutByte :=
  let xs := (List.range 32).map fun j => match cs.find? fun c => c.1 == 32 * b + j with
    | some c => BlockElem.mk true c.2 (o.u m c.1)
    | none => BlockElem.mk false zero32 0
  match convertBlock o.fmt o.cvt xs with
  | none => []
  | some (S, codes) =>
    let a := elemOff o.fmt o.map m (32 * b)
    let bs := if o.fmt = .f4b
      then (List.range 16).map fun i => codes.getD (2 * i) 0 + 16 * codes.getD (2 * i + 1) 0
      else codes
    bytesAt a (bs.map fun x => BitVec.ofNat 8 x) arr poison ++
      [⟨scaleOff o.map m (32 * b), BitVec.ofNat 8 S, arr, a, poison⟩]

/-- A row of active elements, whole blocks, converted for the tile store. -/
def OutSpec.row (o : OutSpec) (m : Nat) (cs : List ColVal) : RowOut :=
  if o.fmt.blockScaled then
    let bl := (cs.map fun c => c.n / 32).eraseDups
    { bytes := (bl.map fun b =>
        let es := cs.filter fun c => c.n / 32 == b
        o.block m b (es.foldl (fun a c => min a c.arr) 5) (es.any (·.p)) (es.map fun c => (c.n, c.v))).flatten }
  else cs.foldl (fun a c =>
    let r := o.elem m c
    { bytes := a.bytes ++ r.bytes, rep := a.rep.add r.rep, ovf := a.ovf + r.ovf }) {}

/-- FP32 rows written as they are (TILE_FP32, R52). -/
def fp32Row (map : TileMap) (m : Nat) (cs : List ColVal) : List OutByte :=
  (cs.map fun c => bytesAt (elemOff .fp32 map m c.n) (leBytes 4 c.v.toNat) c.arr c.p).flatten

end Sys2Proof.Machine
end

