-- ==== Sys2Proof/Machine/Rru.lean ====
section
/-!
DEFINITION. The row reduction unit (R138 to R145): primitives with their NaN count, reductions in the
order of R140, activations, and the result of each operation for one row.
-/

namespace Sys2Proof.Machine

/-! ### Primitives, counting the NaN results of inputs that were none (R139, R146) -/

/-- A computation of the RRU: its value and the count of RRU_NAN. -/
abbrev RM (α : Type) := StateM Nat α

def prim1 (f : W32 → W32) (a : W32) : RM W32 := fun n =>
  let r := f a
  (r, if isNan32 r && !isNan32 a then n + 1 else n)

def prim2 (f : W32 → W32 → W32) (a b : W32) : RM W32 := fun n =>
  let r := f a b
  (r, if isNan32 r && !isNan32 a && !isNan32 b then n + 1 else n)

def prim3 (f : W32 → W32 → W32 → W32) (a b c : W32) : RM W32 := fun n =>
  let r := f a b c
  (r, if isNan32 r && !isNan32 a && !isNan32 b && !isNan32 c then n + 1 else n)

def pAdd := prim2 fAdd
def pSub := prim2 fSub
def pMul := prim2 fMul
def pMax := prim2 fMax
def pDiv := prim2 fDiv
def pFma := prim3 fFma
def pExp := prim1 fExp
def pTanh := prim1 fTanh
def pRcp := prim1 fRcp
def pRsqrt := prim1 fRsqrt

/-! ### Reductions (R140) -/

/-- The four reductions. -/
inductive Red where
  | max
  | sum
  | sumsq
  | dot
  deriving DecidableEq, Repr

def Red.first (r : Red) (x y : W32) : RM W32 :=
  match r with
  | .max => pure x
  | .sum => pure x
  | .sumsq => pMul x x
  | .dot => pMul x y

def Red.step (r : Red) (p x y : W32) : RM W32 :=
  match r with
  | .max => pMax p x
  | .sum => pAdd p x
  | .sumsq => pFma x x p
  | .dot => pFma x y p

def Red.combine (r : Red) (a b : W32) : RM W32 :=
  match r with
  | .max => pMax a b
  | _ => pAdd a b

def Red.empty : Red → W32
  | .max => 0xFF800000#32
  | _ => zero32

/-- One lane: its elements in ascending column. -/
def lane (r : Red) : Option W32 → List (W32 × W32) → RM (Option W32)
  | p, [] => pure p
  | none, (x, y) :: es => do lane r (some (← r.first x y)) es
  | some p, (x, y) :: es => do lane r (some (← r.step p x y)) es

/-- Neighbours combined; an empty side gives the other. -/
def pairUp (r : Red) : List (Option W32) → RM (List (Option W32))
  | some a :: some b :: ps => do
    let v ← r.combine a b
    return some v :: (← pairUp r ps)
  | some a :: none :: ps => do return some a :: (← pairUp r ps)
  | none :: b :: ps => do return b :: (← pairUp r ps)
  | ps => pure ps

def tree (r : Red) : Nat → List (Option W32) → RM (List (Option W32))
  | 0, ps => pure ps
  | n + 1, ps => do tree r n (← pairUp r ps)

/-- R140: the reduction of a row's active elements (column, x, y), in ascending column. -/
def reduce (r : Red) (es : List (Nat × W32 × W32)) : RM W32 := do
  let lanes ← (List.range 64).mapM fun l =>
    lane r none ((es.filter fun e => e.1 % 64 == l).map (·.2))
  let t ← tree r 6 lanes
  return ((t.headD none).getD r.empty)

/-! ### Activations (R142) -/

def k0 : W32 := 0x3F4C422A#32
def k1 : W32 := 0x3D372713#32
def k3 : W32 := 0x3E095D4F#32

def positive (x : W32) : Bool := !isNan32 x && decide (0 < key32 x)

def aRelu (x : W32) : W32 := if isNan32 x then nan32 else if positive x then x else zero32

def aSig (x : W32) : RM W32 := do pRcp (← pAdd one32 (← pExp (fNeg x)))

/-- t and h of GELU_TANH. -/
def geluH (x : W32) : RM W32 := do
  let t ← pMul x x
  let t ← pFma t k1 one32
  let t ← pMul t x
  let t ← pMul t k0
  pTanh t

/-- ACT of x, forward. -/
def actFwd (act : Nat) (x : W32) : RM W32 :=
  match act with
  | 0 => pure (aRelu x)
  | 1 => aSig x
  | 2 => pTanh x
  | 3 => do pMul x (← aSig x)
  | _ => do
    let h ← geluH x
    pMul (← pMul (← pAdd h one32) x) half32

/-- The backward of an activation: dy and x. -/
def actBwd (act : Nat) (dy x : W32) : RM W32 :=
  match act with
  | 8 => pure (if isNan32 x then zero32 else if positive x then dy else zero32)
  | 9 => do
    let s ← aSig x
    pMul dy (← pMul s (← pSub one32 s))
  | 10 => do
    let h ← pTanh x
    pMul dy (← pFma (fNeg h) h one32)
  | 11 => do
    let s ← aSig x
    pMul dy (← pMul s (← pFma x (← pSub one32 s) one32))
  | _ => do
    let h ← geluH x
    let a ← pMul (← pAdd h one32) half32
    let q ← pFma (← pMul x x) k3 one32
    let b ← pMul (← pMul (← pMul (← pFma (fNeg h) h one32) k0) q) (← pMul x half32)
    pMul dy (← pAdd a b)

/-! ### One row of an operation (R141 to R145) -/

/-- What one row reads beside its elements: A, B, C of the row, G and T by column. -/
structure RowIn where
  es  : List (Nat × W32 × W32)
  a   : W32
  b   : W32
  c   : W32
  g   : Nat → W32
  t   : Nat → W32

/-- What one row writes. -/
structure RowRes where
  out : List (Nat × W32) := []
  a   : Option W32 := none
  b   : Option W32 := none
  c   : Option W32 := none
  /-- The normalised values, for the parameter gradients of NORM_BWD. -/
  xh  : List (Nat × W32 × W32) := []
  deriving DecidableEq, Repr

/-- An output for every element. -/
def eachM (es : List (Nat × W32 × W32)) (f : Nat → W32 → W32 → RM W32) : RM (List (Nat × W32)) :=
  es.mapM fun e => do return (e.1, ← f e.1 e.2.1 e.2.2)

/-- R141: row `r` under operation `op`. -/
def rowOp (op act : Nat) (rms : Bool) (eps : W32) (r : RowIn) : RM RowRes :=
  let lam := ofNat32 r.es.length
  let xhat := fun x => do pMul (← pSub x r.a) r.b
  match op with
  | 0x01 => do return { out := ← eachM r.es fun _ x _ => pure x }
  | 0x02 =>
    if act < 8 then do return { out := ← eachM r.es fun _ x _ => actFwd act x }
    else do return { out := ← eachM r.es fun _ x y => actBwd act x y }
  | 0x03 => do return { a := some (← reduce .max r.es) }
  | 0x04 => do return { a := some (← reduce .sum r.es) }
  | 0x05 => do return { a := some (← reduce .sumsq r.es) }
  | 0x06 => do return { a := some (← reduce .dot r.es) }
  | 0x07 => do
    let mu ← pDiv (← reduce .sum r.es) lam
    let ds ← r.es.mapM fun e => do return (e.1, ← pSub e.2.1 mu, zero32)
    let var ← pDiv (← reduce .sumsq ds) lam
    return { a := some mu, b := some (← pRsqrt (← pAdd var eps)) }
  | 0x08 => do
    let v ← pDiv (← reduce .sumsq r.es) lam
    return { a := some zero32, b := some (← pRsqrt (← pAdd v eps)) }
  | 0x09 => do return { out := ← eachM r.es fun n x _ => do pFma (← xhat x) (r.g n) (r.t n) }
  | 0x0A => do
    let xs ← r.es.mapM fun e => do return (e.1, ← pMul e.2.1 (r.g e.1), ← xhat e.2.2)
    let s1 ← reduce .sum xs
    let s2 ← reduce .dot xs
    let c1 ← if rms then pure zero32 else pDiv s1 lam
    let c2 ← pDiv s2 lam
    -- pass 2 makes g and the normalised values again (R143), so that their NaNs count twice (R146)
    let xs ← r.es.mapM fun e => do return (e.1, ← pMul e.2.1 (r.g e.1), ← xhat e.2.2)
    let out ← eachM xs fun _ g xh => do pMul (← pSub g (← pFma xh c2 c1)) r.b
    return { out := out, xh := (r.es.zip xs).map fun p => (p.1.1, p.1.2.1, p.2.2.2) }
  | 0x0B => do
    let mx ← reduce .max r.es
    if mx = 0xFF800000#32 then
      return { out := r.es.map fun e => (e.1, zero32), a := some mx, b := some zero32 }
    else
      let ex ← r.es.mapM fun e => do return (e.1, ← pExp (← pSub e.2.1 mx), zero32)
      let l ← reduce .sum ex
      let out ← eachM r.es fun _ x _ => do pDiv (← pExp (← pSub x mx)) l
      return { out := out, a := some mx, b := some l }
  | 0x0C => do
    let s ← reduce .dot r.es
    return { out := ← eachM r.es fun _ x y => do pMul y (← pSub x s) }
  | 0x0D => do
    let mn ← pMax r.a (← reduce .max r.es)
    if mn = 0xFF800000#32 then
      return { out := r.es.map fun e => (e.1, zero32), c := some one32 }
    else
      let c ← pExp (← pSub r.a mn)
      let ps ← r.es.mapM fun e => do return (e.1, ← pExp (← pSub e.2.1 mn), zero32)
      let b ← pFma r.b c (← reduce .sum ps)
      return { out := ps.map fun p => (p.1, p.2.1), a := some mn, b := some b, c := some c }
  | 0x0E => do return { out := ← eachM r.es fun _ x y => pFma y r.c x }
  | 0x0F => do return { out := ← eachM r.es fun _ x _ => pDiv x r.b }
  | 0x10 => do return { out := ← eachM r.es fun _ x y => pAdd x y }
  | _ => pure {}

/-! ### Operands of an operation (R138, R142, R609) -/

/-- Operations that read Y. -/
def rruReadsY (op act : Nat) : Bool :=
  op == 6 || op == 0x0A || op == 0x0C || op == 0x0E || op == 0x10 || (op == 2 && decide (8 ≤ act))

/-- Operations with an element output. -/
def rruOut (op : Nat) : Bool :=
  op == 1 || op == 2 || decide (9 ≤ op ∧ op ≤ 0x10)

/-- Per-row and per-column vectors read, as (word, high bit, low bit, per row): A, B, C, G, T. -/
def rruVecReads (op : Nat) (tEn : Bool) : List Nat :=
  match op with
  | 0x09 => [0, 1, 3] ++ (if tEn then [4] else [])
  | 0x0A => [0, 1, 3]
  | 0x0D => [0, 1]
  | 0x0E => [2]
  | 0x0F => [1]
  | _ => []

/-- Vectors written: A, B, C, and for NORM_BWD the two parameter-gradient vectors of R143.  DEDUCED (log
entry 5): no field is said to name these two; they lie at VEC_C, taken as a per-column vector, and at
VEC_T, whatever T_EN says (R180 makes VEC_T 0 where T_EN = 0). -/
def rruVecWrites (op : Nat) : List Nat :=
  match op with
  | 0x03 => [0] | 0x04 => [0] | 0x05 => [0] | 0x06 => [0]
  | 0x07 => [0, 1] | 0x08 => [0, 1]
  | 0x0A => [5, 4]
  | 0x0B => [0, 1]
  | 0x0D => [0, 1, 2]
  | _ => []

/-- Offset of vector 0 A, 1 B, 2 C, 3 G, 4 T, and 5: C used as a per-column vector. -/
def vecOff (d : List W64) : Nat → Nat
  | 0 => dfld d 17 20 0
  | 1 => dfld d 17 52 32
  | 2 => dfld d 18 20 0
  | 3 => dfld d 18 52 32
  | 4 => dfld d 19 20 0
  | _ => dfld d 18 20 0

/-- Bytes of a vector: 4 × M per row, 4 × N per column. -/
def vecLen (d : List W64) (v : Nat) : Nat := if v ≤ 2 then 4 * dM d else 4 * dN d

/-- Cost in cycles per segment (R141, R142). -/
def rruCost (op act : Nat) : Nat :=
  match op with
  | 0x02 =>
    match act with
    | 0 => 1 | 1 => 3 | 2 => 2 | 3 => 3 | 4 => 4 | 8 => 1 | 9 => 4 | 0xA => 3 | 0xB => 4 | 0xC => 6 | _ => 1
  | 0x07 => 2 | 0x0A => 2 | 0x0B => 3 | 0x0C => 2 | 0x0D => 2
  | _ => 1

/-- The operation needs a whole row before it can answer. -/
def rruWhole (op : Nat) : Bool := op == 3 || op == 4 || op == 5 || op == 6 || op == 8

/-- Element-wise operations: each segment of a row answers by itself. -/
def rruSegmented (op : Nat) : Bool :=
  op == 1 || op == 2 || op == 9 || op == 0x0E || op == 0x0F || op == 0x10

namespace State

/-- The output of an RRU operation: format, map, conversion (R138, R158). -/
def rruSpec (r : RunSt) : OutSpec :=
  let d := r.desc
  { fmt := (formatOf (dfld d 16 19 16)).getD .fp32, map := tileMap d 24, cvt := cvtOf (dfld d 19 39 32),
    t := r.tRru, key := { seed := r.seed, step := r.step, tid := BitVec.ofNat 32 (dfld d 14 63 32) }, n := dN d }

/-- Tile-store words of one element of a map: its own, and its scale record's. -/
def elemWords (f : Format) (m : TileMap) (R C : Nat) : List Nat :=
  elemOff f m R C / 32 :: (if f.blockScaled then [scaleOff m R C / 32] else [])

/-- The words of the vectors that a row reads: a per-row one its element `m`, a per-column one those of
the row's columns. -/
def vecWords (d : List W64) (vs : List Nat) (m : Nat) (ns : List Nat) : List Nat :=
  (vs.map fun v => if v ≤ 2 then [(vecOff d v + 4 * m) / 32] else ns.map fun n => (vecOff d v + 4 * n) / 32).flatten

/-- One row of the run's RRU operation, its X elements with their columns in the RRU since cycle `cyc`: Y
and the vectors are read from the tile store, element and per-row outputs written, and poison is
carried (R136, R138, R526).  Every bank word goes through the slot checker under agents 0x010 and
0x011 (R212): a per-row result 12 cycles after the row's last segment was read (R140), any other
access, which the manual does not time, at the first position of its owner (DESIGN CHOICE 4).  A
descriptor of ENGINE = RRU has read its Y with its X.  Y in F8E4
or G8E5 has no scale selector and is widened with t = 0 (DESIGN CHOICE 5). -/
def rruRow (s : State) (pu u : Nat) (r : RunSt) (m cyc : Nat) (xs : List (Nat × W32)) (poison : Bool) :
    State × RunSt × Option HaltInfo :=
  let d := r.desc
  let op := dRruOp d
  let act := dfld d 16 11 8
  let fy := (formatOf (dfld d 16 27 24)).getD .fp32
  let my := tileMap d 22
  let tEn := dfld d 19 21 21 == 1
  let ns := xs.map (·.1)
  let grad := if op = 0x0A then [5, 4] else []
  let win : Window := { lo := cyc, hi := cyc + 64 * s.slotMap.frameLen, due := cyc }
  let rd := s.readWords pu u 0x010 r.cmd win
    (((if rruReadsY op act && r.slot != 2 then (ns.map fun n => elemWords fy my m n).flatten else []) ++
      vecWords d (rruVecReads op tEn ++ grad) m ns).eraseDups)
  match rd.2.2 with
  | some h => (rd.1, { r with refused := true }, some h)
  | none =>
    let s := rd.1
    let v := s.unit pu
    let ys := xs.map fun x => if rruReadsY op act then
        let y := v.elem fy my 0 m x.1
        (widen y.1, y.2) else (zero32, false)
    let vec := fun i j => v.fp32 (vecOff d i + 4 * j)
    let vp := (rruVecReads op tEn).any fun i => if i ≤ 2 then v.poisoned (vecOff d i + 4 * m)
      else xs.any fun x => v.poisoned (vecOff d i + 4 * x.1)
    let poison := poison || ys.any (·.2) || vp
    let res := rowOp op act (dfld d 16 12 12 == 1) (BitVec.ofNat 32 (dfld d 16 63 32))
      { es := (xs.zip ys).map fun p => (p.1.1, p.1.2, p.2.1), a := vec 0 m, b := vec 1 m, c := vec 2 m,
        g := fun n => vec 3 n, t := fun n => if tEn then vec 4 n else zero32 } 0
    let ro := (rruSpec r).row m (res.1.out.map fun o => { n := o.1, v := o.2 })
    let wr := fun i (x : Option W32) => match x with
      | some w => (leBytes 4 w.toNat).zipIdx.map fun b => (vecOff d i + 4 * m + b.2, b.1)
      | none => []
    let w2 := s.writeWords pu u 0x011 r.cmd { lo := cyc + 12, hi := cyc + 12, due := cyc + 12 }
      (wr 0 res.1.a ++ wr 1 res.1.b ++ wr 2 res.1.c) poison (some cyc)
    let w1 := w2.1.writeWords pu u 0x011 r.cmd win (ro.bytes.map fun b => (b.off, b.b)) poison (some cyc)
    -- NORM_BWD adds the row to the unit's parameter gradients, in ascending m (R143)
    let grads := res.1.xh.foldl (fun (acc : List (Nat × Byte) × Nat) e =>
        let g := pFma e.2.1 e.2.2 (vec 5 e.1) acc.2
        let b := pAdd (vec 4 e.1) e.2.1 g.2
        (acc.1 ++ (leBytes 4 g.1.toNat).zipIdx.map (fun x => (vecOff d 5 + 4 * e.1 + x.2, x.1)) ++
          (leBytes 4 b.1.toNat).zipIdx.map (fun x => (vecOff d 4 + 4 * e.1 + x.2, x.1)), b.2)) ([], res.2)
    let w3 := if op = 0x0A then w1.1.writeWords pu u 0x011 r.cmd win grads.1 poison (some cyc) else (w1.1, none)
    let h := firstHalt (firstHalt w1.2 w2.2) w3.2
    let s := w3.1.bumpSpec pu r.prov.spec (rUnit pu 0x50) 15 0 (if op = 0x0A then grads.2 else res.2)
    let s := s.bumpSpec pu r.prov.spec (rUnit pu 0x50) 31 16 ro.ovf
    (s, { r with repRru := if poison then r.repRru else r.repRru.add ro.rep, refused := r.refused || h.isSome }, h)

/-- Active columns of a run, ascending (R47, R54). -/
def activeCols (r : RunSt) : List Nat := (List.range (dN r.desc)).filter fun n => bitAt r.colMask n

/-- A row of X elements (column, value, poison) given to the operation, its segments in the RRU since the
cycles `at_`, the whole row since `cyc`: an element-wise operation takes it segment by segment (R138).  DESIGN
CHOICE 5: of such an operation a poisoned row (R151) is the poisoned segment, so that the row's other segments
are reported. -/
def rruFeed (s : State) (pu u : Nat) (r : RunSt) (m cyc : Nat) (at_ : SMap (Option Nat)) (xs : List (Nat × W32 × Bool)) :
    State × RunSt × Option HaltInfo :=
  let go := fun (acc : State × RunSt × Option HaltInfo) (c : Nat) (ys : List (Nat × W32 × Bool)) =>
    let z := acc.1.rruRow pu u acc.2.1 m c (ys.map fun y => (y.1, y.2.1)) (ys.any fun y => y.2.2)
    (z.1, z.2.1, firstHalt acc.2.2 z.2.2)
  if rruSegmented (dRruOp r.desc) then
    ((xs.map fun x => x.1 / 64).eraseDups).foldl (fun acc b =>
      go acc ((smGet none at_ b).getD cyc) (xs.filter fun x => x.1 / 64 == b)) (s, r, none)
  else go (s, r, none) cyc xs

/-- X elements of row `m` in the tile store (MAP_X), widened; those in F8E4 or G8E5 with t = 0, since the
descriptor has no scale selector for X (DESIGN CHOICE 5). -/
def rruX (v : UnitSt) (r : RunSt) (m : Nat) (ns : List Nat) : List (Nat × W32 × Bool) :=
  let f := (formatOf (dfld r.desc 16 23 20)).getD .fp32
  ns.map fun n =>
    let x := v.elem f (tileMap r.desc 20) 0 m n
    (n, widen x.1, x.2)

/-- The words of X elements of row `m`. -/
def rruXWords (r : RunSt) (m : Nat) (ns : List Nat) : List Nat :=
  ((ns.map fun n => elemWords ((formatOf (dfld r.desc 16 23 20)).getD .fp32) (tileMap r.desc 20) m n).flatten).eraseDups

/-- The words of Y elements of row `m` that an operation reads. -/
def rruYWords (r : RunSt) (m : Nat) (ns : List Nat) : List Nat :=
  if rruReadsY (dRruOp r.desc) (dfld r.desc 16 11 8) then
    ((ns.map fun n => elemWords ((formatOf (dfld r.desc 16 27 24)).getD .fp32) (tileMap r.desc 22) m n).flatten).eraseDups
  else []

/-- The segments of a row in the order in which they enter the RRU, one a cycle: an operation on whole rows
makes its passes over the row one after the other, another takes each segment as often as it costs (R138,
R141). -/
def rruOrder (d : List W64) : List Nat :=
  let segs := List.range (dN d / 64)
  let cost := rruCost (dRruOp d) (dfld d 16 11 8)
  if rruSegmented (dRruOp d) then (segs.map fun g => List.replicate cost g).flatten
  else (List.replicate cost segs).flatten

/-- An ENGINE = RRU descriptor: every active row, segment by segment from its cycle 0 on (R138, R141): the X
and Y of a segment's active columns are read under agent 0x010 each time that it enters.  A segment without an
active column reads nothing and takes its cycle.  A refused access ends the operation. -/
def rruRun (s : State) (pu u : Nat) (r : RunSt) : State × RunSt × Option HaltInfo :=
  let cols := activeCols r
  let order := rruOrder r.desc
  let rows := (List.range (dM r.desc)).filter fun i => bitAt r.rowMask i
  rows.zipIdx.foldl (fun (acc : State × RunSt × Option HaltInfo) i =>
    match acc.2.2 with
    | some _ => acc
    | none =>
      let t0 := r.cyc0 + i.2 * order.length
      -- the cycle behind the last segment's, the cycles by segment
      let e := order.zipIdx.foldl (fun (x : State × Nat × SMap (Option Nat) × Option HaltInfo) g =>
        let t := max x.2.1 (t0 + g.2)
        let ns := cols.filter fun n => n / 64 == g.1
        let rd := x.1.readWords pu u 0x010 r.cmd { lo := t, hi := t + 64 * x.1.slotMap.frameLen, due := t }
          (rruXWords r i.1 ns ++ rruYWords r i.1 ns).eraseDups
        let y := rd.1.enterRru pu u r.cmd rd.2.1
        (y.1, y.2.1 + 1, smSet none x.2.2.1 g.1 (some y.2.1), firstHalt x.2.2.2 (firstHalt rd.2.2 y.2.2))) (acc.1, t0, [], none)
      match e.2.2.2 with
      | some h => (e.1, { acc.2.1 with refused := true }, some h)
      | none => e.1.rruFeed pu u acc.2.1 i.1 (e.2.1 - 1) (e.2.2.1) (rruX (e.1.unit pu) r i.1 cols)) (s, r, none)

end State

end Sys2Proof.Machine
end

