-- ==== Sys2Proof/Machine/GoPrep.lean ====
section
/-!
DEFINITION. Preparation and start of a GO (R181, R183): the ordered checks, the masks and scale records
read, cycle 0.
-/

namespace Sys2Proof.Machine

/-! ### Reserved bits and encodings (R177, R178, R181 order 4) -/

/-- The named bits of each descriptor word, as (high, low) pairs. -/
def descBits : Nat → List (Nat × Nat)
  | 0 => [(63, 56), (50, 48), (47, 46), (31, 0)]
  | 1 => [(60, 48), (44, 32), (16, 0)]
  | 2 => [(63, 40), (22, 0)]
  | 3 => [(29, 23), (22, 16), (11, 0)]
  | 4 => [(53, 32), (21, 0)]
  | 5 => [(21, 0)]
  | 6 => [(57, 0)] | 7 => [(20, 0)]
  | 8 => [(57, 0)] | 9 => [(20, 0)]
  | 10 => [(57, 0)] | 11 => [(20, 0)]
  | 12 => [(41, 0)]
  | 13 => [(44, 40), (36, 32), (31, 16), (13, 8), (5, 0)]
  | 14 => [(63, 0)]
  | 15 => [(41, 32), (25, 16), (11, 0)]
  | 16 => [(63, 32), (27, 16), (13, 8), (5, 0)]
  | 17 => [(52, 32), (20, 0)]
  | 18 => [(52, 32), (20, 0)]
  | 19 => [(39, 32), (21, 0)]
  | 20 => [(57, 0)] | 21 => [(20, 0)]
  | 22 => [(57, 0)] | 23 => [(20, 0)]
  | 24 => [(57, 0)] | 25 => [(20, 0)]
  | 26 => [(15, 8), (2, 0)]
  | 127 => [(31, 0)]
  | _ => []

/-- The word with its named bits cleared. -/
def unnamed (d : List W64) (w : Nat) : Nat :=
  ((descBits w).foldl (fun x r => setFld x r.1 r.2 0) (wordAt d w)).toNat

/-- A reserved bit or a reserved encoding in any field, used or not. -/
def descReserved (d : List W64) : Bool :=
  ((List.range 128).any fun w => unnamed d w != 0) ||
  dEngine d == 3 || decide (2 ≤ dfld d 3 25 24) ||
  [dfld d 3 3 0, dfld d 3 7 4, dfld d 3 11 8, dfld d 16 19 16, dfld d 16 23 20, dfld d 16 27 24].any (fun f => decide (7 ≤ f)) ||
  cvtBad (dfld d 3 23 16) || cvtBad (dfld d 19 39 32) ||
  dTail d == 3 || decide (2 ≤ dfld d 15 9 8) || decide (0x11 ≤ dRruOp d) ||
  (let a := dfld d 16 11 8; decide (5 ≤ a % 8)) ||
  dfld d 13 23 22 == 3 || dfld d 13 31 30 == 3

/-- The descriptor with the tail fields of R180 blanked: what a chain member other than the tail judges
beyond reserved bits and encodings. -/
def blankTail (d : List W64) : List W64 :=
  (List.range 128).map fun w =>
    let x := wordAt d w
    if w = 3 then setFld (setFld x 23 16 0) 11 8 0
    else if w = 13 then setFld x 31 16 0
    else if w = 10 ∨ w = 11 ∨ w = 14 ∨ (16 ≤ w ∧ w ≤ 25) then 0#64
    else x

/-- The descriptor that unit `u` judges and acts on (R180). -/
def judged (d : List W64) (u : Nat) : List W64 :=
  if dEngine d < 2 && dDrain d == 2 && !isTail d u then blankTail d else d

/-! ### Fields in use -/

def dFwdBwd (d : List W64) : Bool := decide (dEngine d < 2)

/-- A TILE_CONV destination (R177 CVT_OUT). -/
def dConv (d : List W64) (u : Nat) : Bool := dFwdBwd d && finalTarget d u == 1

/-- A tile destination (R177 MAP_D). -/
def dTile (d : List W64) (u : Nat) : Bool := dFwdBwd d && decide (finalTarget d u ≤ 1)

def fmtOf (d : List W64) (w hi lo : Nat) : Format := (formatOf (dfld d w hi lo)).getD .fp32

/-- The tile maps in use: first word, format, and whether the window is written. -/
def mapsInUse (d : List W64) (u : Nat) : List (Nat × Format × Bool) :=
  let op := dRruOp d
  (if dFwdBwd d then [(6, fmtOf d 3 3 0, false), (8, fmtOf d 3 7 4, false)] else []) ++
  (if dTile d u then [(10, if dConv d u then fmtOf d 3 11 8 else .fp32, true)] else []) ++
  (if op != 0 && dfld d 16 13 13 == 1 then [(20, fmtOf d 16 23 20, false)] else []) ++
  (if rruReadsY op (dfld d 16 11 8) then [(22, fmtOf d 16 27 24, false)] else []) ++
  (if rruOut op then [(24, fmtOf d 16 19 16, true)] else [])

/-- The formats an engine accepts as operands, and as TILE_CONV output (R72). -/
def accepts (eng : Nat) (f : Format) : Bool :=
  f != .fp32x && (eng != 0 || (f != .g8e5 && f != .g6b))

/-- A field in use out of its range (R181 order 4). -/
def descRange (d : List W64) (u : Nat) : Bool :=
  let eng := dEngine d
  let op := dRruOp d
  let mb := dfld d 1 60 48
  let nb := dfld d 1 44 32
  let kb := dfld d 1 16 0
  mb == 0 || decide (4096 < mb) || nb == 0 || decide (4096 < nb) || kb == 0 || decide (65536 < kb) ||
  (eng == 2 && kb != 1) ||
  (dFwdBwd d && (!accepts eng (fmtOf d 3 3 0) || !accepts eng (fmtOf d 3 7 4))) ||
  (dConv d u && (!accepts eng (fmtOf d 3 11 8) || fmtOf d 3 11 8 == .fp32)) ||
  (dFwdBwd d && dDrain d == 2 && (decide (dLast d < dFirst d) || decide (767 < dLast d))) ||
  (dfld d 4 21 21 == 1 && decide (1572864 ≤ dfld d 4 20 0)) ||
  (dfld d 4 53 53 == 1 && decide (1572864 ≤ dfld d 4 52 32)) ||
  (dFwdBwd d && dfld d 5 21 21 == 1 && decide (1572864 ≤ dfld d 5 20 0)) ||
  (op != 0 && [0, 1, 2, 3].any (fun v => vecOff d v % 4 != 0 || decide (1572864 ≤ vecOff d v))) ||
  (op != 0 && dfld d 19 21 21 == 1 && (vecOff d 4 % 4 != 0 || decide (1572864 ≤ vecOff d 4))) ||
  (mapsInUse d u).any (fun x =>
    let m := tileMap d x.1
    x.2.1 == .fp32x || decide (767 < m.base) || m.twin == 0 || decide (768 < m.twin) ||
    decide (767 < m.tstrR) || decide (767 < m.tstrC) ||
    (x.2.1.blockScaled && (m.sbase % 128 != 0 || decide (1572736 < m.sbase))))

/-- A field that is not in use and not 0 (R180). -/
def descUnused (d : List W64) (u : Nat) : Bool :=
  let op := dRruOp d
  let fb := dFwdBwd d
  let conv := dConv d u
  let chain := fb && dDrain d == 2
  let nz := fun (used : Bool) (w hi lo : Nat) => !used && dfld d w hi lo != 0
  let ts := fun (f : Format) => f.tensorScaled
  let used := mapsInUse d u
  nz fb 2 63 0 || nz fb 3 29 24 || nz conv 3 23 16 || nz conv 3 11 8 || nz fb 3 7 0 ||
  nz (dfld d 4 53 53 == 1) 4 52 32 || nz (dfld d 4 21 21 == 1) 4 20 0 ||
  nz fb 5 21 21 || nz (fb && dfld d 5 21 21 == 1) 5 20 0 ||
  [6, 8, 10, 20, 22, 24].any (fun w =>
    match used.find? fun x => x.1 == w with
    | none => dfld d w 63 0 != 0 || dfld d (w + 1) 63 0 != 0
    | some x => !x.2.1.blockScaled && dfld d (w + 1) 63 0 != 0) ||
  nz (rruOut op && ts (fmtOf d 16 19 16)) 13 31 24 || nz (conv && ts (fmtOf d 3 11 8)) 13 23 16 ||
  nz (fb && ts (fmtOf d 3 7 4)) 13 13 8 || nz (fb && ts (fmtOf d 3 3 0)) 13 5 0 ||
  nz (rruOut op) 14 63 32 || nz conv 14 31 0 ||
  nz chain 15 63 0 ||
  nz (op != 0) 16 63 32 || nz (rruReadsY op (dfld d 16 11 8)) 16 27 24 || nz (op != 0 && dfld d 16 13 13 == 1) 16 23 20 ||
  nz (rruOut op) 16 19 16 || nz (op != 0) 16 13 13 || nz (op == 0x0A) 16 12 12 || nz (op == 2) 16 11 8 ||
  nz (op != 0) 17 63 0 || nz (op != 0) 18 63 0 || nz (rruOut op) 19 39 32 || nz (op != 0) 19 21 21 ||
  nz (op != 0 && dfld d 19 21 21 == 1) 19 20 0

/-- The agreement rules of R180 and the RRU cost (R141). -/
def descDisagree (d : List W64) (u : Nat) : Bool :=
  let op := dRruOp d
  let fb := dFwdBwd d
  let toRru := fb && finalTarget d u == 3
  (fb && op != 0 && !(dDrain d == 3 || (dDrain d == 2 && dTail d == 2))) ||
  (toRru && (op == 0 || decide (1 < rruCost op (dfld d 16 11 8)))) ||
  (dEngine d == 2 && (dfld d 16 13 13 != 1 || op == 0 || dfld d 2 63 0 != 0))

/-- The bytes a map's window covers, with its scale records (R83). -/
def windowBytes (d : List W64) (w : Nat) (f : Format) : List (Nat × Nat) :=
  let m := tileMap d w
  (m.base * 2048, m.twin * f.q * 2048) :: (if f.blockScaled then [(m.sbase, 128 * m.twin)] else [])

/-- Tile-map bounds (R83 step 1). -/
def descBounds (d : List W64) (u : Nat) : Bool :=
  (mapsInUse d u).any fun x =>
    let m := tileMap d x.1
    decide (768 < m.base + m.twin * x.2.1.q) ||
      (x.2.1.blockScaled && decide (1572864 < m.sbase + 128 * m.twin))

/-- The mask vectors present: enable, offset, length in bytes. -/
def descMasks (d : List W64) : List (Nat × Nat) :=
  (if dfld d 4 21 21 = 1 then [(dfld d 4 20 0, dM d / 8)] else []) ++
  (if dfld d 4 53 53 = 1 then [(dfld d 4 52 32, dN d / 8)] else []) ++
  (if dFwdBwd d && dfld d 5 21 21 == 1 then [(dfld d 5 20 0, dK d / 8)] else [])

namespace State

/-- A window, mask or vector outside the declared regions (R83 step 2, R609). -/
def descUncovered (s : State) (pu u : Nat) (d : List W64) : Bool :=
  let rw := regionMasks (wordAt d 12)
  let op := dRruOp d
  let tEn := dfld d 19 21 21 == 1
  let maps := mapsInUse d u
  let reads := ((maps.filter fun x => !x.2.2).map fun x => windowBytes d x.1 x.2.1).flatten ++ descMasks d ++
    (rruVecReads op tEn).map fun v => (vecOff d v, vecLen d v)
  let writes := ((maps.filter fun x => x.2.2).map fun x => windowBytes d x.1 x.2.1).flatten ++
    (rruVecWrites op).map fun v => (vecOff d v, if v = 5 then 4 * dN d else vecLen d v)
  reads.any (fun x => !s.covered pu (rw.1 ||| rw.2) x.1 x.2) ||
    writes.any fun x => !s.covered pu rw.2 x.1 x.2

/-- The array widths of a unit's engine (R21, R47). -/
def engWidths (s : State) (pu eng : Nat) : List Nat :=
  let w := s.reg (rUnit pu 0)
  if eng = 0 then [fld w 6 0, fld w 13 7]
  else [fld w 20 14, fld w 27 21, fld w 34 28, fld w 41 35]

end State

/-- Set bits of a mask below `n`. -/
def popCount (n m : Nat) : Nat := ((List.range n).filter fun i => bitAt m i).length

/-- Blocks of 64 with an active element (R47). -/
def activeBlocks (n m : Nat) : List Nat :=
  (List.range (n / 64)).filter fun b => m / 2 ^ (64 * b) % 2 ^ 64 != 0

/-- Column groups of a row block (R47). -/
def groupCount (cols W : Nat) : Nat := if W = 0 then 0 else (cols + W - 1) / W

/-- The column list (R47): whole 64-column blocks with an active column. -/
def colList (n m : Nat) : List Nat :=
  ((activeBlocks n m).map fun b => (List.range 64).map fun i => 64 * b + i).flatten

/-- R59: passes under the fold. -/
def passCount (d : List W64) (rowMask colMask W : Nat) : Nat :=
  (activeBlocks (dM d) rowMask).length * groupCount ((activeBlocks (dN d) colMask).length * 64) W

/-- A scale record read at GO (R149, R150): its checks in the order of the table, poison judged before the
bytes that it makes meaningless. -/
def recordCheck (addr : Nat) (bs : List Byte) (poison : Bool) (f : Format) : Option Nat :=
  let b := fun i => (bs.getD i 0#8).toNat
  if addr % 64 ≠ 0 ∨ !populated addr then some 2
  else if poison then some 0x0A
  else if b 3 / 128 ≠ 0 ∨ b 4 / 16 ≠ 0 ∨ b 5 / 4 ≠ 0 ∨ b 3 % 16 = 0 ∨ 8 < b 3 % 16 ∨
      b 3 % 16 ≤ b 3 / 16 % 8 ∨ b 4 / 2 % 4 = 0 ∨ b 0 = 0x80 ∨ b 1 = 0x80 ∨
      (List.range 8).any (fun i => b (24 + i) != 0) then some 2
  else if (b 4 / 8 % 2 = 1) ≠ (f = .g8e5) then some 3
  else none

namespace State

/-- One scale record named by a selector: its address, and what the unit finds. -/
def readRecord (s : State) (pu sel : Nat) (f : Format) : State × Option Nat × Option Nat × List Byte :=
  if sel / 32 % 2 = 0 then (s, none, none, [])
  else
    let addr := (s.reg (rUnit pu (0x200 + 8 * (sel % 32)))).toNat
    if addr % 64 ≠ 0 ∨ !populated addr then (s, some addr, some 2, [])
    else
      let r := s.memRead addr 64 0
      (r.1, some addr, recordCheck addr r.2.1 (r.2.2.any id) f, r.2.1)

/-- Orders 1 to 8 of R181: the first that fails names the reason. -/
def prepCheck (s : State) (pu u sl phase : Nat) (d : List W64) (e : Option SbEnt) : Option Nat :=
  let j := judged d u
  let rw := regionMasks (wordAt d 12)
  let checks : List (Bool × Nat) := [
    (!smGet false (s.unit pu).shadowOk sl, 3),
    (dfld d 0 63 56 != 1, 0x0F),
    (dEngine d != sl, 3),
    (descReserved d || descRange j u || (phase != 0xFFFFFF && decide (s.slotMap.frameLen ≤ phase)), 2),
    (descUnused j u || descDisagree j u || (match e with
      | some e => e.rd != rw.1 || e.wr != rw.2
      | none => true), 3),
    (descBounds j u, 2),
    (s.descUncovered pu u j, 4),
    (s.overlaps pu rw.2, 5),
    (dFwdBwd d && dDrain d == 2 && (decide (u < dFirst d) || decide (dLast d < u)), 2)]
  (checks.find? (·.1)).map (·.2)

/-- A mask read at GO; absent, it is all ones (R53). -/
def maskAt (s : State) (pu : Nat) (en off n : Nat) : Nat :=
  if en = 1 then (s.unit pu).bitsAt off (n / 8) % 2 ^ n else 2 ^ n - 1

/-- Orders 9 and 10 of R181, and the run that results.  DESIGN CHOICE 11: of several records that fail, the first
in the order A, B, output, RRU output names the reason. -/
def prepRead (s : State) (pu u sl : Nat) (d : List W64) (p : Prov) : State × (Nat ⊕ RunSt) :=
  let j := judged d u
  let v := s.unit pu
  let tEn := dfld j 19 21 21 == 1
  let bad := (descMasks j).any (fun x => v.rangePoison x.1 x.2) ||
    (rruVecReads (dRruOp j) tEn).any fun x => v.rangePoison (vecOff j x) (vecLen j x)
  let rm := s.maskAt pu (dfld d 4 21 21) (dfld d 4 20 0) (dM d)
  let cm := s.maskAt pu (dfld d 4 53 53) (dfld d 4 52 32) (dN d)
  let km := s.maskAt pu (if dFwdBwd d then dfld d 5 21 21 else 0) (dfld d 5 20 0) (dK d)
  let ws := s.engWidths pu sl
  let total := if dFwdBwd d then passCount d rm cm (ws.foldl (· + ·) 0) else 0
  if bad then (s, .inl 0x0A)
  else if dFwdBwd d && (total != dfld d 2 63 40 || popCount (dK d) km != dfld d 2 22 0) then (s, .inl 3)
  else
    let a := s.readRecord pu (dfld j 13 5 0) (fmtOf j 3 3 0)
    let b := a.1.readRecord pu (dfld j 13 13 8) (fmtOf j 3 7 4)
    let o := b.1.readRecord pu (dfld j 13 21 16) (fmtOf j 3 11 8)
    let r := o.1.readRecord pu (dfld j 13 29 24) (fmtOf j 16 19 16)
    match [a.2.2.1, b.2.2.1, o.2.2.1, r.2.2.1].findSome? id with
    | some e => (r.1, .inl e)
    | none =>
      let t := fun (x : State × Option Nat × Option Nat × List Byte) i =>
        if x.2.2.2.isEmpty then (0 : Int) else sgn 8 ((x.2.2.2.getD i 0#8).toNat)
      (r.1, .inr {
        slot := sl, desc := j.take 27, prov := p, seed := s.reg (rUnit pu (0x200 + 8 * dfld d 13 36 32)),
        step := (s.reg (rUnit pu (0x200 + 8 * dfld d 13 44 40))).setWidth 32,
        tA := t a 0, tB := t b 0, tOut := t o 1, tRru := t r 1, recOut := o.2.1, recRru := r.2.1,
        rowMask := rm, colMask := cm, kMask := km, widths := ws, total := total })

/-- Cycle 0 of a GO that was admitted in cycle `t0` and whose preparation ends in cycle `t` (R183), and
whether it waits for a later occurrence of its PHASE: whether that position passed while it was prepared. -/
def cycleZero (s : State) (die phase t0 t : Nat) : Nat × Bool :=
  let F := s.slotMap.frameLen
  if phase = 0xFFFFFF ∨ F = 0 then (t + 1, false)
  else
    (t + 1 + (phase + F - s.framePos die (t + 1)) % F,
      decide ((s.framePos die t + F - phase) % F ≤ t - t0))

/-- GO_PREPARE: the shadow block is copied, HOSTMOD judged, the registers read, the checks of R181 made
in order (R182, R183, R237).  A failed check halts the unit. -/
def fxGoPrepare (s : State) (u sl t0 t : Nat) : State :=
  match s.physUnit u with
  | none => s
  | some pu =>
    match (s.unit pu).queue sl with
    | { cmd := .go ph, prov := p, stage := .admitted } :: rest =>
      let d := s.shadow pu sl
      let s := s.updUnit pu fun v => if smGet false v.hostmod sl
        then { v with shadowOk := smSet false v.shadowOk sl (dcrcOk d) } else v
      let s := s.setRegs (rUnit pu (0x2000 + 0x400 * sl)) d
      let h := fun r => ({ reason := r, source := 4, prov := p, task := dTask d, serial := dSerial d } : HaltInfo)
      let pop := fun (s : State) => if p.spec then s.updUnit pu fun v => v.setQueue sl rest else s
      match s.prepCheck pu u sl ph d ((s.unit pu).sb.find? fun e => e.ticket == p.ticket) with
      | some r => pop (s.haltWork pu (h r))
      | none =>
        match s.prepRead pu u sl d p with
        | (s, .inl r) => pop (s.haltWork pu (h r))
        | (s, .inr run) =>
          let z := s.cycleZero (dieOfUnit u) ph t0 t
          s.updUnit pu fun v => { v.setQueue sl ({ cmd := .go ph, prov := p, stage := .prepared } :: rest) with
            runs := v.runs ++ [{ run with cyc0 := z.1, phaseWait := z.2 }] }
    | _ => s

end State

/-! ### The meanings of the commands -/

/-- GO_PREPARE (R181). -/
def execGoPrepare (u : UnitIx) (sl : Slot) (t : PrepTimes) (s : State) : Host.Outcome State Fault Refusal :=
  .next (s.orWait fun s => s.fxGoPrepare u.val (slotIx sl) t.admitted t.ended)

end Sys2Proof.Machine
end

