-- ==== Sys2Proof/Machine/Engine.lean ====
section
/-!
DEFINITION. Passes and drains of the engines (R32 to R70, R124 to R128): the fold, accumulation, the
cycle recurrence, drains to the tile store, the chain and the RRU, and the accesses they make.
-/

namespace Sys2Proof.Machine

/-! ### The fold (R47) -/

/-- First array of an engine, numbered as in UNIT_CAP (R34). -/
def arrBase (eng : Nat) : Nat := if eng = 0 then 0 else 2

/-- A list dealt in slices of the given widths. -/
def deal : List Nat → List Nat → List (List Nat)
  | [], _ => []
  | w :: ws, cs => cs.take w :: deal ws (cs.drop w)

/-- Sum of the widths of an engine. -/
def RunSt.width (r : RunSt) : Nat := r.widths.foldl (· + ·) 0

def RunSt.cols (r : RunSt) : List Nat := colList (dN r.desc) r.colMask

/-- Column groups of a row block of the run. -/
def RunSt.groups (r : RunSt) : Nat := groupCount r.cols.length r.width

/-- Row block and column group of pass `i`. -/
def RunSt.passAt (r : RunSt) (i : Nat) : Nat × Nat :=
  ((activeBlocks (dM r.desc) r.rowMask).getD (i / r.groups) 0, i % r.groups)

/-- The slices of column group `g`. -/
def RunSt.slices (r : RunSt) (g : Nat) : List (List Nat) :=
  deal r.widths ((r.cols.drop (g * r.width)).take r.width)

/-! ### Accumulation (R36, R48, R124 to R128) -/

/-- The K-steps of each event of a pass, ascending: two where both operands are F4B (R48). -/
def events (two : Bool) : List Nat → List (List Nat)
  | [] => []
  | [k] => [[k]]
  | k :: l :: ks => if two then [k, l] :: events two ks else [k] :: events two (l :: ks)

/-- Fill slots of a pass by its step rate (R37). -/
def fillSlots (fa fb : Format) (ku : Nat) : Nat :=
  if fa = .fp32 ∨ fb = .fp32 then 16 * ku
  else if fa = .bf16 ∨ fb = .bf16 then 2 * ku
  else if fa = .f4b ∧ fb = .f4b then (ku + 1) / 2
  else ku

/-- A page value with the counts of ACC_OVF and ACC_NAN (R146). -/
structure Acc where
  v   : W32
  ovf : Nat := 0
  nan : Nat := 0
  deriving DecidableEq, Repr

/-- One event: `P := round(P + q)` over the given terms.  A NaN made from operands none of which was NaN
counts, also that of 0 × ∞. -/
def accEvent (mode : Rnd) (a : Acc) (prods : List (FV × FV)) : Acc :=
  let terms := val32 a.v :: prods.map fun p => p.1.mul p.2
  let sum := FV.sum terms
  let v := round32 mode sum
  let had := isNan32 a.v || prods.any fun p => p.1.isNan || p.2.isNan
  { v := v
    ovf := if sum.isFin && !(val32 v).isFin then a.ovf + 1 else a.ovf
    nan := if sum.isNan && !had then a.nan + 1 else a.nan }

/-- Operand A at (m, k) and B at (n, k) under their orientation (R74). -/
def UnitSt.opA (u : UnitSt) (r : RunSt) (m k : Nat) : FV × Bool :=
  let f := fmtOf r.desc 3 3 0
  if dfld r.desc 3 28 28 = 0 then u.elem f (tileMap r.desc 6) r.tA m k else u.elem f (tileMap r.desc 6) r.tA k m

def UnitSt.opB (u : UnitSt) (r : RunSt) (n k : Nat) : FV × Bool :=
  let f := fmtOf r.desc 3 7 4
  if dfld r.desc 3 29 29 = 0 then u.elem f (tileMap r.desc 8) r.tB n k else u.elem f (tileMap r.desc 8) r.tB k n

/-- The key of the run's draws (R127): SERIAL stands as the tensor identifier. -/
def RunSt.accKey (r : RunSt) : GenKey :=
  { seed := r.seed, step := r.step, tid := BitVec.ofNat 32 (dSerial r.desc) }

/-- The accumulated value of one cell over the events of a pass. -/
def UnitSt.cell (u : UnitSt) (r : RunSt) (evs : List (List Nat)) (m n : Nat) : Acc :=
  evs.foldl (fun a ks =>
    let mode := if dfld r.desc 3 25 24 = 1
      then Rnd.sr ((r.accKey.kinded 2 (ks.getLastD 0)).draw (m * dN r.desc + n)) else .rne
    accEvent mode a (ks.map fun k => ((u.opA r m k).1, (u.opB r n k).1))) { v := zero32 }

/-- Physical columns of an array that passed the last column test, ascending (R60). -/
def State.physCols (s : State) (pu arr : Nat) : List Nat :=
  (List.range 66).filter fun p =>
    if p < 64 then !bitAt (s.reg (rUnit pu (0x10 + 8 * arr))).toNat p
    else !s.bit (rUnit pu 0x08) (8 + 2 * arr + (p - 64))

/-- Key of a cell of an accumulator page. -/
def cellKey (arr page row phys : Nat) : Nat := ((arr * 2 + page) * 64 + row) * 66 + phys

/-- The page without the cells of one array (R55). -/
def clearPage (m : SMap W32) (arr page : Nat) : SMap W32 :=
  m.filter fun (x : Nat × W32) =>
    decide (x.1 < cellKey arr page 0 0) || decide (cellKey arr page 0 0 + 64 * 66 ≤ x.1)

namespace State

/-- An engine of a unit and the unit with it replaced. -/
def eng (s : State) (pu e : Nat) : EngSt := if e = 0 then (s.unit pu).fwd else (s.unit pu).bwd

def setEng (s : State) (pu e : Nat) (x : EngSt) : State :=
  s.updUnit pu fun u => if e = 0 then { u with fwd := x } else { u with bwd := x }

/-- The run of a ticket replaced. -/
def setRun (s : State) (pu : Nat) (r : RunSt) : State :=
  s.updUnit pu fun u => { u with
    runs := u.runs.map fun q => if q.prov.ticket == r.prov.ticket then r else q }

/-- The bytes of one row written to the tile store in a cycle, word by word, each access judged; a word
that shares its bank with another of the cycle is refused (R219). -/
def rowWrite (s : State) (pu u : Nat) (r : RunSt) (agent : Nat → Nat) (bs : List OutByte) (cyc : Nat) :
    State × Option HaltInfo :=
  let words := (bs.map fun b => b.off / 32).eraseDups
  words.foldl (fun (acc : State × Option HaltInfo) w =>
    let s := acc.1
    let mine := bs.filter fun b => b.off / 32 == w
    let keys := mine.map fun b => b.key / 32
    let arr := (bs.filter fun b => keys.contains (b.off / 32)).foldl (fun a b => min a b.arr) 5
    let bank := w % 64
    let word := w / 64
    if words.any fun x => x != w && x % 64 == bank then
      (s, firstHalt acc.2 (some (collide r.cmd bank (ownerOf (dTask r.desc) (agent arr)) cyc
        (s.framePos (dieOfUnit u) cyc) word)))
    else
      let v := s.unit pu
      let x := s.portUse pu u bank (agent arr) cyc word r.cmd (mine.map fun b => (b.off, v.byte b.off))
        (v.poisoned (32 * w))
      match x.2 with
      | some h => (x.1, firstHalt acc.2 (some h))
      | none => ((x.1.noteWrote pu r.prov (32 * w)).tileWrite pu (mine.map fun b => (b.off, b.b)) (mine.any (·.p)), acc.2)) (s, none)

/-! ### What a drained row does at its target -/

/-- The bytes of a row under TILE_CONV to a block-scaled format, with the block that the pass leaves
unfinished (R57, R58): `cols` are the pass's columns with their arrays.  DESIGN CHOICE 5: a block is poisoned by
the pages of its active columns only; a poisoned page that gives it masked columns alone leaves it clean. -/
def blockRow (o : OutSpec) (m : Nat) (cols : List (Nat × Nat)) (cs : List ColVal)
    (kept : Option BlockKeep) : List OutByte × Option BlockKeep :=
  let bl := (cols.map fun c => c.1 / 32).eraseDups
  let last := cols.foldl (fun a c => max a c.1) 0
  bl.foldl (fun (acc : List OutByte × Option BlockKeep) b =>
    let here := cols.filter fun c => c.1 / 32 == b
    let es := cs.filter fun c => c.n / 32 == b
    let old := match kept with
      | some k => if k.blk = b then k else { blk := b }
      | none => { blk := b }
    let p := old.poison || es.any (·.p)
    let vals := old.vals ++ es.map fun c => (c.n, c.v)
    if last < 32 * b + 31 then (acc.1, some { blk := b, vals := vals, poison := p })
    else (acc.1 ++ o.block m b (here.foldl (fun a c => min a c.2) 5) p vals, acc.2)) ([], none)

/-- The OutSpec of a TILE_CONV target. -/
def convSpec (r : RunSt) : OutSpec :=
  { fmt := fmtOf r.desc 3 11 8, map := tileMap r.desc 10, cvt := cvtOf (dfld r.desc 3 23 16), t := r.tOut,
    key := { seed := r.seed, step := r.step, tid := BitVec.ofNat 32 (dfld r.desc 14 31 0) }, n := dN r.desc }

/-- Whether the output of pass group `g` is the last of its row block. -/
def lastGroup (r : RunSt) (g : Nat) : Bool := g + 1 == r.groups

/-- The RRU's X of one drained row: the segments that are whole with this pass are processed, an
operation that needs a whole row waits for the last column group (R138).  XSRC = 1 takes the X of each
drained segment from MAP_X (R177; DESIGN CHOICE 5: how the drained rows and the tile store combine is not
stated). -/
def rruDrain (s : State) (pu u : Nat) (r : RunSt) (m g cyc : Nat) (cs : List ColVal) :
    State × RunSt × Option HaltInfo :=
  let N := dN r.desc
  let r := { r with
    xs := cs.foldl (fun x c => smSet zero32 x (m * N + c.n) c.v) r.xs
    xPoison := cs.foldl (fun x c => if c.p then smSet false x (m * 4096 + c.n / 64) true else x) r.xPoison }
  let last := lastGroup r g
  let lim := fun (g : Nat) => r.cols.getD (g * r.width - 1) 0
  let isDue := fun n =>
    if rruWhole (dRruOp r.desc) then last
    else (last || decide (n / 64 * 64 + 63 ≤ lim (g + 1))) &&
      (g == 0 || decide (lim g < n / 64 * 64 + 63))
  let cols := (activeCols r).filter isDue
  let tile := dfld r.desc 16 13 13 == 1
  let rd := if tile then s.readWords pu u 0x010 r.cmd { lo := cyc, hi := cyc + 64 * s.slotMap.frameLen, due := cyc }
      (rruXWords r m cols) else (s, cyc, none)
  let xs := if tile then rruX (s.unit pu) r m cols
    else cols.map fun n => (n, smGet zero32 r.xs (m * N + n), smGet false r.xPoison (m * 4096 + n / 64))
  let r := { r with
    xs := cols.foldl (fun x n => smErase x (m * N + n)) r.xs
    xPoison := cols.foldl (fun x n => smErase x (m * 4096 + n / 64)) r.xPoison }
  match rd.2.2 with
  | some h => (rd.1, { r with refused := true }, some h)
  | none => if cols.isEmpty then (rd.1, r, none) else rd.1.rruFeed pu u r m cyc [] xs

/-- A row of final values delivered in cycle `cyc` to TILE_FP32 (0), TILE_CONV (1) or the RRU (3):
masked rows and columns are not written (R56, R57).  The RRU is sent a masked row too (R52), and makes
nothing of it (R138). -/
def deliver (s : State) (pu u ticket target m g : Nat) (cols : List (Nat × Nat)) (vs : List W32)
    (ps : List Bool) (agent : Nat → Nat) (cyc : Nat) : State × Option HaltInfo :=
  match (s.unit pu).runs.find? fun r => r.prov.ticket == ticket with
  | none => (s, none)
  | some r =>
    if !bitAt r.rowMask m && target != 3 then (s, none)
    else
      let cs := ((cols.zip (vs.zip ps)).filter fun x => bitAt r.colMask x.1.1).map fun x =>
        ({ n := x.1.1, v := x.2.1, arr := x.1.2, p := x.2.2 } : ColVal)
      if target = 3 then
        let arr := cols.foldl (fun a c => min a c.2) 5
        let y := s.portUse pu u 0x4000 (agent arr) cyc 0 r.cmd [] false
        match y.2 with
        | some h => (y.1, some h)
        | none =>
          if !bitAt r.rowMask m then (y.1, none)
          else
            let z := y.1.rruDrain pu u r m g cyc cs
            (z.1.setRun pu z.2.1, z.2.2)
      else if target = 0 then s.rowWrite pu u r agent (fp32Row (tileMap r.desc 10) m cs) cyc
      else
        let o := convSpec r
        if o.fmt.blockScaled then
          let e := s.eng pu r.slot
          let x := blockRow o m cols cs (smGet none e.blocks (m % 64))
          let s := s.setEng pu r.slot { e with blocks := smSet none e.blocks (m % 64) x.2 }
          s.rowWrite pu u r agent x.1 cyc
        else
          let x := o.row m cs
          let s := s.setRun pu { r with repOut := r.repOut.add x.rep }
          let s := s.bumpSpec pu r.prov.spec (rUnit pu 0x50) 31 16 x.ovf
          s.rowWrite pu u r agent x.bytes cyc

/-! ### The chain adder (R129 to R136) -/

/-- Link latency from logical unit `u` to `u + 1` (R133), after a re-lock one cycle more or less
(R206). -/
def linkLatency (s : State) (u : Nat) : Nat :=
  let v := u + 1
  if u / 4 = v / 4 then 1
  else if u / 24 = v / 24 then 5
  else if u / 96 = v / 96 then 13
  else match smGet 0 s.relock (u / 96) with
    | 1 => 62
    | 2 => 60
    | _ => 61

/-- The sum at a member (R130, R131, R125), counting ACC_OVF and ACC_NAN. -/
def chainAdd (r : RunSt) (u m n : Nat) (x y : W32) : Acc :=
  let mode := if dfld r.desc 15 9 8 = 1
    then Rnd.sr ((r.accKey.kinded 3 u).draw (m * dN r.desc + n)) else .rne
  let sum := (val32 x).add (val32 y)
  let v := round32 mode sum
  { v := v
    ovf := if sum.isFin && !(val32 v).isFin then 1 else 0
    nan := if sum.isNan && !isNan32 x && !isNan32 y then 1 else 0 }

/-- Columns of a pass with their arrays, in the order in which a chain row lists them. -/
def passCols (r : RunSt) (g : Nat) : List (Nat × Nat) :=
  ((r.slices g).zipIdx.map fun x => x.1.map fun n => (n, arrBase r.slot + x.2)).flatten

/-- A flag for every column, from one flag an array. -/
def spread (vals : List (List W32)) (ps : List Bool) : List Bool :=
  (vals.zip ps).map (fun x => x.1.map fun _ => x.2) |>.flatten

/-- A sum that leaves the adder of member `u` in cycle `cyc`: to the successor, or at the tail kept until
its pass is whole and then delivered (R133, R135, R137). -/
def chainOut (s : State) (pu u : Nat) (r : RunSt) (x : ChainRow) (cyc : Nat) : State × Option HaltInfo :=
  let n := (x.vals.filter fun v => !v.isEmpty).length
  let s := s.setSpec pu r.prov.spec (rUnit pu 0x58) 63 56 (dfld r.desc 15 7 0)
  if !isTail r.desc u then
    let s := s.bumpSpec pu r.prov.spec (rUnit pu 0x58) 39 16 n
    match s.physUnit (u + 1) with
    | none => (s, none)
    | some q => (s.updUnit q fun v => { v with chain := { v.chain with
        link := v.chain.link ++
          [{ x with cyc := cyc + s.linkLatency u, src := (pu / 4, s.cluGen (pu / 4)), sum := some x.cyc }] } }, none)
  else
    let s := s.updUnit pu fun v => { v with chain := { v.chain with tail := v.chain.tail ++
      [{ x with cyc := cyc, src := (pu / 4, s.cluGen (pu / 4)), sum := some x.cyc }] } }
    let mine := (s.unit pu).chain.tail.filter fun y => y.eng == x.eng && y.pass == x.pass
    if mine.length < 64 then (s, none)
    else
      let s := s.updUnit pu fun v => { v with chain := { v.chain with
        tail := v.chain.tail.filter fun y => !(y.eng == x.eng && y.pass == x.pass) } }
      let rg := r.passAt x.pass
      let tgt := finalTarget r.desc u
      let z := mine.foldl (fun (acc : State × Option HaltInfo) y =>
        let d := acc.1.deliver pu u r.prov.ticket tgt (64 * rg.1 + y.row) rg.2 (passCols r rg.2)
          y.vals.flatten (spread y.vals y.pois) (fun _ => 0x00F) y.cyc
        (d.1, firstHalt acc.2 d.2)) (s, none)
      match (z.1.unit pu).runs.find? fun q => q.prov.ticket == r.prov.ticket with
      | none => z
      | some q =>
        let e := mine.foldl (fun a y => max a y.cyc) 0
        (z.1.setRun pu { q with landed := q.landed + 1, endCyc := max q.endCyc (e + 1), refused := q.refused || z.2.isSome }, z.2)

/-- Buffered and own rows of an engine paired in order of arrival: the tag check of a pass's first row,
then the hop.  A row that lands after its partner has reached the adder, or that the pass two later has
overwritten, is read as a free value (R134). -/
def chainMatch (s : State) (pu u e : Nat) : Nat → State × Option HaltInfo
  | 0 => (s, none)
  | fuel + 1 =>
    let c := (s.unit pu).chain
    match c.buf.find? (fun x => x.eng == e), c.own.find? (fun x => x.eng == e) with
    | some b, some o =>
      match (s.unit pu).runs.find? fun r => r.prov.ticket == o.ticket with
      | none => (s, none)
      | some r =>
        let bad := match b.tag, o.tag with
          | none, none => false
          | some x, some y => x != y
          | _, _ => true
        if bad then
          (s.setSpec pu r.prov.spec (rUnit pu 0x58) 2 2 1,
            some { reason := 3, source := 5, prov := r.prov, task := dTask r.desc, serial := dSerial r.desc,
                   cyc := some o.cyc })
        else
          let rewr := c.buf.any fun x => x.eng == e && x.pass == b.pass + 2 && x.row == b.row &&
            decide (x.cyc ≤ o.cyc)
          let lost := rewr || decide (o.cyc < b.cyc)
          let s := s.updUnit pu fun v => { v with chain := { v.chain with
            buf := v.chain.buf.erase b, own := v.chain.own.erase o,
            readAt := smSet 0 v.chain.readAt (e * 2 + b.pass % 2) o.cyc } }
          -- the buffered row taken by the chain adder (port class 3)
          let y := (List.range o.vals.length).foldl (fun (acc : State × Option HaltInfo) i =>
            if (o.vals.getD i []).isEmpty then acc
            else
              let z := acc.1.portUse pu u (0x3000 + arrBase e + i) 0x016 o.cyc 0 r.cmd [] false
              (z.1, firstHalt acc.2 z.2)) (s, none)
          match y.2 with
          | some h => y.1.chainMatch pu u e fuel |> fun z => (z.1, firstHalt (some h) z.2)
          | none =>
            let rg := r.passAt o.pass
            let m := 64 * rg.1 + o.row
            let sl := r.slices rg.2
            let sum := (o.vals.zip (b.vals.zip sl)).foldl
              (fun (acc : State × List (List W32) × Nat × Nat) a =>
                let free := acc.1.freeBytes (4 * a.1.length)
                let inc : List W32 := (List.range a.1.length).map fun j =>
                  let f := BitVec.ofNat 32 (leVal ((free.1.drop (4 * j)).take 4))
                  if lost then f else a.2.1.getD j f
                let rs := ((a.1.zip inc).zip a.2.2).map fun z => chainAdd r u m z.2 z.1.2 z.1.1
                (free.2, acc.2.1 ++ [rs.map (·.v)], acc.2.2.1 + (rs.map (·.ovf)).sum, acc.2.2.2 + (rs.map (·.nan)).sum))
              (y.1, [], 0, 0)
            let pois := (o.pois.zip b.pois).map fun z => z.1 || z.2
            let s := sum.1.bumpSpec pu r.prov.spec (rUnit pu 0x50) 63 48 sum.2.2.1
            let s := s.bumpSpec pu r.prov.spec (rUnit pu 0x50) 47 32 sum.2.2.2
            let z := s.chainOut pu u r { o with vals := sum.2.1, pois := pois } (o.cyc + 3)
            let w := z.1.chainMatch pu u e fuel
            (w.1, firstHalt z.2 w.2)
    | _, _ => (s, none)

/-- A unit's own drained row enters the chain adder (port class 5): the head adds nothing. -/
def chainOwn (s : State) (pu u : Nat) (r : RunSt) (x : ChainRow) : State × Option HaltInfo :=
  let arr := ((List.range x.vals.length).find? fun i => !(x.vals.getD i []).isEmpty).getD 0
  let y := s.portUse pu u 0x5000 (0x009 + arrBase r.slot + arr) x.cyc 0 r.cmd [] false
  match y.2 with
  | some h => (y.1, some h)
  | none =>
    if dFirst r.desc = u then y.1.chainOut pu u r x (x.cyc + 3)
    else
      (y.1.updUnit pu fun v => { v with chain := { v.chain with own := v.chain.own ++ [x] } }).chainMatch pu u r.slot 130

/-! ### DRAIN_START -/

/-- R247: whether the drain of pass `p` may start in debug serialise mode, and the cycle from which what
it waits for holds. -/
def serialHold (s : State) (pu u : Nat) (r : RunSt) (p : PassRec) : Bool × Nat :=
  if !s.serialise || dDrain r.desc != 2 then (true, 0)
  else
    let c := (s.unit pu).chain
    let inRows := c.buf.filter fun x => x.eng == r.slot && x.pass == p.index
    let a := if dFirst r.desc = u then (true, 0)
      else (inRows.length == 64, inRows.foldl (fun a x => max a x.cyc) 0)
    let b := if isTail r.desc u || decide (p.index < 2) then (true, 0)
      else match s.physUnit (u + 1) with
        | none => (true, 0)
        | some q =>
          let n := (s.unit q).chain
          (!((n.link ++ n.buf).any fun x => x.eng == r.slot && decide (x.pass + 2 ≤ p.index)),
            smGet 0 n.readAt (r.slot * 2 + p.index % 2) + 1)
    (a.1 && b.1, max a.2 b.2)

/-- R40: the drain start of a pass, held by whole frames until cycle `hold` (R247). -/
def drainCyc (x : EngSt) (p : PassRec) (F hold : Nat) : Nat × Nat :=
  let prev := (x.hist.filter fun q => q.d.isSome).head?
  let d0 := max (p.fin + 3) (match prev with | some q => (q.d.map (· + 64)).getD 0 | none => 0)
  let k := if hold ≤ d0 then 0 else if F = 0 then hold - d0 else (hold - d0 + F - 1) / F * F
  (d0, k)

/-- A filling pass shifted by a freeze that begins in cycle `a` (R247). -/
def shiftPass (a k : Nat) (q : PassRec) : PassRec :=
  if q.d.isSome then q
  else if a ≤ q.s then { q with s := q.s + k, fin := q.fin + k }
  else if a < q.fin then { q with fin := q.fin + k }
  else q

/-- The pass whose page the engine drains next, with its run and its drain start (R40), if the drain may
start. -/
def nextDrain (s : State) (pu u e : Nat) : Option (PassRec × RunSt × Nat × Nat) :=
  let x := s.eng pu e
  match (x.hist.filter fun p => p.d.isNone).getLast? with
  | none => none
  | some p =>
    match (s.unit pu).runs.find? fun r => r.prov.ticket == p.ticket with
    | none => none
    | some r =>
      let hold := s.serialHold pu u r p
      if s.unitHalted pu || r.dead || !hold.1 then none
      else some (p, r, drainCyc x p s.slotMap.frameLen hold.2)

/-- The page of a pass drained row by row from cycle `dc.1 + dc.2` on to its target (R39, R52 to R58,
R67). -/
def drainPass (s : State) (pu u e : Nat) (p : PassRec) (r : RunSt) (dc : Nat × Nat)
    (parity : List (Nat × Nat × Nat)) : State × Option HaltInfo :=
  let x := s.eng pu e
  let D := dc.1 + dc.2
  let rest := if dc.2 = 0 then x.hist else x.hist.map (shiftPass dc.1 dc.2)
  let hist := rest.map fun q => if q.s == p.s && q.index == p.index && q.ticket == p.ticket
    then { q with d := some D, fin := p.fin } else q
  let s := s.setEng pu e { x with hist := hist, frzAt := if dc.2 = 0 then x.frzAt else dc.1,
                                  frzLen := if dc.2 = 0 then x.frzLen else dc.2 }
  let base := arrBase e
  let phys := fun a => s.physCols pu a
  let hit := fun (a row ph : Nat) => decide (base ≤ a) &&
    ((phys a).take ((p.cols.getD (a - base) []).length)).contains ph && decide (row < 64)
  let bad := parity.filter fun q => hit q.1 q.2.1 q.2.2
  let sec := s.regF 0x40000 47 16
  let s := bad.foldl (fun s q =>
    let s := s.raiseSpec pu r.prov.spec (mkErr 0x0101 4 u
      (BitVec.ofNat 64 (q.1 * 2 ^ 40 + p.page * 2 ^ 39 + q.2.1 * 2 ^ 32 + q.2.2)))
    if r.prov.spec then s.updUnit pu fun v => { v with held := v.held ++ [.parity (q.1 * 66 + q.2.2) sec] }
    else s.noteParity pu (q.1 * 66 + q.2.2) sec) s
  let tgt := if dDrain r.desc = 2 then 2 else finalTarget r.desc u
  let z := (List.range 64).foldl (fun (acc : State × Option HaltInfo) i =>
    let rows : List (List W32) := p.cols.zipIdx.map fun q =>
      let ph := phys (base + q.2)
      q.1.zipIdx.map fun n => smGet zero32 x.page (cellKey (base + q.2) p.page i (ph.getD n.2 0))
    let pois := p.cols.zipIdx.map fun q => smGet false x.poison ((base + q.2) * 2 + p.page) ||
      bad.any fun b => b.1 == base + q.2 && b.2.1 == i
    let cyc := D + i + 2
    let d :=
      if tgt = 2 then
        acc.1.chainOwn pu u r {
          eng := e, pass := p.index, row := i, vals := rows, pois := pois, cyc := cyc, ticket := p.ticket, task := dTask r.desc
          tag := if i = 0 then some { id := dfld r.desc 15 7 0, rnd := dfld r.desc 15 9 8,
                                      pass := p.index % 65536, width := r.width } else none }
      else acc.1.deliver pu u p.ticket tgt (64 * p.rb + i) (r.passAt p.index).2
        (passCols r (r.passAt p.index).2) rows.flatten (spread rows pois) (fun a => 0x009 + a) cyc
    (d.1, firstHalt acc.2 d.2)) (s, none)
  let s := z.1.bumpSpec pu r.prov.spec (rUnit pu (0x40 + 8 * e)) 63 40 1
  let s := match (s.unit pu).runs.find? fun q => q.prov.ticket == p.ticket with
    | none => s
    | some q => s.setRun pu { q with drained := q.drained + 1, endCyc := max q.endCyc (D + 66),
                                     refused := q.refused || z.2.isSome }
  (s, z.2)

end State

/-! ### Operand staging (R80, R81) and the feed -/

/-- An operand port of an engine in a pass: its agent, the format and tile map of its operand, whether a
vector lies along a stored row (ORIENT = ROW), the indices that its vectors span. -/
structure OpPort where
  agent : Nat
  fmt   : Format
  map   : TileMap
  row   : Bool
  xs    : List Nat
  deriving DecidableEq, Repr

/-- One staging read: the fill slot that needs it, the cycle from which its half is free, the agent, the words
(offset div 32). -/
structure StageRd where
  slot  : Nat
  free  : Nat
  agent : Nat
  words : List Nat
  deriving DecidableEq, Repr

/-- The words that hold the vector of K-step `k`: a column group, or a row. -/
def OpPort.words (p : OpPort) (k : Nat) : List Nat :=
  (p.xs.map fun x => (if p.row then elemOff p.fmt p.map k x else elemOff p.fmt p.map x k) / 32).eraseDups

/-- The words of the scale records of the tiles that K-step `k` uses. -/
def OpPort.scales (p : OpPort) (k : Nat) : List Nat :=
  if p.fmt.blockScaled then
    ((p.xs.map (· / 64)).eraseDups.map fun b =>
      let j := if p.row then tileSlot p.map (k / 64) b else tileSlot p.map b (k / 64)
      (List.range 4).map fun i => p.map.sbase / 32 + 4 * j + i).flatten
  else []

/-- The staging reads of a port over the K-steps of a pass that starts in cycle `c`, each step with its first
fill slot, and what the port holds then.  A half holds one column group, or as many rows; the next group but
one may take it once it has been fed (R80).  The records of a tile are read unless the port holds them, from
the first slot of the tile before on (R81).  `g` and `free` are the group of the step before and the cycle from
which its half was free. -/
def OpPort.reads (p : OpPort) (c : Nat) :
    List (Nat × Nat) → PortHold → Option Nat → Nat → List StageRd × PortHold
  | [], h, _, _ => ([], h)
  | (k, i) :: ks, h, g, free =>
    let gk := k / (64 / p.fmt.q)
    let new := g != some gk
    let free := if new then h.old else free
    -- the group before has been fed when this one begins
    let h1 := if new then { h with old := if g.isNone then h.fed else c + i } else h
    let ws := p.scales k
    let tile := p.fmt.blockScaled && ws != h.recs
    let h2 := if tile then { h1 with recs := ws, recAt := c + i } else h1
    let z := p.reads c ks h2 (some gk) free
    ((if tile then [⟨i, h.recAt, p.agent, ws⟩] else []) ++
      (if new || p.row then [⟨i, free, p.agent, p.words k⟩] else []) ++ z.1, z.2)

/-- The active K-steps of a run, ascending. -/
def RunSt.steps (r : RunSt) : List Nat := (List.range (dK r.desc)).filter fun k => bitAt r.kMask k

/-- The ports of the engine in a pass of row block `rb` and column slices `sl` (R80, R212). -/
def RunSt.ports (r : RunSt) (rb : Nat) (sl : List (List Nat)) : List OpPort :=
  let d := r.desc
  let span := fun (bs : List Nat) => (bs.map fun b => (List.range 64).map fun i => 64 * b + i).flatten
  { agent := if r.slot = 0 then 0x001 else 0x004, fmt := fmtOf d 3 3 0, map := tileMap d 6,
    row := dfld d 3 28 28 == 1, xs := span [rb] } ::
  (sl.zipIdx.filter fun q => !q.1.isEmpty).map fun q =>
    { agent := (if r.slot = 0 then 0x002 else 0x005) + q.2, fmt := fmtOf d 3 7 4, map := tileMap d 8,
      row := dfld d 3 29 29 == 1, xs := span (q.1.map (· / 64)).eraseDups }

/-- First fill slot of the `i`-th K-step of a pass (R37). -/
def stepSlot (fa fb : Format) (i : Nat) : Nat :=
  if fa = .fp32 ∨ fb = .fp32 then 16 * i
  else if fa = .bf16 ∨ fb = .bf16 then 2 * i
  else if fa = .f4b ∧ fb = .f4b then i / 2
  else i

/-- What a port of the engine holds as a pass of descriptor `t` begins: records only of its own descriptor (log
entry 4). -/
def EngSt.hold (x : EngSt) (agent t : Nat) : PortHold :=
  let h := smGet {} x.ports agent
  if h.ticket = t then h else { h with recs := [], ticket := t }

namespace State

/-- The feed of a pass that starts in cycle `c`: in every fill slot an A vector on the broadcast bus, and
each operand and scale word read no later than two cycles before the slot that needs it (R80, R81, R204).
The manual leaves the cycle of a staging read open otherwise: it is made at the first position of its
owner while its half is free, and where there is none, in the last cycle that is in time (DESIGN CHOICE 4).
The first refused access ends the feed. -/
def feed (s : State) (pu u e : Nat) (r : RunSt) (c : Nat) : State × Option HaltInfo :=
  let d := r.desc
  let rg := r.passAt r.fed
  let fa := fmtOf d 3 3 0
  let fb := fmtOf d 3 7 4
  let ks := r.steps
  let n := fillSlots fa fb ks.length
  let steps := ks.zipIdx.map fun x => (x.1, stepSlot fa fb x.2)
  let x := s.eng pu e
  let ps := (r.ports rg.1 (r.slices rg.2)).map fun p => (p.agent, p.reads c steps (x.hold p.agent r.prov.ticket) none 0)
  let rds := (ps.map fun p => p.2.1).flatten
  let s := s.setEng pu e { x with ports := ps.foldl (fun m p => smSet {} m p.1 { p.2.2 with fed := c + n }) x.ports }
  let stage := fun (acc : State × Option HaltInfo) (slot : Nat) =>
    (rds.filter fun x => x.slot == slot).foldl (fun (acc : State × Option HaltInfo) x =>
      let z := acc.1.readWords pu u x.agent r.cmd
        { lo := max x.free (c - (acc.1.slotMap.frameLen + 2)), hi := c + slot - 2, due := c + slot - 2 } x.words
      (z.1, firstHalt acc.2 z.2.2)) acc
  (List.range n).foldl (fun (acc : State × Option HaltInfo) i =>
    match acc.2 with
    | some _ => acc
    | none =>
      let a := stage acc (i + 2)
      let z := a.1.portUse pu u (0x1000 + e) (if e = 0 then 0x001 else 0x004) (c + i) 0 r.cmd [] false
      (z.1, firstHalt a.2 z.2)) (stage (stage (s, none) 0) 1)

/-! ### PASS_START -/

/-- The pass that an engine would start next: its run. -/
def nextPass (s : State) (pu e : Nat) : Option RunSt :=
  if s.unitHalted pu || !((s.eng pu e).hist.drop 1).all (·.d.isSome) then none
  else (s.unit pu).runs.find? fun r => r.slot == e && r.started && !r.dead && decide (r.fed < r.total)

/-- R40: the first fill slot of the engine's next pass, with the wait that the drain before last
imposes. -/
def passStartCyc (x : EngSt) (g : Nat) : Nat × Nat :=
  let a := match x.hist with | p :: _ => p.fin | [] => 0
  let b := match x.hist with | _ :: p :: _ => (p.d.map (· + 61)).getD 0 | _ => 0
  let s0 := max (max a b) g
  let s1 := if x.frzAt ≤ s0 ∧ s0 < x.frzAt + x.frzLen then s0 + x.frzLen else s0
  (s1, b - max a g)

/-- Fill slots of each pass of a run (R37). -/
def passSlots (r : RunSt) : Nat := fillSlots (fmtOf r.desc 3 3 0) (fmtOf r.desc 3 7 4) r.steps.length

/-- The engine's next pass, of run `r`: the operands are staged and fed, the page is cleared, every event of
the pass is accumulated from the operands as the tile store holds them, and the pass takes its place in the
recurrence (R32 to R55, R68, R124 to R128). -/
def runPass (s : State) (pu u e : Nat) (r : RunSt) : State × Option HaltInfo :=
  let x := s.eng pu e
  let d := r.desc
  let rg := r.passAt r.fed
  let sl := r.slices rg.2
  let ks := r.steps
  let evs := events (fmtOf d 3 3 0 == .f4b && fmtOf d 3 7 4 == .f4b) ks
  let kc := passSlots r
  let c := passStartCyc x r.cyc0
  let fin := c.1 + kc + (if c.1 < x.frzAt ∧ x.frzAt < c.1 + kc then x.frzLen else 0)
  let y := s.feed pu u e r c.1
  match y.2 with
  | some h => (y.1, some h)
  | none =>
    let s := y.1
    let v := s.unit pu
    let page := x.count % 2
    let rows := (List.range 64).filter fun i => bitAt r.rowMask (64 * rg.1 + i)
    let aPoison := ks.any fun k => (List.range 64).any fun i => (v.opA r (64 * rg.1 + i) k).2
    let z := (sl.zipIdx.filter fun q => !q.1.isEmpty).foldl
      (fun (acc : SMap W32 × SMap Bool × Nat × Nat) q =>
        let arr := arrBase e + q.2
        let phys := s.physCols pu arr
        let pz := aPoison || ks.any fun k => q.1.any fun n => (v.opB r n k).2
        let cells := (rows.map fun i => (q.1.zipIdx.filter fun n => bitAt r.colMask n.1).map fun n =>
          (cellKey arr page i (phys.getD n.2 0), v.cell r evs (64 * rg.1 + i) n.1)).flatten
        (cells.foldl (fun m c => smSet zero32 m c.1 c.2.v) (clearPage acc.1 arr page),
          smSet false acc.2.1 (arr * 2 + page) pz,
          acc.2.2.1 + (cells.map fun c => c.2.ovf).sum, acc.2.2.2 + (cells.map fun c => c.2.nan).sum))
      (x.page, x.poison, 0, 0)
    let p : PassRec := { ticket := r.prov.ticket, index := r.fed, page := page, rb := rg.1, cols := sl,
                         s := c.1, fin := fin }
    let s := s.setEng pu e { s.eng pu e with
      count := x.count + 1, page := z.1, poison := z.2.1, hist := (p :: x.hist).take 3 }
    let s := s.setRun pu { r with fed := r.fed + 1 }
    let s := s.bumpSpec pu r.prov.spec (rUnit pu (0x40 + 8 * e)) 39 0 c.2
    let s := s.bumpSpec pu r.prov.spec (rUnit pu 0x50) 63 48 z.2.2.1
    (s.bumpSpec pu r.prov.spec (rUnit pu 0x50) 47 32 z.2.2.2, none)

/-! ### GO_START -/

/-- The prepared GO at the head of a slot's queue, with its run. -/
def readyGo (s : State) (pu sl : Nat) : Option (RunSt × Nat × List QEnt) :=
  match (s.unit pu).queue sl with
  | { cmd := .go ph, prov := p, stage := .prepared } :: rest =>
    ((s.unit pu).runs.find? fun r => r.prov.ticket == p.ticket).map fun r => (r, ph, rest)
  | _ => none

/-- Cycle 0 of a prepared descriptor: its queue entry is freed (R183, R191), a phase wait is counted (R221), an
ENGINE = RRU descriptor performs its operation (R141). -/
def startGo (s : State) (pu u sl : Nat) (g : RunSt × Nat × List QEnt) : State × Option HaltInfo :=
  let r := g.1
  let p := r.prov
  let s := s.updUnit pu fun v => v.setQueue sl g.2.2
  let s := if r.phaseWait then
      (s.countSlip pu p.spec (rUnit pu 0x60) g.2.1).bumpSpec pu p.spec (rUnit pu 0x60) 39 24 1
    else s
  let s := if dDrain r.desc = 2 && sl != 2 then s.setBit (rUnit pu 0x58) 0 else s
  let r := { r with started := true, endCyc := r.cyc0 }
  let x := if sl = 2 then s.rruRun pu u r else (s, r, none)
  let s := x.1.updUnit pu fun v => { v with
    runs := v.runs.map fun q => if q.prov.ticket == p.ticket then x.2.1 else q }
  (s.declareAll pu, x.2.2)

/-! ### The halt cycle (R69) -/

/-- What an engine does next, if that leads to a drain which starts by cycle `c`: the drain itself, a pass that
is then drained, the start of a prepared descriptor. -/
def dueWork (s : State) (pu u e c : Nat) : Option (State × Option HaltInfo) :=
  match s.nextDrain pu u e with
  | some x =>
    if x.2.2.1 + x.2.2.2 ≤ c then some (s.drainPass pu u e x.1 x.2.1 x.2.2 []) else none
  | none =>
    match s.nextPass pu e with
    | some r =>
      if (passStartCyc (s.eng pu e) r.cyc0).1 + passSlots r + 3 ≤ c then some (s.runPass pu u e r) else none
    | none =>
      match s.readyGo pu e with
      | some g => if !s.unitHalted pu && decide (g.1.cyc0 ≤ c) then some (s.startGo pu u e g) else none
      | none => none

/-- Both engines carried to the halt cycle of `h`: what starts its drain by then is fed and drained, each row
judged (R69, R220).  A halt that arises on the way in an earlier cycle is the unit's. -/
def toHalt (s : State) (pu u : Nat) : Nat → HaltInfo → State × HaltInfo
  | 0, h => (s, h)
  | fuel + 1, h =>
    let go := fun (z : State × Option HaltInfo) => z.1.toHalt pu u fuel (match z.2 with
      | some k => if k.before h then k else h
      | none => h)
    match s.dueWork pu u 0 (h.cyc.getD 0) with
    | some z => go z
    | none => match s.dueWork pu u 1 (h.cyc.getD 0) with
      | some z => go z
      | none => (s, h)

/-- A halt of the unit's work in its halt cycle (R69). -/
def haltAt (s : State) (pu u : Nat) (h : HaltInfo) : State :=
  match h.cyc with
  | some _ =>
    let n := ((s.unit pu).runs.map fun r => 2 * r.total + 1).foldl (· + ·) 0
    let z := s.toHalt pu u n h
    z.1.haltWork pu z.2
  | none => s.haltWork pu h

/-- A piece of work that may end in a halt. -/
def orHalt (z : State × Option HaltInfo) (pu u : Nat) : State :=
  match z.2 with
  | some h => z.1.haltAt pu u h
  | none => z.1

/-- DRAIN_START (R39, R40): the oldest undrained page of the engine. -/
def fxDrainStart (s : State) (u e : Nat) (parity : List (Nat × Nat × Nat)) : State :=
  match s.physUnit u with
  | none => s
  | some pu =>
    match s.nextDrain pu u e with
    | none => s
    | some x => orHalt (s.drainPass pu u e x.1 x.2.1 x.2.2 parity) pu u

/-- PASS_START (R40): the engine's next pass. -/
def fxPassStart (s : State) (u e : Nat) : State :=
  match s.physUnit u with
  | none => s
  | some pu =>
    match s.nextPass pu e with
    | none => s
    | some r => orHalt (s.runPass pu u e r) pu u

/-- GO_START (R183): cycle 0 of a prepared descriptor. -/
def fxGoStart (s : State) (u sl : Nat) : State :=
  match s.physUnit u with
  | none => s
  | some pu =>
    match s.readyGo pu sl with
    | none => s
    | some g => orHalt (s.startGo pu u sl g) pu u

end State

/-! ### The meanings of the commands -/

/-- GO_START (R183). -/
def execGoStart (u : UnitIx) (sl : Slot) (s : State) : Host.Outcome State Fault Refusal :=
  .next (s.fxGoStart u.val (slotIx sl))

/-- PASS_START (R40). -/
def execPassStart (u : UnitIx) (e : Eng) (s : State) : Host.Outcome State Fault Refusal :=
  .next (s.fxPassStart u.val (engIx e))

/-- DRAIN_START (R39). -/
def execDrainStart (u : UnitIx) (e : Eng) (parity : List (Fin 6 × Fin 64 × Fin 66)) (s : State) : Host.Outcome State Fault Refusal :=
  .next (s.fxDrainStart u.val (engIx e) (parity.map fun x => (x.1.val, x.2.1.val, x.2.2.val)))

end Sys2Proof.Machine
end

