-- ==== Sys2Proof/Machine/Complete.lean ====
section
/-!
DEFINITION. Completion of descriptors and their scale reports (R43, R135, R151 to R156, R184), the
chain's arrivals and aborts (R133 to R137), the watchdog (R244).
-/

namespace Sys2Proof.Machine

namespace State

/-! ### Completion -/

/-- A scale-record update sent at completion (R153, R151). -/
def scaleUpd (addr act clu : Nat) (rep : Report) : ScaleUpd :=
  { addr := addr, report := if act = 2 then none else some rep, close := act == 1 || act == 2, clu := clu }

/-- The updates of a run's two outputs. -/
def scaleUpds (r : RunSt) (u clu : Nat) : List ScaleUpd :=
  let d := judged r.desc u
  ((r.recOut.map fun a => scaleUpd a (dfld d 13 23 22) clu r.repOut).toList) ++
    (r.recRru.map fun a => scaleUpd a (dfld d 13 31 30) clu r.repRru).toList

/-- A run has landed everything it writes. -/
def runLanded (r : RunSt) (u : Nat) : Bool :=
  r.started && !r.dead && !r.refused && r.fed == r.total && r.drained == r.total &&
    (!(dFwdBwd r.desc && isTail r.desc u && dDrain r.desc == 2) || r.landed == r.total)

/-- DESCRIPTOR_COMPLETE (R43, R135, R184): the serial is recorded, scale reports and CLOSEs are sent,
regions complete, AFTER_GO tokens are sent (R151, R153, R196, R225, R242). -/
def fxDescriptorComplete (s : State) (u sl : Nat) : State :=
  match s.physUnit u with
  | none => s
  | some pu =>
    match (s.unit pu).runs.find? fun r => r.slot == sl with
    | none => s
    | some r =>
      if !runLanded r u then s
      else
        let spec := r.prov.spec
        let s := if sl = 0 then s.setSpec pu spec (rUnit pu 0x108) 31 0 (dSerial r.desc)
          else if sl = 1 then s.setSpec pu spec (rUnit pu 0x108) 63 32 (dSerial r.desc)
          else s.setSpec pu spec (rUnit pu 0x110) 63 32 (dSerial r.desc)
        let ups := scaleUpds r u (pu / 4)
        let s := if spec then s.updUnit pu fun v => { v with held := v.held ++ ups.map HeldEff.scale }
          else { s with scaleQ := s.scaleQ ++ ups }
        let s := s.updUnit pu fun v => { v with runs := v.runs.filter fun q => q.prov.ticket != r.prov.ticket }
        let s := if s.chainRuns pu then s else s.clrBit (rUnit pu 0x58) 0
        (s.complete pu r.prov).flushSigs (pu / 4)

/-! ### Scale records at their slice -/

/-- A field of a record's bytes. -/
def recNat (bs : List Byte) (o n : Nat) : Nat := leVal ((bs.drop o).take n)

/-- R152: the bytes of a record after a report. -/
def applyReport (bs : List Byte) (p : Report) : List Byte :=
  let st := recNat bs 5 1
  let ovf := if 0 < p.novf then 1 else st % 2
  let nnf := if 0 < p.nnf then 1 else st / 2 % 2
  let w := fun o n v (l : List Byte) => splice l o (leBytes n v)
  w 20 4 (fMax (BitVec.ofNat 32 (recNat bs 20 4)) p.amax).toNat <|
  w 12 4 (min (recNat bs 12 4 + p.nnf) (2 ^ 32 - 1)) <|
  w 8 4 (min (recNat bs 8 4 + p.novf) (2 ^ 32 - 1)) <|
  w 6 2 (min (recNat bs 6 2 + 1) 65535) <|
  w 5 1 (ovf + 2 * nnf + st / 4 * 4) bs

/-- The smallest integer t with est ≤ LMAX × 2^(t − HEADROOM) (R153). -/
def scaleT (est : W32) (g8 : Bool) (head : Nat) : Option Int :=
  match val32 est with
  | .fin _ m e =>
    ((List.range 768).map fun (i : Nat) => (i : Int) - 256).find? fun t =>
      leMag m e 7 ((if g8 then 13 else 6) + t - head)
  | _ => none

/-- R153: a CLOSE of a record with NREP > 0; `free` stands for T_NEXT where the history holds no finite
maximum. -/
def applyClose (bs : List Byte) (free : Byte) : List Byte :=
  let hlen := recNat bs 3 1 % 16
  let hpos := recNat bs 3 1 / 16 % 8
  let ctrl := recNat bs 4 1
  let bs1 := splice bs (32 + 4 * hpos) ((bs.drop 20).take 4)
  let told := sgn 8 (recNat bs 1 1)
  let est := (List.range hlen).foldl (fun a i => fMax a (BitVec.ofNat 32 (recNat bs1 (32 + 4 * i) 4))) 0xFF800000#32
  let t0 : Option Int := if positive est then scaleT est (ctrl / 8 % 2 == 1) (recNat bs 2 1)
    else if isNan32 est then none else some told
  let t1 := t0.map fun t => if recNat bs 5 1 % 2 = 1 then max t (told + (ctrl / 2 % 4 : Nat)) else t
  let next : Byte :=
    if ctrl % 2 = 0 then BitVec.ofNat 8 (recNat bs 1 1)
    else match t1 with
      | some t => BitVec.ofInt 8 (min (max t (-127)) 127)
      | none => free
  let w := fun o n v (l : List Byte) => splice l o (leBytes n v)
  w 20 4 0 <| w 16 4 (recNat bs 16 4 + 1) <| w 6 2 0 <| w 5 1 0 <|
  w 3 1 (recNat bs 3 1 / 128 * 128 + (hpos + 1) % hlen * 16 + hlen) <|
  splice (splice bs1 0 [BitVec.ofInt 8 told]) 1 [next]

/-- The bytes [lo, hi) of a record that changed hands written at its slice. -/
def putRecord (s : State) (addr lo hi : Nat) (bs : List Byte) : State :=
  s.memWrite (addr + lo) ((bs.drop lo).take (hi - lo)) 0

/-- SCALE_REPORT (R152): the slice applies the report of the `i`-th update in flight. -/
def fxScaleReport (s : State) (i : Nat) : State :=
  match s.scaleQ[i]? with
  | none => s
  | some x =>
    match x.report with
    | none => s
    | some p =>
      let r := s.memRead x.addr 64 0
      let s := r.1.putRecord x.addr 5 24 (applyReport r.2.1 p)
      { s with scaleQ := if x.close then s.scaleQ.set i { x with report := none } else s.scaleQ.eraseIdx i }

/-- SCALE_CLOSE (R153, R156): the slice applies the CLOSE of the `i`-th update in flight. -/
def fxScaleClose (s : State) (i : Nat) : State :=
  match s.scaleQ[i]? with
  | none => s
  | some x =>
    if x.report.isSome || !x.close then s
    else
      let s := { s with scaleQ := s.scaleQ.eraseIdx i }
      let r := s.memRead x.addr 64 0
      let s := r.1
      let bs := r.2.1
      if recNat bs 6 2 = 0 then s
      else
        let f := s.freeBytes 1
        let nb := applyClose bs (f.1.headD 0#8)
        let s := f.2.putRecord x.addr 0 2 nb
        let s := s.putRecord x.addr 3 4 nb
        let s := s.putRecord x.addr 5 24 nb
        let s := s.putRecord x.addr 32 64 nb
        let a := rDie ((s.chanAddr x.addr).1 / 64) 0x28
        let s := s.bump a 63 32 1
        let s := s.bump a 31 16 (recNat bs 5 1 % 2)
        s.bump a 15 0 (recNat bs 5 1 / 2 % 2)

/-! ### The chain -/

/-- CHAIN_ROW_ARRIVE (R133, R134, R470): the oldest row on the link of a unit passes the region gateway
and lands in the chain buffer (port class 2); rows that have their partner are added.  A halted unit
discards it, unless a started drain waits for it (R69, R137). -/
def fxChainRowArrive (s : State) (u : Nat) : State :=
  match s.physUnit u with
  | none => s
  | some pu =>
    match (s.unit pu).chain.link with
    | [] => s
    | x :: rest =>
      let s := s.updUnit pu fun v => { v with chain := { v.chain with link := rest } }
      if x.src.1 ≠ pu / 4 ∧ !s.gatewayOk x.src.1 x.src.2 then
        (s.gatewayDrop x.src.1 x.src.2).updUnit pu fun v => { v with chain := { v.chain with dead := true } }
      else if s.unitHalted pu && !(s.unit pu).chain.own.any (fun y => y.eng == x.eng && y.pass == x.pass) then s
      else
        let run := (s.unit pu).runs.find? fun r => r.slot == x.eng && dDrain r.desc == 2
        let k : Cmd := match run with
          | some r => { r.cmd with task := x.task }
          | none => { task := x.task, serial := 0, source := 5, prov := {} }
        let y := (List.range x.vals.length).foldl (fun (acc : State × Option HaltInfo) i =>
          if (x.vals.getD i []).isEmpty then acc
          else
            let z := acc.1.portUse pu u (0x2000 + arrBase x.eng + i) 0x016 x.cyc 0 k [] false
            (z.1, firstHalt acc.2 z.2)) (s, none)
        match y.2 with
        | some h => y.1.haltAt pu u h
        | none =>
          orHalt ((y.1.updUnit pu fun v => { v with chain := { v.chain with buf := v.chain.buf ++ [x] } }).chainMatch
            pu u x.eng 130) pu u

/-- The predecessor's link is dead: the gateway says so, or the cluster is absent (R137). -/
def linkDead (s : State) (pu u : Nat) : Bool := (s.unit pu).chain.dead || (s.physUnit (u - 1)).isNone

/-- A halted member has rows of started drains still to send on. -/
def stillSends (s : State) (u : Nat) : Bool :=
  match s.physUnit u with
  | some q => !(s.unit q).chain.own.isEmpty && !(s.unit q).chain.link.isEmpty
  | none => false

/-- CHAIN_ABORT (R137): a member that has received an abort behind the last row, or whose predecessor's
generation was retired, halts with STREAM_FAULT and aborts its successor.  DESIGN CHOICE 28: an abort that comes
before the member has prepared its chain descriptor halts nothing and is forgotten. -/
def fxChainAbort (s : State) (u : Nat) : State :=
  match s.physUnit u with
  | none => s
  | some pu =>
    let c := (s.unit pu).chain
    let run := (s.unit pu).runs.find? fun r => r.slot != 2 && dDrain r.desc == 2 && decide (dFirst r.desc < u)
    match run with
    | none => s.updUnit pu fun v => { v with chain := { v.chain with abort := false, dead := false } }
    | some r =>
      let ab := c.abort && c.link.isEmpty && !s.stillSends (u - 1)
      if s.unitHalted pu || !(ab || s.linkDead pu u) then s
      else
        let s := s.updUnit pu fun v => { v with chain := { v.chain with abort := false, dead := false } }
        let s := s.setBit (rUnit pu 0x58) 1
        let s := s.clearSflt pu
        s.haltUnit pu { reason := 0x0B, source := 5, prov := r.prov, task := dTask r.desc, serial := dSerial r.desc,
                        sub := if ab then 7 else 8 }

/-! ### The watchdog -/

/-- The command that a watchdog halt names (R244): the head of the queue whose head is earliest in
program order, else the earliest running descriptor or stream.  DESIGN CHOICE 11: the halt of a queued CFG or GO
reports TASK 0, also where the GO has been prepared. -/
def watchdogName (v : UnitSt) : Option HaltInfo :=
  let heads : List HaltInfo :=
    ([0, 1, 2].filterMap fun sl => (v.queue sl).head?.map fun e =>
      ({ reason := 0x0D, source := sl, prov := e.prov } : HaltInfo)) ++
    (v.squeue.head?.map fun e => ({ reason := 0x0D, source := 3, prov := e.prov, task := e.task } : HaltInfo)).toList
  let works : List HaltInfo :=
    (v.runs.map fun r => ({ reason := 0x0D, source := r.slot, prov := r.prov, task := dTask r.desc,
                             serial := dSerial r.desc } : HaltInfo)) ++
    v.streams.filterMap fun x => match x.2 with
      | some st => if st.halted then none
          else some ({ reason := 0x0D, source := 3, prov := st.prov, task := x.1 % 8 } : HaltInfo)
      | none => none
  let first := fun (l : List HaltInfo) => l.foldl (fun (a : Option HaltInfo) h => match a with
    | some b => if h.prov.ticket < b.prov.ticket then some h else some b
    | none => some h) none
  match first heads with
  | some h => some h
  | none => first works

/-- WATCHDOG (R244): no progress for LIMIT_US. -/
def fxWatchdog (s : State) (u : Nat) : State :=
  match s.physUnit u with
  | none => s
  | some pu =>
    if s.unitHalted pu || s.regF (rUnit pu 0x70) 15 0 == 0 then s
    else match watchdogName (s.unit pu) with
      | none => s
      | some h => s.haltWork pu h

end State

/-! ### The meanings of the commands -/

/-- DESCRIPTOR_COMPLETE (R43). -/
def execDescriptorComplete (u : UnitIx) (sl : Slot) (s : State) : Host.Outcome State Fault Refusal :=
  .next (s.fxDescriptorComplete u.val (slotIx sl))

/-- SCALE_REPORT (R152). -/
def execScaleReport (i : Nat) (s : State) : Host.Outcome State Fault Refusal :=
  .next (s.orWait fun s => s.fxScaleReport i)

/-- SCALE_CLOSE (R153). -/
def execScaleClose (i : Nat) (s : State) : Host.Outcome State Fault Refusal :=
  .next (s.orWait fun s => s.fxScaleClose i)

/-- CHAIN_ROW_ARRIVE (R133). -/
def execChainRowArrive (u : UnitIx) (s : State) : Host.Outcome State Fault Refusal :=
  .next (s.fxChainRowArrive u.val)

/-- CHAIN_ABORT (R137). -/
def execChainAbort (u : UnitIx) (s : State) : Host.Outcome State Fault Refusal :=
  .next (s.fxChainAbort u.val)

/-- WATCHDOG (R244). -/
def execWatchdog (u : UnitIx) (s : State) : Host.Outcome State Fault Refusal :=
  .next (s.fxWatchdog u.val)

end Sys2Proof.Machine
end

