-- ==== Sys2Proof/Machine/Stream.lean ====
section
/-!
DEFINITION. Streams (chapter 09): start, issue, delivery and finish, translation of host addresses.
-/

namespace Sys2Proof.Machine

/-! ### Start checks (R249, R250, R254, R255) -/

/-- Named bits of the header and instruction words. -/
def hdrBits : Nat → List (Nat × Nat)
  | 0 => [(63, 52), (50, 48), (41, 0)]
  | 7 => []
  | _ => [(63, 48), (47, 0)]

def insBits : Nat → List (Nat × Nat)
  | 0 => [(63, 40), (39, 0)]
  | 1 => [(58, 48), (46, 40), (39, 16)]
  | 2 => [(57, 0)]
  | _ => [(20, 0)]

/-- A word with bits other than the named ones. -/
def strayBits (w : W64) (bs : List (Nat × Nat)) : Bool := (bs.foldl (fun x r => setFld x r.1 r.2 0) w) != 0#64

/-- One instruction that breaks the FORMAT checks. -/
def insBad (hdr w : List W64) : Bool :=
  let nd := dfld hdr 0 50 48
  let op := dfld w 0 63 60
  let fc := dfld w 0 59 56
  let f := iFmt w
  let hint := dfld w 0 55 54
  let rd := dfld w 0 53 51
  let sels := [rd, dfld w 0 50 48, dfld w 0 47 45]
  let m := tileMap w 2
  let blk := f.blockScaled
  (List.range 4).any (fun i => strayBits (wordAt w i) (insBits i)) ||
  decide (2 < op) || decide (5 < fc) || hint == 3 || (op != 0 && hint != 0) ||
  sels.any (fun x => x != 7 && decide (nd ≤ x)) ||
  (rd != 7 && decide (64 < sCount hdr rd)) ||
  (!blk && (dfld w 1 58 54 != 0 || dfld w 1 39 16 != 0 || dfld w 3 63 0 != 0)) ||
  (op != 2 && (dfld w 1 53 48 != 0 || dfld w 1 46 40 != 0)) ||
  (op == 2 && (dfld w 0 44 40 != 0 || dfld w 0 39 0 != 0)) ||
  (blk && (List.range 6).any fun d => decide (1 < sCount hdr d) && !sels.contains d) ||
  dfld w 0 39 0 % 16 != 0 ||
  -- R254: a row pitch that some scale-plane address uses
  (op != 2 && dfld w 1 39 16 % 2 != 0 && [rd, dfld w 0 50 48].any fun x => x != 7 && decide (1 < sCount hdr x)) ||
  decide (767 < m.base) || m.twin == 0 || decide (768 < m.twin) || decide (767 < m.tstrR) || decide (767 < m.tstrC) ||
  decide (768 < m.base + m.twin * f.q) ||
  (blk && (m.sbase % 128 != 0 || decide (1572864 < m.sbase + 128 * m.twin)))

/-- Order 4 of the start checks. -/
def formatBad (hdr : List W64) (ins : List (List W64)) : Bool :=
  let nd := dfld hdr 0 50 48
  dfld hdr 0 63 56 != 1 || nd == 0 || nd == 7 ||
  (List.range 8).any (fun i => strayBits (wordAt hdr i) (hdrBits i)) ||
  (List.range 6).any (fun d => decide (nd ≤ d) && dfld hdr (d + 1) 63 0 != 0) ||
  decide (2 ^ 32 < sTotal hdr) || ins.any (insBad hdr) ||
  (ins.any (fun w => decide (dfld w 0 63 60 < 2)) &&
    (List.range 6).any fun d => decide (1 < sCount hdr d) && decide (sStride hdr d % 16 ≠ 0))

/-- The window of an instruction and its scale records (R83, R250). -/
def insWindow (w : List W64) : List (Nat × Nat) := windowBytes w 2 (iFmt w)

/-- An instruction writes memory, or sends to another unit. -/
def insSends (w : List W64) : Bool := dfld w 0 63 60 != 0

namespace State

/-- Order 5: windows within the declared regions, and R223. -/
def regionBad (s : State) (pu : Nat) (hdr : List W64) (ins : List (List W64)) : Bool :=
  let rw := regionMasks (wordAt hdr 0)
  ins.any (fun w => (insWindow w).any fun x =>
    !s.covered pu (if dfld w 0 63 60 = 0 then rw.2 else rw.1 ||| rw.2) x.1 x.2) ||
  s.overlaps pu rw.2

/-- Order 6: the destination unit of a PUSH. -/
def pushBad (s : State) (u : Nat) (ins : List (List W64)) : Bool :=
  ins.any fun w => dfld w 0 63 60 == 2 &&
    let v := dieOfUnit u * 96 + dfld w 1 46 40
    (decide (96 ≤ dfld w 1 46 40) || v == u ||
      match s.physUnit v with
      | none => true
      | some q => (s.breg q (dfld w 1 53 48)).isNone ||
          (insWindow w).any fun x => !s.covered q (2 ^ dfld w 1 53 48) x.1 x.2)

/-- Words and poison of `n` program words from word `i` of a stream program. -/
def progWords (s : State) (pc : Nat) (e : SEnt) (i n : Nat) : State × List W64 × Bool :=
  if e.src = 0 then
    (s, words n (smGetL 0#8 (s.clu pc).store (e.prov.bank * 262144 + e.addr + 8 * i) (8 * n)),
      (List.range n).any fun k => smGet false (s.clu pc).spoison (e.prov.bank * 32768 + e.addr / 8 + i + k))
  else
    let r := s.memRead (e.addr + 8 * i) (8 * n) 0
    (r.1, words n r.2.1, r.2.2.any id)

/-- Four words each. -/
def fours : Nat → List W64 → List (List W64)
  | 0, _ => []
  | n + 1, ws => ws.take 4 :: fours n (ws.drop 4)

/-- Steps 2 and 3 of R255: the program read, its regions declared (R224), and the subcode of the first check
it fails.  A poisoned header has no contents to declare. -/
def readProg (s : State) (pu u : Nat) (e : SEnt) : State × List W64 × List (List W64) × Option Nat :=
  let h := s.progWords (pu / 4) e 0 8
  let n := dfld h.2.1 0 55 52 + 1
  let len := 64 + 32 * n
  if h.2.2 then (h.1, h.2.1, [], some 0x0A)
  else
    let s := h.1.updUnit pu fun v => v.declare e.prov.ticket (regionMasks (wordAt h.2.1 0))
    if (if e.src = 0 then decide (262144 < e.addr + len) else !s.rangePresent e.addr len) then
      (s, h.2.1, [], some 1)
    else
      let b := s.progWords (pu / 4) e 8 (4 * n)
      let ins := fours n b.2.1
      let sub := if b.2.2 then some 0x0A
        else if formatBad h.2.1 ins then some 1
        else if b.1.regionBad pu h.2.1 ins then some 2
        else if b.1.pushBad u ins then some 9
        else none
      (b.1, h.2.1, ins, sub)

/-- A start that fails (R255): a stream fault with a generator and a task and no element yet. -/
def startHalt (s : State) (pu : Nat) (e : SEnt) (sub : Nat) : State :=
  let who := e.gen * 2 ^ 52 + e.task * 2 ^ 49
  let s := if e.prov.spec then s.updUnit pu fun v =>
      { v.kill e.prov.ticket with
        squeue := v.squeue.drop 1
        held := v.held ++ [.setf (rUnit pu 0x140) 53 0 who, .setf (rUnit pu 0x148) 63 16 0,
                           .setf (rUnit pu 0x150) 63 0 0, .setf (rUnit pu 0x158) 63 0 0] }
    else (s.clearSflt pu).setRegF (rUnit pu 0x140) 53 0 who
  s.haltWork pu { reason := 0x0B, source := 3, prov := e.prov, task := e.task, sub := sub }

/-- A base address that breaks R254 (step 5). -/
def baseBad (pr : List W64) (ins : List (List W64)) : Bool :=
  ins.any fun w => decide (dfld w 0 63 60 < 2) &&
    ((pr.getD (dfld w 0 44 40) 0#64).toNat % 16 != 0 ||
      ((iFmt w).blockScaled && (pr.getD (dfld w 1 58 54) 0#64).toNat % 2 != 0))

/-- Requests of a stream that are outstanding, without their elements. -/
def openReqs (st : StreamSt) : List Req := (st.reqs.filter fun q => !q.done).map fun q => { q with elems := [] }

/-- STREAM_START (R255, R224): the program at the head of the stream queue is read and checked, its
regions are declared, and once the scoreboard admits it the stream runs. -/
def fxStreamStart (s : State) (u : Nat) : State :=
  match s.physUnit u with
  | none => s
  | some pu =>
    match (s.unit pu).squeue with
    | [] => s
    | e :: rest =>
      let old := s.stream pu e.gen e.task
      let busy := match old with | some st => !st.halted | none => false
      if busy || s.unitHalted pu then s
      else
        let r := match e.prog with
          | some p => (s, p.1, p.2, none)
          | none => s.readProg pu u e
        let s := r.1
        match r.2.2.2 with
        | some sub => s.startHalt pu e sub
        | none =>
          let hdr := r.2.1
          let ins := r.2.2.1
          let e := { e with prog := some (hdr, ins) }
          let s := s.updUnit pu fun v => { v with squeue := e :: rest }
          let v := s.unit pu
          if !v.admits e.prov.ticket || (s.serialise && !v.idleBefore e.prov.ticket) ||
              (e.prov.spec && (ins.any insSends || !s.specOk pu (regionMasks (wordAt hdr 0)).2)) then s
          else
            let pr := (List.range 32).map fun i => s.reg (rUnit pu (0x200 + 8 * i))
            if baseBad pr ins then s.startHalt pu e 1
            else
              let keep := match old with
                | some st => openReqs st
                | none => []
              s.updUnit pu fun v => { v with
                squeue := rest
                streams := smSet none v.streams (8 * e.gen + e.task)
                  (some { hdr := hdr, instrs := ins, pr := pr, prov := e.prov, total := sTotal hdr, reqs := keep }) }

/-! ### Issue (R258, R260, R266, R270) -/

/-- Requests of a stream outstanding (R260). -/
def outOf (st : StreamSt) : Nat := (st.reqs.filter fun q => !q.done).length

/-- Requests of a generator outstanding. -/
def genOut (s : State) (pu g : Nat) : Nat :=
  ((List.range 8).map fun t => match s.stream pu g t with
    | some st => outOf st
    | none => 0).foldl (· + ·) 0

/-- R266: the stream of task `t` is ready to issue. -/
def readyToIssue (s : State) (pu g t : Nat) : Bool :=
  match s.stream pu g t with
  | none => false
  | some st => !st.halted && decide (st.next < st.total) && !st.blocked && st.pend.isNone &&
      decide (outOf st < 64) && decide (s.genOut pu g < 256)

/-- The stream that the issue side serves next, and whether it is newly selected (R266). -/
def pickStream (s : State) (pu g : Nat) : Option (Nat × Bool) :=
  let cur := s.regF (rUnit pu (0x120 + 8 * g)) 47 45
  if s.readyToIssue pu g cur && decide (smGet 0 (s.unit pu).sinceSel g < 64) then some (cur, false)
  else ((List.range 8).map fun i => (cur + 1 + i) % 8).find? (fun t => s.readyToIssue pu g t) |>.map fun t => (t, true)

/-- A host address in the translation cache, with the rights of an access (R434). -/
def xlatHit (s : State) (addr : Nat) (write : Bool) : Bool :=
  let a := addr % 2 ^ 47
  s.atc.any fun e => e.pasid == s.streamPasid && decide (e.base ≤ a) && decide (a < e.base + 2 ^ e.size) && e.rd &&
    (!write || e.wr)

/-- The address of a range to ask a translation for: its own, or its last page's, of 4 KiB at least. -/
def xlatAsk (s : State) (addr n : Nat) (write : Bool) : Nat :=
  if s.xlatHit addr write then (addr + n - 1) / 4096 * 4096 else addr

/-- The first address of a range that is not present, for the fault's report. -/
def faultAddr (s : State) (addr n : Nat) : Nat :=
  if hostAddr addr || !s.pagePresent addr then addr else (addr + n - 1) / 2 ^ 21 * 2 ^ 21

/-- What the translation of a range finds (R267, R268, R270, R434): 0 issued, 1 a translation request is
needed, else a code of `failXlat`. -/
def translate (s : State) (addr n : Nat) (write : Bool) : Nat :=
  if hostAddr addr then
    if !s.ats || decide (2 ^ 48 < addr + n) then 3
    else if [addr, addr + n - 1].all fun a => s.xlatHit a write then 0 else 1
  else if !populated (addr + n - 1) then 3
  else
    let ends := [addr, addr + n - 1]
    if ends.any fun a => !s.pagePresent a then 256
    else if write && ends.any (fun a => !s.pageWritable a) then 6
    else 0

/-- The ranges of an element: data, and for F4B and G6B the scale bytes (R252, R253). -/
def elemRanges (st : StreamSt) (E : Nat) : List (Nat × Nat × Bool) :=
  let f := iFmt (st.instr E)
  (st.addr E, rowBytes f, true) :: (if f.blockScaled then [(st.saddr E, 2, false)] else [])

/-- Tile-store offsets of the words of an element's row (R79, R252). -/
def rowWords (st : StreamSt) (E : Nat) : List Nat :=
  let w := st.instr E
  let f := iFmt w
  let m := tileMap w 2
  let x := st.tile E
  let a := m.base + tileSlot m x.2.1 x.2.2 * f.q
  (List.range f.q).map fun h => (a + h) * 2048 + (x.1 + h * (64 / f.q) + tileRot m x.2.1 x.2.2) % 64 * 32

/-- Offsets of the two scale bytes of an element's row. -/
def rowScales (st : StreamSt) (E : Nat) : List Nat :=
  let w := st.instr E
  if (iFmt w).blockScaled then
    let m := tileMap w 2
    let x := st.tile E
    let o := m.sbase + 128 * tileSlot m x.2.1 x.2.2
    [o + x.1, o + 64 + x.1]
  else []

/-- Bytes packed 4 elements of 6 bits in 3 bytes (R121). -/
def pack6 : Nat → List Byte → List Byte
  | 0, _ => []
  | n + 1, bs =>
    leBytes 3 (((bs.take 4).zipIdx.map fun x => x.1.toNat % 64 * 64 ^ x.2).foldl (· + ·) 0) ++ pack6 n (bs.drop 4)

/-- The 8-bit containers of packed elements (R118). -/
def unpack6 : Nat → List Byte → List Byte
  | 0, _ => []
  | n + 1, bs =>
    let v := leVal (bs.take 3)
    ((List.range 4).map fun i => BitVec.ofNat 8 (v / 64 ^ i % 64)) ++ unpack6 n (bs.drop 3)

/-- An element's row in its packed memory form, with the poison of each byte, and its scale bytes
(R610). -/
def tileRow (v : UnitSt) (st : StreamSt) (E : Nat) : List (Byte × Bool) × List (Byte × Bool) :=
  let ws := rowWords st E
  let raw := (ws.map fun o => (List.range 32).map fun i => v.byte (o + i)).flatten
  let p := (ws.map fun o => v.poisoned o)
  let sc := (rowScales st E).map fun o => (v.byte o, v.poisoned o)
  if iFmt (st.instr E) = .g6b then
    ((pack6 16 raw).zipIdx.map fun x => (x.1, p.getD (x.2 / 24) false), sc)
  else (raw.zipIdx.map fun x => (x.1, p.getD (x.2 / 32) false), sc)

/-- A request merged into the one of the element before it, or added (R258). -/
def addReq (id E : Nat) (write host isData : Bool) (addr len hint : Nat) (bs : List (Byte × Bool))
    (reqs : List Req) : List Req × Bool :=
  let ok := fun (q : Req) => !q.asked && !q.done && q.write == write && q.host == host && q.hint == hint &&
    decide (0 < E) && q.elems.contains (E - 1, isData) && q.addr + q.len == addr &&
    decide (q.len < 256) && decide (len < 256) && q.addr / 256 == (addr + len - 1) / 256
  match reqs.find? ok with
  | some q =>
    (reqs.map fun (x : Req) => if x.num == q.num then { q with
        len := q.len + len, elems := q.elems ++ [(E, isData)]
        got := q.got ++ bs.zipIdx.map fun b => (q.len + b.2, b.1.1, b.1.2) } else x, false)
  | none =>
    (reqs ++ [{ num := id, addr := addr, len := len, write := write, hint := hint, host := host,
                elems := [(E, isData)], got := bs.zipIdx.map fun b => (b.2, b.1.1, b.1.2) }], true)

/-- Records of the crossbar of a logical cluster. -/
def cluRecs (s : State) (c : Nat) : List SlotRec := smGet [] s.slotMap.clus c

/-- Beats of an element on the crossbar or the die network (R610). -/
def beats : Format → Nat
  | .fp32 => 4 | .bf16 => 2 | _ => 1

/-- The way of an element through the ports (R263): the latest cycle so far, the first cycle behind the stream's
last access by port, and the accesses in turn, each with its port's key and its cycle. -/
structure Path where
  last : Nat
  used : SMap Nat
  acc  : List (Nat × Nat) := []
  deriving DecidableEq, Repr

/-- The cycles of a path's accesses to the banks of one tile store, in turn. -/
def Path.cycles (p : Path) (key : Nat) : List Nat :=
  (p.acc.filter fun a => decide (key ≤ a.1) && decide (a.1 < key + 64)).map (·.2)

/-- Accesses to ports of one list, one after the other, each at the next position of the owner from the path's
latest cycle on and after the stream's last access to the port (R207, R253, R264); none where the owner has no
run.  `key` tells the ports of the list apart from those of others. -/
def takePorts (s : State) (die : Nat) (recs : List SlotRec) (owner key : Nat) (ps : List Nat)
    (x : Option Path) : Option Path :=
  let F := s.slotMap.frameLen
  match x with
  | none => none
  | some p0 => ps.foldl (fun acc p => match acc with
    | none => none
    | some x =>
      let from_ := max p0.last (smGet 0 x.used (key + p))
      (ownCyc recs F p owner (s.framePos die from_) from_ (from_ + F)).map fun c =>
        { last := max x.last c, used := smSet 0 x.used (key + p) (c + 1), acc := x.acc ++ [(key + p, c)] }) (some p0)

/-- The way of element `E` whose data is there at cycle `cyc` (R263): a LOAD's beats and then its bank words, a
STORE's or a PUSH's bank words and then its beats, and then the bank words of a PUSH's destination.  None where
the slot map gives the stream no run on a port of its way. -/
def elemPath (s : State) (u g t cyc : Nat) (st : StreamSt) (E : Nat) : Option Path :=
  let w := st.instr E
  let die := dieOfUnit u
  let v := die * 96 + dfld w 1 46 40
  let words := (rowWords st E ++ rowScales st E).map fun o => o / 32 % 64
  let n := beats (iFmt w)
  let unit_ := ownerOf t (0x012 + g)
  let xbar := fun (out : Nat) => s.takePorts die (s.cluRecs (u / 4)) (ownerOf t (4 * (u % 4) + g)) 0 (List.replicate n out)
  let own := s.takePorts die (s.unitRecs u) unit_ 0 words
  let x : Option Path := some { last := cyc, used := st.ports }
  match iOp w with
    | 0 => own (xbar (0x6000 + u % 4) x)
    | 1 => xbar 0x6004 (own x)
    | _ =>
      let y := if u / 4 = v / 4 then xbar (0x6000 + v % 4) (own x)
        else s.takePorts die (smGet [] s.slotMap.dies die) (ownerOf t (4 * (u % 96) + g)) 0
          (List.replicate n (0x7000 + v / 4 % 24)) (own x)
      s.takePorts die (s.unitRecs v) unit_ 0x10000 words y

/-- Requests of element `E` added to its stream, numbered from `id`; the requests, and how many are
new. -/
def elemReqs (st : StreamSt) (E id hint : Nat) (data scale : List (Byte × Bool)) : List Req × Nat :=
  (elemRanges st E).foldl (fun (acc : List Req × Nat) r =>
    let wr := st.stores E
    let x := addReq (id + acc.2) E wr (hostAddr r.1) r.2.2 r.1 r.2.1 (if hostAddr r.1 then 0 else hint)
      (if wr then (if r.2.2 then data else scale) else []) acc.1
    (x.1, if x.2 then acc.2 + 1 else acc.2)) (st.reqs, 0)

/-- The next element of a stream issued (R258, R266, R270).  One whose translation is asked for waits. -/
def issueElem (s : State) (pu u g t : Nat) (st : StreamSt) : State :=
  let E := st.next
  let op := iOp (st.instr E)
  let step := fun (s : State) (st : StreamSt) =>
    (s.setStream pu g t (some { st with next := E + 1, retry := false })).updUnit pu fun v =>
      { v with sinceSel := smSet 0 v.sinceSel g (smGet 0 v.sinceSel g + 1) }
  if st.xlat then s
  else if op = 2 then step s st
  else
    let tr := (elemRanges st E).map fun r => (r, s.translate r.1 r.2.1 (op == 1))
    match tr.find? fun x => x.2 != 0 with
    | some x =>
      if x.2 = 1 then
        let a := s.xlatAsk x.1.1 x.1.2.1 (op == 1)
        (s.setStream pu g t (some { st with xlat := true, faddr := x.1.1 })).emit (.xlatRequest u g t a s.streamPasid)
      else s.failXlat pu g t { st with faddr := x.1.1, fpage := s.faultAddr x.1.1 x.1.2.1 } x.2 false
    | none =>
      let v := s.unit pu
      let hint := if st.prov.spec && dfld (st.instr E) 0 55 54 == 2 then 0 else dfld (st.instr E) 0 55 54
      let row := if op = 1 then tileRow v st E else ([], [])
      let x := elemReqs st E s.reqSeq hint row.1 row.2
      if 64 < outOf st + x.2 ∨ 256 < s.genOut pu g + x.2 then s
      else if op = 1 && !s.gatewayOk (pu / 4) (s.cluGen (pu / 4)) then s.gatewayDrop (pu / 4) (s.cluGen (pu / 4))
      else step { s with reqSeq := s.reqSeq + x.2 } { st with reqs := x.1 }

/-- STREAM_ISSUE (R251, R258, R266, R270, R271). -/
def fxStreamIssue (s : State) (u g : Nat) : State :=
  match s.physUnit u with
  | none => s
  | some pu =>
    match s.pickStream pu g with
    | none => s
    | some (t, fresh) =>
      match s.stream pu g t with
      | none => s
      | some st =>
        let s := if fresh then
            (s.setRegF (rUnit pu (0x120 + 8 * g)) 47 45 t).updUnit pu fun v =>
              { v with sinceSel := smSet 0 v.sinceSel g 0 }
          else s
        s.issueElem pu u g t st

/-! ### Delivery (R253, R256, R257, R263, R264) -/

/-- The request of a stream that holds element `E`'s data or scale bytes. -/
def reqOf (st : StreamSt) (E : Nat) (isData : Bool) : Option Req :=
  st.reqs.find? fun q => q.elems.contains (E, isData)

/-- The elements of a request all have a way to their memory: where the request writes, their bank words
and beats have positions (R207, R263).  What a stopped stream has issued completes (R257). -/
def wayOut (s : State) (u g t : Nat) (st : StreamSt) (q : Req) : Bool :=
  !q.write || st.halted || q.elems.all fun e => (s.elemPath u g t 0 st e.1).isSome

/-- Host requests of element `E` performed on the host's memory, with those left over from an earlier
stream of the context (R256, R257, R267). -/
def doHost (s : State) (pu u g t : Nat) (E : Nat) : State :=
  match s.stream pu g t with
  | none => s
  | some st =>
    (st.reqs.filter fun q => q.host && !q.done && s.wayOut u g t st q &&
      (q.elems.isEmpty || q.elems.contains (E, true) || q.elems.contains (E, false))).foldl
      (fun s q =>
        let a := q.addr % 2 ^ 47
        if q.write then
          let w := q.got.foldl (fun (m : SMap Byte) b => smSet 0#8 m (hostKey s.streamPasid (a + b.1)) b.2.1) s.hostMem
          ({ s with hostMem := w }).updStream pu g t fun st => { st with
            reqs := st.reqs.map fun (x : Req) => if x.num == q.num then { x with acc := x.len } else x }
        else
          let bs := s.hostRead s.streamPasid a q.len
          s.updStream pu g t fun st => { st with
            reqs := st.reqs.map fun (x : Req) => if x.num == q.num
              then { x with got := bs.zipIdx.map fun b => (b.2, b.1, false) } else x }) s

/-- The first element of a halted stream with a host request outstanding (R257). -/
def leftOver (st : StreamSt) : Nat :=
  match st.reqs.find? fun q => q.host && !q.done with
  | some q => ((q.elems.head?).map (·.1)).getD 0
  | none => 0

/-- An invalidation completes once no request issued to its range is outstanding (R269). -/
def settleInvals (s : State) : State :=
  let open_ := fun (x : Nat × Nat) => s.units.any fun u => u.2.streams.any fun y => match y.2 with
    | some st => st.reqs.any fun q => q.host && !q.done && decide (q.addr % 2 ^ 47 < x.1 + x.2) &&
        decide (x.1 < q.addr % 2 ^ 47 + q.len)
    | none => false
  (s.invals.filter fun x => !open_ x).foldl (fun s x => s.emit (.invalidateDone x.1 x.2))
    { s with invals := s.invals.filter open_ }

/-- The bytes of an element within its request, with their poison. -/
def reqBytes (st : StreamSt) (E : Nat) (isData : Bool) (addr n : Nat) : List (Byte × Bool) :=
  match reqOf st E isData with
  | none => []
  | some q => (List.range n).map fun i =>
      match q.got.find? fun b => b.1 == addr - q.addr + i with
      | some b => b.2
      | none => (0#8, false)

/-- The word writes that put a row in packed memory form, with its scale bytes, into a tile store, in turn
(R118, R253, R299): offset, bytes, poison. -/
def rowPuts (st : StreamSt) (E : Nat) (data scale : List (Byte × Bool)) : List (Nat × List (Nat × Byte) × Bool) :=
  let g6 := iFmt (st.instr E) == .g6b
  let raw := if g6 then unpack6 16 (data.map (·.1)) else data.map (·.1)
  let per := if g6 then 24 else 32
  ((rowWords st E).zipIdx.map fun w =>
    (w.1, (List.range 32).map fun i => (w.1 + i, raw.getD (32 * w.2 + i) 0#8),
      ((data.drop (per * w.2)).take per).any (·.2))) ++
    ((rowScales st E).zip scale).map fun x => (x.1, [(x.1, x.2.1)], x.2.2)

/-- The word reads that take a row and its scale bytes out of a tile store, in turn. -/
def rowGets (st : StreamSt) (E : Nat) : List (Nat × List (Nat × Byte) × Bool) :=
  (rowWords st E ++ rowScales st E).map fun o => (o, [], false)

/-- A stream's accesses to the words of a tile store in their cycles (R219, R253). -/
def streamWords (s : State) (pu u who : Nat) (k : Cmd) (agent : Nat) (ws : List ((Nat × List (Nat × Byte) × Bool) × Nat)) :
    State × Option HaltInfo :=
  ws.foldl (fun (acc : State × Option HaltInfo) w =>
    let v := acc.1.unit pu
    let z := acc.1.streamUse pu u who k agent w.2 w.1.1 (w.1.2.1.map fun b => (b.1, v.byte b.1))
    match z.2 with
    | some h => (z.1, firstHalt acc.2 (some h))
    | none => (if w.1.2.1.isEmpty then z.1
        else (z.1.noteWrote pu k.prov (w.1.1 / 32 * 32)).tileWrite pu w.1.2.1 w.1.2.2, acc.2)) (s, none)

/-- An element counted as delivered, and the finish of its stream with the last one (R256).  Requests of an
earlier stream of the context that are still outstanding stay so (R257). -/
def delivered (s : State) (pu g t : Nat) (st : StreamSt) : State :=
  let s := s.bumpSpec pu st.prov.spec (rUnit pu (0x120 + 8 * g)) 31 0 1
  let n := st.dlv + 1
  if n = st.total then
    ((s.setStream pu g t (if (openReqs st).isEmpty then none else some { stopped st with reqs := openReqs st })).complete pu st.prov).flushSigs (pu / 4)
  else s.setStream pu g t (some { st with
    dlv := n, reqs := st.reqs.filter fun q => !q.done || q.elems.any fun e => decide (n ≤ e.1) })

/-- The data of the element to deliver has come, or has been accepted. -/
def arrived (st : StreamSt) : Bool :=
  (elemRanges st st.dlv).all fun r => match reqOf st st.dlv r.2.2 with
    | some q => q.done
    | none => false

/-- The command whose work a stream's accesses are. -/
def streamCmd (st : StreamSt) (t : Nat) : Cmd := { task := t, serial := 0, source := 3, prov := st.prov }

/-- An element whose accesses have been made: a refused one halts the unit, else it is delivered (R219). -/
def afterWords (z : State × Option HaltInfo) (pu u g t : Nat) (st : StreamSt) : State :=
  match z.2 with
  | some h => (z.1.updStream pu g t stopped).haltAt pu u h
  | none => z.1.delivered pu g t st

/-- A LOAD element written in the tile store. -/
def deliverLoad (s : State) (pu u g t : Nat) (st : StreamSt) (p : Path) : State :=
  let E := st.dlv
  let f := iFmt (st.instr E)
  afterWords (s.streamWords pu u pu (streamCmd st t) (0x012 + g)
    ((rowPuts st E (reqBytes st E true (st.addr E) (rowBytes f))
      (if f.blockScaled then reqBytes st E false (st.saddr E) 2 else [])).zip (p.cycles 0))) pu u g t st

/-- A STORE element, read from the tile store when it was issued. -/
def deliverStore (s : State) (pu u g t : Nat) (st : StreamSt) (p : Path) : State :=
  afterWords (s.streamWords pu u pu (streamCmd st t) (0x012 + g) ((rowGets st st.dlv).zip (p.cycles 0))) pu u g t st

/-- A PUSH element: over the crossbar or the die network into the tile store of another unit. -/
def deliverPush (s : State) (pu u g t : Nat) (st : StreamSt) (p : Path) : State :=
  let E := st.dlv
  let v := dieOfUnit u * 96 + dfld (st.instr E) 1 46 40
  if u / 4 != v / 4 && !s.gatewayOk (pu / 4) (s.cluGen (pu / 4)) then s.gatewayDrop (pu / 4) (s.cluGen (pu / 4))
  else match s.physUnit v with
    | none => s.streamHalt pu g t { st with next := E } 0 9 false
    | some q =>
      if s.unitHalted q then s.streamHalt pu g t { st with next := E } 0 9 false
      else
        let row := tileRow (s.unit pu) st E
        let k := streamCmd st t
        let x := s.streamWords pu u pu k (0x012 + g) ((rowGets st E).zip (p.cycles 0))
        match x.2 with
        | some _ => afterWords x pu u g t st
        | none =>
          afterWords (x.1.streamWords q v pu k (0x012 + g) ((rowPuts st E row.1 row.2).zip (p.cycles 0x10000))) pu u g t st

/-- ELEMENT_DELIVERY (R256): the next element of a stream, whose data is there at cycle `cyc`, passes its ports
at the next positions of its owners and is delivered.  Of a stream that has halted, a host request that is
outstanding completes (R257). -/
def fxElementDelivery (s : State) (u g t cyc : Nat) : State :=
  match s.physUnit u with
  | none => s
  | some pu =>
    match s.stream pu g t with
    | none => s
    | some st0 =>
      if st0.halted then (s.doHost pu u g t (leftOver st0)).settleInvals
      else if st0.next ≤ st0.dlv then s
      else
        let s := (s.doHost pu u g t st0.dlv).settleInvals
        match s.stream pu g t with
        | none => s
        | some st =>
          match s.elemPath u g t cyc st st.dlv with
          | none => s
          | some p =>
            let st := { st with ports := p.used }
            match iOp (st.instr st.dlv) with
            | 0 => if arrived st then s.deliverLoad pu u g t st p else s
            | 1 => if arrived st then s.deliverStore pu u g t st p else s
            | _ => s.deliverPush pu u g t st p

/-! ### Faults that end (R273, R434, R435) -/

/-- FAULT_TIMEOUT (R273): FAULT_LIMIT_US has passed on a blocked stream. -/
def fxFaultTimeout (s : State) (u g t : Nat) : State :=
  match s.physUnit u with
  | none => s
  | some pu =>
    match s.stream pu g t with
    | none => s
    | some st =>
      if !st.blocked || st.halted || s.regF (rUnit pu 0x78) 15 0 == 0 then s
      else s.streamHalt pu g t st st.faddr 5 false

/-- ATS_TRANSLATION_RESPONSE (R434, R435): the host answers the translation request of a stream. -/
def fxAtsTranslationResponse (s : State) (u g t : Nat) (r w : Bool) (logSize : Nat) : State :=
  match s.physUnit u with
  | none => s
  | some pu =>
    match s.stream pu g t with
    | none => s
    | some st =>
      if !st.xlat || st.halted || logSize < 12 || 30 < logSize then s
      else
        let write := st.stores st.next
        -- the address that was asked for
        let n := match (elemRanges st st.next).find? fun x => x.1 == st.faddr with
          | some x => x.2.1
          | none => 1
        let a := s.xlatAsk st.faddr n write
        let base := a % 2 ^ 47 / 2 ^ logSize * 2 ^ logSize
        let s := if r then { s with
            atc := ({ pasid := s.streamPasid, base := base, size := logSize, rd := r, wr := w } ::
              s.atc.filter fun e => !(e.pasid == s.streamPasid && e.base == base)).take 8192 } else s
        let st := { st with fpage := a }
        if r && (w || !write) then s.setStream pu g t (some { st with xlat := false })
        else if r then s.failXlat pu g t st 6 false
        else if st.retry then s.failXlat pu g t st 4 false
        else s.failXlat pu g t st 257 false

/-- Every stream of the module by physical unit, generator, task. -/
def allStreams (s : State) : List (Nat × Nat × Nat) :=
  (s.units.map fun u => u.2.streams.map fun x => (u.1, x.1 / 8, x.1 % 8)).flatten

/-- Blocked streams that wait for a free group send their page request (R435). -/
def sendWaiting (s : State) : State := s.allStreams.foldl (fun s x => s.sendPageReq x.1 x.2.1 x.2.2) s

/-- A blocked stream of a host page refused (R273). -/
def refuseHost (s : State) (pu g t : Nat) : State :=
  match s.stream pu g t with
  | none => s
  | some st =>
    let s := s.setStream pu g t (some { st with prg := false })
    if st.halted then s else s.streamHalt pu g t { st with prg := false } st.faddr 4 false

/-- PAGE_REQUEST_RESPONSE (R435, R272, R273). -/
def fxPageRequestResponse (s : State) (u g t : Nat) (r : PageResp) : State :=
  match s.physUnit u with
  | none => s
  | some pu =>
    match s.stream pu g t with
    | none => s
    | some st =>
      if !st.prg then s
      else match r with
        | .success =>
          ((s.setStream pu g t (some { st with prg := false, blocked := false, retry := true })).clearPending pu g t).sendWaiting
        | .invalidRequest => (s.refuseHost pu g t).sendWaiting
        | .responseFailure =>
          let s := { s with priStop := true }
          s.allStreams.foldl (fun s x => match s.stream x.1 x.2.1 x.2.2 with
            | some y => if y.prg then s.refuseHost x.1 x.2.1 x.2.2 else s
            | none => s) s

/-- ATS_INVALIDATION (R269): the translations of the range go at once; it completes once no request issued to
the range is outstanding. -/
def fxAtsInvalidation (s : State) (addr len : Nat) : State :=
  let a := addr % 2 ^ 47
  ({ s with
    atc := s.atc.filter fun e => !(decide (e.base < a + len) && decide (a < e.base + 2 ^ e.size))
    invals := s.invals ++ [(a, len)] }).settleInvals

/-- Every blocked host stream halts with PAGE_REFUSED (R435). -/
def refuseBlocked (s : State) : State :=
  s.allStreams.foldl (fun s x => match s.stream x.1 x.2.1 x.2.2 with
    | some y => if y.blocked && y.faultId.isNone && !y.halted then s.refuseHost x.1 x.2.1 x.2.2 else s
    | none => s) s

/-- PRI_ENABLE_CLEAR (R435). -/
def fxPriEnableClear (s : State) : State := ({ s with pri := false, priStop := false }).refuseBlocked

end State

/-! ### The meanings of the commands -/

/-- STREAM_START (R255). -/
def execStreamStart (u : UnitIx) (s : State) : Host.Outcome State Fault Refusal :=
  .next (s.orWait fun s => s.fxStreamStart u.val)

/-- STREAM_ISSUE (R266). -/
def execStreamIssue (u : UnitIx) (g : GenIx) (s : State) : Host.Outcome State Fault Refusal :=
  .next (s.fxStreamIssue u.val g.val)

/-- ELEMENT_DELIVERY (R256). -/
def execElementDelivery (u : UnitIx) (g : GenIx) (k : TaskIx) (t : Nat) (s : State) : Host.Outcome State Fault Refusal :=
  .next (s.fxElementDelivery u.val g.val k.val t)

/-- FAULT_TIMEOUT (R273). -/
def execFaultTimeout (u : UnitIx) (g : GenIx) (k : TaskIx) (s : State) : Host.Outcome State Fault Refusal :=
  .next (s.fxFaultTimeout u.val g.val k.val)

/-- ATS_TRANSLATION_RESPONSE (R434). -/
def execAtsTranslationResponse (u : UnitIx) (g : GenIx) (k : TaskIx) (r : Bool) (w : Bool) (logSize : Nat) (s : State) : Host.Outcome State Fault Refusal :=
  .next (s.fxAtsTranslationResponse u.val g.val k.val r w logSize)

/-- PAGE_REQUEST_RESPONSE (R435). -/
def execPageRequestResponse (u : UnitIx) (g : GenIx) (k : TaskIx) (r : PageResp) (s : State) : Host.Outcome State Fault Refusal :=
  .next (s.fxPageRequestResponse u.val g.val k.val r)

/-- ATS_INVALIDATION (R269). -/
def execAtsInvalidation (addr : BitVec 48) (len : Nat) (s : State) : Host.Outcome State Fault Refusal :=
  .next (s.fxAtsInvalidation addr.toNat len)

/-- PRI_ENABLE_CLEAR (R435). -/
def execPriEnableClear (s : State) : Host.Outcome State Fault Refusal :=
  .next (s.fxPriEnableClear)

end Sys2Proof.Machine
end

