-- ==== Sys2Proof/Machine/Hbm.lean ====
section
/-!
DEFINITION. Requests at the cache slices, line fills, retraining, loss and migration of channels, the
traffic generator, flushes and pins (chapter 10; R559).
-/

namespace Sys2Proof.Machine

/-! ### Requests -/

/-- The request of a stream that a slice request names. -/
def reqOfStream (s : State) (u : UnitIx) (g : GenIx) (t : TaskIx) (i : Nat) : Option (Nat × Req) :=
  match s.physUnit u.val with
  | none => none
  | some pu => match s.stream pu g.val t.val with
    | none => none
    | some st => (st.reqs.find? fun q => q.num == i).map fun q => (pu, q)

/-- The hint of a request, a STREAM for writes of LAST_USE (R291). -/
def reqHint (s : State) : SliceReq → Nat
  | .read _ _ h => h.val
  | .write _ _ h => if h.val = 2 then 0 else h.val
  | .stream u g t i => match reqOfStream s u g t i with
    | some x => x.2.hint
    | none => 0

/-- Whether a request writes. -/
def reqWrites (s : State) : SliceReq → Bool
  | .read _ _ _ => false
  | .write _ _ _ => true
  | .stream u g t i => match reqOfStream s u g t i with
    | some x => x.2.write
    | none => false

/-- The bytes of a piece of a write, with their poison. -/
def pieceBytes (s : State) (w : Wait) : SliceReq → List (Byte × Bool)
  | .read _ _ _ => []
  | .write _ d _ => ((d.drop w.off).take w.n).map fun b => (b, false)
  | .stream u g t i => match reqOfStream s u g t i with
    | none => []
    | some x => (List.range w.n).map fun k =>
        match x.2.got.find? fun b => b.1 == w.off + k with
        | some b => b.2
        | none => (0#8, false)

/-- The pieces of a request of `n` bytes at device address `a`, with the offset of each. -/
def State.waits (s : State) (r : SliceReq) (a n : Nat) : List Wait :=
  (pieces (n / 128 + 2) a n).map fun p =>
    let c := s.chanAddr p.1
    { ch := c.1, line := c.2 / 128, lo := c.2 % 128, n := p.2, off := p.1 - a, req := r }

namespace State

/-- Bytes of a piece given back to the stream that asked, or a write counted as accepted. -/
def answer (s : State) (w : Wait) (bs : List (Byte × Bool)) : State :=
  match w.req with
  | .stream u g t i =>
    match s.physUnit u.val with
    | none => s
    | some pu => s.updStream pu g.val t.val fun st => { st with
        reqs := st.reqs.map fun (q : Req) =>
          if q.num == i then
            (if q.write then { q with acc := q.acc + w.n }
             else { q with got := q.got ++ bs.zipIdx.map fun b => (w.off + b.2, b.1.1, b.1.2) })
          else q }
  | _ => s

/-- The unit whose speculative stream makes a request (R230). -/
def reqSpec (s : State) : SliceReq → Option Nat
  | .stream u g t _ =>
    match s.physUnit u.val with
    | none => none
    | some pu => if ((s.stream pu g.val t.val).map (·.prov.spec)).getD false then some pu else none
  | _ => none

/-- A piece whose line is present, or need not be: the access itself, under a hint (R290, R291). -/
def serveAs (s : State) (w : Wait) (hint : Nat) : State :=
  s.calm fun s =>
    if reqWrites s w.req then
      let bs := pieceBytes s w w.req
      (s.writeLine w.ch w.line w.lo (bs.map (·.1)) (bs.map (·.2)) hint).answer w []
    else
      let r := s.readLine w.ch w.line w.lo w.n hint (s.reqSpec w.req)
      r.1.answer w (r.2.1.zip r.2.2)

/-- A piece served under its own hint. -/
def serve (s : State) (w : Wait) : State := s.serveAs w (reqHint s w.req)

def addHeld (s : State) (w : Wait) : State :=
  let r := sliceOf w.ch
  let sl := s.slice r
  (s.setSlice r { sl with held := sl.held ++ [w] }).bump (rMsc r 0) 10 0 1

def addFill (s : State) (w : Wait) : State :=
  let r := sliceOf w.ch
  let sl := s.slice r
  s.setSlice r { sl with fills := sl.fills ++ [w] }

/-- Set without a victim: every way that could go is a dirty line of a held channel (R302). -/
def noVictim (s : State) (ch line : Nat) : Bool := (s.makeRoom ch line).isNone

/-- A piece presented to its slice: served, held, or waiting for a line fill (R290, R302, R310, R311). -/
def present1 (s : State) (w : Wait) : State :=
  let sl := s.slice (sliceOf w.ch)
  let whole := reqWrites s w.req && w.n == 128
  if s.chLost w.ch || (sl.find w.ch w.line).isSome then s.serve w
  else if sl.lost then (if whole then s.serve w else s.addFill w)
  else if whole then (if s.noVictim w.ch w.line then s.addHeld w else s.serve w)
  else if s.lineHeld w.ch w.line then s.addHeld w
  else if reqHint s w.req = 2 then s.addFill w
  else if s.noVictim w.ch w.line then s.addHeld w
  else s.addFill w

/-- Held requests of a channel. -/
def heldOf (s : State) (ch : Nat) : List Wait := (s.slice (sliceOf ch)).held.filter fun w => w.ch == ch

/-- A request is taken, unless a channel of it holds 64 requests or would hold more (R302). -/
def takeReq (s : State) (ws : List Wait) : State :=
  let t := ws.foldl (fun s w => s.present1 w) s
  if ws.any fun w => decide (64 ≤ (s.heldOf w.ch).length) || decide (64 < (t.heldOf w.ch).length) then s else t

/-- SLICE_REQUEST (R289 to R293, R302). -/
def fxSliceRequest (s : State) (r : SliceReq) : State :=
  match r with
  | .read a n _ => if populated a.toNat && populated (a.toNat + n - 1) && decide (0 < n) && decide (n ≤ 256)
      then s.takeReq (s.waits r a.toNat n) else s
  | .write a d _ =>
    let n := d.length
    if populated a.toNat && populated (a.toNat + n - 1) && decide (0 < n) && decide (n ≤ 256)
      then s.takeReq (s.waits r a.toNat n) else s
  | .stream u g t i =>
    match reqOfStream s u g t i with
    | none => s
    | some (pu, q) =>
      let out := match s.stream pu g.val t.val with
        | some st => s.wayOut u.val g.val t.val st q
        | none => false
      if q.host || q.asked || !out then s
      else
        let ws := s.waits r q.addr q.len
        let t := s.updStream pu g.val t.val fun st => { st with
          reqs := st.reqs.map fun (x : Req) => if x.num == i then { x with asked := true } else x }
        let v := ws.foldl (fun s w => s.present1 w) t
        if ws.any fun w => decide (64 ≤ (s.heldOf w.ch).length) || decide (64 < (v.heldOf w.ch).length) then s else v

/-! ### Losing a channel (R304 to R308) -/

/-- The migration engine of a die runs. -/
def migRuns (s : State) (d : Nat) : Bool :=
  s.regF (rMig d) 63 60 != 0 && decide (s.regF (rMig d) 20 0 < migUnits)

/-! ### Sectors that fail (R281, R298, R299) -/

/-- A sector poisoned: in its line, and in the channel that stores it unless that line is dirty. -/
def poisonSector (s : State) (ch off : Nat) : State :=
  let r := sliceOf ch
  match (s.slice r).find ch (off / 128) with
  | some l =>
    let s := s.setSlice r ((s.slice r).put { l with poison := l.poison.set (off % 128 / 32) true })
    if l.dirty then s else s.putSector ch (off / 32 * 32) (s.getSector ch (off / 32 * 32)).1 true
  | none => s.putSector ch (off / 32 * 32) (s.getSector ch (off / 32 * 32)).1 true

/-- An effect of a sector's check: at once, or held with the speculative work of unit `who` alone that the
sector is read for (R230, R524). -/
def withHeld (s : State) (who : Option Nat) (es : List HeldEff) (now : State) : State :=
  match who with
  | some pu => s.updUnit pu fun u => { u with held := u.held ++ es }
  | none => now

/-- A corrected sector: counted at the controller that holds it. -/
def hbmCe (s : State) (ch off : Nat) (who : Option Nat := none) : State :=
  let h := s.home ch off
  let e := mkErr 0x0401 7 h.1 (BitVec.ofNat 64 (h.1 * 2 ^ 32 + h.2))
  s.withHeld who [.bump (rChan h.1 0) 23 0 1, .err { e with defer := true }] ((s.bump (rChan h.1 0) 23 0 1).raise e)

/-- What the controller that holds an uncorrectable sector does: it counts it and marks it (R281). -/
def markUe (s : State) (ch off : Nat) : State :=
  (s.putSector ch off (s.getSector ch off).1 true).countUe (s.home ch off).1

/-- An uncorrectable sector, with its DEFERRED error (R281). -/
def hbmUe (s : State) (ch off : Nat) (who : Option Nat := none) : State :=
  let h := s.home ch off
  s.withHeld who [.ue h.1 h.2] ((s.raise (ueErr h.1 h.2)).countUe h.1) |>.putSector ch off (s.getSector ch off).1 true

/-- A squash has discarded the error of a poisoned sector, so that its next read detects it again (R524). -/
def undetected (s : State) (ch off : Nat) : Bool :=
  let h := s.home ch off
  smGet false s.chanUnseen ((h.1 * 2 ^ 31 + h.2) / 32)

/-- The sector's error is raised now. -/
def detectNow (s : State) (ch off : Nat) : State :=
  let h := s.home ch off
  { s with chanUnseen := smSet false s.chanUnseen ((h.1 * 2 ^ 31 + h.2) / 32) false }

/-- What the controller and the slice find in one sector that is read from a channel.  A sector already
marked poisoned is delivered poisoned without a further error (R281, R525), unless a squash has discarded it. -/
def fillSector (s : State) (ch off : Nat) (o : SectorOutcome) (who : Option Nat := none) : State × Bool :=
  if (s.getSector ch off).2 then
    (if s.undetected ch off then (s.detectNow ch off).hbmUe ch off who else s, true)
  else match o with
    | .clean => (s, false)
    | .corrected => (s.hbmCe ch off who, false)
    | .uncorrectable => (s.hbmUe ch off who, true)
    | .sideCheck =>
      (s.withHeld who [.side ch off] (s.raise (sideErr ch off)) |>.putSector ch off (s.getSector ch off).1 true, true)

/-- The sectors `os` describes, from offset `off` up, and whether each is poisoned. -/
def fillSectors (s : State) (ch off n : Nat) (os : List SectorOutcome) (who : Option Nat := none) : State × List Bool :=
  (List.range n).foldl (fun (acc : State × List Bool) i =>
    let f := acc.1.fillSector ch (off + 32 * i) (os.getD i .clean) who
    (f.1, acc.2 ++ [f.2])) (s, [])

/-- MIGRATION_UNIT_MOVE (R305 to R307): the next unit of the sweep; with the last the sweep is done.  `os` is
what its reads of a readable channel find. -/
def fxMigrationUnitMove (s : State) (d : Nat) (os : List SectorOutcome) : State :=
  if !s.migRuns d then s
  else
    let ch := 64 * d + s.regF (rMig d) 57 52
    let x := s.regF (rMig d) 20 0
    let sl := s.slice (sliceOf ch)
    let read := fun (i : Nat) => (sl.find ch ((x * 1024 + 32 * i) / 128)).isNone
    let f := if s.unitMoved ch x || s.chState ch == 5 then (s, [])
      else s.fillSectors ch (x * 1024) 32 ((List.range 32).map fun i => if read i then os.getD i .clean else .clean)
    let s := f.1.moveUnit ch x f.2
    let s := s.setRegF (rMig d) 20 0 (x + 1)
    let s := s.updChan ch fun c => { c with moved := smSet false c.moved x false }
    if x + 1 = migUnits ∧ s.regF (rMig d) 63 60 = 1 then s.setRegF (rMig d) 63 60 2 else s

/-! ### Line fills (R281, R298) -/

/-- The line placed with the poison that its fill found. -/
def fillPlace (s : State) (l : Line) (hint : Nat) (who : Option Nat) : State :=
  match s.makeRoom l.ch l.line with
  | none => s
  | some s => s.place l hint who

/-- One waiting piece served from a filled line that is not placed in the slice, and the line after it. -/
def serveLine (s : State) (w : Wait) (l : Line) : State × Line :=
  if reqWrites s w.req then
    let bs := pieceBytes s w w.req
    let l := { l with data := splice l.data w.lo (bs.map (·.1)), poison := writePoison l.poison w.lo (bs.map (·.2)) }
    ((s.writeBack l).answer w [], l)
  else
    (s.answer w ((List.range w.n).map fun i => (l.data.getD (w.lo + i) 0#8, l.poison.getD ((w.lo + i) / 32) false)), l)

/-- The unit whose speculative streams alone wait for a fill: the first of several. -/
def specOnly (s : State) (ws : List Wait) : Option Nat :=
  if ws.all fun w => (s.reqSpec w.req).isSome then (ws.head?.map fun w => s.reqSpec w.req).join else none

/-- LINE_FILL (R281, R298, R299): a fill from a channel returns to the pieces that wait for it, in
arrival order, each after what the one before it wrote.  LAST_USE reads are served without allocating
(R291).  A fill that was issued before a retrain window completes in it (R301). -/
def fxLineFill (s : State) (ch line : Nat) (os : List SectorOutcome) : State :=
  let r := sliceOf ch
  let mine := (s.slice r).fills.filter fun w => w.ch == ch && w.line == line
  if mine.isEmpty then s
  else
    let sl := s.slice r
    let s := s.setSlice r { sl with fills := sl.fills.filter fun w => !(w.ch == ch && w.line == line) }
    let x := s.fillSectors ch (line * 128) 4 os (s.specOnly mine)
    let l := { x.1.fetchLine ch line with poison := x.2 }
    (mine.foldl (fun (acc : State × Line) w =>
      let s := acc.1
      let h := reqHint s w.req
      if ((s.slice r).find ch line).isSome then (s.serve w, acc.2)
      else if (s.slice r).lost || h == 2 then s.serveLine w acc.2
      else
        let t := s.fillPlace acc.2 h (s.reqSpec w.req)
        -- the hint has had its effect
        if ((t.slice r).find ch line).isSome then (t.serveAs w 0, acc.2) else t.serveLine w acc.2) (x.1, l)).1

/-- PATROL_READ (R559): one sector read by the patrol. -/
def fxPatrolRead (s : State) (ch sector : Nat) (o : SectorOutcome) : State :=
  let st := s.chState ch
  let off := 32 * sector
  if !(st == 2 || st == 4) || cch ≤ off || s.chLost ch || s.home ch off != (ch, off) || (s.getSector ch off).2 then s
  else match o with
    | .corrected => s.hbmCe ch off
    | .uncorrectable => s.hbmUe ch off
    | _ => s

/-! ### Retraining (R300 to R303) -/

/-- RETRAIN_WINDOW_OPEN (R300, R301). -/
def fxRetrainWindowOpen (s : State) (ch : Nat) : State :=
  let d := ch / 64
  let other := (List.range 64).any fun i => s.chState (64 * d + i) == 3
  -- PWR_STAT.STATE 0 ACTIVE or 1 IDLE
  if s.chState ch != 2 || other || s.migRuns d || decide (1 < s.regF 0x10108 63 60) || s.chLost ch then s
  else s.setRegF (rChan ch 0) 63 60 3

/-- Held requests of a channel, or of lines that it stores, issued: reads in arrival order, then writes
(R301). -/
def release (s : State) (ch : Nat) : State :=
  let mine := fun (w : Wait) => w.ch == ch || (s.home w.ch (w.line * 128)).1 == ch
  let rs := (List.range 4).map fun i => ch / 64 * 4 + i
  let hs := rs.flatMap fun r => (s.slice r).held.filter mine
  let s := rs.foldl (fun s r =>
    let sl := s.slice r
    let s := s.setSlice r { sl with held := sl.held.filter fun w => !mine w }
    s.setRegF (rMsc r 0) 10 0 (s.slice r).held.length) s
  ((hs.filter fun w => !reqWrites s w.req) ++ hs.filter fun w => reqWrites s w.req).foldl (fun s w => s.present1 w) s

/-- RETRAIN_REOPEN (R301, R282): the new settings verify; the window completes. -/
def fxRetrainReopen (s : State) (ch spared : Nat) : State :=
  if s.chState ch != 3 || (s.chan ch).failing then s
  else
    let s := (s.setRegF (rChan ch 0) 63 60 2).setRegF (rChan ch 0) 59 56 spared
    let s := s.bump (rChan ch 0) 47 40 1
    let s := s.updChan ch fun c => { c with badWindows := 0 }
    (if 1000 < (s.chan ch).ueHour then s.retireChan ch false false else s).release ch

/-- RETRAIN_TIMEOUT (R303): the new settings are not verified by 38 µs.  `lanes` says that the training needs
more spares than R282 allows, which retires the channel. -/
def fxRetrainTimeout (s : State) (ch : Nat) (restored lanes : Bool) : State :=
  if s.chState ch != 3 || (s.chan ch).failing then s
  else if restored then
    let s := (s.setRegF (rChan ch 0) 63 60 2).bump (rChan ch 0) 47 40 1
    let s := s.updChan ch fun c => { c with badWindows := c.badWindows + 1 }
    let s := if lanes || 2 ≤ (s.chan ch).badWindows || decide (1000 < (s.chan ch).ueHour) then s.retireChan ch false false else s
    s.release ch
  else s.updChan ch fun c => { c with failing := true }

/-- FALLBACK_TRAINING_DONE (R303, R304, R308), with the lanes that the training spared (R282). -/
def fxFallbackTrainingDone (s : State) (ch spared : Nat) (passed : Bool) : State :=
  if !(s.chan ch).failing then s
  else
    let s := s.setRegF (rChan ch 0) 59 56 spared
    (s.retireChan ch (!passed) false).release ch

/-! ### Flush and pins (R292, R295) -/

/-- MSC_FLUSH: every line that is dirty now will be written back. -/
def fxMscFlush (s : State) (r : Nat) : State :=
  let sl := s.slice r
  if sl.lost || s.bit (rMsc r 8) 2 then s
  else (s.setSlice r { sl with flush := (sl.lines.filter (·.dirty)).map fun l => (l.ch, l.line) }).setBit (rMsc r 8) 2

/-- A dirty line of a flush written back and left clean. -/
def flushLine (s : State) (r ch line : Nat) : State :=
  match (s.slice r).find ch line with
  | none => s
  | some l =>
    if l.dirty then
      let s := s.writeBack l
      s.setSlice r ((s.slice r).put { l with dirty := false })
    else s

/-- MSC_FLUSH_DONE: the flush ends, once no line of it waits for a held channel (R302). -/
def fxMscFlushDone (s : State) (r : Nat) : State :=
  let late := (s.slice r).flush.any fun x => match (s.slice r).find x.1 x.2 with
    | some l => l.dirty && s.lineHeld l.ch l.line
    | none => false
  if !s.bit (rMsc r 8) 2 || late then s
  else
    let fl := (s.slice r).flush
    let s := fl.foldl (fun s x => s.flushLine r x.1 x.2) s
    (s.setSlice r { s.slice r with flush := [] }).clrBit (rMsc r 8) 2

/-- Every pin of a slice released. -/
def unpin (s : State) (r : Nat) : State :=
  let sl := s.slice r
  (s.setSlice r { sl with lines := sl.lines.map fun l => { l with pinned := false } }).setRegF (rMsc r 0) 31 14 0

/-- UNPIN_ALL (R292, R295). -/
def fxUnpinAll (s : State) (r : Nat) : State := s.unpin r

/-! ### The traffic generator (R312 to R315) -/

/-- The next bit of x^31 + x^28 + 1: a shift register with the newest bit lowest. -/
def prbsStep (x : Nat) : Nat :=
  (x * 2 + (if bitAt x 30 != bitAt x 27 then 1 else 0)) % 2 ^ 31

/-- `n` steps of the register. -/
def prbsRun : Nat → Nat → Nat
  | 0, x => x
  | n + 1, x => prbsRun n (prbsStep x)

/-- Bit `k` of the PRBS31 sequence of a seed: the seed's 31 bits, highest first, and then what the
register gives. -/
def prbsBit (seed k : Nat) : Bool :=
  if k < 31 then bitAt seed (30 - k) else bitAt (prbsRun (k - 30) (seed % 2 ^ 31)) 0

/-- The 8-byte word of a pattern at channel offset 8w (R313). -/
def patWord (pat seed w : Nat) : Nat :=
  match pat with
  | 0 => ((List.range 64).map fun b => if prbsBit seed (64 * w + b) then 2 ^ b else 0).foldl (· + ·) 0
  | 1 => 0
  | 2 => 2 ^ 64 - 1
  | 3 => if 8 * w / 128 % 2 = 0 then 0x5555555555555555 else 0xAAAAAAAAAAAAAAAA
  | 4 => 2 ^ (w % 64)
  | _ => 8 * w

/-- The 32 bytes of a sector under a step's pattern, or their inverse. -/
def patSector (pat seed sec : Nat) (inv : Bool) : List Byte :=
  ((List.range 4).map fun i =>
    let v := patWord pat seed (4 * sec + i)
    leBytes 8 (if inv then 2 ^ 64 - 1 - v else v)).flatten

def rTg (ch off : Nat) : Nat := rChan ch off

/-- A program that START refuses (R313). -/
def tgBad (s : State) (ch : Nat) : Bool :=
  let c := s.reg (rTg ch 0x08)
  let lim := fld c 51 41
  let base := fld c 40 30
  lim == 0 || decide (cch / 2 ^ 20 < lim) || decide (lim ≤ base) ||
  ((List.range 8).takeWhile fun i => fld (s.reg (rTg ch (0x40 + 8 * i))) 63 61 != 0).any fun i =>
    let w := s.reg (rTg ch (0x40 + 8 * i))
    decide (3 < fld w 63 61) || decide (5 < fld w 59 57) || (fld w 59 57 == 0 && fld w 31 0 == 0)

/-- TG_START (R312 to R315): a write of 1 to START; the other fields of the word are written with it. -/
def fxTgStart (s : State) (ch : Nat) (v : W64) : State :=
  let s := s.setReg (rTg ch 0x08) (v &&& 0xFFFFFC000000C#64)
  if s.chState ch != 1 || s.regF (rTg ch 0x10) 63 62 == 1 || !bitAt v.toNat 0 then s
  else
    let s := (s.setReg (rTg ch 0x10) 0#64).setReg (rTg ch 0x18) 0#64
    if s.tgBad ch then s.setRegF (rTg ch 0x10) 63 62 3
    else
      let prog := s.reg (rTg ch 0x08) :: (List.range 8).map fun i => s.reg (rTg ch (0x40 + 8 * i))
      (s.updChan ch fun c => { c with tg := prog, tgHit := false }).setRegF (rTg ch 0x10) 63 62 1

/-- One failing sector counted. -/
def tgFail (s : State) (ch sec : Nat) (lanes : W64) : State :=
  let s := if (s.chan ch).tgHit then s
    else (s.setRegF (rTg ch 0x10) 57 32 sec).updChan ch fun c => { c with tgHit := true }
  let s := s.bump (rTg ch 0x10) 31 0 1
  s.setReg (rTg ch 0x18) (s.reg (rTg ch 0x18) ||| lanes)

/-- Wrong data lanes of a sector: lane n carries bit n of each 8-byte word. -/
def laneDiff (a b : List Byte) : W64 :=
  (List.range 4).foldl (fun m i =>
    m ||| (BitVec.ofNat 64 (leVal ((a.drop (8 * i)).take 8)) ^^^ BitVec.ofNat 64 (leVal ((b.drop (8 * i)).take 8)))) 0#64

/-- One sector of one step; the Bool says that the checker stops here. -/
def tgSector (s : State) (ch : Nat) (w : W64) (faulty : List (Nat × W64)) (sec : Nat) : State × Bool :=
  let op := fld w 63 61
  let pat := fld w 59 57
  let seed := fld w 31 0
  if op = 1 then (s.putSector ch (32 * sec) (patSector pat seed sec false) false, false)
  else
    let x := s.getSector ch (32 * sec)
    let want := patSector pat seed sec false
    let extra := faulty.find? fun f => f.1 == sec
    let bad := x.1 != want || x.2 || extra.isSome
    let lanes := laneDiff x.1 want ||| (match extra with | some f => f.2 | none => 0#64)
    let s := if bad then s.tgFail ch sec lanes else s
    if bad && fld (wordAt (s.chan ch).tg 0) 3 3 == 1 then (s, true)
    else (if op = 3 then s.putSector ch (32 * sec) (patSector pat seed sec true) false else s, false)

/-- The steps of the running program: those before the first END. -/
def tgSteps (s : State) (ch : Nat) : List Nat :=
  (List.range 8).takeWhile fun i => fld (wordAt (s.chan ch).tg (i + 1)) 63 61 != 0

/-- Sectors of the range of the running program. -/
def tgSpan (s : State) (ch : Nat) : Nat :=
  let c := wordAt (s.chan ch).tg 0
  (fld c 51 41 - fld c 40 30) * 32768

/-- The first `cut` sector accesses of the running program, in its order; the Bool says that the checker
stopped. -/
def tgRun (s : State) (ch : Nat) (faulty : List (Nat × W64)) (cut : Nat) : State × Bool :=
  let n := s.tgSpan ch
  let lo := fld (wordAt (s.chan ch).tg 0) 40 30 * 32768
  (List.range cut).foldl (fun (acc : State × Bool) j =>
    if acc.2 then acc
    else
      let w := wordAt (acc.1.chan ch).tg (j / n + 1)
      (acc.1.setRegF (rTg ch 0x10) 61 59 (j / n)).tgSector ch w faulty
        (if fld w 60 60 = 0 then lo + j % n else lo + n - 1 - j % n)) (s, false)

/-- TG_PROGRAM_END (R313 to R315): the program has run from step 0 to an END step, the end of step 7, or
the first failing sector under STOP_ON_ERR.  Under LOOP it starts again. -/
def fxTgProgramEnd (s : State) (ch : Nat) (faulty : List (Nat × W64)) : State :=
  if s.regF (rTg ch 0x10) 63 62 != 1 || s.chState ch != 1 then s
  else
    let x := s.tgRun ch faulty ((s.tgSteps ch).length * s.tgSpan ch)
    if x.2 then x.1.setRegF (rTg ch 0x10) 63 62 3
    else if fld (wordAt (s.chan ch).tg 0) 2 2 = 1 then x.1
    else x.1.setRegF (rTg ch 0x10) 63 62 2

/-- TG_STOP (R314): the word's other fields are written, and the generator stops after the current sector.  How many accesses of its pass it has
made by then is free; `faulty` are the sectors that it finds failing. -/
def fxTgStop (s : State) (ch : Nat) (v : W64) (faulty : List (Nat × W64)) : State :=
  let s := s.setReg (rTg ch 0x08) (v &&& 0xFFFFFC000000C#64)
  if !bitAt v.toNat 1 || s.regF (rTg ch 0x10) 63 62 != 1 || s.chState ch != 1 then s
  else
    let f := s.freeWord
    let x := f.2.tgRun ch faulty (f.1.toNat % ((s.tgSteps ch).length * s.tgSpan ch + 1))
    x.1.setRegF (rTg ch 0x10) 63 62 3

end State

/-! ### The meanings of the commands -/

/-- SLICE_REQUEST (R290). -/
def execSliceRequest (r : SliceReq) (s : State) : Host.Outcome State Fault Refusal :=
  .next (s.fxSliceRequest r)

/-- LINE_FILL (R298). -/
def execLineFill (ch : ChanIx) (line : Nat) (sectors : List SectorOutcome) (s : State) : Host.Outcome State Fault Refusal :=
  .next (s.fxLineFill ch.val line sectors)

/-- RETRAIN_WINDOW_OPEN (R301). -/
def execRetrainWindowOpen (ch : ChanIx) (s : State) : Host.Outcome State Fault Refusal :=
  .next (s.fxRetrainWindowOpen ch.val)

/-- MIGRATION_UNIT_MOVE (R306). -/
def execMigrationUnitMove (d : UnitMove) (s : State) : Host.Outcome State Fault Refusal :=
  .next (s.fxMigrationUnitMove d.die.val d.sectors)

/-- PATROL_READ (R559). -/
def execPatrolRead (ch : ChanIx) (sector : Nat) (o : SectorOutcome) (s : State) : Host.Outcome State Fault Refusal :=
  .next (s.fxPatrolRead ch.val sector o)

/-- TG_START (R314). -/
def execTgStart (ch : ChanIx) (v : W64) (s : State) : Host.Outcome State Fault Refusal :=
  .next (s.gate (16 + ch.val / 32) fun s => s.fxTgStart ch.val v)

/-- TG_STOP (R314). -/
def execTgStop (ch : ChanIx) (v : TgHalt) (s : State) : Host.Outcome State Fault Refusal :=
  .next (s.gate (16 + ch.val / 32) fun s => s.fxTgStop ch.val v.ctrl v.faulty)

/-- TG_PROGRAM_END (R313). -/
def execTgProgramEnd (ch : ChanIx) (faulty : List (Nat × W64)) (s : State) : Host.Outcome State Fault Refusal :=
  .next (s.fxTgProgramEnd ch.val faulty)

/-- MSC_FLUSH (R295). -/
def execMscFlush (sl : RgnIx) (s : State) : Host.Outcome State Fault Refusal :=
  .next (s.gate (8 + sl.val / 4) fun s => s.fxMscFlush sl.val)

/-- MSC_FLUSH_DONE (R295). -/
def execMscFlushDone (sl : RgnIx) (s : State) : Host.Outcome State Fault Refusal :=
  .next (s.fxMscFlushDone sl.val)

/-- UNPIN_ALL (R295). -/
def execUnpinAll (sl : RgnIx) (s : State) : Host.Outcome State Fault Refusal :=
  .next (s.gate (8 + sl.val / 4) fun s => s.fxUnpinAll sl.val)

end Sys2Proof.Machine
end

