-- ==== Sys2Proof/Machine/Wake.lean ====
section
/-!
DEFINITION. The states of ports and functions that many blocks change: LNK_STAT.STATE, PKG_READY with its
READY event, and the start of a wake (R506 to R508).
-/

namespace Sys2Proof.Machine.State

/-! ### Ports -/

def lnkState (s : State) (p : Nat) : Nat := s.regF (rLnk p 8) 63 60
def setLnk (s : State) (p v : Nat) : State := s.setRegF (rLnk p 8) 63 60 v
def lnkUp (s : State) (p : Nat) : Bool := s.lnkState p == 3

/-! ### PKG_READY (R424, R483) -/

/-- A change of PKG_READY raises a READY event. -/
def setReadyWord (s : State) (v : W64) : State :=
  if v = s.reg 0x18 then s
  else { s.setReg 0x18 v with evtFlight := s.evtFlight ++ [{ type := 6, w2 := v }] }

def setReady (s : State) (b : Nat) (on : Bool) : State :=
  s.setReadyWord (setFld (s.reg 0x18) b b (if on then 1 else 0))

/-- A function reports ready. -/
def isReady (s : State) (b : Nat) : Bool := s.bit 0x18 b

/-! ### The wake of the module (R506 to R508) -/

def rPwr : Nat := 0x10108
def pwrState (s : State) : Nat := s.regF rPwr 63 60

/-- A port leaves LOW_POWER from its saved settings (R365). -/
def portWake (s : State) (p : Nat) : State := if s.lnkState p = 6 then s.setLnk p 1 else s

/-- The RESET record at the start of a reset or of a SOLSTICE wake (R535). -/
def resetRecord (s : State) : State := s.record 0x14 0 0 0 0 (s.reg 0x28) (s.reg 0x20)

/-- The module begins to leave low state `from_`.  After DORMANT the frame counters of a loaded program
restart at position 0, in a cycle that is free (R508). -/
def beginWake (s : State) (bit from_ : Nat) : State :=
  let s := (s.setRegF rPwr 63 60 5).setRegF rPwr 53 49 (2 ^ bit)
  let s := (s.bump rPwr 31 0 1).setRegF 0x10110 63 63 0
  let s := s.updPwr fun w => { w with src := from_ }
  let s := if 2 ≤ from_ then (List.range 24).foldl (fun s p => s.portWake p) s else s
  let s := if from_ = 2 ∧ s.program.isSome then
      let f := s.freeWord
      { f.2 with frame0 := (List.range 8).foldl (fun m d => smSet 0 m d f.1.toNat) f.2.frame0 } else s
  let s := if from_ = 3 then (s.setRegF 0x28 52 50 4).resetRecord else s
  if bit ≠ 1 ∧ (s.pwr.d3hot || s.pwr.d3cold) then s.emit (.wakePin true) else s

/-- A wake source arrives: bit 0 fabric, 1 PCIe, 2 management, 3 timer, 4 START, LOAD or update job.
During an entry it stops the entry at the end of its step (R507). -/
def wakeUp (s : State) (bit : Nat) : State :=
  let st := s.pwrState
  -- source 4 wakes from IDLE only
  if bit = 4 ∧ st ≠ 1 ∧ ¬(st = 4 ∧ s.regF rPwr 59 57 = 1) then s
  else if st = 4 then
    (if s.pwr.wakeSrc.isSome then s else s.updPwr fun w => { w with wakeSrc := some bit })
  else if 1 ≤ st ∧ st ≤ 3 then s.beginWake bit st
  else s

end Sys2Proof.Machine.State
end

