-- ==== Sys2Proof/Machine/Update.lean ====
section
/-!
DEFINITION. The update engine (chapter 11): taking a job, its token wait, its checks, the five job kinds
and the end of a job.
-/

namespace Sys2Proof.Machine

/-! ### Checks (R322) -/

/-- A bit outside the named bits of some word. -/
def reservedIn (named : List (List (Nat × Nat))) (ws : List W64) : Bool :=
  (List.range ws.length).any fun i =>
    ((named.getD i []).foldl (fun x r => setFld x r.1 r.2 0) (wordAt ws i)) != 0#64

/-- What the checks of a job have found so far. -/
structure UpeChk where
  s : State
  /-- A failure of orders 1 to 3. -/
  range  : Bool := false
  /-- Order 4. -/
  incons : Bool := false
  /-- Order 5. -/
  index  : Bool := false
  /-- Order 6. -/
  poison : Bool := false
  /-- Order 7. -/
  scale  : Option Nat := none

/-- The status of the first failure. -/
def UpeChk.status (c : UpeChk) : Nat :=
  if c.range then 2 else if c.incons then 3 else if c.index then 2 else if c.poison then 0x0A
  else c.scale.getD 0

def UpeChk.bad (c : UpeChk) (b : Bool) : UpeChk := { c with range := c.range || b }

/-- A record read: it must lie in populated HBM on present pages. -/
def UpeChk.read (c : UpeChk) (a n : Nat) : UpeChk × List Byte :=
  if n = 0 then (c, [])
  else if !c.s.rangePresent a n then (c.bad true, [])
  else
    let r := c.s.memRead a n 0
    ({ c with s := r.1, poison := c.poison || r.2.2.any id }, r.2.1)

/-- A plane: base a multiple of 128, every byte present. -/
def UpeChk.plane (c : UpeChk) (a n : Nat) : UpeChk :=
  c.bad (a % 128 != 0 || (n != 0 && !c.s.rangePresent a n))

def ascending : List Nat → Bool
  | a :: b :: r => decide (a < b) && ascending (b :: r)
  | _ => true

/-- R327: a curve of points (AT, VALUE) at step `s`. -/
def curveAt (pts : List (Nat × W32)) (s : Nat) : W32 :=
  let first := pts.headD (0, zero32)
  let last := pts.getLastD (0, zero32)
  if s ≤ first.1 then first.2
  else if last.1 ≤ s then last.2
  else
    let j := (pts.filter fun p => decide (p.1 ≤ s)).length - 1
    let a := pts.getD j first
    let b := pts.getD (j + 1) last
    fFma (fDiv (ofNat32 (s - a.1)) (ofNat32 (b.1 - a.1))) (fSub b.2 a.2) a.2

/-- A coefficient word judged and evaluated (R326, R327); one that the rule does not use must be 0. -/
def UpeChk.coef (c : UpeChk) (w : W64) (used : Bool) (step : Nat) : UpeChk × W32 :=
  if !used then (c.bad (w != 0#64), zero32)
  else if fld w 63 63 = 0 then (c.bad (fld w 62 32 != 0), w.setWidth 32)
  else if fld w 62 48 ≠ 0 ∨ fld w 47 0 % 8 ≠ 0 then (c.bad true, zero32)
  else
    let h := c.read (fld w 47 0) 8
    let n := leVal h.2
    if n = 0 ∨ 64 < n then (h.1.bad true, zero32)
    else
      let p := h.1.read (fld w 47 0 + 8) (8 * n)
      let pts := (State.words n p.2).map fun x => (fld x 31 0, BitVec.ofNat 32 (fld x 63 32))
      ({ p.1.bad (pts.any fun x => !(val32 x.2).isFin) with
          incons := p.1.incons || !ascending (pts.map (·.1)) }, curveAt pts step)

/-- A scale record (R150). -/
def UpeChk.scaleRec (c : UpeChk) (a : Nat) (f : Format) : UpeChk × List Byte :=
  if !populated a || !c.s.rangePresent a 64 then (c.bad true, [])
  else
    let r := c.s.memRead a 64 0
    -- poison is judged in order 6, for every record alike
    ({ c with s := r.1, poison := c.poison || r.2.2.any id, scale := match c.scale with
        | some x => some x
        | none => recordCheck a r.2.1 false f }, r.2.1)

def entBits : List (List (Nat × Nat)) :=
  [[(63, 52), (47, 0)], [(47, 0)], [(47, 0)], [(47, 0)], [(47, 0)], [(47, 0)], [(47, 0)], [(47, 0)],
   [(47, 0)], [(47, 0)], [(63, 0)], [(39, 0)], [(63, 0)], [(47, 0)], [], []]

def grpBits : List (List (Nat × Nat)) :=
  [[(63, 0)], [(63, 0)], [(63, 0)], [(63, 0)], [(63, 0)], [(42, 40), (35, 0)], [(63, 0)], [(63, 0)],
   [(31, 0)], [], [], [], [], [], [], []]

/-- Accessors of a tensor entry (R328). -/
def tSparse (e : List W64) : Bool := dfld e 0 63 63 == 1
def tBf (e : List W64) : Bool := dfld e 0 60 60 == 1
def tGfmt (e : List W64) : Nat := dfld e 0 59 56
def tWfmt (e : List W64) : Nat := dfld e 0 55 52
def tAddr (e : List W64) (w : Nat) : Nat := dfld e w 47 0
def tRowlen (e : List W64) : Nat := dfld e 10 63 32
def tRows (e : List W64) : Nat := dfld e 11 39 0
def tNidx (e : List W64) : Nat := dfld e 10 31 0

/-- Bytes of an element of the gradient, the working copy, a moment. -/
def gBytes (e : List W64) : Nat := if tGfmt e = 0 then 4 else if tGfmt e = 1 then 2 else 1
def wBytes (e : List W64) : Nat := if tWfmt e = 0 then 4 else if tWfmt e = 1 then 2 else if tWfmt e = 2 then 1 else 0
def mBytes (e : List W64) : Nat := if tBf e then 2 else 4

/-- Accessors of a group record (R325). -/
def gRule (g : List W64) : Nat := dfld g 5 35 32
def gFlag (g : List W64) (i : Nat) : Bool := dfld g 5 (40 + i) (40 + i) == 1
def gEps (g : List W64) : W32 := BitVec.ofNat 32 (dfld g 5 31 0)

/-- Moments that a rule uses. -/
def usesM1 (rule : Nat) : Bool := decide (1 ≤ rule) && decide (rule ≤ 3)
def usesM2 (rule : Nat) : Bool := rule == 2

/-- Fields of a tensor entry that a NORM job does not use (R322, R337): W_KEEP, STATE_BF16, WFMT, the planes but
the gradient, RSTEP, WSCALE, the identifier and step words, the group. -/
def normStray (e : List W64) : Bool :=
  dfld e 0 61 60 != 0 || tWfmt e != 0 || ([1, 2, 3, 4, 5, 7, 9, 13].any fun w => tAddr e w != 0) ||
  wordAt e 12 != 0#64

/-- The part of a tensor entry that every job judges: shape, gradient, index list. -/
def UpeChk.entry (c : UpeChk) (e : List W64) : UpeChk × UpeTensor :=
  let L := tRowlen e
  let sp := tSparse e
  let g := tGfmt e
  let bad := reservedIn entBits e || !(g == 0 || g == 1 || g == 3) || L % 64 != 0 || decide (L < 64) ||
    decide (2 ^ 20 < L) || tRows e == 0 || decide (2 ^ 40 < tRows e * L) || dfld e 12 63 32 % 4 != 0 ||
    !(decide (tWfmt e ≤ 2) || tWfmt e == 15) ||
    (!sp && (tAddr e 6 != 0 || tAddr e 7 != 0 || tNidx e != 0)) || (sp && dfld e 12 31 0 != 0) ||
    (g != 3 && tAddr e 8 != 0) || (tWfmt e != 2 && tAddr e 9 != 0) || (tWfmt e == 15 && (tAddr e 3 != 0 || dfld e 0 61 61 != 0))
  if bad then (c.bad true, { ent := e })
  else
    let c := c.plane (tAddr e 0) ((if sp then tNidx e else tRows e) * L * gBytes e)
    let x := if sp then c.read (tAddr e 6) (4 * tNidx e) else (c, [])
    let idx := (List.range (if sp then tNidx e else 0)).map fun i => leVal ((x.2.drop (4 * i)).take 4)
    let c := { x.1 with incons := x.1.incons || !ascending idx,
                        index := x.1.index || idx.any fun r => decide (tRows e ≤ r) }
    let y := if g = 3 then c.scaleRec (tAddr e 8) .g8e5 else (c, [])
    (y.1, { ent := e, idx := idx, tG := sgn 8 (y.2.headD 0#8).toNat })

/-- A tensor entry of an UPDATE job with its group (R325, R328). -/
def UpeChk.tensor (c : UpeChk) (e : List W64) (step : Nat) : UpeChk × UpeTensor :=
  let x := c.entry e
  if x.1.range then x
  else
    let n := tRows e * tRowlen e
    let gr := x.1.read (tAddr e 13) 128
    let g := State.words 16 gr.2
    if gr.1.range then (gr.1, x.2)
    else
      let rule := gRule g
      let c := gr.1.bad (reservedIn grpBits g || decide (3 < rule) || (gFlag g 0 && rule != 2) ||
        (gFlag g 1 && rule != 1) || (rule != 2 && gEps g != zero32) ||
        (!usesM1 rule && tAddr e 4 != 0) || (!usesM2 rule && tAddr e 5 != 0))
      -- order 4: a moment format without a moment (R328)
      let c := { c with incons := c.incons || (!usesM1 rule && tBf e) }
      let c := c.plane (tAddr e 1) (4 * n)
      let c := c.plane (tAddr e 2) n
      let c := if tWfmt e = 15 then c else c.plane (tAddr e 3) (wBytes e * n)
      let c := if usesM1 rule then c.plane (tAddr e 4) (mBytes e * n) else c
      let c := if usesM2 rule then c.plane (tAddr e 5) (mBytes e * n) else c
      let c := c.bad (tSparse e && !c.s.rangePresent (tAddr e 7) (4 * tRows e))
      let lr := c.coef (wordAt g 1) true step
      let wd := lr.1.coef (wordAt g 2) true step
      let b1 := wd.1.coef (wordAt g 3) (usesM1 rule) step
      let b2 := b1.1.coef (wordAt g 4) (decide (2 ≤ rule)) step
      let w := if tWfmt e = 2 then b2.1.scaleRec (tAddr e 9) .f8e4 else (b2.1, [])
      (w.1, { x.2 with grp := g, lr := lr.2, wd := wd.2, b1 := b1.2, b2 := b2.2,
                       tW := sgn 8 (w.2.getD 1 0#8).toNat })

/-- Accessors of a job descriptor (R320). -/
def jOp (j : List W64) : Nat := dfld j 0 63 56
def jId (j : List W64) : Nat := dfld j 0 31 0
def jStep (j : List W64) : Nat := dfld j 2 31 0

def jobBits : List (List (Nat × Nat)) :=
  [[(63, 56), (31, 0)], [(63, 0)], [(63, 0)], [(63, 63), (55, 24), (15, 0)], [(63, 63), (55, 32)],
   [(47, 0)], [(47, 0)], []]

/-- Order 1, and the fields of the job that its OP does not use (order 2). -/
def jobBad (j : List W64) : Bool :=
  let op := jOp j
  let nt := dfld j 1 63 48
  let tens := op == 1 || op == 2
  op == 0 || decide (5 < op) || reservedIn jobBits j || (tens && nt == 0) || (!tens && (nt != 0 || dfld j 1 47 0 != 0)) ||
  decide (192 ≤ dfld j 3 47 40) || decide (192 ≤ dfld j 4 47 40) ||
  (dfld j 4 63 63 == 1 && dfld j 4 39 32 == 0) ||
  (!tens && dfld j 2 63 32 != 0) || (op != 1 && op != 4 && jStep j != 0) ||
  (op == 2 && dfld j 5 47 0 % 4 != 0) || (op != 2 && dfld j 5 47 0 != 0) || (tens && dfld j 6 47 0 != 0)

def precBits : List (List (Nat × Nat)) :=
  [[(47, 0)], [(47, 0)], [(47, 0)], [(47, 0)], [(47, 0)], [(63, 0)], [(63, 32), (23, 0)], [(31, 0)],
   [], [], [], [], [], [], [], []]

/-- Accessors of a preconditioner record (R338). -/
def pN (p : List W64) : Nat := 64 * dfld p 6 7 0
def pP (p : List W64) : Nat := dfld p 6 15 8
def pAddr (p : List W64) (i : Nat) : Nat := dfld p i 47 0

/-- The matrices of a preconditioner record that an OP uses (R339 to R341). -/
def precMats (op : Nat) : List Nat := if op = 3 then [0, 1] else if op = 4 then [0, 2, 3] else [2, 4]

/-- Fields of a preconditioner record that the OP does not use and that are not 0 (R322), or P out of its range.
STAT_BLEND does not use P, whose values are 1, 2 and 4, and takes 0 as well; the fields that jobs write, Q,
PREP_STEP and BLENDS, are not judged (DESIGN CHOICE, log 12). -/
def precStray (op : Nat) (p : List W64) : Bool :=
  ((List.range 5).any fun i => !(precMats op).contains i && pAddr p i != 0) ||
  (op != 3 && dfld p 5 31 0 != 0) || (op != 4 && dfld p 5 63 32 != 0) ||
  !(pP p == 1 || pP p == 2 || pP p == 4 || (op == 3 && pP p == 0))

/-- The checks of a whole job (R322): the status, and what was read. -/
def upeCheck (s : State) (j : Job) : UpeChk × List UpeTensor × List W64 :=
  let w := j.words
  let op := jOp w
  let c : UpeChk := { s := s }
  if jobBad w then (c.bad true, [], [])
  else if op ≤ 2 then
    let c := if op = 2 then c.bad (!s.rangePresent (dfld w 5 47 0) 4) else c
    let nt := dfld w 1 63 48
    let r := c.read (dfld w 1 47 0) (128 * nt)
    if r.1.range then (r.1, [], [])
    else
      let f := (List.range nt).foldl (fun (a : UpeChk × List UpeTensor) k =>
        let e := State.words 16 ((r.2.drop (128 * k)).take 128)
        let x := if op = 1 then a.1.tensor e (jStep w) else (a.1.bad (normStray e)).entry e
        (x.1, a.2 ++ [x.2])) (r.1, [])
      (f.1, f.2, [])
  else
    let r := c.read (dfld w 6 47 0) 128
    let p := State.words 16 r.2
    let n := pN p
    let c := r.1.bad (reservedIn precBits p || dfld p 6 7 0 == 0 || decide (128 < dfld p 6 7 0) || precStray op p)
    if c.range then (c, [], [])
    else ((precMats op).foldl (fun c i => c.plane (pAddr p i) (4 * n * n)) c, [], p)

namespace State

/-! ### Taking and ending a job -/

/-- UPE_STAT and UPE_COUNT of a die. -/
def rUpe (d : Nat) : Nat := rDie d 0x100
def rUpeCnt (d : Nat) : Nat := rDie d 0x108

/-- The word of a completion that carries the job's increments (R420). -/
def upeWord (c : List Nat) (failed : Nat) : W64 :=
  BitVec.ofNat 64 (c.getD 0 0 % 65536 * 2 ^ 48 + c.getD 1 0 % 65536 * 2 ^ 32 + c.getD 2 0 % 65536 * 2 ^ 16 + failed)

/-- The address ranges that a job names, with what its checks have read (R320, R325, R328, R338). -/
def upeRanges (j : Job) (ts : List UpeTensor) (p : List W64) : List (Nat × Nat) :=
  let w := j.words
  let op := jOp w
  let coef := fun (x : W64) => if fld x 63 63 = 1 then [(fld x 47 0, 520)] else []
  let grad := fun (e : List W64) =>
    [(tAddr e 0, (if tSparse e then tNidx e else tRows e) * tRowlen e * gBytes e)] ++
      (if tSparse e then [(tAddr e 6, 4 * tNidx e)] else []) ++ (if tGfmt e = 3 then [(tAddr e 8, 64)] else [])
  let rest := fun (T : UpeTensor) =>
    let e := T.ent
    let n := tRows e * tRowlen e
    let rule := gRule T.grp
    [(tAddr e 1, 4 * n), (tAddr e 2, n), (tAddr e 3, wBytes e * n), (tAddr e 13, 128)] ++
      (if usesM1 rule then [(tAddr e 4, mBytes e * n)] else []) ++ (if usesM2 rule then [(tAddr e 5, mBytes e * n)] else []) ++
      (if tSparse e then [(tAddr e 7, 4 * tRows e)] else []) ++ (if tWfmt e = 2 then [(tAddr e 9, 64)] else []) ++
      ([1, 2, 3, 4].flatMap fun i => coef (wordAt T.grp i))
  if op ≤ 2 then
    (dfld w 1 47 0, 128 * dfld w 1 63 48) :: (if op = 2 then [(dfld w 5 47 0, 4)] else []) ++
      ts.flatMap fun T => grad T.ent ++ if op = 1 then rest T else []
  else (dfld w 6 47 0, 128) :: if p.isEmpty then [] else (precMats op).map fun i => (pAddr p i, 4 * pN p * pN p)

/-- A job ends with a status other than NONE. -/
def upeFail (s : State) (d status : Nat) : State :=
  let s := (s.setRegF (rUpe d) 63 60 0).bump (rUpeCnt d) 15 0 1
  s.updJob (1 + d) fun j => { j with stage := 4, status := status, res := [upeWord j.counts 1] }

/-- The checks run; what passes them starts (R322). -/
def upeStart (s : State) (d : Nat) : State :=
  match (s.tgt (1 + d)).job with
  | none => s
  | some j =>
    let s := s.setRegF (rUpe d) 63 60 2
    let c := upeCheck s j
    if c.1.status = 0 then
      (c.1.s.setRegF (rUpe d) 63 60 3).updJob (1 + d) fun j => { j with stage := 2, tensors := c.2.1, prec := c.2.2 }
    else c.1.s.upeFail d c.1.status

/-- UPE_JOB_TAKE (R319, R321): the engine begins the job that its target has taken.  A wait on a
cluster that the module does not have could not end; its check fails at once. -/
def fxUpeJobTake (s : State) (d : Nat) : State :=
  match (s.tgt (1 + d)).job with
  | none => s
  | some j =>
    if j.stage ≠ 0 then s
    else if s.pwrState ≠ 0 then s.wakeUp 4
    else
      let s := s.setRegF (rUpe d) 31 0 (jId j.words)
      if dfld j.words 3 63 63 = 1 ∧ dfld j.words 3 47 40 < 192 then
        (s.setRegF (rUpe d) 63 60 1).updJob (1 + d) fun j => { j with stage := 1 }
      else s.upeStart d

/-- UPE_TOKEN_RELEASE (R321). -/
def fxUpeTokenRelease (s : State) (d : Nat) : State :=
  match (s.tgt (1 + d)).job with
  | none => s
  | some j =>
    let v := dfld j.words 3 39 24
    match s.physClu (dfld j.words 3 47 40) with
    | none => s
    | some pc =>
      let a := rClu pc (0x1000 + 8 * dfld j.words 3 55 48)
      if j.stage ≠ 1 ∨ s.regF a 15 0 < v then s
      else (s.setRegF a 15 0 (s.regF a 15 0 - v)).upeStart d

/-- UPE_TOKEN_TIMEOUT (R321): WTMO µs have passed with COUNT below WVALUE. -/
def fxUpeTokenTimeout (s : State) (d : Nat) : State :=
  match (s.tgt (1 + d)).job with
  | none => s
  | some j =>
    let ready := match s.physClu (dfld j.words 3 47 40) with
      | none => false
      | some pc => decide (dfld j.words 3 39 24 ≤ s.regF (rClu pc (0x1000 + 8 * dfld j.words 3 55 48)) 15 0)
    if j.stage != 1 || dfld j.words 3 15 0 == 0 || ready then s else s.upeFail d 0x0C

/-- The work of a job is done: its counts enter UPE_COUNT, its writes drain. -/
def upeDone (s : State) (d : Nat) (c : List Nat) : State :=
  let s := (s.bump (rUpeCnt d) 63 48 (c.getD 0 0)).bump (rUpeCnt d) 47 32 (c.getD 1 0)
  let s := s.bump (rUpeCnt d) 31 16 (c.getD 2 0)
  (s.setRegF (rUpe d) 63 60 4).updJob (1 + d) fun j => { j with stage := 3, counts := c }

/-- The running job of an engine, if its OP is `op`. -/
def upeRun (s : State) (d op : Nat) : Option Job :=
  match (s.tgt (1 + d)).job with
  | some j => if j.stage = 2 ∧ jOp j.words = op then some j else none
  | none => none

/-- UPE_JOB_COMPLETE (R323): every write and record update has been accepted. -/
def fxUpeJobComplete (s : State) (d : Nat) : State :=
  match (s.tgt (1 + d)).job with
  | none => s
  | some j =>
    if j.stage ≠ 3 ∨ s.scaleQ.any fun x => x.clu == 1000 + d then s
    else
      let w := j.words
      let s := (s.setRegF (rUpe d) 63 60 0).bump (rUpe d) 47 32 1
      let s := if dfld w 4 63 63 = 1 then { s with tokens := s.tokens ++
          [{ src := none, dest := .clu (dfld w 4 47 40), ctr := dfld w 4 55 48, add := dfld w 4 39 32, seq := 0 }] }
        else s
      s.updJob (1 + d) fun j => { j with stage := 4, status := 0, res := [upeWord j.counts 0] }

end State

/-! ### UPDATE (R328 to R336) -/

/-- R332: b^n by squaring, bit by bit from the least significant. -/
def powLoop : Nat → Nat → W32 → W32 → W32
  | 0, _, r, _ => r
  | f + 1, n, r, x => powLoop f (n / 2) (if n % 2 = 1 then fMul r x else r) (fMul x x)

def fPow (b : W32) (n : Nat) : W32 := powLoop 32 n one32 b

/-- R331. -/
def fSign (x : W32) : W32 :=
  match val32 x with
  | .nan => nan32
  | .inf n => if n then fNeg one32 else one32
  | .fin n m _ => if m = 0 then x else if n then fNeg one32 else one32

/-- R333: Δ and the new moments. -/
def ruleStep (T : UpeTensor) (bc1 bc2 g W m v : W32) : W32 × W32 × W32 :=
  let fma := fFma
  match gRule T.grp with
  | 0 => (fMul T.lr (fma T.wd W g), m, v)
  | 1 =>
    let g2 := fma T.wd W g
    let m := fma T.b1 m g2
    ((if gFlag T.grp 1 then fMul T.lr (fma T.b1 m g2) else fMul T.lr m), m, v)
  | 2 =>
    let m := fma (fSub one32 T.b1) g (fMul T.b1 m)
    let v := fma (fSub one32 T.b2) (fMul g g) (fMul T.b2 v)
    let u := fDiv (fDiv m bc1) (fAdd (fSqrt (fDiv v bc2)) (gEps T.grp))
    (fMul T.lr (fma T.wd W u), m, v)
  | _ =>
    let u := fSign (fma (fSub one32 T.b1) g (fMul T.b1 m))
    let m := fma (fSub one32 T.b2) g (fMul T.b2 m)
    (fMul T.lr (fma T.wd W u), m, v)

/-- What one element of a row reads. -/
structure UpeIn where
  gin : FV
  w   : W32
  xb  : Nat
  m1  : Nat
  m2  : Nat
  poison : Bool

/-- What one element gives: the codes to store, whether its values are held, its counts and its report. -/
structure UpeOut where
  w   : Nat
  xb  : Nat
  m1  : Nat
  m2  : Nat
  work : Nat
  hold : Bool
  poison : Bool
  ovf : Nat
  nonfin : Bool
  rep : Report

def UpeIn.moment (bf : Bool) (x : Nat) : W32 := BitVec.ofNat 32 (if bf then x * 65536 else x)

def wFormat (e : List W64) : Format := if tWfmt e = 0 then .fp32 else if tWfmt e = 1 then .bf16 else .f8e4

/-- Gradient-derived: stochastic, finite overflow saturates (R334). -/
def upeCvt : Cvt := ⟨true, false, 0⟩

/-- One element (R331 to R336).  DESIGN CHOICE (log 12): the magnitude that an F8E4 working copy reports is that
of the new FP32-plane word W, the spec giving no reduction of FP32X to the report's FP32 (R115, R151); of a
tensor's elements only the poisoned ones themselves are left out of its report (R151). -/
def upeElem (T : UpeTensor) (gmul bc1 bc2 : W32) (step i : Nat) (x : UpeIn) : UpeOut :=
  let n := fun (b : Bool) => if b then 1 else 0
  let g := fMul (widen x.gin) gmul
  let nonfin := !(val32 g).isFin
  let bf := tBf T.ent
  if nonfin && gFlag T.grp 2 then
    { w := x.w.toNat, xb := x.xb, m1 := x.m1, m2 := x.m2, work := 0, hold := true, poison := x.poison,
      ovf := 0, nonfin := true, rep := {} }
  else
    let r := ruleStep T bc1 bc2 g x.w (UpeIn.moment bf x.m1) (UpeIn.moment bf x.m2)
    let u := fun k => generator (wordAt T.grp 0) (BitVec.ofNat 32 step) (BitVec.ofNat 32 (dfld T.ent 12 63 32 + k)) i
    let M := convertX (.sr (u 0)) false ((valX x.w x.xb).add (val32 r.1).negate)
    let c1 := convert .bf16 upeCvt 0 (u 1) (val32 r.2.1)
    let c2 := convert .bf16 upeCvt 0 (u 3) (val32 r.2.2)
    let f := wFormat T.ent
    let wk := convert f upeCvt (if f = .f8e4 then T.tW else 0) (u 2) (valX M.w M.xb)
    let has := tWfmt T.ent != 15
    let m1 := usesM1 (gRule T.grp)
    let m2 := usesM2 (gRule T.grp)
    { w := M.w.toNat, xb := M.xb
      m1 := if bf then c1.code else r.2.1.toNat
      m2 := if bf then c2.code else r.2.2.toNat
      work := wk.code, hold := false, poison := x.poison, nonfin := nonfin
      ovf := n M.ovf + n (bf && m1 && c1.ovf) + n (bf && m2 && c2.ovf) + n (has && f != .f8e4 && wk.ovf)
      rep := if has && f == .f8e4 && !x.poison then
          { amax := amaxOf M.w, novf := n wk.ovf, nnf := n wk.nonfin } else {} }

namespace State

/-- Codes of `n` elements of `z` bytes from address `a`, with their poison. -/
def readCodes (s : State) (a z n hint : Nat) : State × List (Nat × Bool) :=
  let r := s.memRead a (z * n) hint
  (r.1, (List.range n).map fun i =>
    (leVal ((r.2.1.drop (z * i)).take z), ((r.2.2.drop (z * i)).take z).any id))

/-- Codes written with their poison. -/
def writeCodes (s : State) (a z : Nat) (cs : List (Nat × Bool)) (hint : Nat) : State :=
  s.memWriteP a (cs.map fun c => leBytes z c.1).flatten (cs.map fun c => List.replicate z c.2).flatten hint

/-- One touched row: `k` its place in the gradient, `row` its number; `bad` poisons every element.  The
counts are CVT_OVF, NONFIN, POISONED. -/
def upeRow (s : State) (T : UpeTensor) (gmul : W32) (step k row n : Nat) (bad : Bool) :
    State × List Nat × Report :=
  let e := T.ent
  let L := tRowlen e
  let i0 := row * L
  let rule := gRule T.grp
  let corr := gFlag T.grp 0
  let bc1 := if corr then fSub one32 (fPow T.b1 n) else one32
  let bc2 := if corr then fSub one32 (fPow T.b2 n) else one32
  let G := s.readCodes (tAddr e 0 + k * L * gBytes e) (gBytes e) L (if dfld e 0 62 62 = 1 then 2 else 0)
  let W := G.1.readCodes (tAddr e 1 + 4 * i0) 4 L 0
  let X := W.1.readCodes (tAddr e 2 + i0) 1 L 0
  let z := mBytes e
  let M1 := if usesM1 rule then X.1.readCodes (tAddr e 4 + z * i0) z L 0 else (X.1, [])
  let M2 := if usesM2 rule then M1.1.readCodes (tAddr e 5 + z * i0) z L 0 else (M1.1, [])
  let s := M2.1
  let at_ := fun (l : List (Nat × Bool)) i => l.getD i (0, false)
  let gf := (formatOf (tGfmt e)).getD .fp32
  let outs := (List.range L).map fun i =>
    upeElem T gmul bc1 bc2 step (i0 + i)
      { gin := decodeElem gf (at_ G.2 i).1 (some (if gf = .g8e5 then T.tG else 0)),
        w := BitVec.ofNat 32 (at_ W.2 i).1, xb := (at_ X.2 i).1, m1 := (at_ M1.2 i).1, m2 := (at_ M2.2 i).1,
        poison := bad || (at_ G.2 i).2 || (at_ W.2 i).2 || (at_ X.2 i).2 || (at_ M1.2 i).2 || (at_ M2.2 i).2 }
  let work := outs.zipIdx.map fun o =>
    if o.1.hold then
      let old := (List.range (wBytes e)).map fun b => s.peekByte (tAddr e 3 + wBytes e * (i0 + o.2) + b)
      (leVal (old.map (·.1)), o.1.poison || old.any (·.2))
    else (o.1.work, o.1.poison)
  let s := s.writeCodes (tAddr e 1 + 4 * i0) 4 (outs.map fun o => (o.w, o.poison)) 0
  let s := s.writeCodes (tAddr e 2 + i0) 1 (outs.map fun o => (o.xb, o.poison)) 0
  let s := if usesM1 rule then s.writeCodes (tAddr e 4 + z * i0) z (outs.map fun o => (o.m1, o.poison)) 0 else s
  let s := if usesM2 rule then s.writeCodes (tAddr e 5 + z * i0) z (outs.map fun o => (o.m2, o.poison)) 0 else s
  let s := if tWfmt e = 15 then s
    else s.writeCodes (tAddr e 3 + wBytes e * i0) (wBytes e) work (if dfld e 0 61 61 = 1 then 1 else 0)
  (s, [(outs.map (·.ovf)).foldl (· + ·) 0, (outs.filter (·.nonfin)).length, (outs.filter (·.poison)).length],
    outs.foldl (fun a o => a.add o.rep) {})

def addCounts (a b : List Nat) : List Nat := [a.getD 0 0 + b.getD 0 0, a.getD 1 0 + b.getD 1 0, a.getD 2 0 + b.getD 2 0, 0]

/-- A step count after its increment (R330). -/
def countUp (n : Nat) : Nat := min (n + 1) (2 ^ 32 - 1)

/-- One tensor of an UPDATE job; `ta` is the address of its entry. -/
def upeTensor (s : State) (d : Nat) (T : UpeTensor) (ta : Nat) (gmul : W32) (step : Nat) : State × List Nat :=
  let e := T.ent
  let rows := if tSparse e then T.idx.zipIdx.map fun x => (x.2, x.1) else (List.range (tRows e)).map fun r => (r, r)
  let n := countUp (dfld e 12 31 0)
  let r := rows.foldl (fun (a : State × List Nat × Report) kr =>
    let x := if tSparse e then
        let c := a.1.readCodes (tAddr e 7 + 4 * kr.2) 4 1 0
        let v := c.2.headD (0, false)
        let s := c.1.writeCodes (tAddr e 7 + 4 * kr.2) 4 [(countUp v.1, v.2)] 0
        s.upeRow T gmul step kr.1 kr.2 (countUp v.1) v.2
      else a.1.upeRow T gmul step kr.1 kr.2 n false
    (x.1, addCounts a.2.1 x.2.1, a.2.2.add x.2.2)) (s, [0, 0, 0, 0], {})
  let s := if tSparse e then r.1 else r.1.memWrite (ta + 96) (leBytes 4 n) 0
  let s := if tWfmt e = 2 then { s with scaleQ := s.scaleQ ++
      [{ addr := tAddr e 9, report := some r.2.2, close := true, clu := 1000 + d }] } else s
  (s, r.2.1)

/-- V_LR to V_STEP of a group at the end of the job (R325). -/
def upeGroup (s : State) (T : UpeTensor) (step : Nat) : State :=
  s.memWrite (tAddr T.ent 13 + 48)
    ((leBytes 4 T.lr.toNat) ++ leBytes 4 T.wd.toNat ++ leBytes 4 T.b1.toNat ++ leBytes 4 T.b2.toNat ++ leBytes 4 step) 0

/-- UPDATE (R328 to R336). -/
def fxUpdate (s : State) (d : Nat) : State :=
  match s.upeRun d 1 with
  | none => s
  | some j =>
    let w := j.words
    let gmul := BitVec.ofNat 32 (dfld w 2 63 32)
    let r := j.tensors.zipIdx.foldl (fun (a : State × List Nat) t =>
      let x := a.1.upeTensor d t.1 (dfld w 1 47 0 + 128 * t.2) gmul (jStep w)
      (x.1, addCounts a.2 x.2)) (s, [0, 0, 0, 0])
    let gs := j.tensors.zipIdx.filter fun t => (j.tensors.take t.2).all fun u => tAddr u.ent 13 != tAddr t.1.ent 13
    (gs.foldl (fun s t => s.upeGroup t.1 (jStep w)) r.1).upeDone d r.2

/-! ### NORM and the preconditioners -/

/-- The value of a reduction of R140. -/
def reduceVal (r : Red) (es : List (Nat × W32 × W32)) : W32 := ((reduce r es).run 0).1

/-- NORM (R337). -/
def fxNorm (s : State) (d : Nat) : State :=
  match s.upeRun d 2 with
  | none => s
  | some j =>
    let w := j.words
    let gmul := BitVec.ofNat 32 (dfld w 2 63 32)
    let r := j.tensors.foldl (fun (a : State × W32 × Bool) T =>
      let e := T.ent
      let L := tRowlen e
      let gf := (formatOf (tGfmt e)).getD .fp32
      let rows := if tSparse e then T.idx else List.range (tRows e)
      let G := a.1.readCodes (tAddr e 0) (gBytes e) (rows.length * L) (if dfld e 0 62 62 = 1 then 2 else 0)
      let es := G.2.zipIdx.map fun c =>
        let g := fMul (widen (decodeElem gf c.1.1 (some (if gf = .g8e5 then T.tG else 0)))) gmul
        (rows.getD (c.2 / L) 0 * L + c.2 % L, g, zero32)
      (G.1, fAdd a.2.1 (reduceVal .sumsq es), a.2.2 || G.2.any (·.2))) (s, zero32, false)
    (r.1.writeCodes (dfld w 5 47 0) 4 [(r.2.1.toNat, r.2.2)] 0).upeDone d [0, 0, 0, 0]

/-- A matrix of FP32 values, row-major, with its poison. -/
def readMat (s : State) (a n : Nat) : State × List (W32 × Bool) :=
  let r := s.readCodes a 4 (n * n) 0
  (r.1, r.2.map fun c => (BitVec.ofNat 32 c.1, c.2))

def writeMat (s : State) (a : Nat) (m : List (W32 × Bool)) : State :=
  s.writeCodes a 4 (m.map fun x => (x.1.toNat, x.2)) 0

def cellOf (m : List (W32 × Bool)) (i : Nat) : W32 × Bool := m.getD i (zero32, false)

/-- STAT_BLEND (R339). -/
def fxStatBlend (s : State) (d : Nat) : State :=
  match s.upeRun d 3 with
  | none => s
  | some j =>
    let p := j.prec
    let n := pN p
    let beta := BitVec.ofNat 32 (dfld p 5 31 0)
    let S := s.readMat (pAddr p 0) n
    let C := S.1.readMat (pAddr p 1) n
    let out := (List.range (n * n)).map fun i =>
      let a := cellOf S.2 i
      let b := cellOf C.2 i
      (fFma beta a.1 (fMul (fSub one32 beta) b.1), a.2 || b.2)
    let s := C.1.writeMat (pAddr p 0) out
    (s.memWrite (dfld j.words 6 47 0 + 56) (leBytes 4 (dfld p 7 31 0 + 1)) 0).upeDone d [0, 0, 0, 0]

/-- The smallest integer e with ss ≤ 2^(2e), for a positive finite ss. -/
def normExp (m : Nat) (e : Int) : Int :=
  let k : Int := if 2 ^ m.log2 = m then (m.log2 : Int) + e else (m.log2 : Int) + 1 + e
  (k + 1) / 2

/-- The smallest integer q with P × q ≥ e. -/
def divUp (e : Int) (P : Nat) : Int := -((-e) / (P : Int))

/-- The FP32 value 2^k. -/
def pow2 (k : Int) : W32 := round32 .rne (.fin false 1 k)

/-- ROOT_PREP (R340). -/
def fxRootPrep (s : State) (d : Nat) : State :=
  match s.upeRun d 4 with
  | none => s
  | some j =>
    let p := j.prec
    let n := pN p
    let damp := BitVec.ofNat 32 (dfld p 5 63 32)
    let S := s.readMat (pAddr p 0) n
    let A := (List.range (n * n)).map fun k =>
      let x := cellOf S.2 k
      let y := cellOf S.2 (k % n * n + k / n)
      let v := fMul (fAdd x.1 y.1) half32
      ((if k / n = k % n then fAdd v damp else v), x.2 || y.2)
    let bad := A.any (·.2)
    let ss := reduceVal .sumsq (A.zipIdx.map fun a => (a.2, a.1.1, zero32))
    let a := dfld j.words 6 47 0
    let refuse := fun (s : State) =>
      ((s.memWrite (a + 50) [0x80#8] 0).memWrite (a + 52) (leBytes 4 (jStep j.words)) 0).upeDone d [0, 1, 0, 0]
    match val32 ss with
    | .fin _ m e =>
      let q := divUp (normExp m e) (pP p)
      if !positive damp || !(val32 damp).isFin || m = 0 || q < -126 || 126 < q then refuse S.1
      else
        let M := A.map fun x => (round32 .rne ((val32 x.1).scale (-(pP p : Int) * q)), x.2)
        let X := (List.range (n * n)).map fun k => (if k / n = k % n then pow2 (-q) else zero32, bad)
        let s := (S.1.writeMat (pAddr p 2) (M.map fun x => (x.1, x.2 || bad))).writeMat (pAddr p 3) X
        let s := s.memWriteP (a + 50) [BitVec.ofInt 8 q] [bad] 0
        (s.memWrite (a + 52) (leBytes 4 (jStep j.words)) 0).upeDone d [0, 0, 0, 0]
    | _ => refuse S.1

/-- ROOT_T (R341). -/
def fxRootT (s : State) (d : Nat) : State :=
  match s.upeRun d 5 with
  | none => s
  | some j =>
    let p := j.prec
    let n := pN p
    let inv := fDiv one32 (ofNat32 (pP p))
    let M := s.readMat (pAddr p 2) n
    let T := M.2.zipIdx.map fun x =>
      (fMul (fSub (if x.2 / n = x.2 % n then ofNat32 (pP p + 1) else zero32) x.1.1) inv, x.1.2)
    (M.1.writeMat (pAddr p 4) T).upeDone d [0, 0, 0, 0]

end State

/-! ### The meanings of the commands -/

/-- UPE_JOB_TAKE (R319). -/
def execUpeJobTake (d : DieIx) (s : State) : Host.Outcome State Fault Refusal :=
  .next (s.orWait fun s => s.fxUpeJobTake d.val)

/-- UPE_TOKEN_RELEASE (R321). -/
def execUpeTokenRelease (d : DieIx) (s : State) : Host.Outcome State Fault Refusal :=
  .next (s.orWait (·.fxUpeTokenRelease d.val))

/-- UPE_TOKEN_TIMEOUT (R321): WTMO µs have passed with COUNT below WVALUE. -/
def execUpeTokenTimeout (d : DieIx) (s : State) : Host.Outcome State Fault Refusal :=
  .next (s.fxUpeTokenTimeout d.val)

/-- UPDATE (R333). -/
def execUpdate (d : DieIx) (s : State) : Host.Outcome State Fault Refusal :=
  .next (s.orWait fun s => s.fxUpdate d.val)

/-- NORM (R337). -/
def execNorm (d : DieIx) (s : State) : Host.Outcome State Fault Refusal :=
  .next (s.orWait fun s => s.fxNorm d.val)

/-- STAT_BLEND (R339). -/
def execStatBlend (d : DieIx) (s : State) : Host.Outcome State Fault Refusal :=
  .next (s.orWait fun s => s.fxStatBlend d.val)

/-- ROOT_PREP (R340). -/
def execRootPrep (d : DieIx) (s : State) : Host.Outcome State Fault Refusal :=
  .next (s.orWait fun s => s.fxRootPrep d.val)

/-- ROOT_T (R341). -/
def execRootT (d : DieIx) (s : State) : Host.Outcome State Fault Refusal :=
  .next (s.orWait fun s => s.fxRootT d.val)

/-- UPE_JOB_COMPLETE (R323). -/
def execUpeJobComplete (d : DieIx) (s : State) : Host.Outcome State Fault Refusal :=
  .next (s.orWait fun s => s.fxUpeJobComplete d.val)

end Sys2Proof.Machine
end

