-- ==== Sys2Proof/Machine/Link.lean ====
section
/-!
DEFINITION. Oxcon links (chapter 12): packets as bytes, training, INIT, codewords and flits, retry, going
down, re-injection, sleep and Lantern.
-/

namespace Sys2Proof.Machine

/-! ### Packets (R373) -/

/-- Bytes [o, o + n) of a packet's header. -/
def hNat (p : Packet) (o n : Nat) : Nat := leVal ((p.hdr.drop o).take n)

def pDst (p : Packet) : Nat := hNat p 0 2
def pSrc (p : Packet) : Nat := hNat p 2 2
def pMid (p : Packet) : Nat := hNat p 4 2
def pRoute (p : Packet) : Nat := hNat p 6 1
def pPhase (p : Packet) : Nat := pRoute p % 2
def pVc (p : Packet) : Nat := pRoute p / 2 % 4
def pTc (p : Packet) : Nat := pRoute p / 8 % 4
def pEpoch (p : Packet) : Nat := pRoute p / 32 % 4
def pDetour (p : Packet) : Nat := pRoute p / 128 % 2
def pOp (p : Packet) : Nat := hNat p 7 1
def pFsn (p : Packet) : Nat := hNat p 8 3
def pDie (p : Packet) : Nat := hNat p 11 1
def pLen (p : Packet) : Nat := hNat p 15 1
def pGen (p : Packet) : Nat := hNat p 16 2
def pArg0 (p : Packet) : Nat := hNat p 24 8
def pArg1 (p : Packet) : Nat := hNat p 32 8
def pPoison (p : Packet) : Nat := hNat p 40 8

/-- HCRC recomputed. -/
def rehash (h : List Byte) : List Byte := splice h 60 (leBytes 4 (crc32c (h.take 60)).toNat)

/-- Bytes of a header replaced, HCRC recomputed (R373). -/
def setH (p : Packet) (o n v : Nat) : Packet := { p with hdr := rehash (splice p.hdr o (leBytes n v)) }

def setRoute (p : Packet) (phase vc detour : Nat) : Packet :=
  setH p 6 1 (phase + 2 * vc + 8 * pTc p + 32 * pEpoch p + 128 * detour)

/-- Flits of a packet: its header and two sectors a flit. -/
def nFlits (p : Packet) : Nat := 1 + (pLen p + 1) / 2

/-! ### CONTROL flits as bytes (R354) -/

/-- The 64 bytes of a flit from its first bytes: zeros to byte 59, then the CRC-32C. -/
def ctrlFlit (body : List Byte) : List Byte :=
  let b := (body ++ List.replicate 60 0#8).take 60
  b ++ leBytes 4 (crc32c b).toNat

/-- A CONTROL flit as it is sent.  The place of the fields of an INIT flit is free. -/
def ctrlBytes (c : Ctrl) : List Byte :=
  match c with
  | .link f =>
    let has := fun (x : Option (BitVec 12)) (n : Nat) => if x.isSome then n else 0
    let lsn := fun (x : Option (BitVec 12)) => leBytes 2 (x.getD 0#12).toNat
    ctrlFlit (leBytes 1 1 ++ leBytes 1 (has f.ack 1 + has f.nak 2 + has f.replay 4) ++
      lsn f.ack ++ lsn f.nak ++ lsn f.replay ++ (List.range 4).flatMap fun v => leBytes 8 (f.credits.getD v 0#64).toNat)
  | .init f => ctrlFlit (leBytes 1 2 ++ Config.initBody f.peer f.gen.toNat f.dir.val f.k.val f.rxOk)
  | .sleep => ctrlFlit (leBytes 1 3)
  | .sleepAck => ctrlFlit (leBytes 1 4)
  | .reserved => ctrlFlit []

/-- The CRC-32C of a received CONTROL flit holds (R349). -/
def ctrlOk (b : List Byte) : Bool := leVal ((b.drop 60).take 4) == (crc32c (b.take 60)).toNat

/-- A received CONTROL flit by its CKIND. -/
def ctrlOf (b : List Byte) : Ctrl :=
  let n := fun (o k : Nat) => leVal ((b.drop o).take k)
  let field := fun (i : Nat) => if bitAt (n 1 1) i then some (BitVec.ofNat 12 (n (2 + 2 * i) 2)) else none
  match n 0 1 with
  | 1 => .link { ack := field 0, nak := field 1, replay := field 2
                 credits := (List.range 4).map fun v => BitVec.ofNat 64 (n (8 + 8 * v) 8) }
  | 2 => .init { peer := Config.initPeer b, gen := Config.initGen b, dir := Config.initDir b
                 k := Config.initK b, rxOk := Config.initRxOk b }
  | 3 => .sleep
  | 4 => .sleepAck
  | _ => .reserved

/-! ### Ports (R344) -/

def portDir (p : Nat) : Nat := p % 12 / 2
def portK (p : Nat) : Nat := 2 * (p / 12) + p % 2
def oppDir (d : Nat) : Nat := if d % 2 = 0 then d + 1 else d - 1

/-- The four ports of a direction, in ascending number. -/
def dirPorts (d : Nat) : List Nat := [2 * d, 2 * d + 1, 12 + 2 * d, 13 + 2 * d]

namespace State

/-- A direction has a port UP. -/
def dirUp (s : State) (d : Nat) : Bool := (dirPorts d).any s.lnkUp

/-! ### Flits sent -/

/-- Flits not yet acknowledged. -/
def unacked (x : PortSt) : Nat := (x.sent.map fun t => nFlits t.pkt - t.acked).foldl (· + ·) 0

/-- LSN of the oldest unacknowledged flit. -/
def oldest (x : PortSt) : Nat :=
  match x.sent with
  | t :: _ => (t.lsn + t.acked) % 4096
  | [] => x.lsn

/-- The first `n` unacknowledged flits freed. -/
def freeFlits : Nat → List TxPkt → List TxPkt
  | _, [] => []
  | n, t :: ts =>
    let k := nFlits t.pkt - t.acked
    if k ≤ n then freeFlits (n - k) ts else { t with acked := t.acked + n } :: ts

/-- A CONTROL flit sent by a port. -/
def sendCtrl (s : State) (p : Nat) (c : Ctrl) : State := s.emit (.control p (ctrlBytes c))

/-- A LINK flit with the port's cumulative returns. -/
def linkOut (s : State) (p : Nat) (ack nak rep : Option (BitVec 12)) : State :=
  s.sendCtrl p (.link { ack := ack, nak := nak, replay := rep,
                        credits := (s.port p).freed.map fun n => BitVec.ofNat 64 n })

def lsn12 (n : Nat) : Option (BitVec 12) := some (BitVec.ofNat 12 n)

/-! ### Packets placed on a port (R353, R361, R380) -/

/-- A packet that is not of the Vigil: those alone count for BUSY (R385). -/
def counts (q : Packet) : Bool := pOp q != 7

/-- Packets held for a direction, those of hub 0 first (R360). -/
def heldFor (s : State) (d : Nat) : List (Packet × Nat) := smGet [] s.fab.held (2 * d) ++ smGet [] s.fab.held (2 * d + 1)

/-- The held queues of a direction emptied. -/
def clearHeld (s : State) (d : Nat) : State :=
  s.updFab fun f => { f with held := smSet [] (smSet [] f.held (2 * d) []) (2 * d + 1) [] }

/-- FSNs of a flow in any replay buffer or held queue. -/
def flowHeld (s : State) (d v : Nat) : List Nat :=
  let ps := (dirPorts d).flatMap fun p =>
    (s.port p).sent.map (·.pkt) ++ ((s.port p).reinj ++ (s.port p).lost).map (·.1)
  ((ps ++ (s.heldFor d).map (·.1)).filter fun q => pVc q == v).map pFsn

/-- The port may first send a packet that needs `need` credits: it is UP and not going to sleep, and its
replay buffer has room. -/
def canPlace (s : State) (p : Nat) (q : Packet) (need : Nat) : Bool :=
  let x := s.port p
  s.lnkUp p && x.sleep == 0 && decide (need ≤ x.cred.getD (pVc q) 0) && decide (unacked x + nFlits q ≤ 1024)

/-- The packet's flits are sent: they take the next LSNs and stay in the replay buffer (R353). -/
def launch (s : State) (p : Nat) (q : Packet) : State :=
  let x := s.port p
  let v := pVc q
  let s := s.emit (.packet p x.lsn 0 q)
  let s := s.setReg (rLnk p 0x18) (s.reg (rLnk p 0x18) + BitVec.ofNat 64 (nFlits q))
  let s := s.setReg (rLnk p 0x28) (s.reg (rLnk p 0x28) + 1#64)
  let s := if counts q then s.updFab fun f => { f with busy := true } else s
  s.setPort p { x with
    sent := x.sent ++ [{ pkt := q, lsn := x.lsn }], lsn := (x.lsn + nFlits q) % 4096
    cred := x.cred.set v (x.cred.getD v 0 - 1) }

/-- Re-injected packets go ahead of every other, as far as credits allow; REINJ counts those sent for a sibling
(R360, R368, R381). -/
def drainReinj (s : State) (p : Nat) : State :=
  let todo := (s.port p).reinj
  let s := s.updPort p fun x => { x with reinj := [] }
  todo.foldl (fun s q =>
    if s.canPlace p q.1 1 then
      let s := s.launch p q.1
      if q.2 = p then s else s.bump (rLnk p 0x50) 63 32 1
    else s.updPort p fun x => { x with reinj := x.reinj ++ [q] }) s

/-! ### Down (R358, R359) -/

/-- A port goes DOWN with a cause: partly accepted packets are discarded, packets with an unacknowledged
flit are taken whole from the replay buffer. -/
def portDown (s : State) (p cause : Nat) : State :=
  let wasUp := s.lnkUp p
  let s := (s.setLnk p 4).setRegF (rLnk p 8) 59 56 cause
  let s := s.setRegF (rLnk p 8) 31 0 0
  let s := if wasUp then s.bump (rLnk p 0x48) 63 48 1 else s
  let s := s.updPort p fun x => { x with
    part := [], disc := false, skip := 0, unack := 0, sleep := 0, run := 0
    lost := x.lost ++ x.sent.map (fun t => (t.pkt, p)) ++ x.reinj
    sent := [], reinj := [] }
  let s := s.raiseCode 0x0501 6 p (cause * 2 ^ 8 + p)
  s.setReady (32 + p) true

/-- A port becomes LOW_POWER.  In step 1 of an entry into a low state its PKG_READY bit is cleared, and the
wake waits for it (R487, R505). -/
def lowPower (s : State) (p : Nat) : State :=
  let s := (s.updPort p fun x => { x with sleep := 0, lanterns := 0, heard := false }).setLnk p 6
  if s.pwrState = 4 ∧ s.isReady (32 + p) = true then
    (s.updPwr fun w => { w with wait := w.wait ||| 2 ^ (32 + p) }).setReady (32 + p) false
  else s

/-- The replay buffer is empty: a port asked to sleep sends SLEEP, one that has received SLEEP answers
(R364).  Re-injected packets that it has not started stay. -/
def sleepStep (s : State) (p : Nat) : State :=
  let x := s.port p
  if !x.sent.isEmpty then s
  else if x.sleep = 1 then (s.updPort p fun x => { x with sleep := 2 }).sendCtrl p .sleep
  else if x.sleep = 3 then (s.sendCtrl p .sleepAck).lowPower p
  else s

/-- PORT_SLEEP (R364). -/
def fxPortSleep (s : State) (p : Nat) : State :=
  if !s.lnkUp p || (s.port p).sleep != 0 then s
  else (s.updPort p fun x => { x with sleep := 1 }).sleepStep p

/-- Every flit before LSN `l` is freed, if `l` lies in the sender's window. -/
def freeTo (s : State) (p l : Nat) : State :=
  let x := s.port p
  let n := (l + 4096 - oldest x) % 4096
  if n = 0 ∨ unacked x < n then s
  else
    let past := (x.runAt + 4096 - oldest x) % 4096 < n
    s.updPort p fun x => { x with sent := freeFlits n x.sent, run := if past then 0 else x.run }

/-- A replay from the oldest unacknowledged flit (R356); the ninth at one LSN takes the port DOWN
(R357). -/
def replay (s : State) (p : Nat) : State :=
  let x := s.port p
  let l := oldest x
  if x.sent.isEmpty then s.linkOut p none none (lsn12 l)
  else
    let n := if x.run ≠ 0 ∧ x.runAt = l then x.run + 1 else 1
    if 8 < n then s.portDown p 1
    else
      let s := s.updPort p fun x => { x with run := n, runAt := l }
      let s := (s.bump (rLnk p 0x48) 31 0 1).maxF (rLnk p 0x48) 47 44 n
      let s := s.setReg (rLnk p 0x18) (s.reg (rLnk p 0x18) + BitVec.ofNat 64 (unacked x))
      let s := s.linkOut p none none (lsn12 l)
      x.sent.foldl (fun s t => s.emit (.packet p ((t.lsn + t.acked) % 4096) t.acked t.pkt)) s

/-! ### Received CONTROL flits -/

/-- LINK_FLIT (R355, R356, R380). -/
def fxLinkFlit (s : State) (p : Nat) (f : LinkFlit) : State :=
  if !s.lnkUp p then s
  else
    -- REPLAY beyond the expected LSN outside DISCARD is illegal
    let x := s.port p
    let back := fun (l : BitVec 12) => (x.exp + 4096 - l.toNat) % 4096
    let illegal := match f.replay with
      | some l => !x.disc && decide (1024 < back l)
      | none => false
    if illegal then s.portDown p 6
    else
      let s := match f.replay with
        | some l => if back l ≤ 1024 then s.updPort p fun x => { x with disc := false, skip := back l } else s
        | none => s
      let s := s.updPort p fun x => { x with
        cred := (List.range 4).map fun v =>
          x.cred.getD v 0 + ((f.credits.getD v 0#64).toNat + 2 ^ 64 - x.seen.getD v 0) % 2 ^ 64
        seen := (List.range 4).map fun v => (f.credits.getD v 0#64).toNat }
      let s := match f.ack with
        | some l => s.freeTo p ((l.toNat + 1) % 4096)
        | none => s
      let s := match f.nak with
        | some l =>
          if (l.toNat + 4096 - oldest (s.port p)) % 4096 ≤ unacked (s.port p) then (s.freeTo p l.toNat).replay p else s
        | none => s
      (s.drainReinj p).sleepStep p

/-- The state of a link that goes UP: sequence numbers from 0, eight credits a channel; packets held for
the direction leave first (R360).  During an entry into DORMANT or SOLSTICE it is asked to sleep at once
(R505). -/
def goUp (s : State) (p : Nat) : State :=
  let s := s.setLnk p 3
  let s := s.updPort p fun x => { x with
    exp := 0, disc := false, skip := 0, part := [], unack := 0, lsn := 0, run := 0
    freed := [0, 0, 0, 0], cred := [8, 8, 8, 8], seen := [0, 0, 0, 0], sleep := 0
    reinj := x.reinj ++ s.heldFor (portDir p) }
  let s := ((s.clearHeld (portDir p)).setReady (32 + p) true).drainReinj p
  if s.pwrState = 4 ∧ 2 ≤ s.regF rPwr 59 57 then s.fxPortSleep p else s

/-- Sent and received INIT with RX_OK (R351). -/
def initDone (s : State) (p : Nat) : State :=
  if (s.port p).sentOk && (s.port p).gotOk then s.goUp p else s

/-- The flows of a direction restart for a new partner; packets held for the old one, in replay buffers or held
queues (R361), are discarded (R362). -/
def newPartner (s : State) (p : Nat) (id : W64) (gen : Nat) : State :=
  let d := portDir p
  let old := smGet none s.fab.peers d
  let s := s.updFab fun f => { f with peers := smSet none f.peers d (some (id, gen)) }
  if old.isNone || old == some (id, gen) then s
  else
    let n := (s.heldFor d).length +
      ((dirPorts d).map fun q => (s.port q).sent.length + (s.port q).lost.length + (s.port q).reinj.length).foldl (· + ·) 0
    let s := (s.clearHeld d).updFab fun f => { f with
      fsn := (List.range 4).foldl (fun m v => smSet 0 m (4 * d + v) 0) f.fsn
      rxE := (List.range 4).foldl (fun m v => smSet 0 m (4 * d + v) 0) f.rxE
      rxSet := (List.range 4).foldl (fun m v => smSet [] m (4 * d + v) []) f.rxSet }
    let s := (dirPorts d).foldl (fun s q => s.updPort q fun x => { x with sent := [], lost := [], reinj := [] }) s
    s.bump (rLnk p 0x50) 31 0 n

/-- INIT_FLIT (R351, R362).  On a port that is UP, an INIT of another module, direction or index is illegal
(R358); one of another generation shows a new partner. -/
def fxInitFlit (s : State) (p : Nat) (f : InitFlit) : State :=
  if s.lnkUp p then
    if f.peer = s.reg (rLnk p 0x10) ∧ f.dir.val = s.regF (rLnk p 8) 50 48 ∧ f.k.val = s.regF (rLnk p 8) 47 46 then
      s.newPartner p f.peer f.gen.toNat
    else s.portDown p 6
  else if s.lnkState p ≠ 2 then s
  else
    let s := (s.setRegF (rLnk p 8) 50 48 f.dir.val).setRegF (rLnk p 8) 47 46 f.k.val
    let s := s.setReg (rLnk p 0x10) f.peer
    let sib := (dirPorts (portDir p)).any fun q => q != p && s.lnkUp q && s.reg (rLnk q 0x10) != f.peer
    if f.dir.val ≠ oppDir (portDir p) ∨ f.k.val ≠ portK p ∨ sib then (s.setLnk p 5).setReady (32 + p) true
    else
      let s := s.newPartner p f.peer f.gen.toNat
      (s.updPort p fun x => { x with gotInit := true, gotOk := x.gotOk || f.rxOk }).initDone p

/-- INIT_SEND (R351). -/
def fxInitSend (s : State) (p : Nat) : State :=
  if s.lnkState p ≠ 2 then s
  else
    let ok := (s.port p).gotInit
    let s := s.sendCtrl p (.init {
      peer := s.reg 0x10, gen := BitVec.ofNat 16 (s.regF 0x300000 47 32)
      dir := ⟨portDir p % 6, Nat.mod_lt _ (by decide)⟩, k := ⟨portK p % 4, Nat.mod_lt _ (by decide)⟩, rxOk := ok })
    (s.updPort p fun x => { x with sentOk := x.sentOk || ok }).initDone p

/-- SLEEP: the partner asks to sleep (R364). -/
def fxSleep (s : State) (p : Nat) : State :=
  if !s.lnkUp p then s else (s.updPort p fun x => { x with sleep := 3 }).sleepStep p

/-- SLEEP_ACK (R364). -/
def fxSleepAck (s : State) (p : Nat) : State :=
  if !s.lnkUp p || (s.port p).sleep != 2 then s
  else s.lowPower p

/-! ### Codewords (R349, R355) -/

/-- FAB_QDEPTHn of port `p` and channel `v`. -/
def rDepth (p v : Nat) : Nat := 0x301000 + 8 * (4 * p + v)

/-- The count of occupied buffers of a port and channel changed (R383). -/
def setDepth (s : State) (p v n : Nat) : State :=
  let s := s.setRegF (rDepth p v) 7 0 n
  let s := s.maxF (rDepth p v) 23 16 n
  s.setRegF (rDepth p v) 15 8 (min (s.regF (rDepth p v) 15 8) n)

def inp (s : State) (p v : Nat) : List RxPkt := smGet [] (s.port p).inp v

def setInp (s : State) (p v : Nat) (l : List RxPkt) : State :=
  (s.updPort p fun x => { x with inp := smSet [] x.inp v l }).setDepth p v l.length

/-- A packet whose flits are all accepted passes to the router. -/
def packetIn (s : State) (p : Nat) (fl : List (List Byte)) : State :=
  let h := fl.headD []
  let q : Packet := { hdr := h, payload := (fl.drop 1).flatten.take (32 * leVal ((h.drop 15).take 1)) }
  let v := pVc q
  let s := if counts q then s.updFab fun f => { f with busy := true } else s
  s.setInp p v (s.inp p v ++ [{ pkt := q }])

/-- An ACK of everything accepted (R355). -/
def sendAck (s : State) (p : Nat) : State :=
  (s.linkOut p (lsn12 ((s.port p).exp + 4095)) none none).updPort p fun x => { x with unack := 0 }

/-- One HEAD or BODY flit (R355).  A flit dropped as already accepted is acknowledged again: its ACK was
lost. -/
def flitIn (s : State) (p : Nat) (head : Bool) (b : List Byte) : State :=
  let x := s.port p
  if x.disc then s
  else if 0 < x.skip then
    let s := s.updPort p fun x => { x with skip := x.skip - 1, unack := x.unack + 1 }
    if 64 ≤ (s.port p).unack then s.sendAck p else s
  else
    let s := s.setReg (rLnk p 0x20) (s.reg (rLnk p 0x20) + 1#64)
    let part := if head then [b] else if x.part.isEmpty then [] else x.part ++ [b]
    let full := match part with
      | h :: _ => part.length == 1 + (leVal ((h.drop 15).take 1) + 1) / 2
      | [] => false
    let s := s.updPort p fun x => { x with
      exp := (x.exp + 1) % 4096, unack := x.unack + 1, part := if full then [] else part }
    let s : State := if full then s.packetIn p part else s
    if 64 ≤ (s.port p).unack then s.sendAck p else s

/-- A CONTROL flit (R354). -/
def ctrlIn (s : State) (p : Nat) (c : Ctrl) : State :=
  match c with
  | .link f => s.fxLinkFlit p f
  | .init f => s.fxInitFlit p f
  | .sleep => s.fxSleep p
  | .sleepAck => s.fxSleepAck p
  | .reserved => s

/-- One slot of a decoded codeword, by its KIND (R348, R349). -/
def slotIn (s : State) (p : Nat) (x : SlotIn) : State :=
  match x.kind with
  | 0 => s
  | 3 => if ctrlOk x.bytes then s.ctrlIn p (ctrlOf x.bytes) else s.bump (rLnk p 0x40) 15 0 1
  | k => if s.lnkUp p then s.flitIn p (k == 1) x.bytes else s

/-- CODEWORD_RECEIVE (R349, R355). -/
def fxCodewordReceive (s : State) (p : Nat) (cw : CodewordIn) : State :=
  if s.lnkState p ≠ 2 ∧ s.lnkState p ≠ 3 then s
  else match cw with
    | .align => s
    | .decoded n slots =>
      let s := if n = 0 then s
        else (s.bump (rLnk p 0x38) 31 0 1).bump (rLnk p 0x40) 63 16 n
      slots.foldl (fun s x => s.slotIn p x) s
    | .uncorrectable =>
      let s := s.bump (rLnk p 0x38) 63 32 1
      if s.lnkUp p && !(s.port p).disc then
        (s.updPort p fun x => { x with disc := true, skip := 0 }).linkOut p none (lsn12 (s.port p).exp) none
      else s

/-- NAK_REPEAT (R355). -/
def fxNakRepeat (s : State) (p : Nat) : State :=
  if s.lnkUp p && (s.port p).disc then s.linkOut p none (lsn12 (s.port p).exp) none else s

/-- ACK_TIMER (R355). -/
def fxAckTimer (s : State) (p : Nat) : State :=
  if s.lnkUp p && decide (0 < (s.port p).unack) then s.sendAck p else s

/-- REPLAY_TIMEOUT (R356). -/
def fxReplayTimeout (s : State) (p : Nat) : State :=
  if s.lnkUp p && !(s.port p).sent.isEmpty then s.replay p else s

/-! ### Training and going down -/

/-- LINK_TRAINING_DONE (R350). -/
def fxLinkTrainingDone (s : State) (p : Nat) : State :=
  if s.lnkState p ≠ 1 then s
  else (s.setLnk p 2).updPort p fun x => { x with gotInit := false, sentOk := false, gotOk := false, lanterns := 0 }

/-- TRAIN_FAIL (R350). -/
def fxTrainFail (s : State) (p : Nat) : State := if s.lnkState p = 1 then s.portDown p 4 else s

/-- LOCK_LOSS (R358, R494). -/
def fxLockLoss (s : State) (p : Nat) : State := if s.lnkUp p then s.portDown p 2 else s

/-- PARTNER_SIGNAL_LOSS (R358). -/
def fxPartnerSignalLoss (s : State) (p : Nat) : State := if s.lnkUp p then s.portDown p 3 else s

/-- AUTO_RETRAIN (R352). -/
def fxAutoRetrain (s : State) (p : Nat) : State :=
  if s.lnkState p = 4 ∧ s.bit (rLnk p 0) 3 ∧ s.bit (rLnk p 0) 0 then s.setLnk p 1 else s

/-- LNK_RETRAIN (R352). -/
def fxLnkRetrain (s : State) (p : Nat) : State :=
  if !s.bit (rLnk p 0) 0 then s
  else if s.lnkUp p then (s.portDown p 5).setLnk p 1
  else if s.lnkState p = 4 ∨ s.lnkState p = 5 then s.setLnk p 1
  else s

/-- A write of a register of port `p`, which needs the port and its hub (R483, R484). -/
def portGate (s : State) (p : Nat) (f : State → State) : State :=
  s.gate (2 + p / 12) fun s => s.gate (32 + p) f

/-- LNK_ENABLE (R350, R368). -/
def fxLnkEnable (s : State) (p : Nat) (on : Bool) : State :=
  if on then
    let s := s.setBit (rLnk p 0) 0
    if s.lnkState p = 0 then s.setLnk p 1 else s
  else
    let s := s.clrBit (rLnk p 0) 0
    (if s.lnkUp p then s.portDown p 5 else s).setLnk p 0

/-- CLR_CNT (R368): every counter of the port. -/
def fxClrCnt (s : State) (p : Nat) : State :=
  [0x18, 0x20, 0x28, 0x30, 0x38, 0x40, 0x48, 0x50].foldl (fun s o => s.setReg (rLnk p o) 0#64) s

/-- The sibling that takes a port's packets: the other of its direction on the same hub, else those on
the other hub in ascending k (R360). -/
def sibling (s : State) (p : Nat) : Option Nat :=
  let same := (dirPorts (portDir p)).filter fun q => q / 12 == p / 12 && q != p
  let far := (dirPorts (portDir p)).filter fun q => q / 12 != p / 12
  (same ++ far).find? s.lnkUp

/-- REINJECT (R360): packets of a port that went down go to a sibling that is UP, ahead of packets it has
not started, or are held for the direction. -/
def fxReinject (s : State) (p : Nat) : State :=
  let ps := (s.port p).lost
  if ps.isEmpty then s
  else
    let s := s.updPort p fun x => { x with lost := [] }
    match s.sibling p with
    | some q => (s.updPort q fun x => { x with reinj := x.reinj ++ ps }).drainReinj q
    | none =>
      let k := 2 * portDir p + p / 12
      s.updFab fun f => { f with held := smSet [] f.held k (smGet [] f.held k ++ ps) }

/-! ### Sleep and Lantern (R364 to R367) -/

/-- SLEEP_ACK_TIMEOUT (R364). -/
def fxSleepAckTimeout (s : State) (p : Nat) : State :=
  if s.lnkUp p && (s.port p).sleep == 2 then s.portDown p 5 else s

/-- SIGNAL_DETECT_WAKE (R365, R506): the receiver sees the partner's training signal.  In DORMANT the port
trains; otherwise the Lanterns that AUTO_WAKE sends end (R367).  In SOLSTICE nothing detects it (R363). -/
def fxSignalDetectWake (s : State) (p : Nat) : State :=
  if s.lnkState p ≠ 6 ∨ s.pwrState = 3 then s
  else if s.pwrState = 2 then
    let s := s.portWake p
    if s.bit 0x10100 8 then s.wakeUp 0 else s
  else s.updPort p fun x => { x with heard := true }

/-- LANTERN_DETECT (R365, R366): at least 12 bursts are a Lantern. -/
def fxLanternDetect (s : State) (p bursts : Nat) : State :=
  if bursts < 12 then s
  else
    let s := s.setBit (rLnk p 8) 44
    if s.bit (rLnk p 0) 4 ∧ s.lnkState p = 6 then
      let s := s.portWake p
      -- a Lantern wakes from DORMANT and SOLSTICE, and stops an entry into them
      if s.pwrState = 1 ∨ (s.pwrState = 4 ∧ s.regF rPwr 59 57 = 1) then s else s.wakeUp 0
    else s

/-- LANTERN_SEND (R367). -/
def fxLanternSend (s : State) (p : Nat) : State :=
  if s.lnkState p = 6 ∨ s.lnkState p = 4 then s.emit (.lantern p) else s

end State

/-! ### The meanings of the commands -/

/-- LINK_TRAINING_DONE (R350). -/
def execLinkTrainingDone (p : PortIx) (s : State) : Host.Outcome State Fault Refusal :=
  .next (s.fxLinkTrainingDone p.val)

/-- TRAIN_FAIL (R350). -/
def execTrainFail (p : PortIx) (s : State) : Host.Outcome State Fault Refusal :=
  .next (s.fxTrainFail p.val)

/-- INIT_SEND (R351). -/
def execInitSend (p : PortIx) (s : State) : Host.Outcome State Fault Refusal :=
  .next (s.fxInitSend p.val)

/-- INIT_FLIT (R351). -/
def execInitFlit (p : PortIx) (f : InitFlit) (s : State) : Host.Outcome State Fault Refusal :=
  .next (s.fxInitFlit p.val f)

/-- CODEWORD_RECEIVE (R349). -/
def execCodewordReceive (p : PortIx) (cw : CodewordIn) (s : State) : Host.Outcome State Fault Refusal :=
  .next (s.fxCodewordReceive p.val cw)

/-- LINK_FLIT (R356). -/
def execLinkFlit (p : PortIx) (f : LinkFlit) (s : State) : Host.Outcome State Fault Refusal :=
  .next (s.fxLinkFlit p.val f)

/-- NAK_REPEAT (R355). -/
def execNakRepeat (p : PortIx) (s : State) : Host.Outcome State Fault Refusal :=
  .next (s.fxNakRepeat p.val)

/-- ACK_TIMER (R355). -/
def execAckTimer (p : PortIx) (s : State) : Host.Outcome State Fault Refusal :=
  .next (s.fxAckTimer p.val)

/-- REPLAY_TIMEOUT (R356). -/
def execReplayTimeout (p : PortIx) (s : State) : Host.Outcome State Fault Refusal :=
  .next (s.fxReplayTimeout p.val)

/-- LOCK_LOSS (R358). -/
def execLockLoss (p : PortIx) (s : State) : Host.Outcome State Fault Refusal :=
  .next (s.fxLockLoss p.val)

/-- PARTNER_SIGNAL_LOSS (R358). -/
def execPartnerSignalLoss (p : PortIx) (s : State) : Host.Outcome State Fault Refusal :=
  .next (s.fxPartnerSignalLoss p.val)

/-- REINJECT (R360). -/
def execReinject (p : PortIx) (s : State) : Host.Outcome State Fault Refusal :=
  .next (s.fxReinject p.val)

/-- AUTO_RETRAIN (R352). -/
def execAutoRetrain (p : PortIx) (s : State) : Host.Outcome State Fault Refusal :=
  .next (s.fxAutoRetrain p.val)

/-- LNK_RETRAIN (R352). -/
def execLnkRetrain (p : PortIx) (s : State) : Host.Outcome State Fault Refusal :=
  .next (s.portGate p.val fun s => s.fxLnkRetrain p.val)

/-- LNK_ENABLE (R350). -/
def execLnkEnable (p : PortIx) (on : Bool) (s : State) : Host.Outcome State Fault Refusal :=
  .next (s.portGate p.val fun s => s.fxLnkEnable p.val on)

/-- LANTERN_SEND (R367). -/
def execLanternSend (p : PortIx) (s : State) : Host.Outcome State Fault Refusal :=
  .next (s.portGate p.val fun s => s.fxLanternSend p.val)

/-- CLR_CNT (R368). -/
def execClrCnt (p : PortIx) (s : State) : Host.Outcome State Fault Refusal :=
  .next (s.portGate p.val fun s => s.fxClrCnt p.val)

/-- PORT_SLEEP (R364). -/
def execPortSleep (p : PortIx) (s : State) : Host.Outcome State Fault Refusal :=
  .next (s.fxPortSleep p.val)

/-- SLEEP (R364). -/
def execSleep (p : PortIx) (s : State) : Host.Outcome State Fault Refusal :=
  .next (s.fxSleep p.val)

/-- SLEEP_ACK (R364). -/
def execSleepAck (p : PortIx) (s : State) : Host.Outcome State Fault Refusal :=
  .next (s.fxSleepAck p.val)

/-- SLEEP_ACK_TIMEOUT (R364). -/
def execSleepAckTimeout (p : PortIx) (s : State) : Host.Outcome State Fault Refusal :=
  .next (s.fxSleepAckTimeout p.val)

/-- SIGNAL_DETECT_WAKE (R365). -/
def execSignalDetectWake (p : PortIx) (s : State) : Host.Outcome State Fault Refusal :=
  .next (s.fxSignalDetectWake p.val)

/-- LANTERN_DETECT (R366). -/
def execLanternDetect (p : PortIx) (bursts : Nat) (s : State) : Host.Outcome State Fault Refusal :=
  .next (s.fxLanternDetect p.val bursts)

end Sys2Proof.Machine
end

