-- ==== Sys2Proof/Machine/Rings.lean ====
section
/-!
DEFINITION. Queues of the host interface (chapter 14): contexts, doorbells, ring reads, entries taken,
completions, MSI-X messages, events; the BAR4 window.
-/

namespace Sys2Proof.Machine

/-- Word `w` of the context of queue `n` (R407). -/
def rQ (n w : Nat) : Nat := 0x9000000 + 64 * n + 8 * w

namespace State

/-! ### Accesses that are held (R302) -/

/-- An access to a line of device memory is held: its channel is in a window or in test and the line is not
there, or its set has no victim (R302).  `whole` says that it writes the whole line. -/
def lineWaits (s : State) (ch ln : Nat) (whole : Bool) : Bool :=
  let sl := s.slice (sliceOf ch)
  !s.chLost ch && !sl.lost && (sl.find ch ln).isNone && ((!whole && s.lineHeld ch ln) || s.noVictim ch ln)

/-- A piece of an access at device address `a` waits for a held channel. -/
def memWaits (s : State) (a n : Nat) (write : Bool) : Bool :=
  (pieces (n / 128 + 2) a n).any fun p =>
    let c := s.chanAddr p.1
    s.lineWaits c.1 (c.2 / 128) (write && p.2 == 128)

/-! ### Contexts (R407) -/

def qKind (s : State) (n : Nat) : Nat := s.regF (rQ n 0) 63 62
def qDev (s : State) (n : Nat) : Bool := s.bit (rQ n 0) 61
/-- The PASID that accesses to a ring in host memory carry (R417). -/
def qPasid (s : State) (n : Nat) : Option Nat := if s.bit (rQ n 0) 20 then some (s.regF (rQ n 0) 19 0) else none
def qEn (s : State) (n : Nat) : Bool := s.bit (rQ n 0) 60
def qSize (s : State) (n : Nat) : Nat := 2 ^ s.regF (rQ n 0) 55 51
def qErr (s : State) (n : Nat) : Nat := s.regF (rQ n 0) 47 40
def qBase (s : State) (n : Nat) : Nat := (s.reg (rQ n 1)).toNat
def qTail (s : State) (n : Nat) : Nat := s.regF (rQ n 3) 31 16
def qHead (s : State) (n : Nat) : Nat := s.regF (rQ n 3) 15 0

/-- An enabled queue of a kind. -/
def qIs (s : State) (n kind : Nat) : Bool := s.qEn n && s.qKind n == kind

/-- The enabled queues, ascending. -/
def enabled (s : State) : List Nat :=
  s.regs.filterMap fun x =>
    if 0x9000000 ≤ x.1 ∧ x.1 < 0xA000000 ∧ x.1 % 64 = 0 ∧ fld x.2 60 60 = 1 then some ((x.1 - 0x9000000) / 64)
    else none

/-- HIF_QCFG_ERR (R409). -/
def qcfgErr (s : State) (n code : Nat) : State := s.setReg 0x20008 (BitVec.ofNat 64 (code * 2 ^ 56 + n))

def rHif : Nat := 0x20010

/-- A queue in error raises one QUEUE event (R412, R418). -/
def queueErr (s : State) (n err : Nat) : State :=
  let s := s.setRegF (rQ n 0) 47 40 err
  { s with evtFlight := s.evtFlight ++ [{ type := 8, scope := 8, index := n, w2 := BitVec.ofNat 64 err }] }

/-- A target is present (R414): its function reports ready and is not lost (R483, R487). -/
def targetOk (s : State) (tgt ix : Nat) : Bool :=
  match tgt with
  | 0 => ix == 0 && s.isReady 0
  | 1 => decide (ix < 8) && s.isReady (8 + ix)
  | 2 => decide (ix < 2) && s.isReady (2 + ix)
  | 3 => decide (ix < 4) && s.isReady (2 + ix / 2)
  | _ => false

/-- The number of a target, as `targets` is keyed. -/
def targetKey (tgt ix : Nat) : Nat :=
  match tgt with
  | 0 => 0
  | 1 => 1 + ix
  | 2 => 9 + ix
  | _ => 11 + ix

/-- Fields of word 0 that the host writes (R407). -/
def qWord0 (v : W64) : W64 := v &&& 0xFFF80000001FFFFF#64 &&& ~~~0x0F00000000000000#64

/-! ### Entries written (R421, R422) -/

/-- A CQ or EQ that can take `n` entries: in order, and with free slots. -/
def qRoom (s : State) (q n : Nat) : Bool :=
  s.qErr q == 0 && decide (n ≤ (s.qHead q + s.qSize q - s.qTail q - 1) % s.qSize q)

/-- The slot at TAIL of a ring in device memory cannot be written now (R302). -/
def ringWaits (s : State) (q : Nat) : Bool := s.qDev q && s.memWaits (s.qBase q + 64 * s.qTail q) 64 true

/-- An entry written at TAIL with P equal to PHASE; TAIL advances, and PHASE inverts when it wraps. -/
def putEntry (s : State) (q : Nat) (ws : List W64) : State :=
  let ph := s.regF (rQ q 3) 32 32
  let ws := setFld (wordAt ws 0) 63 63 ph :: ws.drop 1
  let bs := (ws.take 8).flatMap fun w => leBytes 8 w.toNat
  let a := s.qBase q + 64 * s.qTail q
  let s := if s.qDev q then s.memWrite a bs 0 else s.hostWrite (s.qPasid q) a bs
  let t := (s.qTail q + 1) % s.qSize q
  let s := s.setRegF (rQ q 3) 31 16 t
  let s := if t = 0 then s.setRegF (rQ q 3) 32 32 (1 - ph) else s
  let s := s.bump (rQ q 4) 63 32 1
  s.setQueueSt q { s.queueSt q with fresh := (s.queueSt q).fresh + 1 }

/-! ### Events (R423 to R426) -/

/-- The eight words of an event entry. -/
def evtWords (e : Evt) : List W64 :=
  [BitVec.ofNat 64 (e.type * 2 ^ 48 + e.cls * 2 ^ 40 + e.reason * 2 ^ 32 + e.seq % 2 ^ 32),
   BitVec.ofNat 64 (e.scope * 2 ^ 56 + e.index), e.w2, e.w3, e.w4, e.w5, BitVec.ofNat 64 e.alm, e.time]

/-- An event gets its number and its timestamp. -/
def stamp (s : State) (e : Evt) : Evt × State :=
  let t := s.now
  let s := t.2
  ({ e with seq := s.evtSeq, time := t.1 }, { s with evtSeq := (s.evtSeq + 1) % 2 ^ 32 })

/-- HIF_STAT.HELD follows the event buffer (R429). -/
def countHeld (s : State) : State := s.setRegF rHif 8 0 s.evtBuf.length

/-- Held events of an EQ are written as slots are free, a LOST event ahead of them (R426). -/
def flushEvents (q : Nat) : Nat → State → State
  | 0, s => s
  | n + 1, s =>
    if !(s.qIs q 3 && s.qRoom q 1) || s.ringWaits q then s
    else if 0 < smGet 0 s.evtLost q then
      let x := s.stamp { type := 9, w2 := BitVec.ofNat 64 (smGet 0 s.evtLost q) }
      let s := x.2
      flushEvents q n (({ s with evtLost := smSet 0 s.evtLost q 0 }).putEntry q (evtWords x.1))
    else
      match s.evtBuf.find? fun x => x.1 == q with
      | none => s
      | some x =>
        let s := { s with evtBuf := s.evtBuf.eraseP fun y => y.1 == q }
        flushEvents q n ((s.countHeld).putEntry q (evtWords x.2))

/-- An EQ's held events, as far as its room goes. -/
def flushEq (s : State) (q : Nat) : State := s.calm (flushEvents q 258)

/-- EVENT_DELIVERY (R425, R426): the oldest event on its way reaches its EQ, the event buffer, or
neither. -/
def fxEventDelivery (s : State) : State :=
  match s.evtFlight with
  | [] => s
  | e :: es =>
    let x := ({ s with evtFlight := es }).stamp e
    let s := x.2
    let r := 0x20800 + 8 * e.type
    let q := s.regF r 17 0
    if !s.bit r 63 || !s.qIs q 3 then s
    else if s.qRoom q 1 && !s.ringWaits q && !(s.evtBuf.any fun y => y.1 == q) && smGet 0 s.evtLost q == 0 then
      s.calm (·.putEntry q (evtWords x.1))
    else if s.evtBuf.length < 256 then ({ s with evtBuf := s.evtBuf ++ [(q, x.1)] }).countHeld
    else
      let s := s.bump rHif 63 48 1
      { s with evtLost := smSet 0 s.evtLost q (smGet 0 s.evtLost q + 1) }

/-! ### Interrupts (R422) -/

/-- The message of a vector: sent, or its pending bit set while the vector is masked. -/
def sendVector (s : State) (v : Nat) : State :=
  if !s.msixEn then s
  else if s.msixMask || s.bit (0x30008 + 16 * v) 32 then s.setBit (0x38000 + 8 * (v / 64)) (v % 64) else s.emit (.msix v)

/-- The entries written since the last message number at least COAL_CNT, or COAL_US has passed since the
first of them: `late` says so (R422). -/
def coalesced (s : State) (q : Nat) (late : Bool) : Bool :=
  let n := (s.queueSt q).fresh
  decide (0 < n) && (decide (s.regF (rQ q 2) 63 48 ≤ n) || s.regF (rQ q 2) 47 32 == 0 || late)

/-- MSIX_SEND (R422): the count or the delay of coalescing is met. -/
def fxMsixSend (s : State) (q : Nat) (late : Bool) : State :=
  if (s.qIs q 2 || s.qIs q 3) && s.bit (rQ q 2) 11 && s.bit (rQ q 3) 33 && s.coalesced q late then
    let s := s.clrBit (rQ q 3) 33
    let s := s.setQueueSt q { s.queueSt q with fresh := 0 }
    s.sendVector (s.regF (rQ q 2) 10 0)
  else s

/-! ### Enable and disable (R408 to R410) -/

/-- The first failing check of R408; 0 when all pass. -/
def qCheck (s : State) (n : Nat) (v : W64) : Nat :=
  let kind := fld v 63 62
  let log := fld v 55 51
  let base := s.qBase n
  let w2 := s.reg (rQ n 2)
  let rsvd := fld v 59 56 != 0 || fld v 50 48 != 0 || fld v 39 21 != 0 ||
    (if kind = 1 then fld w2 47 18 != 0 else fld w2 31 12 != 0)
  if kind = 0 ∨ rsvd then 1
  else if log < 4 ∨ 16 < log then 2
  else if base % 4096 ≠ 0 ∨ (fld v 61 61 = 1 ∧ (2 ^ 48 ≤ base ∨ s.partnerBase < base + 64 * 2 ^ log)) then 3
  else if kind = 1 ∧ !s.targetOk (fld w2 63 56) (fld w2 55 48) then 4
  else if kind = 1 ∧ !s.qIs (fld w2 17 0) 2 then 5
  else 0

/-- The fields of a context's word 0 that hardware keeps. -/
def qWrite0 (s : State) (n : Nat) (v : W64) : State :=
  let w := qWord0 v
  s.setReg (rQ n 0) (setFld w 47 40 (s.qErr n))

/-- QUEUE_ENABLE (R408): a write of word 0 that sets EN from 0 to 1. -/
def fxQueueEnable (s : State) (n : Nat) (v : W64) : State :=
  if s.qEn n || fld v 60 60 == 0 then s
  else
    let c := s.qCheck n v
    if c ≠ 0 then (s.qWrite0 n (setFld v 60 60 0)).qcfgErr n c
    else
      let s := (s.qWrite0 n v).setRegF (rQ n 0) 47 40 0
      let s := s.setReg (rQ n 3) (if fld v 63 62 = 1 then 0#64 else 0x300000000#64)
      let s := (s.setReg (rQ n 4) 0#64).setQueueSt n {}
      s.flushEq n

/-- Some enabled SQ names the CQ, or a job of one has not posted its completion (R410). -/
def cqInUse (s : State) (n : Nat) : Bool :=
  (s.enabled.any fun q => s.qKind q == 1 && s.regF (rQ q 2) 17 0 == n) ||
  (s.targets.any fun t => match t.2.job with | some j => j.cqn == n && decide (j.sqn < 262144) | none => false)

/-- A write of word 0 to an enabled queue that would change another field (R410). -/
def qLocked (s : State) (n : Nat) (v : W64) : Bool :=
  setFld (qWord0 v) 60 60 0 != setFld (qWord0 (s.reg (rQ n 0))) 60 60 0

/-- QUEUE_DISABLE (R410): a write of word 0 that clears EN. -/
def fxQueueDisable (s : State) (n : Nat) (v : W64) : State :=
  if !s.qEn n || fld v 60 60 == 1 then s
  else if s.qLocked n v then s.qcfgErr n 7
  else if s.qKind n = 2 ∧ s.qErr n = 0 ∧ s.cqInUse n then s.qcfgErr n 6
  else
    let s := s.clrBit (rQ n 0) 60
    let s := s.setQueueSt n { s.queueSt n with buf := [] }
    if s.qKind n = 3 ∧ s.qErr n = 0 then
      ({ s with evtBuf := s.evtBuf.filter fun x => x.1 != n, evtLost := smSet 0 s.evtLost n 0 }).countHeld
    else s

/-! ### Doorbells (R410 to R412, R422) -/

/-- The doorbell's INDEX and reserved bits do not fit the context (R412). -/
def badDoorbell (s : State) (n : Nat) (v : W64) : Bool :=
  let E := s.qSize n
  let i := fld v 15 0
  let hd := s.qHead n
  let tl := s.qTail n
  fld v 63 17 != 0 || decide (E ≤ i) ||
  (if s.qKind n = 1 then decide ((hd + E - tl + E - 1) % E < (i + E - tl) % E)
   else decide ((tl + E - hd) % E < (i + E - hd) % E))

/-- A doorbell of queue `n`. -/
def ring (s : State) (n : Nat) (v : W64) : State :=
  if !s.qEn n || s.qErr n != 0 then s.bump rHif 31 16 1
  else if s.badDoorbell n v then s.queueErr n 1
  else
    let i := fld v 15 0
    if s.qKind n = 1 then s.setRegF (rQ n 3) 31 16 i
    else
      let s := s.setRegF (rQ n 3) 15 0 i
      let s := if fld v 16 16 = 1 then
          let k := (s.qTail n + s.qSize n - i) % s.qSize n
          (s.setBit (rQ n 3) 33).setQueueSt n { s.queueSt n with fresh := k }
        else s
      if s.qKind n = 3 then s.flushEq n else s

/-- The host reaches the module: the host interface is ready (R483), and the module is not lost (R29). -/
def hostUp (s : State) : Bool := s.isReady 1

/-- What a read of the doorbell BAR returns (R405, R411): word 3 of a queue's context at its own offset, its reset
value while the host interface is not ready.  Reading changes nothing, and the command set has no row for it. -/
def bar2Read (s : State) (off : Nat) : W64 :=
  if off % 16 = 0 ∧ s.hostUp then s.reg (rQ (off / 16) 3) else 0#64

/-! ### BAR4 and what waits behind it (R302, R402 to R404) -/

/-- The device address of a BAR4 offset, or none outside the window. -/
def bar4Addr (s : State) (off n : Nat) : Option Nat :=
  let sz := 2 ^ s.regF 0x20000 4 0
  if off + n ≤ sz ∧ 0 < n then some (s.regF 0x20000 47 28 * 2 ^ 28 / sz * sz + off) else none

def bar4Err (s : State) (kind a : Nat) : State :=
  let s := s.setRegF 0x20018 63 62 kind
  (s.bump 0x20018 61 48 1).setRegF 0x20018 47 0 a

/-- Every byte lies in populated HBM outside the spare stripes. -/
def bar4Mapped (a n : Nat) : Bool := decide (a + n ≤ spareBase)

/-- Every address is unmapped for BAR4 in DORMANT and SOLSTICE (R503). -/
def bar4Off (s : State) : Bool := s.pwrState == 2 || s.pwrState == 3

/-- A mapped BAR4 read: data as stored, with the EP bit where a sector is poisoned (R403). -/
def bar4Data (s : State) (a n : Nat) : State :=
  let bs := (List.range n).map fun i => (s.peekByte (a + i)).1
  let m := s.memRead a n 0
  let ep := m.2.2.any id
  let s := if ep then m.1.bar4Err 3 a else m.1
  s.emit (.bar4 (some (bs, ep)))

/-- A host request performed. -/
def hostAct (s : State) : HostReq → State
  | .write a d => s.memWrite a d 0
  | .read a n => s.bar4Data a n
  | .bell off size v => s.ring (off / 16) (if size = 4 then setFld v 63 32 0 else v)

/-- A host request that a held channel keeps waiting (R302). -/
def hostWaits (s : State) : HostReq → Bool
  | .write a d => s.memWaits a d.length true
  | .read a n => s.memWaits a n false
  | .bell .. => false

/-- A host request arrives: behind one that waits it waits too, in order of arrival (R404). -/
def hostRequest (s : State) (r : HostReq) : State :=
  if s.hostQ.isEmpty && !s.hostWaits r then s.calm (·.hostAct r) else { s with hostQ := s.hostQ ++ [r] }

/-- The waiting host requests performed as far as none is held. -/
def hostDrain : Nat → State → State
  | 0, s => s
  | n + 1, s => match s.hostQ with
    | [] => s
    | r :: rs => if s.hostWaits r then s else hostDrain n (({ s with hostQ := rs } : State).hostAct r)

/-- What waited for a channel outside its slice goes on: host requests, then events held for rings in device
memory. -/
def resume (s : State) : State :=
  let s := s.calm (hostDrain s.hostQ.length)
  ((s.evtBuf.map (·.1)).eraseDups).foldl (fun s q => s.flushEq q) s

/-- BAR4_READ (R403). -/
def fxBar4Read (s : State) (off n : Nat) : State :=
  match s.bar4Addr off n with
  | none => s
  | some a =>
    if !s.hostUp then s
    else if s.bar4Off || !bar4Mapped a n then (s.bar4Err 1 a).emit (.bar4 none)
    else s.hostRequest (.read a n)

/-- BAR4_WRITE (R403). -/
def fxBar4Write (s : State) (off : Nat) (data : List Byte) : State :=
  match s.bar4Addr off data.length with
  | none => s
  | some a =>
    if !s.hostUp then s
    else if s.bar4Off || !bar4Mapped a data.length then s.bar4Err 2 a
    else s.hostRequest (.write a data)

/-! ### Doorbells -/

/-- DOORBELL (R411, R412). -/
def fxDoorbell (s : State) (off size : Nat) (v : W64) : State :=
  if off % 16 ≠ 0 ∨ (size ≠ 4 ∧ size ≠ 8) ∨ !s.hostUp then s
  else s.hostRequest (.bell off size v)

/-- DOORBELL_ARM (R422): a doorbell with ARM = 1. -/
def fxDoorbellArm (s : State) (off size : Nat) (v : W64) : State :=
  if fld v 16 16 = 1 then s.fxDoorbell off size v else s

/-! ### Submission (R415 to R418) -/

/-- SQ_FETCH (R415, R418): a read of up to 8 entries returns. -/
def fxSqFetch (s : State) (n : Nat) (r : RingRead) : State :=
  if !s.qIs n 1 || s.qErr n != 0 then s
  else
    let E := s.qSize n
    let k := (s.queueSt n).buf.length
    let todo := min 8 ((s.qTail n + E - s.qHead n) % E - k)
    let at_ := fun i => s.qBase n + 64 * ((s.qHead n + k + i) % E)
    if todo = 0 then s
    else if s.qDev n then
      let x := (List.range todo).foldl (fun (a : State × List (List W64) × Bool) i =>
        let m := a.1.memRead (at_ i) 64 0
        (m.1, a.2.1 ++ [(List.range 8).map fun j => BitVec.ofNat 64 (leVal ((m.2.1.drop (8 * j)).take 8))],
          a.2.2 || m.2.2.any id)) (s, [], false)
      if x.2.2 then x.1.queueErr n 2
      else x.1.setQueueSt n { x.1.queueSt n with buf := (x.1.queueSt n).buf ++ x.2.1 }
    else if r ≠ .ok then s.queueErr n 2
    else
      let es := (List.range todo).map fun i =>
        let bs := s.hostRead (s.qPasid n) (at_ i) 64
        (List.range 8).map fun j => BitVec.ofNat 64 (leVal ((bs.drop (8 * j)).take 8))
      s.setQueueSt n { s.queueSt n with buf := (s.queueSt n).buf ++ es }

/-- The module has fenced (R469). -/
def fenced (s : State) : Bool := s.bit (rSnap 0x48) 32

/-- Target `k` of `targets` is present. -/
def keyOk (s : State) (k : Nat) : Bool :=
  if k = 0 then s.targetOk 0 0 else if k < 9 then s.targetOk 1 (k - 1)
  else if k < 11 then s.targetOk 2 (k - 9) else s.targetOk 3 (k - 11)

/-- SQ_ENTRY_TAKE (R415, R416): the target's next entry, round robin over its SQs. -/
def fxSqEntryTake (s : State) (k : Nat) : State :=
  let t := s.tgt k
  if t.job.isSome || !s.keyOk k || (k != 0 && (s.fenced || s.hub1Lost)) then s
  else
    let qs := s.enabled.filter fun q => s.qKind q == 1 && s.qErr q == 0 && s.qHead q != s.qTail q &&
      targetKey (s.regF (rQ q 2) 63 56) (s.regF (rQ q 2) 55 48) == k
    match (qs.filter fun q => decide (t.last ≤ q)) ++ qs with
    | [] => s
    | q :: _ =>
      match (s.queueSt q).buf with
      | [] => s
      | e :: es =>
        let s := s.setQueueSt q { s.queueSt q with buf := es }
        let s := s.setRegF (rQ q 3) 15 0 ((s.qHead q + 1) % s.qSize q)
        let s := s.bump (rQ q 4) 63 32 1
        s.setTgt k { job := some { words := e, sqn := q, cqn := s.regF (rQ q 2) 17 0 }, last := q + 1 }

/-- COMPLETION_POST (R419 to R421): the completion of a target's ended job.  A CQ that is full, in error
or waiting to be enabled again after an error holds it; one that a reset of the host interface has
removed discards it (R436). -/
def fxCompletionPost (s : State) (k : Nat) : State :=
  match (s.tgt k).job with
  | none => s
  | some j =>
    if j.stage ≠ 4 ∨ 262144 ≤ j.sqn then s
    else
      let free := s.setTgt k { s.tgt k with job := none }
      if 262144 ≤ j.cqn then free
      else if s.qIs j.cqn 2 then
        if s.qRoom j.cqn 1 then
          let w0 := BitVec.ofNat 64 (j.status * 2 ^ 48 + j.sqn * 2 ^ 30 + s.qHead j.sqn)
          free.putEntry j.cqn ([w0, BitVec.ofNat 64 (dfld j.words 0 31 0)] ++
            (List.range 6).map fun i => wordAt j.res i)
        else s
      else if s.qErr j.cqn = 0 then free
      else s

end State

/-! ### The meanings of the commands -/

/-- RETRAIN_REOPEN (R301). -/
def execRetrainReopen (ch : ChanIx) (spared : Fin 6) (s : State) : Host.Outcome State Fault Refusal :=
  .next (s.fxRetrainReopen ch.val spared.val).resume

/-- RETRAIN_TIMEOUT (R303). -/
def execRetrainTimeout (ch : ChanIx) (restored : WindowEnd) (s : State) : Host.Outcome State Fault Refusal :=
  .next (s.fxRetrainTimeout ch.val restored.restored restored.lanes).resume

/-- FALLBACK_TRAINING_DONE (R303). -/
def execFallbackTrainingDone (ch : ChanIx) (passed : FallbackEnd) (s : State) : Host.Outcome State Fault Refusal :=
  .next (s.fxFallbackTrainingDone ch.val passed.spared.val passed.passed).resume

/-- BAR4_READ (R403). -/
def execBar4Read (off : Nat) (len : Nat) (s : State) : Host.Outcome State Fault Refusal :=
  .next (s.fxBar4Read off len)

/-- BAR4_WRITE (R403). -/
def execBar4Write (off : Nat) (data : List Byte) (s : State) : Host.Outcome State Fault Refusal :=
  .next (s.fxBar4Write off data)

/-- DOORBELL (R412). -/
def execDoorbell (off : BitVec 22) (size : Nat) (v : W64) (s : State) : Host.Outcome State Fault Refusal :=
  .next (s.fxDoorbell off.toNat size v)

/-- DOORBELL_ARM (R422). -/
def execDoorbellArm (off : BitVec 22) (size : Nat) (v : W64) (s : State) : Host.Outcome State Fault Refusal :=
  .next (s.fxDoorbellArm off.toNat size v)

/-- QUEUE_ENABLE (R408). -/
def execQueueEnable (q : QIx) (v : W64) (s : State) : Host.Outcome State Fault Refusal :=
  .next (s.gate 1 fun s => s.fxQueueEnable q.val v)

/-- QUEUE_DISABLE (R410). -/
def execQueueDisable (q : QIx) (v : W64) (s : State) : Host.Outcome State Fault Refusal :=
  .next (s.gate 1 fun s => s.fxQueueDisable q.val v)

/-- SQ_FETCH (R415). -/
def execSqFetch (q : QIx) (r : RingRead) (s : State) : Host.Outcome State Fault Refusal :=
  .next (s.orWait fun s => s.fxSqFetch q.val r)

/-- SQ_ENTRY_TAKE (R416). -/
def execSqEntryTake (tgt : Fin 15) (s : State) : Host.Outcome State Fault Refusal :=
  .next (s.fxSqEntryTake tgt.val)

/-- COMPLETION_POST (R421). -/
def execCompletionPost (tgt : Fin 15) (s : State) : Host.Outcome State Fault Refusal :=
  .next (s.orWait fun s => s.fxCompletionPost tgt.val)

/-- MSIX_SEND (R422). -/
def execMsixSend (q : QueueMsg) (s : State) : Host.Outcome State Fault Refusal :=
  .next (s.fxMsixSend q.queue.val q.late)

/-- EVENT_DELIVERY (R426). -/
def execEventDelivery (s : State) : Host.Outcome State Fault Refusal :=
  .next (s.fxEventDelivery)

end Sys2Proof.Machine
end

