-- ==== Sys2Proof/Machine/Fabric.lean ====
section
/-!
DEFINITION. The fabric (chapter 13): route tables, packets, routing and the bubble rule, delivery, the
Vigil, generations retired.
-/

namespace Sys2Proof.Machine

/-! ### Packets built (R373) -/

/-- Checksum of each payload: PCRC. -/
def pcrc (bs : List Byte) : Nat := (crc32c bs).toNat

/-- A packet before its injection: SRC, MID, PHASE, VC class, EPOCH and GEN follow there.  `resp` chooses
the response channels. -/
def mkPacket (dst op die queue tc : Nat) (resp : Bool) (arg0 arg1 poison : Nat) (pay : List Byte) : Packet :=
  let h := leBytes 2 dst ++ leBytes 2 0 ++ leBytes 2 dst ++ leBytes 1 ((if resp then 2 else 0) * 2 + tc % 4 * 8) ++
    leBytes 1 op ++ leBytes 3 0 ++ leBytes 1 die ++ leBytes 3 queue ++ leBytes 1 (pay.length / 32) ++
    leBytes 2 0 ++ leBytes 6 0 ++ leBytes 8 arg0 ++ leBytes 8 arg1 ++ leBytes 8 poison ++
    leBytes 4 (pcrc pay) ++ leBytes 8 0 ++ leBytes 4 0
  { hdr := h, payload := pay }

def noQueue : Nat := 0x3FFFF

/-- Mask of a list of flags. -/
def flagMask (ps : List Bool) : Nat :=
  (List.range ps.length).foldl (fun m i => if ps.getD i false then m + 2 ^ i else m) 0

/-- One flag a 32-byte sector from one flag a byte. -/
def secFlags (ps : List Bool) : List Bool :=
  (List.range ((ps.length + 31) / 32)).map fun i => ((ps.drop (32 * i)).take 32).any id

/-! ### The header check (R374, R375) -/

/-- No reserved opcode, field or value. -/
def headerOk (p : Packet) : Bool :=
  let op := pOp p
  let len := pLen p
  let die := pDie p
  decide (1 ≤ op) && decide (op ≤ 7) && decide (die < 10) && decide (hNat p 12 3 / 2 ^ 18 = 0) &&
  decide (len ≤ 64) && hNat p 18 6 == 0 && hNat p 52 8 == 0 &&
  match op with
  | 1 => hNat p 24 8 % 32 == 0 && pArg0 p / 2 ^ 48 == 0
  | 2 => len == 0
  | 3 => len == 1 || len == 2
  | 4 => len == 0 && decide (pArg0 p / 2 ^ 16 % 256 < 192) && die == pArg0 p / 2 ^ 16 % 256 / 24
  | 6 => len == 0
  | _ => true

def hcrcOk (p : Packet) : Bool := hNat p 60 4 == (crc32c (p.hdr.take 60)).toNat

namespace State

/-! ### Tables (R370, R378) -/

def rVigil : Nat := rFab 0x28
def selfEid (s : State) : Nat := s.regF (rFab 0) 15 0
def selfGen (s : State) : Nat := s.regF (rFab 0) 47 32
def epoch (s : State) : Nat := s.regF rVigil 59 58
/-- A write into one bank. -/
def setRt (s : State) (bank e : Nat) (v : W64) : State :=
  s.updFab fun f =>
    if bank = 0 then { f with rt0 := smSet 0#64 f.rt0 e v } else { f with rt1 := smSet 0#64 f.rt1 e v }

/-- The active intermediate list. -/
def valActive (s : State) (i : Nat) : Nat :=
  fld (smGet 0#64 (if s.rtBank = 0 then s.fab.val0 else s.fab.val1) i) 15 0

/-- Drops (R383, R374).  `k`: 0 BAD_HEADER, 1 STALE_EPOCH, 2 NO_ROUTE, 3 RETIRED. -/
def fabDrop (s : State) (k : Nat) (q : Packet) (port : Nat) : State :=
  let lo := if k = 0 then 0 else if k = 1 then 48 else if k = 2 then 16 else 32
  let s := s.bump (rFab 0x40) (lo + 15) lo 1
  let s := if counts q then s.updFab fun f => { f with dlv := f.dlv + 1#64 } else s
  if k = 3 then
    if s.fabDrops.contains (pSrc q, pGen q) then s
    else { s.record 0x10 0 0 9 (pSrc q) (BitVec.ofNat 64
        (pSrc q * 2 ^ 48 + pGen q * 2 ^ 32 + pDst q * 2 ^ 16 + 2 ^ 8 + port)) 0#64 with
      fabDrops := (pSrc q, pGen q) :: s.fabDrops }
  else s.raiseCode 0x0502 9 (pSrc q) (pSrc q * 2 ^ 48 + pDst q * 2 ^ 32 + pOp q * 2 ^ 24 + port * 2 ^ 16 + k)

/-- The first failing check of R374. -/
def routerCheck (s : State) (q : Packet) : Option Nat :=
  if !hcrcOk q || pVc q % 2 != pPhase q || !headerOk q then some 0
  else if fld (s.rtActive (pSrc q)) 63 63 = 0 ∨ fld (s.rtActive (pSrc q)) 47 32 ≠ pGen q then some 3
  else if pOp q ≠ 7 ∧ pEpoch q ≠ s.epoch then some 1
  else none

/-! ### Routing (R372) -/

end State

/-- Where R372 takes a packet. -/
inductive Route where
  | drop
  /-- Delivered to its consumer. -/
  | here (q : Packet)
  /-- In a direction. -/
  | go (d : Nat) (q : Packet)
  deriving DecidableEq, Repr

namespace State

/-- The routing of R372 by an entry that is VALID and not LOCAL; `a` is the direction of the arrival
port. -/
def routeDir (s : State) (q : Packet) (e : W64) (a : Option Nat) : Route :=
  let dir := fld e 5 3
  let keep := match a with
    | some a => pDetour q == 1 && dir / 2 == a / 2
    | none => false
  let d := match a with
    | some a => if keep then oppDir a else dir
    | none => dir
  let alt := fld e 2 0
  if !s.dirUp d && alt != 7 then .go alt (setRoute q (pPhase q) (pVc q) 1)
  else .go d (setRoute q (pPhase q) (pVc q) (if keep then 1 else 0))

/-- R372. -/
def route (s : State) (q : Packet) (a : Option Nat) : Route :=
  let second := fun (q : Packet) =>
    let e := s.rtActive (pDst q)
    if fld e 63 63 = 0 ∨ fld e 5 3 = 7 then .drop
    else if fld e 5 3 = 6 then .here q
    else s.routeDir q e a
  if pPhase q = 1 then second q
  else
    let e := s.rtActive (pMid q)
    if fld e 63 63 = 0 ∨ fld e 5 3 = 7 then .drop
    else if fld e 5 3 = 6 then second (setRoute q 1 (pVc q + 1) 0)
    else s.routeDir q e a

/-- The port that R372 and R381 give a packet in direction `d`: UP, with the credits it needs and nothing
re-injected ahead of it; the most credits, then the lowest number. -/
def outPort (s : State) (d : Nat) (q : Packet) (need : Nat) : Option Nat :=
  let c := fun p => (s.port p).cred.getD (pVc q) 0
  let ps := (dirPorts d).filter fun p => s.canPlace p q need && (s.port p).reinj.isEmpty
  ps.foldl (fun b p =>
    match b with
    | none => some p
    | some x => if c x < c p then some p else some x) none

/-- The next FSN of a flow may be placed (R361). -/
def fsnRoom (s : State) (d v : Nat) : Bool :=
  let f := smGet 0 s.fab.fsn (4 * d + v)
  (s.flowHeld d v).all fun o => decide ((f + 2 ^ 24 - o) % 2 ^ 24 < 4096)

/-- The port on which a packet can leave now. -/
def outFor (s : State) (d : Nat) (q : Packet) (need : Nat) : Option Nat :=
  if s.fsnRoom d (pVc q) then s.outPort d q need else none

/-- The bubble rule (R381): credits that a packet needs that arrived from direction `a` on channel `v` and
leaves in direction `d`. -/
def creditsNeeded (a : Option Nat) (v d : Nat) (q : Packet) : Nat :=
  match a with
  | some a => if d == oppDir a && pVc q == v then 1 else 2
  | none => 2

/-! ### Injection (R369, R377, R378, R385) -/

/-- The draw register advanced: x^32 + x^22 + x^2 + x + 1. -/
def lfsrNext (x : W32) : W32 :=
  let b := x.getLsbD 31 ^^ x.getLsbD 21 ^^ x.getLsbD 1 ^^ x.getLsbD 0
  (x <<< 1) ||| (if b then 1#32 else 0#32)

/-- What the router may inject: nothing without an EID or once fenced, VIGIL packets alone while
stopped. -/
def mayInject (s : State) (q : Packet) : Bool :=
  s.bit (rFab 0) 48 && !s.fenced && (s.regF rVigil 63 60 == 0 || pOp q == 7)

/-- A packet as it is injected: source, generation, epoch, and its intermediate under Valiant routing.  The
hub's draw register advances for every packet (R378). -/
def injectForm (s : State) (q : Packet) (hub : Nat) : Packet × State :=
  let n := s.regF (rFab 0x10) 29 16
  let base := if pVc q / 2 = 1 then 2 else 0
  let minimal := pOp q == 7 || bitAt (s.regF (rFab 8) 3 0) (pTc q) || n == 0
  let x := lfsrNext (if hub = 0 then s.fab.lfsr0 else s.fab.lfsr1)
  let s := s.updFab fun f => if hub = 0 then { f with lfsr0 := x } else { f with lfsr1 := x }
  let mid := if minimal then pDst q else s.valActive (x.toNat % n)
  let ph := if minimal then 1 else 0
  let vc := if pOp q = 7 then 3 else base + ph
  let h := splice q.hdr 2 (leBytes 2 s.selfEid ++ leBytes 2 mid ++
    leBytes 1 (ph + 2 * vc + 8 * pTc q + 32 * s.epoch))
  let h := splice h 16 (leBytes 2 s.selfGen)
  ({ q with hdr := rehash h }, s)

/-- The packet of a token addition for another module (R375). -/
def tokenPacket (eid c ctr add : Nat) : Packet :=
  mkPacket eid 4 (c / 24) noQueue 3 false (c * 2 ^ 16 + ctr * 2 ^ 8 + add) 0 0 []

/-- What waits to be injected: with its hub, and its place among the tokens in flight. -/
def waiting (s : State) : List (Packet × Nat × Option Nat) :=
  s.fab.inject.map (fun x => (x.1, x.2, none)) ++
  (List.range s.tokens.length).filterMap fun i =>
    match s.tokens[i]? with
    | some t =>
      match t.dest with
      | .remote e c => if t.passed then some (tokenPacket e c t.ctr t.add, 0, some i) else none
      | .clu _ => none
    | none => none

/-- The packet taken from where it waited, and counted in INJ. -/
def takeWaiting (s : State) (x : Packet × Nat × Option Nat) : State :=
  let s := match x.2.2 with
    | some i => { s with tokens := s.tokens.eraseIdx i }
    | none => s.updFab fun f => { f with inject := f.inject.erase (x.1, x.2.1) }
  if counts x.1 then s.updFab fun f => { f with inj := f.inj + 1#64 } else s

/-- A packet reaches its consumer.  A VIGIL packet of another VSEQ is ignored (R384). -/
def handOver (s : State) (q : Packet) (port : Nat) : State :=
  let s := if counts q then s.updFab fun f => { f with dlv := f.dlv + 1#64 } else s
  if pOp q = 7 ∧ pArg0 q / 2 ^ 8 % 256 ≠ s.regF rVigil 55 48 then s
  else s.updFab fun f => { f with local_ := f.local_ ++ [(q, port)] }

/-! ### The choice of a port (R382) -/

/-- Where a packet would leave now, and on which channel. -/
def offerOf (s : State) (a : Option Nat) (v : Nat) (q : Packet) : Option (Nat × Nat) :=
  match s.route q a with
  | .go d q2 => (s.outFor d q2 (creditsNeeded a v d q2)).map fun o => (o, pVc q2)
  | _ => none

/-- Every output port and channel for which some packet that meets R381 waits: the head packet of an input
buffer, or one to be injected. -/
def offers (s : State) : List (Nat × Nat) :=
  ((List.range 24).flatMap fun p => (List.range 4).filterMap fun v =>
    match (s.inp p v).find? (·.ready) with
    | some x => s.offerOf (some (portDir p)) v x.pkt
    | none => none) ++
  s.waiting.filterMap fun x =>
    let f := s.injectForm x.1 x.2.1
    if s.mayInject x.1 && (s.routerCheck f.1).isNone then s.offerOf none 0 f.1 else none

/-- It is channel `v`'s turn on port `o`: round robin from the channel served last, over those for which a
packet can leave. -/
def turn (s : State) (o v : Nat) : Bool :=
  let last := smGet 3 s.fab.rr o
  match ((List.range 4).map fun i => (last + 1 + i) % 4).find? fun w => s.offers.contains (o, w) with
  | some w => w == v
  | none => true

/-- A packet is first placed on port `o` of direction `d`, with the next FSN of its flow (R361). -/
def placeOn (s : State) (o d : Nat) (q : Packet) : State :=
  let k := 4 * d + pVc q
  let n := smGet 0 s.fab.fsn k
  let s := s.updFab fun f => { f with fsn := smSet 0 f.fsn k ((n + 1) % 2 ^ 24), rr := smSet 3 f.rr o (pVc q) }
  s.launch o (setH q 8 3 n)

/-- The engines' packets put where they wait to be injected. -/
def send (s : State) (hub : Nat) (q : Packet) : State :=
  s.updFab fun f => { f with inject := f.inject ++ [(q, hub)] }

/-! ### PACKET_ROUTE -/

/-- A buffer of a port freed (R380). -/
def freeBuf (s : State) (p v : Nat) : State :=
  s.updPort p fun x => { x with freed := x.freed.set v (x.freed.getD v 0 + 1) }

/-- The judgement of R361: 0 delivered to the router, 1 duplicate, 2 window error. -/
def judge (s : State) (p : Nat) (q : Packet) : Nat × State :=
  let k := 4 * portDir p + pVc q
  let E := smGet 0 s.fab.rxE k
  let seen := smGet [] s.fab.rxSet k
  let d := (pFsn q + 2 ^ 24 - E) % 2 ^ 24
  if 2 ^ 23 ≤ d then (1, s)
  else if 4096 ≤ d then (2, s)
  else if seen.contains (pFsn q) then (1, s)
  else
    -- E advances past the numbers that have been delivered
    let seen := pFsn q :: seen
    let adv := ((List.range 4097).find? fun i => !seen.contains ((E + i) % 2 ^ 24)).getD 0
    let E2 := (E + adv) % 2 ^ 24
    let seen := seen.filter fun f => decide ((f + 2 ^ 24 - E2) % 2 ^ 24 < 4096)
    (0, s.updFab fun f => { f with rxE := smSet 0 f.rxE k E2, rxSet := smSet [] f.rxSet k seen })

/-- The oldest packet of an input buffer that has not been judged: checked, then delivered, dropped, or
left to be forwarded. -/
def routeIn (s : State) (p v : Nat) : State :=
  let l := s.inp p v
  match l.findIdx? (fun x => !x.ready) with
  | none => s
  | some i =>
    match l[i]? with
    | none => s
    | some x =>
      let q := x.pkt
      let gone := fun (s : State) => (s.setInp p v (l.eraseIdx i)).freeBuf p v
      let j := s.judge p q
      let s := j.2
      if j.1 = 1 then
        let s := if counts q then s.updFab fun f => { f with dlv := f.dlv + 1#64 } else s
        gone (s.bump (rLnk p 0x50) 31 0 1)
      else if j.1 = 2 then
        let s := if counts q then s.updFab fun f => { f with dlv := f.dlv + 1#64 } else s
        let s := gone (s.bump (rLnk p 0x48) 43 32 1)
        if s.lnkUp p then s.portDown p 6 else s
      else
        let s := s.setReg (rLnk p 0x30) (s.reg (rLnk p 0x30) + 1#64)
        match s.routerCheck q with
        | some k => gone (s.fabDrop k q p)
        | none =>
          match s.route q (some (portDir p)) with
          | .drop => gone (s.fabDrop 2 q p)
          | .here q => gone (s.handOver q p)
          | .go _ _ => s.setInp p v (l.set i { x with ready := true })

/-- The first waiting packet that its own router drops or delivers. -/
def routeOwn (s : State) : State :=
  let r := s.waiting.findSome? fun x =>
    if !s.mayInject x.1 then none
    else
      let f := s.injectForm x.1 x.2.1
      match s.routerCheck f.1 with
      | some k => some ((f.2.takeWaiting x).fabDrop k f.1 0)
      | none =>
        match s.route f.1 none with
        | .drop => some ((f.2.takeWaiting x).fabDrop 2 f.1 0)
        | .here q => some ((f.2.takeWaiting x).handOver q 0)
        | .go _ _ => none
  r.getD s

/-- The hubs' fabric functions run: in DORMANT they retain, in SOLSTICE they are off (R503). -/
def routerRuns (s : State) : Bool := s.pwrState != 2 && s.pwrState != 3

/-- PACKET_ROUTE (R361, R372, R374). -/
def fxPacketRoute (s : State) (src : RouteSrc) : State :=
  if !s.routerRuns then s
  else match src with
    | .port p v => s.routeIn p.val v.val
    | .inject => s.routeOwn

/-! ### PACKET_FORWARD (R381, R382) -/

/-- A routed packet of an input buffer leaves, if it meets the bubble rule.  One whose table has changed
so that it has no route is dropped here. -/
def forwardIn (s : State) (p v : Nat) : State :=
  let l := s.inp p v
  match l.find? (·.ready) with
  | none => s
  | some x =>
    let q := x.pkt
    let gone := fun (s : State) => (s.setInp p v (l.erase x)).freeBuf p v
    match s.route q (some (portDir p)) with
    | .drop => gone (s.fabDrop 2 q p)
    | .here q => gone (s.handOver q p)
    | .go d q2 =>
      match s.outFor d q2 (creditsNeeded (some (portDir p)) v d q2) with
      | some o => if s.turn o (pVc q2) then gone (s.placeOn o d q2) else s
      | none => s

/-- The first waiting packet that can enter the ring of its direction and has its turn. -/
def forwardOwn (s : State) : State :=
  let r := s.waiting.findSome? fun x =>
    if !s.mayInject x.1 then none
    else
      let f := s.injectForm x.1 x.2.1
      match s.routerCheck f.1 with
      | some _ => none
      | none =>
        match s.route f.1 none with
        | .go d q =>
          match s.outFor d q 2 with
          | some o => if s.turn o (pVc q) then some ((f.2.takeWaiting x).placeOn o d q) else none
          | none => none
        | _ => none
  r.getD s

/-- PACKET_FORWARD (R381, R382). -/
def fxPacketForward (s : State) (src : RouteSrc) : State :=
  if !s.routerRuns then s
  else match src with
    | .port p v => s.forwardIn p.val v.val
    | .inject => s.forwardOwn

/-- Some packet in the router waits for direction `d`. -/
def waitsFor (s : State) (d : Nat) : Bool :=
  !(s.heldFor d).isEmpty ||
  ((List.range 24).any fun p => (List.range 4).any fun v => (s.inp p v).any fun x =>
    match s.route x.pkt (some (portDir p)) with
    | .go e _ => e == d
    | _ => false) ||
  (s.waiting.any fun x => s.mayInject x.1 &&
    match s.route (s.injectForm x.1 x.2.1).1 none with
    | .go e _ => e == d
    | _ => false)

/-- AUTO_WAKE_LANTERN (R367), until the receiver sees the partner's training signal; after 64 sends WAKE_FAIL is
set once and the sending stops. -/
def fxAutoWakeLantern (s : State) (p : Nat) : State :=
  if !s.routerRuns ∨ (s.port p).heard ∨ s.lnkState p ≠ 6 ∨ !s.bit (rLnk p 0) 5 ∨
      ((s.port p).reinj.isEmpty ∧ !s.waitsFor (portDir p)) then s
  else if (s.port p).lanterns < 64 then
    (s.updPort p fun x => { x with lanterns := x.lanterns + 1 }).emit (.lantern p)
  else if (s.port p).lanterns = 64 then (s.updPort p fun x => { x with lanterns := 65 }).setBit (rLnk p 8) 45
  else s

/-! ### Delivery (R373, R375) -/

/-- The first delivered packet of a kind, taken from where it waits. -/
def takeLocal (s : State) (want : Packet → Bool) : Option ((Packet × Nat) × State) :=
  match s.fab.local_.find? fun x => want x.1 with
  | none => none
  | some x => some (x, s.updFab fun f => { f with local_ := f.local_.erase x })

/-- A packet's payload with one poison flag a sector; a payload whose PCRC fails is poisoned whole
(R373). -/
def payload (s : State) (x : Packet × Nat) : (List Byte × List Bool) × State :=
  let q := x.1
  let n := q.payload.length / 32
  if pcrc q.payload = hNat q 48 4 then
    ((q.payload, (List.range n).map fun i => bitAt (pPoison q) i), s)
  else
    ((q.payload, List.replicate n true),
      s.raiseCode 0x0503 9 (pSrc q) (pSrc q * 2 ^ 48 + x.2 * 2 ^ 16))

/-- One poison flag a byte. -/
def byteFlags (ps : List Bool) : List Bool := ps.flatMap fun b => List.replicate 32 b

/-- The PUT_ACK of a PUT. -/
def ackOf (q : Packet) (refused : Bool) : Packet :=
  mkPacket (pSrc q) 2 (pDie q) noQueue (pTc q) true 0
    (pArg1 q % 2 ^ 32 + (if refused then 2 ^ 32 else 0)) 0 []

/-- PUT (R375): its sectors are written on pages present to the program, and acknowledged. -/
def fxPut (s : State) : State :=
  match s.takeLocal fun q => pOp q == 1 && pDie q != 9 with
  | none => s
  | some (x, s) =>
    let y := s.payload x
    let s := y.2
    let a := pArg0 x.1
    let ok := y.1.1.isEmpty || s.rangePresent a y.1.1.length
    let s := if ok then s.memWriteP a y.1.1 (byteFlags y.1.2) 0 else s
    s.send 0 (ackOf x.1 (!ok))

/-- MSG (R427, R428). -/
def fxMsg (s : State) : State :=
  match s.takeLocal fun q => pOp q == 3 with
  | none => s
  | some (x, s) =>
    let y := s.payload x
    let s := y.2
    let q := x.1
    let n := hNat q 12 3 % 2 ^ 18
    let k := y.1.2.length
    if !s.qIs n 3 then s.bump rHif 47 32 1
    else if !s.qRoom n k then s.bump (rQ n 4) 31 0 k
    else
      let e := s.stamp { type := 4 }
      (List.range k).foldl (fun s i =>
        let sec := (y.1.1.drop (32 * i)).take 32
        let pb := if y.1.2.getD i false then 2 ^ 21 else 0
        let w0 := BitVec.ofNat 64 (4 * 2 ^ 48 + e.1.seq)
        let w1 := BitVec.ofNat 64 (9 * 2 ^ 56 + pb + i * 2 ^ 20 + pSrc q)
        s.putEntry n ([w0, w1, BitVec.ofNat 64 (pArg0 q), BitVec.ofNat 64 (pArg1 q)] ++
          (List.range 4).map fun j => BitVec.ofNat 64 (leVal ((sec.drop (8 * j)).take 8)))) e.2

/-- TOKEN (R375, R196). -/
def fxToken (s : State) : State :=
  match s.takeLocal fun q => pOp q == 4 with
  | none => s
  | some (x, s) =>
    let a := pArg0 x.1
    match s.physClu (bitsOf a 23 16) with
    | none => s
    | some pc => s.addToken pc (bitsOf a 15 8) (bitsOf a 7 0)

/-! ### The Vigil (R384 to R388) -/

def vigilState (s : State) : Nat := s.regF rVigil 63 60
def nChild (s : State) : Nat := min 6 (s.regF (rFab 0x20) 50 48)

/-- EID of child `i`. -/
def child (s : State) (i : Nat) : Nat :=
  if i < 3 then s.regF (rFab 0x18) (47 - 16 * i) (32 - 16 * i)
  else s.regF (rFab 0x20) (47 - 16 * (i - 3)) (32 - 16 * (i - 3))

def parent (s : State) : Nat := s.regF (rFab 0x18) 63 48

def vigilPkt (s : State) (dst stage arg1 : Nat) (pay : List Byte) : Packet :=
  mkPacket dst 7 8 noQueue 0 true
    (stage + s.regF rVigil 55 48 * 2 ^ 8 + s.fab.vigil.newEpoch * 2 ^ 16) arg1 0 pay

def updVigil (s : State) (f : VigilSt → VigilSt) : State := s.updFab fun x => { x with vigil := f x.vigil }

/-- A packet that is not of the Vigil lies in a router buffer, replay buffer or held queue. -/
def holds (s : State) : Bool :=
  ((List.range 24).any fun p =>
    (s.port p).inp.any (fun l => l.2.any fun x => counts x.pkt) ||
    (s.port p).sent.any (fun t => counts t.pkt) || ((s.port p).reinj ++ (s.port p).lost).any fun x => counts x.1) ||
  s.fab.held.any fun l => l.2.any fun x => counts x.1

/-- Collective engines show PAUSED during a Vigil (R398). -/
def pauseCles (s : State) (on : Bool) : State :=
  (List.range 4).foldl (fun s e =>
    if s.regF (rCle e 0) 63 60 = (if on then 3 else 4) then s.setRegF (rCle e 0) 63 60 (if on then 4 else 3) else s) s

/-- STOP at one module: nothing more is injected; packets held for a direction without a port that is UP
are discarded, with one DROP record a direction. -/
def vigilStopHere (s : State) : State :=
  let s := (s.setRegF rVigil 63 60 1).pauseCles true
  let s := (List.range 6).foldl (fun s d =>
    let l := s.heldFor d
    if l.isEmpty || s.dirUp d then s
    else
      let s := (s.clearHeld d).updFab fun f => { f with dlv := f.dlv + BitVec.ofNat 64 (l.filter fun x => counts x.1).length }
      s.record 0x10 0 0 6 (2 * d) (BitVec.ofNat 64 (3 * 2 ^ 8 + 2 * d)) (BitVec.ofNat 64 l.length)) s
  let b := s.holds
  let s := s.updFab fun f => { f with busy := b }
  s.updVigil fun v => { v with exchanged := false, epoch0 := s.epoch, prev := none, commitSent := false, result := 0 }

/-- The commit checks of R385 step 5. -/
def commitOk (s : State) : Bool :=
  let m := if s.rtBank = 0 then s.fab.rt1 else s.fab.rt0
  let v := m.filter fun x => fld x.2 63 63 == 1
  let n := s.regF (rFab 0x10) 13 0
  ((v.filter fun x => fld x.2 5 3 == 6).map Prod.fst) == [s.selfEid] &&
  v.all (fun x =>
    let d := fld x.2 5 3
    let a := fld x.2 2 0
    d != 7 && (a == 7 || (decide (d < 6) && a == oppDir d)) && fld x.2 62 48 == 0 && fld x.2 31 6 == 0) &&
  decide (n ≤ 8192) && (List.range n).all fun i => fld (s.rtStage (s.valStage i)) 63 63 == 1

/-- The banks exchanged: tables, lists and their counts. -/
def exchange (s : State) : State :=
  let a := s.regF (rFab 0x10) 29 16
  let b := s.regF (rFab 0x10) 13 0
  let s := (s.setRegF (rFab 0x10) 29 16 b).setRegF (rFab 0x10) 13 0 a
  s.setRegF rVigil 57 57 (1 - s.rtBank)

/-- A module's own part of a stage. -/
def vigilAct (s : State) (stage : Nat) : State :=
  match stage with
  | 1 => s.vigilStopHere
  | 2 => s.setRegF rVigil 63 60 2
  | 3 =>
    if s.commitOk then
      let s := (s.exchange).setRegF rVigil 59 58 s.fab.vigil.newEpoch
      (s.setRegF rVigil 63 60 3).updVigil fun v => { v with exchanged := true, ok := true }
    else s.updVigil fun v => { v with ok := false }
  | 4 =>
    let s := if s.fab.vigil.exchanged then (s.exchange).setRegF rVigil 59 58 s.fab.vigil.epoch0 else s
    s.updVigil fun v => { v with exchanged := false, result := 2 }
  | _ =>
    let v := s.fab.vigil
    let r := if v.result ≠ 0 then v.result else if v.exchanged then 1 else 3
    let s := ((s.setRegF rVigil 63 60 0).setRegF rVigil 31 28 r).pauseCles false
    s.updVigil fun v => { v with stage := 0, root := false }

/-- A stage begins at this module: its own part, and the packet to each child. -/
def vigilStage (s : State) (stage : Nat) : State :=
  let s := s.updVigil fun v => { v with stage := stage, answered := [], inj := 0, dlv := 0, bz := false, ok := true }
  let s := s.vigilAct stage
  (List.range s.nChild).foldl (fun s i => s.send 0 (s.vigilPkt (s.child i) stage 0 [])) s

/-- This module's COUNT answer, summed over its subtree; BUSY starts anew. -/
def vigilCounts (s : State) : (Nat × Nat × Bool) × State :=
  let v := s.fab.vigil
  let r := ((s.fab.inj.toNat + v.inj) % 2 ^ 64, (s.fab.dlv.toNat + v.dlv) % 2 ^ 64, s.fab.busy || s.holds || v.bz)
  let b := s.holds
  (r, s.updFab fun f => { f with busy := b })

/-- A Vigil that does not commit: one record and one event (R388). -/
def vigilFailed (s : State) (result : Nat) : State :=
  let w := BitVec.ofNat 64 (s.regF rVigil 55 48 * 2 ^ 48 + result * 2 ^ 28)
  let i := s.nextAlm
  let s := s.record 7 0 0 0 0 w 0#64
  { s with evtFlight := s.evtFlight ++ [{ type := 7, w2 := w, alm := i }] }

/-- RESUME sent by the root, with the result. -/
def vigilEnd (s : State) (result : Nat) : State :=
  let s := (s.updVigil fun v => { v with result := result }).vigilStage 5
  if result = 1 then s else s.vigilFailed result

/-- What the root does when a stage is complete (R385 to R387). -/
def vigilRoot (s : State) : State :=
  let v := s.fab.vigil
  match v.stage with
  | 1 => s.vigilStage 2
  | 2 =>
    let c := s.vigilCounts
    let s := c.2
    if v.prev = some (c.1.1, c.1.2.1, false) ∧ c.1.2.2 = false then
      (s.updVigil fun v => { v with newEpoch := (s.epoch + 1) % 4, commitSent := true }).vigilStage 3
    else (s.updVigil fun v => { v with prev := some c.1 }).vigilStage 2
  | 3 => if v.ok then s.vigilEnd 1 else s.vigilStage 4
  | 4 => s.vigilEnd 2
  | _ => s

/-- A module other than the root answers its parent. -/
def vigilAnswer (s : State) : State :=
  let v := s.fab.vigil
  let s := s.updVigil fun v => { v with stage := 0 }
  match v.stage with
  | 2 =>
    let c := s.vigilCounts
    c.2.send 0 (s.vigilPkt s.parent 0x82 0
      (leBytes 8 c.1.1 ++ leBytes 8 c.1.2.1 ++ leBytes 1 (if c.1.2.2 then 1 else 0) ++ leBytes 15 0))
  | k => s.send 0 (s.vigilPkt s.parent (0x80 + k) (if v.ok then 1 else 0) [])

/-- Every child has answered the stage. -/
def allAnswered (s : State) : Bool := (List.range s.nChild).all fun i => s.fab.vigil.answered.contains (s.child i)

/-- Stages complete as far as answers are there. -/
def vigilSettle : Nat → State → State
  | 0, s => s
  | n + 1, s =>
    let v := s.fab.vigil
    if v.stage = 0 ∨ !s.allAnswered then s
    else if v.root then vigilSettle n s.vigilRoot
    else s.vigilAnswer

/-- VIGIL_START (R384): a write of FAB_VIGIL.  START begins a Vigil at the root while STATE is IDLE. -/
def fxVigilStart (s : State) (_w : Who) (v : W64) : State :=
  let s := (s.setRegF rVigil 55 48 (fld v 55 48)).setRegF rVigil 47 32 (fld v 47 32)
  if fld v 56 56 = 1 ∧ s.vigilState = 0 ∧ s.parent = s.selfEid then
    vigilSettle 8 ((s.updVigil fun v => { v with root := true }).vigilStage 1)
  else s

/-- A VIGIL packet of this module's VSEQ, by a test of its stage. -/
def takeVigil (s : State) (stage : Nat → Bool) : Option ((Packet × Nat) × State) :=
  s.takeLocal fun q => pOp q == 7 && stage (pArg0 q % 256) && pArg0 q / 2 ^ 8 % 256 == s.regF rVigil 55 48

/-- A stage that the parent has started (R385). -/
def vigilDown (s : State) (stage : Nat) : State :=
  match s.takeVigil fun k => k == stage with
  | none => s
  | some (x, s) =>
    let s := s.updVigil fun v => { v with root := false, newEpoch := pArg0 x.1 / 2 ^ 16 % 4 }
    let s := s.vigilStage stage
    if stage = 5 then s else vigilSettle 8 s

/-- VIGIL_STOP, VIGIL_COMMIT, VIGIL_ROLLBACK, VIGIL_RESUME (R385, R387). -/
def fxVigilStop (s : State) : State := s.vigilDown 1
def fxVigilCommit (s : State) : State := s.vigilDown 3
def fxVigilRollback (s : State) : State := s.vigilDown 4
def fxVigilResume (s : State) : State := s.vigilDown 5

/-- VIGIL_COUNT (R385): a COUNT arrives; at a root without children, the next wave. -/
def fxVigilCount (s : State) : State :=
  if s.fab.vigil.root && s.fab.vigil.stage == 2 && s.nChild == 0 then vigilSettle 8 s else s.vigilDown 2

/-- A reply is an answer to the present stage: from a child that has not answered yet. -/
def answersNow (s : State) (q : Packet) : Bool :=
  let v := s.fab.vigil
  v.stage != 0 && pArg0 q % 256 == 0x80 + v.stage && pArg0 q / 2 ^ 8 % 256 == s.regF rVigil 55 48 &&
  !v.answered.contains (pSrc q) && (List.range s.nChild).any fun i => s.child i == pSrc q

/-- VIGIL_REPLY (R385 to R387): a child's answer to the present stage; any other reply is dropped.  Counts
whose PCRC fails are poisoned (R373) and taken as BUSY. -/
def fxVigilReply (s : State) : State :=
  match s.takeLocal fun q => pOp q == 7 && decide (0x80 ≤ pArg0 q % 256) with
  | none => s
  | some (x, s) =>
    if !s.answersNow x.1 then s
    else
      let y := s.payload x
      let s := y.2
      let b := y.1.1
      let cnt := s.fab.vigil.stage == 2
      let s := s.updVigil fun v => { v with
        answered := pSrc x.1 :: v.answered
        inj := if cnt then v.inj + leVal (b.take 8) else v.inj
        dlv := if cnt then v.dlv + leVal ((b.drop 8).take 8) else v.dlv
        bz := v.bz || (cnt && (leVal ((b.drop 16).take 1) != 0 || y.1.2.any id))
        ok := v.ok && (v.stage != 3 || pArg1 x.1 % 2 == 1) }
      vigilSettle 8 s

/-- VIGIL_STAGE_TIMEOUT (R388), at the root. -/
def fxVigilStageTimeout (s : State) : State :=
  let v := s.fab.vigil
  if !v.root || v.stage == 0 then s
  else if !v.commitSent then s.vigilEnd 3
  else if v.stage = 4 then s.vigilEnd 2
  else vigilSettle 8 (s.vigilStage 4)

/-- VIGIL_SELF_RESUME (R388): a stopped module that hears nothing more. -/
def fxVigilSelfResume (s : State) : State :=
  if s.vigilState = 0 ∨ s.fab.vigil.root then s
  else (s.updVigil fun v => { v with result := 4 }).vigilAct 5

/-! ### FAB_RETIRE, FAB_CTRL (R383, R390) -/

/-- FAB_RETIRE (R390): GEN of the entry in both banks. -/
def fxFabRetire (s : State) (v : W64) : State :=
  let e := fld v 15 0
  let g := fld v 47 32
  s.updFab fun f => { f with
    rt0 := smSet 0#64 f.rt0 e (setFld (smGet 0#64 f.rt0 e) 47 32 g)
    rt1 := smSet 0#64 f.rt1 e (setFld (smGet 0#64 f.rt1 e) 47 32 g) }

/-- FAB_CLR_MON (R383). -/
def fxFabClrMon (s : State) : State :=
  (List.range 96).foldl (fun s n =>
    let a := rFab (0x1000 + 8 * n)
    let c := s.regF a 7 0
    (s.setRegF a 23 16 c).setRegF a 15 8 c) s

end State

/-! ### The meanings of the commands -/

/-- AUTO_WAKE_LANTERN (R367). -/
def execAutoWakeLantern (p : PortIx) (s : State) : Host.Outcome State Fault Refusal :=
  .next (s.fxAutoWakeLantern p.val)

/-- PACKET_ROUTE (R372). -/
def execPacketRoute (src : RouteSrc) (s : State) : Host.Outcome State Fault Refusal :=
  .next (s.fxPacketRoute src)

/-- PACKET_FORWARD (R382). -/
def execPacketForward (src : RouteSrc) (s : State) : Host.Outcome State Fault Refusal :=
  .next (s.fxPacketForward src)

/-- PUT (R375). -/
def execPut (s : State) : Host.Outcome State Fault Refusal :=
  .next (s.orWait fun s => s.fxPut)

/-- MSG (R427). -/
def execMsg (s : State) : Host.Outcome State Fault Refusal :=
  .next (s.orWait fun s => s.fxMsg)

/-- TOKEN (R375). -/
def execToken (s : State) : Host.Outcome State Fault Refusal :=
  .next (s.fxToken)

/-- VIGIL_START (R384). -/
def execVigilStart (w : Who) (v : W64) (s : State) : Host.Outcome State Fault Refusal :=
  .next (s.gate 2 fun s => s.fxVigilStart w v)

/-- VIGIL_STOP (R385). -/
def execVigilStop (s : State) : Host.Outcome State Fault Refusal :=
  .next (s.fxVigilStop)

/-- VIGIL_COUNT (R385). -/
def execVigilCount (s : State) : Host.Outcome State Fault Refusal :=
  .next (s.fxVigilCount)

/-- VIGIL_COMMIT (R385). -/
def execVigilCommit (s : State) : Host.Outcome State Fault Refusal :=
  .next (s.fxVigilCommit)

/-- VIGIL_ROLLBACK (R387). -/
def execVigilRollback (s : State) : Host.Outcome State Fault Refusal :=
  .next (s.fxVigilRollback)

/-- VIGIL_RESUME (R385). -/
def execVigilResume (s : State) : Host.Outcome State Fault Refusal :=
  .next (s.fxVigilResume)

/-- VIGIL_REPLY (R385). -/
def execVigilReply (s : State) : Host.Outcome State Fault Refusal :=
  .next (s.fxVigilReply)

/-- VIGIL_STAGE_TIMEOUT (R388). -/
def execVigilStageTimeout (s : State) : Host.Outcome State Fault Refusal :=
  .next (s.fxVigilStageTimeout)

/-- VIGIL_SELF_RESUME (R388). -/
def execVigilSelfResume (s : State) : Host.Outcome State Fault Refusal :=
  .next (s.fxVigilSelfResume)

/-- FAB_RETIRE (R390). -/
def execFabRetire (v : W64) (s : State) : Host.Outcome State Fault Refusal :=
  .next (s.gate 2 fun s => s.fxFabRetire v)

/-- FAB_CLR_MON (R383). -/
def execFabClrMon (s : State) : Host.Outcome State Fault Refusal :=
  .next (s.gate 2 fun s => s.fxFabClrMon)

end Sys2Proof.Machine
end

