-- ==== Sys2Proof/Machine/Collect.lean ====
section
/-!
DEFINITION. The transfer engines (R391, R392) and the collective engines (R393 to R399).
-/

namespace Sys2Proof.Machine

/-! ### Fields of the descriptors -/

def copyBits : List (List (Nat × Nat)) :=
  [[(63, 56), (31, 0)], [(47, 0)], [(63, 48), (47, 0)], [(63, 32), (1, 0)], [(63, 63), (55, 24), (15, 0)],
   [(63, 63), (55, 32)], [(63, 63), (23, 0)], [(15, 0)]]

def cSrc (w : List W64) : Nat := dfld w 1 47 0
def cEid (w : List W64) : Nat := dfld w 2 63 48
def cDst (w : List W64) : Nat := dfld w 2 47 0
def cBytes (w : List W64) : Nat := dfld w 3 63 32

/-- The checks of a COPY_OUT: its fields, and a source in populated memory outside the spare stripes. -/
def copyOk (w : List W64) : Bool :=
  dfld w 0 63 56 == 1 && !reservedIn copyBits w && cSrc w % 32 == 0 && cDst w % 32 == 0 &&
  cBytes w % 32 == 0 && decide (32 ≤ cBytes w) && State.bar4Mapped (cSrc w) (cBytes w) &&
  decide (dfld w 5 47 40 < 192) && (dfld w 5 63 63 == 0 || dfld w 5 39 32 != 0) &&
  (dfld w 6 63 63 == 0 || (decide (dfld w 6 23 16 < 192) && dfld w 6 7 0 != 0))

def collBits : List (List (Nat × Nat)) :=
  [[(63, 56), (47, 0)], [(63, 0)], [(63, 0)], [(63, 53), (47, 0)], [(63, 24), (15, 0)], [(63, 0)],
   [(63, 0)], [(63, 62), (55, 0)]]

def kOp (w : List W64) : Nat := dfld w 0 63 56
def kId (w : List W64) : Nat := dfld w 0 47 32
def kN (w : List W64) : Nat := dfld w 1 63 48
def kRanks (w : List W64) : Nat := dfld w 1 47 0
def kMe (w : List W64) : Nat := dfld w 2 63 48
def kIn (w : List W64) : Nat := dfld w 2 47 0
def kFin (w : List W64) : Nat := dfld w 3 63 60
def kFout (w : List W64) : Nat := dfld w 3 59 56
def kTc (w : List W64) : Nat := dfld w 3 55 54
def kSr (w : List W64) : Bool := dfld w 3 53 53 == 1
def kOut (w : List W64) : Nat := dfld w 3 47 0
def kChunk (w : List W64) : Nat := dfld w 4 63 32
def kCvt (w : List W64) : Nat := dfld w 4 31 24
def kTmo (w : List W64) : Nat := dfld w 4 15 0

/-- Bytes of an element of a format that a collective takes. -/
def elemBytes (f : Nat) : Nat := if f = 0 then 4 else if f = 1 then 2 else 1

/-- Bytes of a chunk of ALL_GATHER and of a block of RING_PASS. -/
def chunkBytes (w : List W64) : Nat := if kOp w = 4 then kChunk w else kChunk w * elemBytes (kFin w)

/-- Segments of a chunk. -/
def chunkSegs (w : List W64) : Nat :=
  if kOp w = 1 ∨ kOp w = 3 then kChunk w / 512 else (chunkBytes w + 2047) / 2048

/-- Bytes of the input and of the output. -/
def inBytes (w : List W64) : Nat :=
  if kOp w = 1 ∨ kOp w = 3 then kN w * kChunk w * elemBytes (kFin w) else chunkBytes w
def outBytes (w : List W64) : Nat :=
  match kOp w with
  | 1 => kChunk w * elemBytes (kFout w)
  | 3 => kN w * kChunk w * elemBytes (kFout w)
  | 2 => kN w * chunkBytes w
  | _ => 2 * chunkBytes w

/-- Check 1 of R393. -/
def collRange (w : List W64) : Bool :=
  decide (1 ≤ kOp w) && decide (kOp w ≤ 4) && !reservedIn collBits w && decide (1 ≤ kN w) && decide (kN w ≤ 8192) &&
  kRanks w % 64 == 0 && decide (kMe w < kN w) && kChunk w % (if kOp w = 4 then 2048 else 512) == 0 &&
  (formatOf (kFin w)).isSome && (formatOf (kFout w)).isSome && kCvt w / 16 == 0 && kCvt w % 4 != 3 &&
  decide (dfld w 7 47 40 < 192) && decide (dfld w 7 15 8 < 192) &&
  State.bar4Mapped (kRanks w) (2 * kN w) && State.bar4Mapped (kIn w) (inBytes w) && State.bar4Mapped (kOut w) (outBytes w)

/-- Check 2 of R393. -/
def collFormats (w : List W64) : Bool :=
  match kOp w, formatOf (kFin w), formatOf (kFout w) with
  | 1, some a, some b => (a == .fp32 || a == .bf16) && (b == .fp32 || b == .bf16 || b == .f8e4 || b == .g8e5)
  | 3, some a, some b => (a == .fp32 || a == .bf16) && (b == .fp32 || b == .bf16 || b == .f8e4 || b == .g8e5)
  | _, some a, some b => a == b && (a == .fp32 || a == .bf16 || a == .f8e4 || a == .g8e5)
  | _, _, _ => false

namespace State

/-! ### Token waits and signals (R321) -/

/-- The counter of a flat logical cluster. -/
def tokAddr (s : State) (c ctr : Nat) : Option Nat := (s.physClu c).map fun pc => rClu pc (0x1000 + 8 * ctr)

/-- A wait satisfied: the value is subtracted. -/
def takeToken (s : State) (c ctr v : Nat) : Option State :=
  match s.tokAddr c ctr with
  | none => none
  | some a => if s.regF a 15 0 < v then none else some (s.setRegF a 15 0 (s.regF a 15 0 - v))

/-- A signal under R196. -/
def signal (s : State) (c ctr add : Nat) : State :=
  { s with tokens := s.tokens ++ [{ src := none, dest := .clu c, ctr := ctr, add := add, seq := 0 }] }

/-- A target's job ends: its completion waits to be posted (R421). -/
def endJob (s : State) (k status : Nat) (res : List W64) : State :=
  s.updJob k fun j => { j with stage := 4, status := status, res := res, out := [] }

/-! ### COPY_OUT (R391, R392) -/

def copyRes (j : Job) : List W64 := [BitVec.ofNat 64 (j.counts.getD 1 0 * 2 ^ 32)]

/-- The Harvest engine is copying through hub 1's transfer engine (R446). -/
def harvestCopies (s : State) : Bool :=
  match s.hjob with
  | some h => h.stage == 4
  | none => false

/-- PUTs sent while fewer than 64 are unacknowledged. -/
def copySend (h : Nat) : Nat → State → State
  | 0, s => s
  | n + 1, s =>
    match (s.tgt (9 + h)).job with
    | none => s
    | some j =>
      let w := j.words
      let i := j.counts.getD 0 0
      if j.stage ≠ 2 ∨ 64 ≤ j.out.length ∨ cBytes w ≤ 2048 * i then s
      else
        let len := min 2048 (cBytes w - 2048 * i)
        let m := s.memRead (cSrc w + 2048 * i) len 0
        let q := mkPacket (cEid w) 1 8 noQueue (dfld w 3 1 0) false (cDst w + 2048 * i) i (flagMask (secFlags m.2.2)) m.2.1
        let s := (m.1.send h q).updJob (9 + h) fun j => { j with
          out := j.out ++ [i], counts := [i + 1, j.counts.getD 1 0] }
        copySend h n s

/-- The checks, then the first PUTs. -/
def copyStart (s : State) (h : Nat) (j : Job) : State :=
  if copyOk j.words then copySend h 64 (s.updJob (9 + h) fun j => { j with stage := 2, counts := [0, 0] })
  else s.endJob (9 + h) 2 [0#64]

/-- COPY_OUT (R391, R392): the job waits for its token, is checked, and sends. -/
def fxCopyOut (s : State) (h : Nat) : State :=
  match (s.tgt (9 + h)).job with
  | none => s
  | some j =>
    let w := j.words
    if j.stage = 2 then copySend h 64 s
    else if 1 < j.stage ∨ (h = 1 ∧ s.harvestCopies) then s
    else if dfld w 4 63 63 = 0 ∨ 192 ≤ dfld w 4 47 40 then
      (if 192 ≤ dfld w 4 47 40 then s.endJob (9 + h) 2 [0#64] else s.copyStart h j)
    else
      match s.takeToken (dfld w 4 47 40) (dfld w 4 55 48) (dfld w 4 39 24) with
      | some s => s.copyStart h j
      | none => s.updJob (9 + h) fun j => { j with stage := 1 }

/-- TRANSFER_TOKEN_TIMEOUT (R391, R321). -/
def fxTransferTokenTimeout (s : State) (h : Nat) : State :=
  match (s.tgt (9 + h)).job with
  | none => s
  | some j => if j.stage ≠ 1 ∨ dfld j.words 4 15 0 = 0 then s else s.endJob (9 + h) 0x0C [0#64]

/-- No PUT_ACK within TMO_MS (R392). -/
def copyTimeout (s : State) (h : Nat) : State :=
  match (s.tgt (9 + h)).job with
  | none => s
  | some j => if j.stage ≠ 2 ∨ dfld j.words 7 15 0 = 0 then s else s.endJob (9 + h) 0x0D (copyRes j)

/-- The transfer engine of hub `h` waits for this acknowledgement. -/
def copyAwaits (s : State) (h : Nat) (q : Packet) : Bool :=
  match (s.tgt (9 + h)).job with
  | some j => j.stage == 2 && cEid j.words == pSrc q && j.out.contains (pArg1 q % 2 ^ 32)
  | none => false

/-- A PUT_ACK at the transfer engine of hub `h` (R392). -/
def copyAck (s : State) (h : Nat) (q : Packet) : State :=
  match (s.tgt (9 + h)).job with
  | none => s
  | some j =>
    let w := j.words
    let i := pArg1 q % 2 ^ 32
    if bitAt (pArg1 q) 32 then s.endJob (9 + h) 2 (copyRes j)
    else
      let j2 := { j with
        out := j.out.erase i
        counts := [j.counts.getD 0 0, j.counts.getD 1 0 + min 2048 (cBytes w - 2048 * i)] }
      let s := s.updJob (9 + h) fun _ => j2
      if j2.out.isEmpty && decide (cBytes w ≤ 2048 * j2.counts.getD 0 0) then
        let s := if dfld w 6 63 63 = 1 then
            s.send h (tokenPacket (cEid w) (dfld w 6 23 16) (dfld w 6 15 8) (dfld w 6 7 0)) else s
        let s := if dfld w 5 63 63 = 1 then s.signal (dfld w 5 47 40) (dfld w 5 55 48) (dfld w 5 39 32) else s
        s.endJob (9 + h) 0 (copyRes j2)
      else copySend h 64 s

/-! ### Collectives: state -/

def rCleStat (e : Nat) : Nat := rCle e 0

/-- The running collective of an engine. -/
def kJob (s : State) (e : Nat) : Option (List W64) :=
  match (s.tgt (11 + e)).job with
  | some j => if j.stage = 2 then some j.words else none
  | none => none

def nth (l : List Nat) (i : Nat) : Nat := l.getD i 0
def inc (l : List Nat) (i : Nat) : List Nat := l.set i (nth l i + 1)

/-- A sender stays within its grant of 8 buffers and those returned since (R394). -/
def roomN (c : CleSt) (k : Nat) : Bool := decide (nth c.sentN k < 8 + nth c.grantN k)
def roomP (c : CleSt) (k : Nat) : Bool := decide (nth c.sentP k < 8 + nth c.grantP k)

def updCle (s : State) (e : Nat) (f : CleSt → CleSt) : State := s.setCle e (f (s.cle e))

/-- EIDs of the previous and the next rank. -/
def prevEid (s : State) (e : Nat) : Nat := nth (s.cle e).eids 0
def nextEid (s : State) (e : Nat) : Nat := nth (s.cle e).eids 1

def collArg (e kind n : Nat) (w : List W64) : Nat := e * 2 ^ 62 + kind * 2 ^ 60 + n % 2 ^ 32 * 2 ^ 16 + kId w

/-- A segment sent to the next or the previous rank. -/
def segSend (s : State) (e : Nat) (w : List W64) (toNext : Bool) (x : Seg) : State :=
  let eid := if toNext then s.nextEid e else s.prevEid e
  let pay := x.data ++ List.replicate ((32 - x.data.length % 32) % 32) 0#8
  let q := mkPacket eid 5 (8 + e / 2) noQueue (kTc w) false (collArg e x.kind x.seg w) 0 (flagMask x.pois) pay
  let s := s.send (e / 2) q
  let s := s.bump (rCle e 8) 63 32 1
  s.updCle e fun c =>
    if toNext then { c with sentN := inc c.sentN x.kind, nTx := c.nTx + 1 }
    else { c with sentP := inc c.sentP x.kind, nTx := c.nTx + 1 }

/-- A buffer freed: its sender is told the cumulative count (R394), in the traffic class of the segment's
packet (R375). -/
def segFree (s : State) (e : Nat) (w : List W64) (fromNext : Bool) (kind tc : Nat) : State :=
  let s := s.updCle e fun c =>
    if fromNext then { c with freedN := inc c.freedN kind } else { c with freedP := inc c.freedP kind }
  let n := nth (if fromNext then (s.cle e).freedN else (s.cle e).freedP) kind
  let eid := if fromNext then s.nextEid e else s.prevEid e
  s.send (e / 2) (mkPacket eid 6 (8 + e / 2) noQueue tc true (collArg e kind n w) 0 0 [])

/-! ### Sums (R395) -/

/-- Elements 512 g to 512 g + 511 of the input, widened (R116, R117), with their poison. -/
def readIn (s : State) (w : List W64) (g : Nat) : State × List (W32 × Bool) :=
  let z := elemBytes (kFin w)
  let r := s.readCodes (kIn w + 512 * z * g) z 512 0
  (r.1, r.2.map fun c => (widen (decodeElem ((formatOf (kFin w)).getD .fp32) c.1 (some 0)), c.2))

/-- The values of a SUM or RESULT segment. -/
def segVals (x : Seg) : List (W32 × Bool) :=
  (List.range 512).map fun i =>
    (BitVec.ofNat 32 (leVal ((x.data.drop (4 * i)).take 4)), x.pois.getD (i / 8) false)

def valsSeg (kind g : Nat) (vs : List (W32 × Bool)) : Seg :=
  { kind := kind, seg := g, data := vs.flatMap fun v => leBytes 4 v.1.toNat
    pois := (List.range 64).map fun i => ((vs.drop (8 * i)).take 8).any (·.2) }

/-- R395: rank i adds its values. -/
def addRank (w : List W64) (g : Nat) (sum own : List (W32 × Bool)) : List (W32 × Bool) :=
  (List.range 512).map fun i =>
    let a := sum.getD i (0#32, false)
    let b := own.getD i (0#32, false)
    let tid := BitVec.ofNat 32 (dfld w 6 31 0 + kMe w)
    let mode := if kSr w then Rnd.sr (generator (wordAt w 5) (BitVec.ofNat 32 (dfld w 6 63 32)) tid (512 * g + i)) else .rne
    (round32 mode ((val32 a.1).add (val32 b.1)), a.2 || b.2)

/-- A final segment is this rank's to write. -/
def mine (w : List W64) (g : Nat) : Bool := kOp w == 3 || g / chunkSegs w == kMe w

/-- The output of a final segment (R395).  DESIGN CHOICE (log 17): the descriptor names no scale record, so
an F8E4 or G8E5 output is converted with t = 0 and nothing is reported. -/
def writeOut (s : State) (e : Nat) (w : List W64) (g : Nat) (vs : List (W32 × Bool)) : State :=
  if !mine w g then s
  else
    let z := elemBytes (kFout w)
    let f := (formatOf (kFout w)).getD .fp32
    let tid := BitVec.ofNat 32 (dfld w 6 31 0 + kN w)
    let codes := (List.range 512).map fun i =>
      let v := vs.getD i (0#32, false)
      let u := generator (wordAt w 5) (BitVec.ofNat 32 (dfld w 6 63 32)) tid (512 * g + i)
      ((convert f (cvtOf (kCvt w)) 0 u (val32 v.1)).code, v.2)
    let at_ := if kOp w = 3 then g else g - kMe w * chunkSegs w
    let s := s.writeCodes (kOut w + 512 * z * at_) z codes 0
    s.updCle e fun c => { c with wrote := c.wrote + 1 }

/-- Segments of the whole vector. -/
def vecSegs (w : List W64) : Nat := kN w * chunkSegs w

/-- A final segment goes on to the previous rank. -/
def goesBack (w : List W64) (g : Nat) : Bool :=
  decide (0 < kMe w) && (kOp w == 3 || decide (g / chunkSegs w < kMe w))

/-- The sum up to this rank goes on: to the next rank, or, complete, to the output and back.  None while
a grant is missing. -/
def sumOn (s : State) (e : Nat) (w : List W64) (g : Nat) (vs : List (W32 × Bool)) : Option State :=
  let c := s.cle e
  if kMe w + 1 < kN w then
    if roomN c 0 then some (s.segSend e w true (valsSeg 0 g vs)) else none
  else if goesBack w g then
    if roomP c 1 then some ((s.writeOut e w g vs).segSend e w false (valsSeg 1 g vs)) else none
  else some (s.writeOut e w g vs)

/-! ### One received segment -/

/-- Bytes of segment `g` of ALL_GATHER, and their place in the output. -/
def gatherPlace (w : List W64) (g : Nat) : Nat × Nat :=
  let c := g / chunkSegs w
  let j := g % chunkSegs w
  (c * chunkBytes w + 2048 * j, min 2048 (chunkBytes w - 2048 * j))

def writeRaw (s : State) (e a n : Nat) (x : Seg) : State :=
  let s := s.memWriteP a (x.data.take n) ((byteFlags x.pois).take n) 0
  s.updCle e fun c => { c with wrote := c.wrote + 1 }

/-- What a segment that waits does, once it can: it is added, forwarded or written, and its buffer
freed (R396, R397). -/
def segStep (s : State) (e : Nat) (w : List W64) (fromNext : Bool) (x : Seg) : Option State :=
  let c := s.cle e
  let done : Option State :=
    match x.kind with
    | 0 =>
      let r := s.readIn w x.seg
      r.1.sumOn e w x.seg (addRank w x.seg (segVals x) r.2)
    | 1 =>
      if goesBack w x.seg then
        if roomP c 1 then some ((s.writeOut e w x.seg (segVals x)).segSend e w false x) else none
      else some (s.writeOut e w x.seg (segVals x))
    | 2 =>
      let pl := gatherPlace w x.seg
      let s2 := s.writeRaw e (kOut w + pl.1) pl.2 x
      if fromNext then
        if kMe w = 0 then some s2 else if roomP c 2 then some (s2.segSend e w false x) else none
      else if kMe w + 1 = kN w then some s2
      else if roomN c 2 then some (s2.segSend e w true x) else none
    | _ =>
      let b := chunkSegs w
      if x.seg / b + 1 = c.step ∧ c.stepOk then
        some ((s.writeRaw e (kOut w + c.step % 2 * kChunk w + 2048 * (x.seg % b)) 2048 x).updCle e
          fun c => { c with stepRx := c.stepRx + 1 })
      else none
  done.map fun s => s.segFree e w fromNext x.kind x.tc

/-- SUM segments go forward in ascending SEG, whatever order they arrive in (R396). -/
def inOrder (s : State) (e : Nat) (w : List W64) (x : Seg) : Bool :=
  x.kind != 0 || kMe w + 1 == kN w || x.seg == nth (s.cle e).sentN 0

/-- The first waiting segment that can move. -/
def heldStep (s : State) (e : Nat) (w : List W64) : Option State :=
  let l := (s.cle e).held
  (List.range l.length).findSome? fun i =>
    match l[i]? with
    | none => none
    | some x =>
      let fromNext := x.2.kind == 1 || (x.2.kind == 2 && decide (kMe w < x.2.seg / chunkSegs w))
      match (if s.inOrder e w x.2 then s.segStep e w fromNext x.2 else none) with
      | none => none
      | some s => some (s.updCle e fun c => { c with held := c.held.eraseIdx i })

/-! ### Own segments -/

def rawSeg (s : State) (kind g a n : Nat) : State × Seg :=
  let r := s.memRead a n 0
  (r.1, { kind := kind, seg := g, data := r.2.1, pois := secFlags r.2.2 })

/-- The next segment of the own chunk of ALL_GATHER: written and sent to the next rank. -/
def gatherOn (s : State) (e : Nat) (w : List W64) : Option State :=
  let c := s.cle e
  let g := kMe w * chunkSegs w + c.own
  if chunkSegs w ≤ c.own then none
  else
    let pl := gatherPlace w g
    let r := s.rawSeg 2 g (kIn w + 2048 * c.own) pl.2
    let s2 := (r.1.writeRaw e (kOut w + pl.1) pl.2 r.2).updCle e fun c => { c with own := c.own + 1 }
    if kMe w + 1 = kN w then some s2
    else if roomN c 2 then some (s2.segSend e w true r.2) else none

/-- The same chunk sent to the previous rank. -/
def gatherBack (s : State) (e : Nat) (w : List W64) : Option State :=
  let c := s.cle e
  let g := kMe w * chunkSegs w + c.back
  if chunkSegs w ≤ c.back ∨ kMe w = 0 ∨ !roomP c 2 then none
  else
    let pl := gatherPlace w g
    let r := s.rawSeg 2 g (kIn w + 2048 * c.back) pl.2
    some ((r.1.segSend e w false r.2).updCle e fun c => { c with back := c.back + 1 })

/-- The next own segment, if it can move: rank 0's sum, a chunk's segment in either direction (R396), a
block's segment of the step. -/
def ownStep (s : State) (e : Nat) (w : List W64) : Option State :=
  let c := s.cle e
  let q := chunkSegs w
  match kOp w with
  | 2 => (s.gatherOn e w).orElse fun _ => s.gatherBack e w
  | 4 =>
    if c.step < kN w ∧ c.stepTx < q ∧ roomN c 3 then
      let from_ := if c.step = 1 then kIn w else kOut w + (c.step - 1) % 2 * kChunk w
      let r := s.rawSeg 3 ((c.step - 1) * q + c.stepTx) (from_ + 2048 * c.stepTx) 2048
      some ((r.1.segSend e w true r.2).updCle e fun c => { c with stepTx := c.stepTx + 1 })
    else none
  | _ =>
    if kMe w = 0 ∧ c.own < vecSegs w then
      let r := s.readIn w c.own
      (r.1.sumOn e w c.own r.2).map fun s => s.updCle e fun c => { c with own := c.own + 1 }
    else none

/-- A step of RING_PASS ends when its block has been sent and received: the signal is sent.  From step 3
on a step begins with a token (R397). -/
def passStep (s : State) (e : Nat) (w : List W64) : Option State :=
  let c := s.cle e
  if kOp w ≠ 4 ∨ kN w ≤ c.step then none
  else if !c.stepOk then
    (s.takeToken (dfld w 7 47 40) (dfld w 7 55 48) (dfld w 7 39 24)).map fun s =>
      s.updCle e fun c => { c with stepOk := true }
  else if chunkSegs w ≤ c.stepTx ∧ chunkSegs w ≤ c.stepRx then
    let s := if dfld w 7 62 62 = 1 then s.signal (dfld w 7 15 8) (dfld w 7 23 16) (dfld w 7 7 0) else s
    some (s.updCle e fun c => { c with
      step := c.step + 1, stepTx := 0, stepRx := 0, stepOk := decide (c.step + 1 < 3) || dfld w 7 63 63 == 0 })
  else none

/-- Everything sent and written that the OP asks of this rank (R396 to R398). -/
def collDone (s : State) (e : Nat) (w : List W64) : Bool :=
  let c := s.cle e
  let q := chunkSegs w
  let T := vecSegs w
  let i := kMe w
  let last := i + 1 == kN w
  c.held.isEmpty &&
  match kOp w with
  | 1 => (last || nth c.sentN 0 == T) && nth c.sentP 1 == i * q && c.wrote == q
  | 3 => (last || nth c.sentN 0 == T) && (i == 0 || nth c.sentP 1 == T) && c.wrote == T
  | 2 => (last || nth c.sentN 2 == (i + 1) * q) && (i == 0 || nth c.sentP 2 == (kN w - i) * q) && c.wrote == T
  | _ => decide (kN w ≤ c.step)

/-- The engine moves whatever it can. -/
def collPump (e : Nat) : Nat → State → State
  | 0, s => s
  | n + 1, s =>
    match s.kJob e with
    | none => s
    | some w =>
      match (s.heldStep e w).orElse fun _ => (s.ownStep e w).orElse fun _ => s.passStep e w with
      | some s => collPump e n s
      | none =>
        if s.collDone e w then
          (s.setRegF (rCleStat e) 63 60 5).updJob (11 + e) fun j => { j with stage := 3 }
        else s

def pump (s : State) (e : Nat) : State := collPump e 64 s

/-! ### Start (R393) -/

def collRes (s : State) (e : Nat) : List W64 :=
  [BitVec.ofNat 64 ((s.cle e).nTx % 2 ^ 32 * 2 ^ 32 + (s.cle e).nRx % 2 ^ 32)]

def collEnd (s : State) (e status : Nat) : State :=
  (s.setRegF (rCleStat e) 63 60 0).endJob (11 + e) status (s.collRes e)

/-- The checks of R393 in order, then the run. -/
def collStart (s : State) (e : Nat) (w : List W64) : State :=
  let s := (s.setRegF (rCleStat e) 63 60 2).setCle e {}
  let n := kN w
  let i := kMe w
  if !collRange w then s.collEnd e 2
  else if !collFormats w then s.collEnd e 3
  else
    let ring := kOp w == 4
    let prevR := if i = 0 then (if ring then some (n - 1) else none) else some (i - 1)
    let nextR := if i + 1 = n then (if ring then some 0 else none) else some (i + 1)
    let rd := fun (s : State) (r : Nat) => let m := s.memRead (kRanks w + 2 * r) 2 0; (m.1, leVal m.2.1)
    let me := rd s i
    let p := match prevR with | some r => rd me.1 r | none => (me.1, 0)
    let x := match nextR with | some r => rd p.1 r | none => (p.1, 0)
    let s := x.1
    let known := fun (r : Option Nat) (eid : Nat) => r.isNone || fld (s.rtActive eid) 63 63 == 1
    if me.2 ≠ s.selfEid then s.collEnd e 3
    else if !(known prevR p.2 && known nextR x.2) then s.collEnd e 2
    else
      let s := s.setCle e { eids := [p.2, x.2], stepOk := true }
      let s := s.setRegF (rCleStat e) 63 60 (if s.vigilState = 0 then 3 else 4)
      (s.updJob (11 + e) fun j => { j with stage := 2 }).pump e

/-- A collective of kind `op` begins, waits for its token, or goes on. -/
def collRun (s : State) (e op : Nat) : State :=
  match (s.tgt (11 + e)).job with
  | none => s
  | some j =>
    let w := j.words
    -- a reserved OP is refused by whichever row takes it
    if kOp w ≠ op ∧ 1 ≤ kOp w ∧ kOp w ≤ 4 then s
    else if j.stage = 2 then s.pump e
    else if 1 < j.stage then s
    else
      let s := s.setRegF (rCleStat e) 31 0 (dfld w 0 31 0)
      if dfld w 7 63 63 = 0 ∨ 192 ≤ dfld w 7 47 40 then s.collStart e w
      else match s.takeToken (dfld w 7 47 40) (dfld w 7 55 48) (dfld w 7 39 24) with
        | some s => s.collStart e w
        | none => (s.setRegF (rCleStat e) 63 60 1).updJob (11 + e) fun j => { j with stage := 1 }

/-- REDUCE_SCATTER, ALL_GATHER, ALL_REDUCE, RING_PASS (R393 to R397). -/
def fxReduceScatter (s : State) (e : Nat) : State := s.collRun e 1
def fxAllGather (s : State) (e : Nat) : State := s.collRun e 2
def fxAllReduce (s : State) (e : Nat) : State := s.collRun e 3
def fxRingPass (s : State) (e : Nat) : State := s.collRun e 4

/-! ### COLL and COLL_CREDIT (R394) -/

/-- The engine that a COLL or COLL_CREDIT packet names, its KIND, SEG and COLL_ID. -/
def collFields (q : Packet) : Nat × Nat × Nat × Nat :=
  (bitsOf (pArg0 q) 63 62, bitsOf (pArg0 q) 61 60, bitsOf (pArg0 q) 47 16, bitsOf (pArg0 q) 15 0)

/-- The packet belongs to the running collective: COLL_ID, a KIND of its OP, a segment of it, and the
neighbour that sends such segments. -/
def collMatches (s : State) (e : Nat) (w : List W64) (q : Packet) : Bool :=
  let f := collFields q
  let g := f.2.2.1
  let i := kMe w
  kId w == f.2.2.2 &&
  match f.2.1, kOp w with
  | 0, 1 | 0, 3 => decide (0 < i) && pSrc q == s.prevEid e && decide (g < vecSegs w)
  | 1, 1 => decide (i + 1 < kN w) && pSrc q == s.nextEid e && decide (g < (i + 1) * chunkSegs w)
  | 1, 3 => decide (i + 1 < kN w) && pSrc q == s.nextEid e && decide (g < vecSegs w)
  | 2, 2 =>
    let c := g / chunkSegs w
    (decide (c < i) && pSrc q == s.prevEid e) || (decide (i < c) && decide (c < kN w) && pSrc q == s.nextEid e)
  | 3, 4 => pSrc q == s.prevEid e && decide (g < (kN w - 1) * chunkSegs w)
  | _, _ => false

/-- COLL (R394): a segment reaches its engine. -/
def fxColl (s : State) : State :=
  match s.takeLocal fun q => pOp q == 5 with
  | none => s
  | some (x, s) =>
    let y := s.payload x
    let s := y.2
    let f := collFields x.1
    let e := f.1
    match s.kJob e with
    | none => s.bump (rCleStat e) 47 32 1
    | some w =>
      if !s.collMatches e w x.1 then s.bump (rCleStat e) 47 32 1
      else
        let s := s.bump (rCle e 8) 31 0 1
        (s.updCle e fun c => { c with
          held := c.held ++ [(pSrc x.1, { kind := f.2.1, seg := f.2.2.1, data := y.1.1, pois := y.1.2, tc := pTc x.1 })]
          nRx := c.nRx + 1 }).pump e

/-- COLL_CREDIT (R394): the cumulative count of buffers that a neighbour has freed. -/
def fxCollCredit (s : State) : State :=
  match s.takeLocal fun q => pOp q == 6 with
  | none => s
  | some (x, s) =>
    let f := collFields x.1
    let e := f.1
    let k := f.2.1
    match s.kJob e with
    | none => s
    | some w =>
      if kId w ≠ f.2.2.2 then s
      else
        let toNext := k == 0 || k == 3 || (k == 2 && pSrc x.1 == s.nextEid e)
        let later := fun (old : Nat) => if (f.2.2.1 + 2 ^ 32 - old) % 2 ^ 32 < 2 ^ 31 then f.2.2.1 else old
        (s.updCle e fun c =>
          if toNext then { c with grantN := c.grantN.set k (later (nth c.grantN k)) }
          else { c with grantP := c.grantP.set k (later (nth c.grantP k)) }).pump e

/-! ### The end (R398) -/

/-- COLL_COMPLETE (R398): outputs accepted, segments granted. -/
def fxCollComplete (s : State) (e : Nat) : State :=
  match (s.tgt (11 + e)).job with
  | none => s
  | some j =>
    if j.stage ≠ 3 then s
    else
      let w := j.words
      let s := if dfld w 7 62 62 = 1 then s.signal (dfld w 7 15 8) (dfld w 7 23 16) (dfld w 7 7 0) else s
      s.collEnd e 0

/-- COLL_TIMEOUT (R398). -/
def fxCollTimeout (s : State) (e : Nat) : State :=
  match s.kJob e with
  | none => s
  | some w => if kTmo w = 0 then s else s.collEnd e 0x0D

end State

/-! ### The meanings of the commands -/

/-- COLL (R394). -/
def execColl (s : State) : Host.Outcome State Fault Refusal :=
  .next (s.orWait fun s => s.fxColl)

/-- COLL_CREDIT (R394). -/
def execCollCredit (s : State) : Host.Outcome State Fault Refusal :=
  .next (s.orWait (·.fxCollCredit))

/-- COPY_OUT (R392). -/
def execCopyOut (h : HubIx) (s : State) : Host.Outcome State Fault Refusal :=
  .next (s.orWait fun s => s.fxCopyOut h.val)

/-- REDUCE_SCATTER (R396). -/
def execReduceScatter (e : CleIx) (s : State) : Host.Outcome State Fault Refusal :=
  .next (s.orWait fun s => s.fxReduceScatter e.val)

/-- ALL_GATHER (R396). -/
def execAllGather (e : CleIx) (s : State) : Host.Outcome State Fault Refusal :=
  .next (s.orWait fun s => s.fxAllGather e.val)

/-- ALL_REDUCE (R395). -/
def execAllReduce (e : CleIx) (s : State) : Host.Outcome State Fault Refusal :=
  .next (s.orWait fun s => s.fxAllReduce e.val)

/-- RING_PASS (R397). -/
def execRingPass (e : CleIx) (s : State) : Host.Outcome State Fault Refusal :=
  .next (s.orWait fun s => s.fxRingPass e.val)

/-- COLL_COMPLETE (R398). -/
def execCollComplete (e : CleIx) (s : State) : Host.Outcome State Fault Refusal :=
  .next (s.fxCollComplete e.val)

/-- COLL_TIMEOUT (R398). -/
def execCollTimeout (e : CleIx) (s : State) : Host.Outcome State Fault Refusal :=
  .next (s.fxCollTimeout e.val)

/-- TRANSFER_TOKEN_TIMEOUT (R391). -/
def execTransferTokenTimeout (h : HubIx) (s : State) : Host.Outcome State Fault Refusal :=
  .next (s.fxTransferTokenTimeout h.val)

end Sys2Proof.Machine
end

