-- ==== Sys2Proof/Machine/Firmware.lean ====
section
/-!
DEFINITION. The commands that firmware serves (R430 to R433): images and slot maps loaded and applied
(R170 to R175, R202, R213 to R216), starts, grants, resets of clusters, UNLOAD; the reset of the host
interface (R436).
-/

namespace Sys2Proof.Machine

/-! ### Program images (R170 to R173) -/

/-- A little-endian field of an image. -/
def imgNat (b : List Byte) (o n : Nat) : Nat := leVal ((b.drop o).take n)

/-- Offset and length of the section of flat cluster `c`. -/
def secOff (b : List Byte) (c : Nat) : Nat := imgNat b (128 + 8 * c) 4
def secLen (b : List Byte) (c : Nat) : Nat := imgNat b (132 + 8 * c) 4

/-- Word `w` of the section header of cluster `c`. -/
def secWord (b : List Byte) (c w : Nat) : Nat := imgNat b (secOff b c + 8 * w) 8

def secJ (b : List Byte) (c : Nat) : Nat := secWord b c 1 % 64

def orderLen (b : List Byte) : Nat := imgNat b 7 1
def orderAt (b : List Byte) (i : Nat) : Nat := imgNat b (64 + i) 1

/-- A list pointer: reserved bits 0, and its words within the bank (R171). -/
def pointerOk (w : Nat) : Bool := w / 2 ^ 30 == 0 && decide (bitsOf w 14 0 + bitsOf w 29 15 ≤ 32768)

/-- The section of a cluster and its header are in order.  No row of R173 names a J of 33 to 63 or other bits of
header word 1: they fail here, as FIELD_RANGE of order 4 (DESIGN CHOICE, log 18). -/
def sectionOk (b : List Byte) (len c : Nat) : Bool :=
  secLen b c == 0 ||
  (secOff b c % 1024 == 0 && decide (secOff b c + secLen b c ≤ len) && decide (secLen b c ≤ 262144) &&
    decide (1024 ≤ secLen b c) && pointerOk (secWord b c 0) && decide (secWord b c 1 ≤ 32) &&
    ((List.range 64).all fun i => pointerOk (secWord b c (2 + i))) &&
    (List.range 62).all fun i => secWord b c (66 + i) == 0)

/-! ### Slot maps (R213 to R215) -/

/-- A record of 16 bytes. -/
def slotRec (v : Nat) : SlotRec :=
  { port := bitsOf v 15 0, owner := bitsOf v 31 16, start := bitsOf v 55 32, tight := bitAt v 56
    len := bitsOf v 87 64, period := bitsOf v 111 88, reps := bitsOf v 127 112 }

/-- A port of the scope of its list: 0 unit, 1 cluster, 2 die (R204). -/
def portOk (scope port : Nat) : Bool :=
  let i := port % 4096
  match port / 4096 with
  | 0 => scope == 0 && decide (i < 64)
  | 1 => scope == 0 && decide (i < 2)
  | 2 => scope == 0 && decide (i < 6)
  | 3 => scope == 0 && decide (i < 6)
  | 4 => scope == 0 && i == 0
  | 5 => scope == 0 && i == 0
  | 6 => scope == 1 && decide (i < 5)
  | 7 => scope == 2 && decide (i < 24)
  | _ => false

/-- A defined agent of a port (R212). -/
def agentOk (port owner : Nat) : Bool :=
  let a := owner % 8192
  match port / 4096 with
  | 6 => decide (a < 16)
  | 7 => decide (a < 384)
  | _ => decide (1 ≤ a) && decide (a ≤ 0x16)

/-- Frame positions that a record covers. -/
def SlotRec.positions (r : SlotRec) (F : Nat) : List Nat :=
  (List.range (r.reps + 1)).flatMap fun i => (List.range r.len).map fun x => (r.start + i * r.period + x) % F

def noRepeat : List Nat → Bool
  | [] => true
  | x :: xs => !xs.contains x && noRepeat xs

/-- Adjacent elements of a list satisfy a test. -/
def chain2 {α : Type} (p : α → α → Bool) : List α → Bool
  | x :: y :: zs => p x y && chain2 p (y :: zs)
  | _ => true

/-- Checks 2 to 7 of R215 for one record list. -/
def recordsOk (F scope : Nat) (rs : List SlotRec) : Bool :=
  rs.all (fun r => portOk scope r.port && agentOk r.port r.owner && decide (1 ≤ r.len) && decide (r.len ≤ F) &&
    decide (r.start < F) && (r.period != 0 || r.reps == 0)) &&
  decide (rs.length ≤ if scope = 1 then 4096 else 16384) &&
  chain2 (fun a b => decide (a.port < b.port ∨ (a.port = b.port ∧ a.start ≤ b.start))) rs &&
  rs.all fun r =>
    let here := rs.filter fun q => q.port == r.port
    noRepeat (here.flatMap fun q => q.positions F) &&
    here.all (fun q => q.tight == r.tight) &&
    (r.tight || here.all fun q => q.owner == r.owner || (r.positions F).all fun x =>
      !(q.positions F).contains ((x + 1) % F) && !(q.positions F).contains ((x + F - 1) % F))

/-- One directory entry: its region table and its records, or none when it breaks R213.  `sm` is the
slot map. -/
def slotEntry (sm : List Byte) (ix scope : Nat) : Option (List W64 × List SlotRec) :=
  let off := imgNat sm (64 + 8 * ix) 4
  let n := imgNat sm (68 + 8 * ix) 4
  let tab := if scope = 0 then 512 else 0
  if off = 0 ∧ n = 0 then some ([], [])
  else if off % 16 ≠ 0 ∨ off < 7808 ∨ sm.length < off + tab + 16 * n then none
  else
    let ws := (List.range (tab / 8)).map fun i => BitVec.ofNat 64 (imgNat sm (off + 8 * i) 8)
    let vs := (List.range n).map fun i => imgNat sm (off + tab + 16 * i) 16
    if vs.any fun v => bitsOf v 63 57 != 0 then none else some (ws, vs.map slotRec)

/-- Check 8 of R215, and the reserved bits of the region words (check 1). -/
def regionsOk (ws : List W64) : Bool :=
  ws.all fun w => fld w 61 53 == 0 && fld w 31 21 == 0 &&
    (fld w 63 63 == 0 || (decide (fld w 20 0 < fld w 52 32) && decide (fld w 52 32 ≤ 1572864)))

/-- The slot map of an image, or none when it fails R215. -/
def parseSlots (sm : List Byte) : Option SlotMap :=
  let F := imgNat sm 4 3
  if imgNat sm 0 4 ≠ 0x504D4C53 ∨ F < 2 ∨ 16777214 < F ∨ imgNat sm 7 57 ≠ 0 then none
  else
    let ent := (List.range 968).map fun i =>
      let scope := if i < 768 then 0 else if i < 960 then 1 else 2
      (i, scope, slotEntry sm i scope)
    if ent.all fun x => match x.2.2 with
      | none => false
      | some y => regionsOk y.1 && recordsOk F x.2.1 y.2
    then
      let pick := fun (scope base : Nat) => ent.filterMap fun x =>
        match x.2.2 with
        | some y => if x.2.1 = scope ∧ !y.2.isEmpty then some (x.1 - base, y.2) else none
        | none => none
      some { frameLen := F, units := pick 0 0, clus := pick 1 768, dies := pick 2 960
             regions := ent.filterMap fun x =>
               match x.2.2 with
               | some y => if y.1.isEmpty then none else some (x.1, y.1)
               | none => none }
    else none

/-! ### ORDER (R202) -/

/-- ORDER names each list once, and each forward list before its backward list. -/
def orderOk (o : List Nat) (J : Nat) : Bool :=
  o.length == 2 * J && o.all (fun e => decide (e % 64 < J)) && noRepeat (o.map fun e => e % 64 + e / 128 * 64) &&
  (List.range J).all fun j => decide (o.idxOf j < o.idxOf (128 + j))

namespace State

/-! ### Jobs of firmware (R430) -/

def fwEnd (s : State) (status : Nat) (res : List W64) : State := s.endJob 0 status res

/-- A bit set outside the fields that a command has. -/
def fwReserved (op : Nat) (w : List W64) : Bool :=
  let bits : List (List (Nat × Nat)) := [[(63, 56), (31, 0)]] ++
    (match op with
     | 1 => [[(49, 0)]]
     | 3 => [[(47, 0)], [(32, 0)]]
     | 4 => [[(47, 0)], [(31, 0)]]
     | 5 => [[(15, 0)]]
     | 6 => [[(8, 0)]]
     | _ => [])
  reservedIn bits w

/-- The command `op` that firmware has taken.  A reserved OP ends with ILLEGAL_COMMAND, a reserved bit
with FIELD_RANGE. -/
def firmware (s : State) (op : Nat) (body : State → List W64 → State) : State :=
  match (s.tgt 0).job with
  | none => s
  | some j =>
    let o := dfld j.words 0 63 56
    if j.stage ≠ 0 then s
    else if o = 0 ∨ 7 < o then s.fwEnd 1 []
    else if o ≠ op then s
    else if fwReserved op j.words then s.fwEnd 2 []
    else body s j.words

/-! ### LOAD (R173, R174) -/

/-- The bank that a load writes in a cluster. -/
def loadBank (s : State) (bank pc : Nat) : Nat := if bank = 2 then 1 - s.ccBank pc else bank

/-- A whole bank written. -/
def writeBank (s : State) (pc bank : Nat) (bs : List Byte) : State :=
  s.updClu pc fun c => { c with
    store := smSetL 0#8 (c.store.filter fun x => x.1 / 262144 != bank) (bank * 262144) bs
    spoison := c.spoison.filter fun x => x.1 / 32768 != bank }

/-- The slot map may be applied (R216). -/
def canApply (s : State) : Bool :=
  !s.anyFetching && s.units.all fun x =>
    x.2.runs.isEmpty && x.2.squeue.isEmpty && x.2.queues.all (fun q => q.2.isEmpty) &&
    x.2.streams.all fun y => match y.2 with | some st => st.halted | none => true

/-- The class of a module admits the class of an image (R19, R173). -/
def classOk (module_ image : Nat) : Bool :=
  match image with
  | 0 => module_ == 0
  | 1 => module_ == 0 || module_ == 1
  | _ => module_ == 2

/-- Orders 4 to 8 of R173 on an image whose checksums hold: the reason of the first that fails, 0 when all
pass.  The reserved bit [6] is judged on the ORDER_LEN bytes of ORDER that the sequence has (DESIGN CHOICE, log
18). -/
def imageCheck (s : State) (b : List Byte) (bank : Nat) (sm : Option SlotMap) : Nat :=
  let len := imgNat b 16 4
  let order := (List.range (orderLen b)).map (orderAt b)
  let J := ((List.range 192).filterMap fun c =>
    if secLen b c ≠ 0 ∧ secJ b c ≠ 0 then some (secJ b c) else none)
  if !((b.drop 32).take 28).all (· == 0#8) || (order.take 64).any (fun o => bitAt o 6) ||
      decide (2 < imgNat b 6 1) || !((List.range 192).all (sectionOk b len)) ||
      imgNat b 24 4 % 1024 != 0 || decide (len < imgNat b 24 4 + imgNat b 28 4) || decide (imgNat b 28 4 < 7808) ||
      sm.isNone then 2
  else if !classOk (s.regF 0 15 8) (imgNat b 6 1) then 7
  else if imgNat b 8 8 ≠ (s.reg 8).toNat then 7
  else if !(J.all (· == J.headD 0)) || !(order.isEmpty || orderOk order (J.headD 0)) then 3
  else if s.present.any fun x => s.fetching x.2 && s.ccBank x.2 == s.loadBank bank x.2 then 8
  else 0

/-- What a passing load writes and stages (R174). -/
def loadWrite (s : State) (b : List Byte) (bank : Nat) (sm : SlotMap) : State :=
  let s := s.present.foldl (fun s x =>
    s.writeBank x.2 (s.loadBank bank x.2) ((b.drop (secOff b x.1)).take (secLen b x.1))) s
  { s with staged := some (sm, { bank := bank, order := (List.range (orderLen b)).map (orderAt b) }) }

def loadBody (s : State) (w : List W64) : State :=
  let bank := dfld w 1 49 48
  let a := dfld w 1 47 0
  if bank = 3 ∨ a % 1024 ≠ 0 ∨ s.partnerBase < a + 128 then s.fwEnd 2 []
  else
    let h := s.memRead a 128 0
    let s := h.1
    let hd := h.2.1
    if h.2.2.any id then s.fwEnd 0x0A []
    else if imgNat hd 0 4 ≠ 0x4C57474E ∨
        imgNat hd 60 4 ≠ (crc32c (splice hd 60 (leBytes 4 0))).toNat then s.fwEnd 9 []
    else if imgNat hd 4 1 ≠ 1 ∨ imgNat hd 5 1 ≠ 0 then s.fwEnd 0x0F []
    else
      let len := imgNat hd 16 4
      if len % 1024 ≠ 0 ∨ 2 ^ 31 < len ∨ len < 2048 ∨ s.partnerBase < a + len then s.fwEnd 2 []
      else
        let r := s.memRead a len 0
        let s := r.1
        let b := r.2.1
        if r.2.2.any id then s.fwEnd 0x0A []
        else if (crc32c (b.drop 128)).toNat ≠ imgNat b 20 4 then s.fwEnd 9 []
        else
          let sm := parseSlots ((b.drop (imgNat b 24 4)).take (imgNat b 28 4))
          let c := s.imageCheck b bank sm
          match sm with
          | some m =>
            if c ≠ 0 then s.fwEnd c []
            else
              let fit := BitVec.ofNat 64 (imgNat b 8 8)
              let s := s.loadWrite b bank m
              -- with nothing running the completion follows the application
              if s.canApply then s.updJob 0 fun j => { j with stage := 3, res := [fit] } else s.fwEnd 0 [fit]
          | none => s.fwEnd c []

/-- A Jubilee runs on some die (R561). -/
def jubilee (s : State) : Bool := (List.range 8).any fun d => s.bit (rDie d 0x40) 1

/-- A column test runs on some unit (R62, R66). -/
def colBusy (s : State) : Bool := (List.range 896).any fun pu => s.bit (rUnit pu 8) 1

/-- LOAD (R173, R174): it waits for the module to be ACTIVE (R506), for Jubilees to end (R561) and for column
tests, which run only while no program is loaded (R62). -/
def fxLoad (s : State) : State :=
  s.firmware 1 fun s w =>
    if s.pwrState ≠ 0 then s.wakeUp 4
    else if s.jubilee || s.colBusy then s
    else s.loadBody w

/-- SLOT_MAP_APPLY (R216) at ACLK cycle `t`. -/
def fxSlotMapApply (s : State) (t : Nat) : State :=
  match s.staged with
  | none => s
  | some (m, p) =>
    if !s.canApply then s
    else
      let s := { s with slotMap := m, program := some p, staged := none, relock := [] }
      let s := (List.range 768).foldl (fun s u =>
        match s.physUnit u with
        | none => s
        | some pu =>
          let ws := smGet [] m.regions u
          let s := (List.range 64).foldl (fun s i => s.setReg (rUnit pu (0x400 + 8 * i)) (wordAt ws i)) s
          let s := s.setReg (rUnit pu 0x60) 0#64
          let s := [0x140, 0x148, 0x150, 0x158].foldl (fun s o => s.setReg (rUnit pu o) 0#64) s
          [0, 1, 2, 3].foldl (fun s g => s.setRegF (rUnit pu (0x120 + 8 * g)) 31 0 0) s) s
      let s := s.present.foldl (fun s x =>
        let s := s.setReg (rClu x.2 0x18) 0#64
        (List.range 256).foldl (fun s i => s.setReg (rClu x.2 (0x1000 + 8 * i)) 0#64) s) s
      let s := (List.range 8).foldl (fun s d =>
        let s := { s with frame0 := smSet 0 s.frame0 d t }
        (s.setReg (rDie d 0) (BitVec.ofNat 64 (m.frameLen * 2 ^ 24))).setReg (rDie d 8) 0#64) s
      let s := (List.range 32).foldl (fun s r => s.unpin r) s
      match (s.tgt 0).job with
      | some j => if j.stage = 3 then s.fwEnd 0 j.res else s
      | none => s

/-! ### START (R203, R235, R430) -/

/-- START (R430). -/
def fxStart (s : State) : State :=
  s.firmware 2 fun s _ =>
    if s.pwrState ≠ 0 then s.wakeUp 4
    -- a module that has fenced runs no program (R469)
    else if s.fenced then s.fwEnd 0x0E []
    else if s.anyFetching then s.fwEnd 8 []
    else if s.program.isNone ∨ (List.range 512).any (fun ch => s.chState ch == 1) then s.fwEnd 2 []
    else (s.present.foldl (fun s x => s.updClu x.2 fun c => { c with startReq := true }) s).updJob 0
      fun j => { j with stage := 1 }

/-- The pipeline lists of a section in the order of R202. -/
def pipeline (s : State) (pc : Nat) : List (Nat × Nat) :=
  let J := fld (s.ccWord pc 1) 5 0
  let ptr := fun (w : Nat) => (fld (s.ccWord pc w) 14 0, fld (s.ccWord pc w) 29 15)
  let o := match s.program with | some p => p.order | none => []
  let o := if o.isEmpty then List.range J ++ (List.range J).map (· + 128) else o
  if J = 0 then [] else o.map fun e => ptr ((if e / 128 = 1 then 34 else 2) + e % 64)

/-- One control core starts. -/
def startCore (s : State) (pc : Nat) : State :=
  let s := (List.range 256).foldl (fun s i => s.setReg (rClu pc (0x1000 + 8 * i)) 0#64) s
  let w := s.ccWord pc 0
  let o := s.pipeline pc
  let s := s.updClu pc fun c => { c with
    frames := [{ list := fld w 14 0, len := fld w 29 15 }], order := o, wait := .none, ending := false
    breakReq := false, lastGo := [], lastStrm := [], specStop := false, startReq := false, ended := none
    specCmds := 0, specPc := 0, back := none }
  let s := (s.setRegF (rClu pc 0) 63 60 1).setRegF (rClu pc 0) 31 0 0
  let s := (List.range 4).foldl (fun s u => s.updUnit (pc * 4 + u) fun x => { x with cfgBad := [] }) s
  s.moveOn pc

/-- PROGRAM_START (R203): every present control core runs its ENTRY list, once no slot map is staged and
no swap is pending. -/
def fxProgramStart (s : State) : State :=
  match (s.tgt 0).job with
  | none => s
  | some j =>
    if dfld j.words 0 63 56 ≠ 2 ∨ j.stage ≠ 1 ∨ s.staged.isSome ∨
        s.present.any (fun x => s.bit (rClu x.2 0x10) 0) then s
    else
      let pcs := s.present.map Prod.snd
      let s := { s with running := some pcs }
      (pcs.foldl (fun s pc => s.startCore pc) s).fwEnd 0 []

/-! ### GRANT, REVOKE, PAGE_REFUSE (R430 to R432) -/

def grantBad (s : State) (w : List W64) : Bool :=
  let a := dfld w 1 47 0
  let n := dfld w 2 31 0
  a % 2 ^ 21 != 0 || n == 0 || decide (s.partnerBase < a + n * 2 ^ 21)

/-- A stream blocked on a device page is ready again (R272). -/
def unblock (s : State) (id : Nat) : State :=
  s.units.foldl (fun s u => (List.range 32).foldl (fun s k =>
    match s.stream u.1 (k / 8) (k % 8) with
    | some st =>
      if st.blocked && st.faultId == some id then
        (s.setStream u.1 (k / 8) (k % 8) (some { st with blocked := false, faultId := none })).clearPending u.1 (k / 8) (k % 8)
      else s
    | none => s) s) s

/-- GRANT (R430, R431). -/
def fxGrant (s : State) : State :=
  s.firmware 3 fun s w =>
    if s.grantBad w then s.fwEnd 2 []
    else
      let p := dfld w 1 47 0 / 2 ^ 21
      let n := dfld w 2 31 0
      let s := { s with pages := smSetL 0 s.pages p (List.replicate n (if dfld w 2 32 32 = 1 then 3 else 1)) }
      let ids := s.faults.filterMap fun x => match x.2 with
        | some q => if p ≤ q ∧ q < p + n then some x.1 else none
        | none => none
      (ids.foldl (fun s i => s.unblock i) s).closeFaults.fwEnd 0 []

/-- The entries of a submission queue from HEAD to TAIL: those that have been fetched, then those of the ring as
it stands. -/
def sqEntries (s : State) (q : Nat) : List (List W64) :=
  let E := s.qSize q
  let buf := (s.queueSt q).buf
  buf ++ (List.range ((s.qTail q + E - s.qHead q) % E - buf.length)).map fun i =>
    let a := s.qBase q + 64 * ((s.qHead q + buf.length + i) % E)
    let bs := if s.qDev q then (List.range 64).map fun k => (s.peekByte (a + k)).1 else s.hostRead (s.qPasid q) a 64
    words 8 bs

/-- A queued or running job of an update engine names a page of `n` from page `p` on (R323). -/
def upeNames (s : State) (p n : Nat) : Bool :=
  let hits := fun (j : Job) =>
    let x := if 2 ≤ j.stage then (j.tensors, j.prec) else (upeCheck s j).2
    (upeRanges j x.1 x.2).any fun r => r.2 != 0 && decide (r.1 / 2 ^ 21 < p + n) && decide (p ≤ (r.1 + r.2 - 1) / 2 ^ 21)
  (List.range 8).any (fun d => match (s.tgt (1 + d)).job with | some j => j.stage != 4 && hits j | none => false) ||
  s.regs.any fun x => decide (0x9000000 ≤ x.1) && decide (x.1 < 0xA000000) && x.1 % 64 == 24 &&
    let q := (x.1 - 0x9000000) / 64
    s.qIs q 1 && s.qErr q == 0 && s.regF (rQ q 2) 63 56 == 1 && (s.sqEntries q).any fun e =>
      hits { words := e, sqn := q, cqn := 0 }

/-- Requests already issued to the pages that have not completed (R268), and jobs of the update engines that
name them (R323). -/
def pageBusy (s : State) (p n : Nat) : Bool :=
  s.upeNames p n || s.units.any fun u => u.2.streams.any fun x => match x.2 with
    | some st => st.reqs.any fun r => !r.host && !r.done && decide (r.addr / 2 ^ 21 < p + n) &&
        decide (p ≤ (r.addr + r.len - 1) / 2 ^ 21)
    | none => false

/-- REVOKE (R430, R268): it waits for the requests already issued. -/
def fxRevoke (s : State) : State :=
  s.firmware 4 fun s w =>
    if s.grantBad w then s.fwEnd 2 []
    else
      let p := dfld w 1 47 0 / 2 ^ 21
      let n := dfld w 2 31 0
      if s.pageBusy p n then s
      else ({ s with pages := smSetL 0 s.pages p (List.replicate n 0) }).fwEnd 0 []

/-- PAGE_REFUSE (R273, R430). -/
def fxPageRefuse (s : State) : State :=
  s.firmware 5 fun s w =>
    let id := dfld w 1 15 0
    if (smGet none s.faults id).isNone then s.fwEnd 2 []
    else
      let s := s.units.foldl (fun s u => (List.range 32).foldl (fun s k =>
        match s.stream u.1 (k / 8) (k % 8) with
        | some st =>
          if st.blocked && st.faultId == some id then
            s.streamHalt u.1 (k / 8) (k % 8) st st.faddr 4 false
          else s
        | none => s) s) s
      ({ s with faults := smSet none s.faults id none }).fwEnd 0 []

/-! ### CLUSTER_RESET and UNLOAD (R433, R175) -/

/-- One physical unit as CLUSTER_RESET leaves it. -/
def resetUnitSt (s : State) (pu : Nat) : State :=
  let s := if s.runsChain pu then s.sendAbort (s.logUnit pu) else s
  let s := s.stopUnit pu 0 fun _ => false
  let s := s.updUnit pu fun u => { u with
    sb := [], stale := 0, chain := {}, held := [], saved := [], slips := [], runs := [], cfgBad := []
    -- what has been issued stays outstanding until it has returned or been accepted (R257, R277)
    streams := u.streams.filter fun x => (x.2.map fun st => st.reqs.any fun q => !q.done).getD false }
  let s := s.settlePending pu
  let s := [0x100, 0x108, 0x110, 0x118].foldl (fun s o => s.setReg (rUnit pu o) 0#64) s
  s.clrBit (rUnit pu 0x58) 0

/-- One cluster reset (R433). -/
def resetCluster (s : State) (pc : Nat) : State :=
  let s := s.squash pc
  let s := (List.range 4).foldl (fun s u => s.resetUnitSt (pc * 4 + u)) s
  let s := (List.range 256).foldl (fun s i => s.setReg (rClu pc (0x1000 + 8 * i)) 0#64) s
  let s := s.setReg (rClu pc 0) 0#64
  let c := s.clu pc
  let e := match c.ended with | some r => some r | none => some 0
  (s.setClu pc { store := c.store, spoison := c.spoison, ended := e }).closeFaults.endCheck

/-- CLUSTER_RESET (R433). -/
def fxClusterReset (s : State) : State :=
  s.firmware 6 fun s w =>
    let all := dfld w 1 8 8 == 1
    let c := dfld w 1 7 0
    if !all && decide (192 ≤ c) then s.fwEnd 2 []
    else
      let pcs := if all then s.present.map Prod.snd else (s.physClu c).toList
      (pcs.foldl (fun s pc => s.resetCluster pc) s).fwEnd 0 []

/-- What ends a loaded program without a successor (R175): slot lists, UNIT_BREG, frames, pins, banks, the
staged map. -/
def dropProgram (s : State) : State :=
  let s := (List.range 896).foldl (fun s pu =>
    (List.range 64).foldl (fun s i => s.setReg (rUnit pu (0x400 + 8 * i)) 0#64) s) s
  let s := (List.range 8).foldl (fun s d => s.setReg (rDie d 0) 0#64) s
  let s := (List.range 32).foldl (fun s r => s.unpin r) s
  let s := (List.range 224).foldl (fun s pc => s.updClu pc fun c => { c with store := [], spoison := [] }) s
  { s with slotMap := {}, frame0 := [], staged := none, program := none, running := none }

/-- Column tests that wait for no program to be loaded begin (R67). -/
def dueTests (s : State) : State :=
  s.units.foldl (fun s x => if x.2.testDue then
    (s.setBit (rUnit x.1 0x08) 1).updUnit x.1 fun u => { u with testDue := false } else s) s

/-- UNLOAD (R175). -/
def fxUnload (s : State) : State :=
  s.firmware 7 fun s _ =>
    if s.anyFetching then s.fwEnd 8 []
    else
      let s := s.present.foldl (fun s x => s.resetCluster x.2) s
      s.dropProgram.dueTests.fwEnd 0 []

/-! ### HOST_INTERFACE_RESET (R436) -/

/-- A requester's transaction closed with a RESULT (R601). -/
def closeTxn (s : State) (w : Who) (result : Nat) : State :=
  let a := rTxn w 0x98
  if s.regF a 63 60 = 0 then s
  else
    let s := ((s.setRegF a 63 60 0).setRegF a 59 56 result).setRegF a 55 48 0
    match w with
    | .host => { s with txnHost := {} }
    | .mgmt => { s with txnMgmt := {} }

/-- The completion of a job taken before the reset has nowhere to go. -/
def dropCq (t : Nat × TgtSt) : Nat × TgtSt :=
  (t.1, { t.2 with job := t.2.job.map fun j => { j with cqn := 262144 } })

/-- HOST_INTERFACE_RESET (R436). -/
def fxHostInterfaceReset (s : State) : State :=
  let s := (List.range 768).foldl (fun s u => match s.physUnit u with
    | none => s
    | some pu => (List.range 32).foldl (fun s k => match s.stream pu (k / 8) (k % 8) with
      | some st => if st.prg then s.fxPageRequestResponse u (k / 8) (k % 8) .invalidRequest else s
      | none => s) s) s
  let keep := fun (a : Nat) => !(decide (0x9000000 ≤ a ∧ a < 0xA000000) || decide (0x30000 ≤ a ∧ a < 0x39000) ||
    decide (0x20800 ≤ a ∧ a < 0x21000) || a == 0x20020)
  let s := { s with
    regs := s.regs.filter fun x => keep x.1
    queues := [], evtBuf := [], evtLost := [], atc := []
    -- a read that waits has no one to answer to, a doorbell no queue; a posted write is still made
    hostQ := s.hostQ.filter fun r => match r with | .write .. => true | _ => false
    targets := s.targets.map dropCq }
  let s := (s.setRegF 0x20000 47 28 0).setRegF rHif 8 0 0
  s.closeTxn .host 2

end State

/-! ### The meanings of the commands -/

/-- LOAD (R173). -/
def execLoad (s : State) : Host.Outcome State Fault Refusal :=
  .next (s.orWait fun s => s.fxLoad)

/-- SLOT_MAP_APPLY (R216). -/
def execSlotMapApply (t : Nat) (s : State) : Host.Outcome State Fault Refusal :=
  .next (s.fxSlotMapApply t)

/-- START (R430). -/
def execStart (s : State) : Host.Outcome State Fault Refusal :=
  .next (s.fxStart)

/-- PROGRAM_START (R203). -/
def execProgramStart (s : State) : Host.Outcome State Fault Refusal :=
  .next (s.fxProgramStart)

/-- GRANT (R431). -/
def execGrant (s : State) : Host.Outcome State Fault Refusal :=
  .next (s.fxGrant)

/-- REVOKE (R268). -/
def execRevoke (s : State) : Host.Outcome State Fault Refusal :=
  .next (s.fxRevoke)

/-- PAGE_REFUSE (R431). -/
def execPageRefuse (s : State) : Host.Outcome State Fault Refusal :=
  .next (s.fxPageRefuse)

/-- CLUSTER_RESET (R433). -/
def execClusterReset (s : State) : Host.Outcome State Fault Refusal :=
  .next (s.fxClusterReset)

/-- UNLOAD (R175). -/
def execUnload (s : State) : Host.Outcome State Fault Refusal :=
  .next (s.fxUnload)

/-- HOST_INTERFACE_RESET (R436). -/
def execHostInterfaceReset (s : State) : Host.Outcome State Fault Refusal :=
  .next (s.fxHostInterfaceReset)

end Sys2Proof.Machine
end

