-- ==== Sys2Proof/Machine/Harvest.lean ====
section
/-!
DEFINITION. Snapshots and recovery (chapter 15): partner memory, the Harvest ring and its jobs, flash
generations, fences.
-/

namespace Sys2Proof.Machine

/-! ### Fields of a Harvest job (R445) -/

def hvOp (w : List W64) : Nat := dfld w 0 62 56

def hvBits (op : Nat) : List (List (Nat × Nat)) :=
  [[(63, 48), (31, 0)], [(63, 63), (55, 24), (15, 0)], [(63, 63), (55, 32)]] ++
  (match op with
   | 1 => [[(63, 0)], [(63, 0)], [(63, 0)], [(63, 54), (49, 0)], [(15, 0)]]
   | 2 => [[(47, 0)], [], [], [], []]
   | 3 => [[(63, 0)], [(47, 0)], [], [], []]
   | 4 => [[(63, 61), (31, 0)], [(63, 0)], [(63, 32)], [(63, 63), (23, 0)], [(15, 0)]]
   | 5 => [[(47, 0)], [(63, 32)], [(47, 0)], [], []]
   | 6 => [[(63, 0)], [(47, 0)], [], [], []]
   | _ => [[(47, 0)], [], [], [], []])

/-- Bytes at a device address that a job may name: populated, outside the spare stripes. -/
def mapped (a n : Nat) : Bool := State.bar4Mapped a n

/-- A field out of range, or a reserved bit. -/
def hvBad (w : List W64) : Bool :=
  let op := hvOp w
  let f := dfld w
  reservedIn (hvBits op) w ||
  (f 1 63 63 == 1 && decide (192 ≤ f 1 47 40)) ||
  (f 2 63 63 == 1 && (decide (192 ≤ f 2 47 40) || f 2 39 32 == 0)) ||
  match op with
  | 1 =>
    f 4 63 48 == 0 || decide (8192 < f 4 63 48) || f 4 47 0 % 64 != 0 || decide (f 4 63 48 ≤ f 5 63 48) ||
    f 5 47 0 % 64 != 0 || f 6 49 48 == 2 || f 7 15 0 == 0 || !mapped (f 4 47 0) (2 * f 4 63 48) ||
    !mapped (f 5 47 0) (2048 * f 4 63 48) || !mapped (f 6 47 0) (16 * (f 6 63 54 + 1))
  | 2 => f 3 47 0 % 256 != 0 || !mapped (f 3 47 0) 256
  | 3 => f 4 47 0 % 4 != 0 || !mapped (f 4 47 0) 4 || !mapped (f 3 47 0) (16 * f 3 63 48)
  | 4 =>
    f 4 47 0 % 4096 != 0 || decide (384 < f 5 63 48 + f 5 47 32) ||
    (f 6 63 63 == 1 && (decide (192 ≤ f 6 23 16) || f 6 7 0 == 0))
  | 5 => f 3 47 0 % 4096 != 0 || decide (384 < f 4 63 48 + f 4 47 32) || !mapped (f 3 47 0) 20480 || !mapped (f 5 47 0) 48
  | 6 => !mapped (f 3 47 0) (16 * f 3 63 48) || (!hostAddr (f 4 47 0) && !mapped (f 4 47 0) 1)
  | _ => !mapped (f 3 47 0) 32768

/-! ### Manifests and generation records (R441, R442) -/

def manN (w : List W64) : Nat := dfld w 6 63 54 + 1

/-- Base and bytes of entry `i`. -/
def manBase (m : List Byte) (i : Nat) : Nat := imgNat m (16 * i) 8
def manLen (m : List Byte) (i : Nat) : Nat := 4096 * imgNat m (16 * i + 8) 4

/-- Device address of packed data byte `o`, over `n` entries from entry `i` on. -/
def manAddr (m : List Byte) : Nat → Nat → Nat → Option Nat
  | 0, _, _ => none
  | n + 1, i, o => if o < manLen m i then some (manBase m i + o) else manAddr m n (i + 1) (o - manLen m i)

def manTotal (m : List Byte) (n : Nat) : Nat := ((List.range n).map (manLen m)).foldl (· + ·) 0

/-- Every entry keeps R442. -/
def manOk (m : List Byte) (n : Nat) : Bool :=
  (List.range n).all fun i =>
    manBase m i % 4096 == 0 && manLen m i != 0 && mapped (manBase m i) (manLen m i) &&
    imgNat m (16 * i + 12) 1 % 128 == 0 &&
    (imgNat m (16 * i + 12) 1 == 0 || (decide (imgNat m (16 * i + 14) 1 < 192) && imgNat m (16 * i + 15) 1 != 0))

/-- A running CRC over more bytes, as a register; it starts at all ones and is inverted at its end. -/
def crcMore (c : W32) (bs : List Byte) : W32 :=
  bs.foldl (fun c b => crcBits 8 (c ^^^ b.setWidth 32)) c

def crcStart : W32 := 0xFFFFFFFF#32
def crcEnd (c : W32) : Nat := (~~~c).toNat

/-- REC_CRC of a generation record: byte 4 taken as 0. -/
def recCrc (r : List Byte) : Nat := (crc32c (splice (r.take 4092) 4 [0#8])).toNat

/-- The generation record (R441). -/
def genRecord (st layers gen eid nrank e tag bytes manCrc : Nat) (segs : List Nat) : List Byte :=
  let nseg := (bytes + 2 ^ 30 - 1) / 2 ^ 30
  let r := leBytes 4 0x56535248 ++ leBytes 1 st ++ leBytes 1 layers ++ leBytes 2 gen ++ leBytes 2 eid ++
    leBytes 2 nrank ++ leBytes 4 e ++ leBytes 4 tag ++ leBytes 4 nseg ++ leBytes 8 bytes ++ leBytes 4 manCrc ++
    leBytes 28 0 ++ (List.range 384).flatMap (fun j => leBytes 4 (segs.getD j 0)) ++ leBytes 2492 0
  r ++ leBytes 4 (recCrc (r ++ leBytes 4 0))

/-- A COMPLETE generation record. -/
def recComplete (r : List Byte) : Bool :=
  imgNat r 0 4 == 0x56535248 && imgNat r 4 1 == 2 && imgNat r 4092 4 == recCrc r

def recE (r : List Byte) : Nat := imgNat r 12 4
def recSegs (r : List Byte) : Nat := imgNat r 20 4
def recBytes (r : List Byte) : Nat := imgNat r 24 8
def recSegCrc (r : List Byte) (j : Nat) : Nat := imgNat r (64 + 4 * j) 4
/-- Bytes of segment `j`. -/
def segBytes (r : List Byte) (j : Nat) : Nat := min (2 ^ 30) (recBytes r - 2 ^ 30 * j)

/-- The newer copy of the Almanac whose CRC holds (R543). -/
def FlashSt.newest (f : FlashSt) : Option AlmCopy :=
  (if f.last5 then [f.copy5, f.copy4] else [f.copy4, f.copy5]).find? (·.sound)

/-- The records of the archive: segment 6, or its mirror (R544). -/
def FlashSt.archive (f : FlashSt) : List (List W64) :=
  (([f.seg6, f.seg7].find? (·.sound)).map (·.recs)).getD []

namespace State

/-! ### Slots of the partner memory (R439, R440) -/

def slotN (s : State) : Nat := s.regF (rSnap 0) 15 15 + 1
def slotSize (s : State) : Nat := s.regF (rSnap 0) 8 0 * 2 ^ 30 / s.slotN
def slotBase (s : State) (n : Nat) : Nat := s.partnerBase + n * s.slotSize

/-- The slot in which every byte of a range lies. -/
def slotOf (s : State) (a n : Nat) : Option Nat :=
  (List.range s.slotN).find? fun k => decide (s.slotBase k ≤ a) && decide (a + n ≤ s.slotBase k + s.slotSize)

def rSlot (n : Nat) : Nat := rSnap (0x10 + 8 * n)

/-- Bytes of a slot as a reader finds them, those of a poisoned sector free (R290), and whether one is. -/
def peekSlot (s : State) (n o k : Nat) : State × List Byte × Bool :=
  let bs := (List.range k).map fun i => s.peekByte (s.slotBase n + o + i)
  let f := s.freeBytes k
  if bs.any (·.2) then (f.2, (bs.zip f.1).map fun x => if x.1.2 then x.2 else x.1.1, true) else (s, bs.map (·.1), false)

/-- The generation record of a slot. -/
def slotRecord (s : State) (n : Nat) : State × List Byte × Bool := s.peekSlot n 0 4096

/-- SNAP_SLOTn follows the generation record (R443, R474, R475). -/
def readSlot (s : State) (n : Nat) : State :=
  let r := s.slotRecord n
  let st := imgNat r.2.1 4 1
  let s := r.1.setRegF (rSlot n) 63 60 (if st = 1 ∨ st = 2 then st else 0)
  s.setRegF (rSnap (0x20 + 8 * n)) 31 0 (recE r.2.1)

/-! ### Flash generations (R451 to R453) -/

def rHold : Nat := rSnap 0x38

/-- The generation of a slot that is being written to flash. -/
def flashOpen (s : State) (n : Nat) : Option FlashGen :=
  s.flash.gens.find? fun g => g.slot == n && !g.committed

def setFlash (s : State) (f : FlashSt → FlashSt) : State := { s with flash := f s.flash }

/-- Data segments that no generation uses. -/
def freeSegs (s : State) : List Nat :=
  ((List.range 4088).map (· + 8)).filter fun k => !(s.flash.gens.any fun g => g.segs.contains k)

/-- A COMPLETE record that asks for flash begins a flash generation; it waits until FLASH is set (R484). -/
def flashBegin (s : State) (n : Nat) : State :=
  let x := s.slotRecord n
  let r := x.2.1
  let segs := s.freeSegs.take (recSegs r)
  if !(recComplete r && !x.2.2 && bitAt (imgNat r 5 1) 1) || (s.flashOpen n).isSome then s
  else if !s.isReady 4 then { s with flashDue := n :: s.flashDue.erase n }
  else if segs.length ≠ recSegs r then s
  else
    let rd := fun (o k : Nat) => (List.range k).map fun i => (s.peekByte (s.slotBase n + o + i)).1
    (s.setFlash fun f => { f with gens := f.gens ++
      [{ slot := n, grec := r, man := rd 4096 16384, ring := rd 65536 65536, segs := segs }] }).setRegF (rSlot n) 59 58 1

/-- SNAP_SLOTn follows a record that the host may have written (R443): one that has become COMPLETE since the
last reading, and that no generation of the slot holds, has reached the slot (R452). -/
def rereadSlot (s : State) (n : Nat) : State :=
  let was := (s.regF (rSlot n) 63 60, s.regF (rSnap (0x20 + 8 * n)) 31 0)
  let t := s.readSlot n
  let r := (t.slotRecord n).2.1
  if was == (t.regF (rSlot n) 63 60, t.regF (rSnap (0x20 + 8 * n)) 31 0) || t.flash.gens.any (fun g => g.slot == n && g.grec == r)
  then t else t.flashBegin n

/-- The flash write of a slot's generation is abandoned (R452). -/
def flashAbandon (s : State) (n : Nat) : State :=
  let s := { s with flashDue := s.flashDue.erase n }
  if (s.flashOpen n).isNone then s
  else
    let s := s.setFlash fun f => { f with gens := f.gens.filter fun g => g.slot != n || g.committed }
    (s.setRegF (rSlot n) 59 58 0).bump rHold 47 32 1

/-- R_MIN in bytes a second, the lowest rate of the last 16 segments; none has been measured before the first,
and R_MIN is free (R453). -/
def rMin (s : State) : State × Nat :=
  match s.flash.rates with
  | [] => let f := s.freeWord; (f.2, fld f.1 33 0 + 1)
  | r :: rs => (s, rs.foldl min r)

/-- E_SEG of R453 in mJ, times R_MIN, for a power in mW. -/
def segEnergy (p r : Nat) : Nat := p * 2 ^ 30 + 1500 * r

/-- The check of R453 before a segment: E_CAP in 10 mJ against one and a half times E_SEG, compared exactly.
SNAP_HOLDUP shows E_SEG rounded up, and its highest value above that (DESIGN CHOICE, log 19). -/
def segmentCheck (s : State) (n cap p : Nat) : State :=
  let r := s.rMin
  let e := segEnergy p r.2
  let s := (r.1.setRegF rHold 31 16 cap).setRegF rHold 15 0 (min 65535 ((e + 10 * r.2 - 1) / (10 * r.2)))
  if 3 * e ≤ 2 * (10 * cap * r.2) then
    let s := s.clrBit rHold 63
    (s.setFlash fun f => { f with gens := f.gens.map fun g => if g.slot == n && !g.committed then { g with run := true } else g }).setRegF (rSlot n) 59 58 1
  else ((s.setBit rHold 63).bump rHold 62 48 1).setRegF (rSlot n) 59 58 2

/-- FLASH_SEGMENT_START (R453). -/
def fxFlashSegmentStart (s : State) (n cap p : Nat) : State :=
  match s.flashOpen n with
  | none => s
  | some g => if g.run || s.hub1Lost || s.regF (rSlot n) 59 58 != 1 then s else s.segmentCheck n cap p

/-- HOLDUP_RECHECK (R453): the failed check is repeated. -/
def fxHoldupRecheck (s : State) (n cap p : Nat) : State :=
  match s.flashOpen n with
  | none => s
  | some _ => if s.hub1Lost || s.regF (rSlot n) 59 58 != 2 then s else s.segmentCheck n cap p

/-- The oldest committed generations of a slot beyond KEEP are freed. -/
def keepGens (n : Nat) : List FlashGen → Nat → List FlashGen
  | [], _ => []
  | g :: gs, extra =>
    if g.slot = n ∧ g.committed ∧ 0 < extra then keepGens n gs (extra - 1) else g :: keepGens n gs extra

/-- The segment's data and its record are written; after the last, the commit record (R452), unless the input
is lost (R454). -/
def segmentDone (s : State) (n : Nat) (commit : Bool := true) : State :=
  match s.flashOpen n with
  | none => s
  | some g =>
    if !g.run || s.hub1Lost then s
    else
      let j := g.done
      let len := segBytes g.grec j
      let data := (List.range len).map fun i => (s.peekByte (s.slotBase n + 2 ^ 26 + 2 ^ 30 * j + i)).1
      let last := commit && decide (g.segs.length ≤ j + 1)
      let g2 := { g with done := j + 1, run := false, committed := last }
      let s := s.setFlash fun f => { f with
        data := smSetL 0#8 f.data (g.segs.getD j 0 * 2 ^ 30) data
        gens := f.gens.map fun x => if x.slot == n && !x.committed then g2 else x }
      if last then
        let k := (s.flash.gens.filter fun x => x.slot == n && x.committed).length
        let s := s.setFlash fun f => { f with gens := keepGens n f.gens (k - s.regF (rSnap 0) 23 21) }
        (s.setRegF (rSlot n) 59 58 0).setRegF (rSnap (0x20 + 8 * n)) 63 32 (recE g.grec)
      else s

/-- FLASH_SEGMENT_DONE (R452): with the rate at which the segment was written (R453). -/
def fxFlashSegmentDone (s : State) (n rate : Nat) : State :=
  match s.flashOpen n with
  | none => s
  | some g =>
    if !g.run || s.hub1Lost then s
    else (s.segmentDone n).setFlash fun f => { f with rates := ((rate :: f.rates).filter (0 < ·)).take 16 }

/-! ### The end of a job (R444, R445, R449) -/

def rHv : Nat := rSnap 0x30

def updH (s : State) (f : HJob → HJob) : State := { s with hjob := s.hjob.map f }

/-- The release tokens of the manifest entries `is` that have not been sent (R449).  An entry whose CLUSTER or
ADD is out of R442's range names no token. -/
def sendReleases (s : State) (is : List Nat) : State :=
  match s.hjob with
  | none => s
  | some h =>
    let m := h.man
    let due := is.filter fun i => !h.freed.contains i
    let s := due.foldl (fun s i =>
      if imgNat m (16 * i + 12) 1 / 128 = 1 ∧ imgNat m (16 * i + 14) 1 < 192 ∧ imgNat m (16 * i + 15) 1 ≠ 0 then
        s.signal (imgNat m (16 * i + 14) 1) (imgNat m (16 * i + 13) 1) (imgNat m (16 * i + 15) 1)
      else s) s
    s.updH fun h => { h with freed := h.freed ++ due }

/-- The manifest is read into the job, a poisoned entry as zeros: it names no token. -/
def readManifest (s : State) (w : List W64) : State × Bool :=
  let n := manN w
  let m := s.memRead (dfld w 6 47 0) (16 * n) 0
  let bs := (List.range n).flatMap fun i =>
    if ((m.2.2.drop (16 * i)).take 16).any id then List.replicate 16 0#8 else (m.2.1.drop (16 * i)).take 16
  (m.1.updH fun h => { h with man := bs }, m.2.2.any id)

/-- The manifest ranges whose copy to the last holder has all its PUT_ACKs (R449): every PUT of the range is
sent and none is unacknowledged. -/
def ackedRanges (h : HJob) : List Nat :=
  (List.range (manN h.words)).filter fun i =>
    let a := 8 + manTotal h.man i / 2048
    let b := 8 + manTotal h.man (i + 1) / 2048
    decide (b ≤ h.next) && h.out.all fun t => decide (t % 2 ^ 29 < a) || decide (b ≤ t % 2 ^ 29)

/-- Their release tokens are sent (R449). -/
def releaseAcked (s : State) : State :=
  match s.hjob with
  | none => s
  | some h =>
    if hvOp h.words = 1 ∧ h.stage = 4 ∧ h.phase = 1 ∧ h.holder = s.regF (rSnap 0) 16 16 then s.sendReleases (ackedRanges h) else s

/-- Address of the ring entry at HEAD. -/
def hvEntry (s : State) : Nat :=
  s.regF (rSnap 0x40) 47 12 * 4096 + 64 * (s.regF rHv 47 32 % 2 ^ s.regF (rSnap 0x40) 57 53)

/-- The release tokens of an accepted EQUINOX that ends: of every range that has not been copied to the last
holder (R449). -/
def releaseRest (s : State) (h : HJob) : State :=
  if hvOp h.words ≠ 1 ∨ h.stage = 0 then s
  else
    let s := if h.man.isEmpty then (s.readManifest h.words).1 else s
    s.sendReleases (List.range (manN h.words))

/-- The job ends with a status. -/
def hvEnd (s : State) (status : Nat) : State :=
  match s.hjob with
  | none => s
  | some h =>
    let w := h.words
    let s := s.releaseRest h
    let s := if hvOp w = 4 ∧ dfld w 3 63 63 = 0 then s.clrBit (rSlot (dfld w 3 62 62)) 57 else s
    let w0 := setFld (setFld (wordAt w 0) 63 63 0) 55 48 status
    let s := s.memWrite h.entry (leBytes 8 w0.toNat) 0
    let s := if status = 0 ∧ dfld w 2 63 63 = 1 then s.signal (dfld w 2 47 40) (dfld w 2 55 48) (dfld w 2 39 32) else s
    let s := if status = 0 then s
      else s.record 0x11 0 0 5 1 (BitVec.ofNat 64 (hvOp w * 2 ^ 56 + status * 2 ^ 48 + dfld w 0 31 0)) 0#64
    let n := (s.regF rHv 47 32 + 1) % 2 ^ s.regF (rSnap 0x40) 57 53
    let s := ((s.setRegF rHv 47 32 n).setRegF rHv 55 48 status).setRegF rHv 63 60 0
    { s with hjob := none }

/-! ### PUTs of the Harvest engine (R446, R448, R458, R463) -/

/-- EID and slot of holder `k` (R473). -/
def holderEid (s : State) (k : Nat) : Nat := s.regF (rSnap 8) (32 * k + 15) (32 * k)
def holderSlot (s : State) (k : Nat) : Nat := s.regF (rSnap 8) (32 * k + 16) (32 * k + 16)
def holders (s : State) : Nat := s.regF (rSnap 0) 16 16 + 1

/-- PUTs of the present phase. -/
def hvTotal (h : HJob) : Nat :=
  match h.phase with
  | 0 => 2
  | 1 => 8 + manTotal h.man (manN h.words) / 2048
  | 2 => 2
  | 3 => 1
  | 4 => 10
  | _ => segBytes h.grec h.holder / 2048

/-- EID that the PUTs of a job go to. -/
def hvDst (s : State) (h : HJob) : Nat := if hvOp h.words = 4 then dfld h.words 4 63 48 else s.holderEid h.holder

/-- The record of an EQUINOX in a state. -/
def eqxRecord (s : State) (h : HJob) (st : Nat) : List Byte :=
  let w := h.words
  let n := manTotal h.man (manN w)
  genRecord st (dfld w 6 49 48) s.selfGen s.selfEid (dfld w 4 63 48) (dfld w 3 63 32) (dfld w 3 31 0) n
    (crc32c (h.man.take (16 * manN w))).toNat (if st = 2 then h.crcs.map crcEnd else [])

/-- Address, bytes and poison of the next PUT of a phase. -/
def hvData (s : State) (h : HJob) : State × Nat × List Byte × List Bool :=
  let i := h.next
  let base := s.slotBase (s.holderSlot h.holder)
  let clean := fun (a : Nat) (bs : List Byte) => (s, a, bs, List.replicate bs.length false)
  match h.phase with
  | 0 => clean (base + 2048 * i) (((s.eqxRecord h 1).drop (2048 * i)).take 2048)
  | 1 =>
    if i < 8 then
      clean (base + 4096 + 2048 * i) ((((h.man ++ List.replicate 16384 0#8).take 16384).drop (2048 * i)).take 2048)
    else
      let o := 2048 * (i - 8)
      let a := (manAddr h.man (manN h.words) 0 o).getD 0
      let m := s.memRead a 2048 0
      (m.1, base + 2 ^ 26 + o, m.2.1, m.2.2)
  | 2 => clean (base + 2048 * i) (((s.eqxRecord h 2).drop (2048 * i)).take 2048)
  | 3 => clean (base + 65536 + 256 * (imgNat h.grec 4 4 % 256)) (h.grec.take 256)
  | 4 => clean (dfld h.words 4 47 0 + 2048 * i) (((h.grec ++ h.man).drop (2048 * i)).take 2048)
  | _ =>
    let o := 2 ^ 30 * h.holder + 2048 * i
    let a := (manAddr h.man 1024 0 o).getD 0
    if dfld h.words 3 63 63 = 1 then
      let g := s.flash.gens.find? fun g => g.grec == h.grec && g.committed
      let seg := match g with | some g => g.segs.getD h.holder 0 | none => 0
      clean a (smGetL 0#8 s.flash.data (seg * 2 ^ 30 + 2048 * i) 2048)
    else
      let m := s.memRead (s.slotBase (dfld h.words 3 62 62) + 2 ^ 26 + o) 2048 0
      (m.1, a, m.2.1, m.2.2)

/-- The running CRC of a segment after a PUT of data. -/
def hvCrc (h : HJob) (bs : List Byte) : List W32 :=
  if h.phase = 1 ∧ 8 ≤ h.next then
    let j := (h.next - 8) / 524288
    let l := if h.crcs.length ≤ j then h.crcs ++ [crcStart] else h.crcs
    l.set j (crcMore (l.getD j crcStart) bs)
  else if h.phase = 5 then [crcMore (h.crcs.headD crcStart) bs]
  else h.crcs

/-- Tags of one holder, record and data apart, so that late acknowledgements match nothing. -/
def hvTag (h : HJob) : Nat := h.next + h.holder % 2 * 2 ^ 30 + (if h.phase = 2 then 2 ^ 29 else 0)

/-- Hub 1's transfer engine runs no host job (R446). -/
def hubFree (s : State) : Bool :=
  match (s.tgt 10).job with
  | some j => j.stage != 2
  | none => true

/-- PUTs sent while fewer than 64 are unacknowledged (R392). -/
def hvSend : Nat → State → State
  | 0, s => s
  | n + 1, s =>
    match s.hjob with
    | none => s
    | some h =>
      if h.stage ≠ 4 ∨ hvTotal h ≤ h.next ∨ 64 ≤ h.out.length ∨ !s.hubFree then s
      else
        let d := s.hvData h
        let die := if hvOp h.words = 4 then 8 else 9
        let q := mkPacket (s.hvDst h) 1 die noQueue (s.regF (rSnap 0) 18 17) false d.2.1 (hvTag h)
          (flagMask (secFlags d.2.2.2)) d.2.2.1
        let s := (d.1.send 1 q).updH fun h => { h with
          next := h.next + 1, out := h.out ++ [hvTag h], crcs := hvCrc h d.2.2.1
          poison := h.poison || d.2.2.2.any id }
        hvSend n s

def hvPump (s : State) : State := hvSend 64 s

/-- A phase begins. -/
def hvPhase (s : State) (ph : Nat) : State :=
  (s.updH fun h => { h with phase := ph, next := 0, out := [] }).hvPump

/-- The copy to the present holder, or the record sent to it, has ended with a status: the next holder,
or the end of the job (R448, R463). -/
def holderEnd (s : State) (status : Nat) : State :=
  match s.hjob with
  | none => s
  | some h =>
    let st := if h.status = 0 then status else h.status
    if h.holder + 1 < s.holders then
      (s.updH fun h => { h with status := st, holder := h.holder + 1, crcs := [] }).hvPhase (if hvOp h.words = 2 then 3 else 0)
    else s.hvEnd st

/-- A restored segment has all its acknowledgements: its CRC and poison are judged, its token sent
(R458). -/
def segmentEnd (s : State) : State :=
  match s.hjob with
  | none => s
  | some h =>
    let w := h.words
    if h.poison then s.hvEnd 0x0A
    else if crcEnd (h.crcs.headD crcStart) ≠ recSegCrc h.grec h.holder then s.hvEnd 9
    else
      let s := if dfld w 6 63 63 = 1 then
          s.send 1 (tokenPacket (dfld w 4 63 48) (dfld w 6 23 16) (dfld w 6 15 8) (dfld w 6 7 0)) else s
      if h.holder + 1 < dfld w 5 63 48 + dfld w 5 47 32 then
        (s.updH fun h => { h with holder := h.holder + 1, crcs := [crcStart], poison := false }).hvPhase 5
      else s.hvEnd 0

/-- Every PUT of the phase is acknowledged. -/
def hvAcked (s : State) : State :=
  match s.hjob with
  | none => s
  | some h =>
    if h.stage ≠ 4 ∨ !h.out.isEmpty ∨ h.next < hvTotal h then s.hvPump
    else match h.phase with
      | 0 => s.hvPhase 1
      | 1 => s
      | 4 =>
        if dfld h.words 5 47 32 = 0 then s.hvEnd 0
        else (s.updH fun h => { h with holder := dfld h.words 5 63 48, crcs := [crcStart], poison := false }).hvPhase 5
      | 5 => s.segmentEnd
      | _ => s.holderEnd 0

/-- A PUT is refused, or TMO_MS pass without an acknowledgement. -/
def hvFail (s : State) (status : Nat) : State :=
  match s.hjob with
  | none => s
  | some h =>
    let s := s.updH fun h => { h with out := [] }
    if hvOp h.words = 4 then s.hvEnd status else s.holderEnd status

/-- PUT_ACK (R392, R448, R458): to the transfer engine, or the Harvest engine, that waits for it. -/
def fxPutAck (s : State) : State :=
  match s.takeLocal fun q => pOp q == 2 with
  | none => s
  | some (x, s) =>
    let q := x.1
    let t := pArg1 q % 2 ^ 32
    if s.copyAwaits 0 q then s.copyAck 0 q
    else if s.copyAwaits 1 q then s.copyAck 1 q
    else match s.hjob with
      | none => s
      | some h =>
        if h.stage ≠ 4 ∨ s.hvDst h ≠ pSrc q ∨ !h.out.contains t then s
        else if bitAt (pArg1 q) 32 then s.hvFail 2
        else (s.updH fun h => { h with out := h.out.erase t }).releaseAcked.hvAcked

/-- TRANSFER_TIMEOUT (R392): on hub 1 also for a copy of the Harvest engine (R446, R448). -/
def fxTransferTimeout (s : State) (hub : Nat) : State :=
  match s.hjob with
  | some h =>
    let tmo := if hvOp h.words = 2 then 0 else dfld h.words 7 15 0
    if hub = 1 ∧ h.stage = 4 ∧ s.hubFree ∧ !h.out.isEmpty ∧ tmo ≠ 0 then s.hvFail 0x0D else s.copyTimeout hub
  | none => s.copyTimeout hub

/-! ### The ring (R444, R445) -/

/-- HARVEST_RING_POLL (R444): the entry at HEAD is taken when it is VALID. -/
def fxHarvestRingPoll (s : State) : State :=
  if !s.bit (rSnap 0x40) 63 || s.hjob.isSome || s.fenced || s.hub1Lost || !s.routerRuns then s
  else
    let m := s.memRead s.hvEntry 64 0
    let s := m.1
    let w := words 8 m.2.1
    let poison := m.2.2.any id
    if dfld w 0 63 63 = 0 ∧ !poison then s
    else
      let w := words 8 ((List.range 64).map fun i => (s.peekByte (s.hvEntry + i)).1)
      let s := { s with hjob := some { words := w, entry := s.hvEntry } }
      let s := s.setRegF rHv 63 60 (if dfld w 1 63 63 = 1 then 1 else if hvOp w = 1 then 2 else if hvOp w = 4 then 4 else 5)
      if poison then s.hvEnd 0x0A
      else if hvOp w = 0 ∨ 7 < hvOp w then s.hvEnd 1
      else if hvBad w then s.hvEnd 2
      else s.updH fun h => { h with stage := if dfld w 1 63 63 = 1 then 1 else 2 }

/-- HARVEST_TOKEN_RELEASE (R445, R321). -/
def fxHarvestTokenRelease (s : State) : State :=
  match s.hjob with
  | none => s
  | some h =>
    let w := h.words
    if h.stage ≠ 1 then s
    else match s.takeToken (dfld w 1 47 40) (dfld w 1 55 48) (dfld w 1 39 24) with
      | none => s
      | some s =>
        (s.setRegF rHv 63 60 (if hvOp w = 1 then 2 else if hvOp w = 4 then 4 else 5)).updH fun h => { h with stage := 2 }

/-- HARVEST_TOKEN_TIMEOUT (R445, R321). -/
def fxHarvestTokenTimeout (s : State) : State :=
  match s.hjob with
  | none => s
  | some h => if h.stage ≠ 1 ∨ dfld h.words 1 15 0 = 0 then s else s.hvEnd 0x0C

/-- A job of kind `op` that is to be run. -/
def hvRun (s : State) (op : Nat) (body : State → List W64 → State) : State :=
  match s.hjob with
  | none => s
  | some h =>
    if hvOp h.words ≠ op then s
    else if h.stage = 4 then s.hvAcked
    else if h.stage ≠ 2 then s
    else body s h.words

/-! ### EQUINOX (R447, R448) -/

/-- The proposal of R447. -/
def proposal (s : State) (w : List W64) (man : List Byte) : List Byte :=
  leBytes 4 (dfld w 3 63 32) ++ leBytes 4 (dfld w 3 31 0) ++ leBytes 1 (dfld w 6 49 48) ++ leBytes 1 0 ++
    leBytes 2 (dfld w 4 63 48) ++ leBytes 2 s.selfEid ++ leBytes 2 s.selfGen ++
    leBytes 4 (crc32c man).toNat ++ leBytes 2028 0

/-- The ALL_GATHER that agrees an Equinox. -/
def gatherJob (s : State) (w : List W64) : List W64 :=
  let g := dfld w 5 47 0
  let me := dfld w 5 63 48
  [BitVec.ofNat 64 (2 * 2 ^ 56 + dfld w 3 63 32 % 65536 * 2 ^ 32 + dfld w 0 31 0),
   wordAt w 4, BitVec.ofNat 64 (me * 2 ^ 48 + g + 2048 * me),
   BitVec.ofNat 64 (s.regF (rSnap 0) 18 17 * 2 ^ 54 + g), BitVec.ofNat 64 (512 * 2 ^ 32 + dfld w 7 15 0),
   0#64, 0#64, 0#64]

/-- The key of the collective engine of the agreement. -/
def ceq (s : State) : Nat := s.regF (rSnap 0) 20 19

/-- EQUINOX (R447): the manifest is read and the agreement begins. -/
def fxEquinox (s : State) : State :=
  s.hvRun 1 fun s w =>
    let e := s.ceq
    if (s.tgt (11 + e)).job.isSome then s
    else
      let m := s.readManifest w
      let s := m.1
      let man := match s.hjob with | some h => h.man | none => []
      if m.2 then s.hvEnd 0x0A
      else if !manOk man (manN w) then s.hvEnd 2
      else
        let s := s.memWrite (dfld w 5 47 0 + 2048 * dfld w 5 63 48) (s.proposal w man) 0
        let s := s.updH fun h => { h with stage := 3 }
        let j := s.gatherJob w
        let s := s.setRegF (rCleStat e) 31 0 (dfld w 0 31 0)
        (s.setTgt (11 + e) { s.tgt (11 + e) with job := some { words := j, sqn := 262144, cqn := 262144 } }).collStart e j

/-- Every gathered proposal agrees (R447). -/
def agreed (s : State) (w : List W64) : State × Bool :=
  let n := dfld w 4 63 48
  let g := s.memRead (dfld w 5 47 0) (2048 * n) 0
  let r := g.1.memRead (dfld w 4 47 0) (2 * n) 0
  let own := (g.2.1.drop (2048 * dfld w 5 63 48)).take 12
  (r.1, (List.range n).all fun i =>
    let p := (g.2.1.drop (2048 * i)).take 14
    p.take 12 == own && p.drop 12 == (r.2.1.drop (2 * i)).take 2)

/-- EQUINOX_AGREED (R447): the gather has ended. -/
def fxEquinoxAgreed (s : State) : State :=
  match s.hjob, (s.tgt (11 + s.ceq)).job with
  | some h, some j =>
    if h.stage ≠ 3 ∨ j.stage ≠ 4 ∨ j.sqn ≠ 262144 then s
    else
      let s := s.setTgt (11 + s.ceq) { s.tgt (11 + s.ceq) with job := none }
      if j.status ≠ 0 then s.hvEnd j.status
      else
        let a := s.agreed h.words
        let s := a.1
        if !a.2 then s.hvEnd 3
        else
          let s := s.setRegF rHv 31 0 (dfld h.words 3 63 32)
          if dfld h.words 6 48 48 = 0 then s.hvEnd 0
          else ((s.setRegF rHv 63 60 3).updH fun h => { h with stage := 4, holder := 0, crcs := [] }).hvPhase 0
  | _, _ => s

/-- HARVEST_COPY_COMMIT (R448): manifest copy and data are acknowledged; the COMPLETE record is sent.  With the
last holder every range has its release token by now (R449). -/
def fxHarvestCopyCommit (s : State) : State :=
  match s.hjob with
  | none => s
  | some h =>
    if h.stage ≠ 4 ∨ h.phase ≠ 1 ∨ !h.out.isEmpty ∨ h.next < hvTotal h then s
    else s.releaseAcked.hvPhase 2

/-! ### RECORD, DIGEST, CAPTURE, VERIFY, LIST (R460 to R466) -/

/-- RECORD (R463). -/
def fxRecord (s : State) : State :=
  s.hvRun 2 fun s w =>
    let m := s.memRead (dfld w 3 47 0) 256 0
    let s := m.1
    if m.2.2.any id then s.hvEnd 0x0A
    else if imgNat m.2.1 0 4 ≠ 0x50535453 ∨ imgNat m.2.1 252 4 ≠ (crc32c (m.2.1.take 252)).toNat then s.hvEnd 9
    else (s.updH fun h => { h with stage := 4, holder := 0, grec := m.2.1 }).hvPhase 3

/-- The ranges of a DIGEST or CAPTURE read in list order: bytes as stored and their poison, whether the list
was poisoned, and whether an entry was out of range. -/
def readRanges (s : State) (w : List W64) : State × List (Byte × Bool) × Bool × Bool :=
  let n := dfld w 3 63 48
  let l := s.memRead (dfld w 3 47 0) (16 * n) 0
  let ok := (List.range n).all fun i =>
    let a := imgNat l.2.1 (16 * i) 8
    let k := imgNat l.2.1 (16 * i + 8) 4
    a % 4 == 0 && k % 4 == 0 && mapped a k && imgNat l.2.1 (16 * i + 12) 4 == 0
  if l.2.2.any id then (l.1, [], true, false)
  else if !ok then (l.1, [], false, true)
  else (List.range n).foldl (fun acc i =>
    let a := imgNat l.2.1 (16 * i) 8
    let k := imgNat l.2.1 (16 * i + 8) 4
    let bs := (List.range k).map fun j => acc.1.peekByte (a + j)
    ((acc.1.memRead a k 0).1, acc.2.1 ++ bs, false, false)) (l.1, [], false, false)

/-- DIGEST (R464). -/
def fxDigest (s : State) : State :=
  s.hvRun 3 fun s w =>
    let r := s.readRanges w
    if r.2.2.2 then r.1.hvEnd 2
    else if r.2.2.1 || r.2.1.any (·.2) then r.1.hvEnd 0x0A
    else (r.1.memWrite (dfld w 4 47 0) (leBytes 4 (crc32c (r.2.1.map (·.1))).toNat) 0).hvEnd 0

/-- CAPTURE (R466): poisoned sectors are copied as stored. -/
def fxCapture (s : State) : State :=
  s.hvRun 6 fun s w =>
    let r := s.readRanges w
    let a := dfld w 4 47 0
    if r.2.2.2 ∨ (!hostAddr a ∧ !mapped a r.2.1.length) then r.1.hvEnd 2
    else
      let bs := r.2.1.map (·.1)
      let s := if hostAddr a then r.1.hostWrite none (a % 2 ^ 47) bs else r.1.memWriteP a bs (r.2.1.map (·.2)) 0
      s.hvEnd (if r.2.2.1 || r.2.1.any (·.2) then 0x0A else 0)

/-- One segment of packed ranges, as memory holds it now: bytes and poison. -/
def packed (s : State) (man : List Byte) (o n : Nat) : List Byte × Bool :=
  let l := (List.range (n / 4096)).map fun i =>
    let a := (manAddr man 1024 0 (o + 4096 * i)).getD 0
    (List.range 4096).map fun k => s.peekByte (a + k)
  (l.flatten.map Prod.fst, l.flatten.any (·.2))

/-- VERIFY (R460). -/
def fxVerify (s : State) : State :=
  s.hvRun 5 fun s w =>
    let m := s.memRead (dfld w 3 47 0) 20480 0
    let s := m.1
    if m.2.2.any id then s.hvEnd 0x0A
    else
      let r := m.2.1.take 4096
      let man := m.2.1.drop 4096
      let first := dfld w 4 63 48
      let ok := fun (j : Nat) =>
        let p := s.packed man (2 ^ 30 * j) (segBytes r j)
        !p.2 && (crc32c p.1).toNat == recSegCrc r j
      let bits := (List.range 384).map fun j => decide (first ≤ j) && decide (j < first + dfld w 4 47 32) && ok j
      (s.memWrite (dfld w 5 47 0) (leBytes 48 (flagMask bits)) 0).hvEnd 0

/-- LIST (R445): the flash directory, whose format is open. -/
def fxList (s : State) : State :=
  s.hvRun 7 fun s w =>
    let f := s.freeBytes 32768
    (f.2.memWrite (dfld w 3 47 0) f.1 0).hvEnd 0

/-! ### RESTORE (R458) -/

/-- A slot filled from a generation of flash or of a slot, in the commit order of R448. -/
def restoreHere (s : State) (w : List W64) (r man : List Byte) (g : Option FlashGen) : State :=
  let n := dfld w 3 62 62
  let b := s.slotBase n
  let s := s.memWrite b (splice r 4 [1#8]) 0
  let s := s.memWrite (b + 4096) man 0
  let first := dfld w 5 63 48
  let x := (List.range (dfld w 5 47 32)).foldl (fun (acc : State × Nat) i =>
    if acc.2 ≠ 0 then acc
    else
      let j := first + i
      let len := segBytes r j
      let src := acc.1.memRead (b + 2 ^ 26 + 2 ^ 30 * j) len 0
      let d : State × List Byte × List Bool := match g with
        | some g => (acc.1, smGetL 0#8 acc.1.flash.data (g.segs.getD j 0 * 2 ^ 30) len, List.replicate len false)
        | none => src
      let s := d.1.memWriteP (b + 2 ^ 26 + 2 ^ 30 * j) d.2.1 d.2.2 0
      if d.2.2.any id then (s, 0x0A)
      else if (crc32c d.2.1).toNat ≠ recSegCrc r j then (s, 9)
      else (if dfld w 6 63 63 = 1 then
          s.send 1 (tokenPacket (dfld w 4 63 48) (dfld w 6 23 16) (dfld w 6 15 8) (dfld w 6 7 0)) else s, 0)) (s, 0)
  let s := x.1
  if x.2 = 0 then (((s.memWrite b r 0).readSlot n).flashBegin n).hvEnd 0 else (s.readSlot n).hvEnd x.2

/-- The generation record and manifest copy that a RESTORE names, or the status of its end (R458): a slot whose
record or manifest is poisoned fails it (R461, R526). -/
def restoreSource (s : State) (w : List W64) (g : Option FlashGen) : State × Except Nat (List Byte × List Byte) :=
  let n := dfld w 3 62 62
  match g with
  | some g => (s, .ok (g.grec, g.man))
  | none =>
    if dfld w 3 63 63 = 1 ∨ s.slotN ≤ n ∨ s.slotSize = 0 then (s, .error 2)
    else
      let m := s.memRead (s.slotBase n) 20480 0
      let r := m.2.1.take 4096
      if (m.2.2.take 4096).any id then (m.1, .error 0x0A)
      else if !recComplete r || recE r != dfld w 3 31 0 then (m.1, .error 2)
      else if m.2.2.any id then (m.1, .error 0x0A)
      else (m.1, .ok (r, m.2.1.drop 4096))

/-- RESTORE (R458). -/
def fxRestore (s : State) : State :=
  s.hvRun 4 fun s w =>
    let n := dfld w 3 62 62
    let g := if dfld w 3 63 63 = 1 then s.flash.gens.find? fun g =>
        g.slot == n && g.committed && recE g.grec == dfld w 3 31 0 else none
    let src := s.restoreSource w g
    let s := src.1
    match src.2 with
    | .error e => s.hvEnd e
    | .ok (r, man) =>
      if recSegs r < dfld w 5 63 48 + dfld w 5 47 32 then s.hvEnd 2
      else if dfld w 3 61 61 = 1 then
        -- DESIGN CHOICE (log 19): a slot that is absent, or too small for the generation, is a field out of range
        (if s.slotN ≤ n ∨ s.slotSize < 2 ^ 26 + recBytes r then s.hvEnd 2 else s.restoreHere w r man g)
      else
        let s := if dfld w 3 63 63 = 0 then s.setBit (rSlot n) 57 else s
        (s.updH fun h => { h with stage := 4, grec := r, man := man }).hvPhase 4

/-! ### Harvest PUTs received (R443, R452) -/

/-- HARVEST_PUT (R443). -/
def fxHarvestPut (s : State) : State :=
  match if s.hub1Lost then none else s.takeLocal fun q => pOp q == 1 && pDie q == 9 with
  | none => s
  | some (x, s) =>
    let y := s.payload x
    let s := y.2
    let q := x.1
    let a := pArg0 q
    let n := y.1.1.length
    match s.slotOf a n with
    | none => s.send 1 (ackOf q true)
    | some k =>
      if s.regF (rSlot k) 31 16 ≠ pSrc q ∨ s.regF (rSlot k) 47 32 ≠ pGen q ∨ s.bit (rSlot k) 57 then
        s.send 1 (ackOf q true)
      else
        let o := a - s.slotBase k
        -- the generation record, the manifest copy or the data area
        let s := if o < 20480 ∨ 2 ^ 26 < o + n then s.flashAbandon k else s
        let s := s.memWriteP a y.1.1 (byteFlags y.1.2) 0
        let s := if o ≤ 4 ∧ 4 < o + n then s.readSlot k else s
        let s := if o < 4096 ∧ n ≠ 0 then s.flashBegin k else s
        s.send 1 (ackOf q false)

/-- GENERATION_RECORD_REREAD (R443). -/
def fxGenerationRecordReread (s : State) : State :=
  if s.slotSize = 0 ∨ !s.routerRuns then s else (List.range s.slotN).foldl (fun s n => s.rereadSlot n) s

/-! ### Fences (R468, R469) -/

/-- The module fences (R469). -/
def fence (s : State) : State :=
  let s := s.setBit (rSnap 0x48) 32
  let s := s.present.foldl (fun s x => s.fenceCluster x.2) s
  let live := fun (s : State) (k : Nat) => match (s.tgt k).job with | some j => decide (j.stage < 4) | none => false
  let s := (List.range 8).foldl (fun s d => if live s (1 + d) then s.upeFail d 0x0E else s) s
  let s := [0, 1].foldl (fun s h => match (s.tgt (9 + h)).job with
    | some j => if j.stage < 4 then s.endJob (9 + h) 0x0E (copyRes j) else s
    | none => s) s
  let s := (List.range 4).foldl (fun s e => match (s.tgt (11 + e)).job with
    -- the gather of an EQUINOX ends with its job
    | some j => if j.sqn = 262144 then (s.setRegF (rCleStat e) 63 60 0).setTgt (11 + e) { s.tgt (11 + e) with job := none }
      else if j.stage < 4 then s.collEnd e 0x0E else s
    | none => s) s
  (s.hvEnd 0x0E).setRegF rHv 63 60 6

/-- ISOLATION_TIMEOUT (R468); the limit does not run in DORMANT or SOLSTICE (R503). -/
def fxIsolationTimeout (s : State) : State :=
  let on := (List.range 24).filter fun p => s.bit (rLnk p 0) 0
  if !s.routerRuns || s.program.isNone || on.isEmpty || on.any s.lnkUp || s.regF (rSnap 0x48) 15 0 == 0 || s.fenced then s
  else s.fence

/-- A write of SNAP_RING (R478). -/
def ringWrite (s : State) (v : W64) : State :=
  let a := rSnap 0x40
  let v := v &&& 0x83E0FFFFFFFFF000#64
  let old := s.reg a
  if fld old 63 63 = 1 ∧ (fld v 57 53 ≠ fld old 57 53 ∨ fld v 47 0 ≠ fld old 47 0) then s
  else
    let s := s.setReg a v
    if fld old 63 63 = 0 ∧ fld v 63 63 = 1 then s.setRegF rHv 47 32 0 else s

/-- SNAP_RING_ENABLE (R478): a write that sets EN. -/
def fxSnapRingEnable (s : State) (v : W64) : State :=
  if fld v 63 63 = 0 ∨ s.bit (rSnap 0x40) 63 then s else s.ringWrite v

end State

/-! ### The meanings of the commands -/

/-- PUT_ACK (R392). -/
def execPutAck (s : State) : Host.Outcome State Fault Refusal :=
  .next (s.orWait fun s => s.fxPutAck)

/-- TRANSFER_TIMEOUT (R392). -/
def execTransferTimeout (h : HubIx) (s : State) : Host.Outcome State Fault Refusal :=
  .next (s.orWait (·.fxTransferTimeout h.val))

/-- HARVEST_RING_POLL (R444). -/
def execHarvestRingPoll (s : State) : Host.Outcome State Fault Refusal :=
  .next (s.orWait fun s => s.fxHarvestRingPoll)

/-- HARVEST_TOKEN_RELEASE (R445). -/
def execHarvestTokenRelease (s : State) : Host.Outcome State Fault Refusal :=
  .next (s.orWait fun s => s.fxHarvestTokenRelease)

/-- EQUINOX (R447). -/
def execEquinox (s : State) : Host.Outcome State Fault Refusal :=
  .next (s.orWait fun s => s.fxEquinox)

/-- EQUINOX_AGREED (R447). -/
def execEquinoxAgreed (s : State) : Host.Outcome State Fault Refusal :=
  .next (s.orWait fun s => s.fxEquinoxAgreed)

/-- HARVEST_COPY_COMMIT (R448). -/
def execHarvestCopyCommit (s : State) : Host.Outcome State Fault Refusal :=
  .next (s.orWait fun s => s.fxHarvestCopyCommit)

/-- RECORD (R463). -/
def execRecord (s : State) : Host.Outcome State Fault Refusal :=
  .next (s.orWait fun s => s.fxRecord)

/-- DIGEST (R464). -/
def execDigest (s : State) : Host.Outcome State Fault Refusal :=
  .next (s.orWait fun s => s.fxDigest)

/-- RESTORE (R458). -/
def execRestore (s : State) : Host.Outcome State Fault Refusal :=
  .next (s.orWait fun s => s.fxRestore)

/-- VERIFY (R460). -/
def execVerify (s : State) : Host.Outcome State Fault Refusal :=
  .next (s.orWait fun s => s.fxVerify)

/-- CAPTURE (R466). -/
def execCapture (s : State) : Host.Outcome State Fault Refusal :=
  .next (s.orWait fun s => s.fxCapture)

/-- LIST (R445). -/
def execList (s : State) : Host.Outcome State Fault Refusal :=
  .next (s.orWait fun s => s.fxList)

/-- HARVEST_PUT (R443). -/
def execHarvestPut (s : State) : Host.Outcome State Fault Refusal :=
  .next (s.orWait fun s => s.fxHarvestPut)

/-- GENERATION_RECORD_REREAD (R443). -/
def execGenerationRecordReread (s : State) : Host.Outcome State Fault Refusal :=
  .next (s.orWait fun s => s.fxGenerationRecordReread)

/-- FLASH_SEGMENT_START (R453). -/
def execFlashSegmentStart (slot : Fin 2) (eCap : BitVec 16) (pHold : BitVec 32) (s : State) : Host.Outcome State Fault Refusal :=
  .next (s.fxFlashSegmentStart slot.val eCap.toNat pHold.toNat)

/-- HOLDUP_RECHECK (R453). -/
def execHoldupRecheck (slot : Fin 2) (eCap : BitVec 16) (pHold : BitVec 32) (s : State) : Host.Outcome State Fault Refusal :=
  .next (s.fxHoldupRecheck slot.val eCap.toNat pHold.toNat)

/-- FLASH_SEGMENT_DONE (R452). -/
def execFlashSegmentDone (d : SegmentEnd) (s : State) : Host.Outcome State Fault Refusal :=
  .next (s.fxFlashSegmentDone d.slot.val d.rate.toNat)

/-- ISOLATION_TIMEOUT (R468). -/
def execIsolationTimeout (s : State) : Host.Outcome State Fault Refusal :=
  .next (s.orWait fun s => s.fxIsolationTimeout)

/-- SNAP_RING_ENABLE (R478). -/
def execSnapRingEnable (v : W64) (s : State) : Host.Outcome State Fault Refusal :=
  .next (s.gate 3 fun s => s.fxSnapRingEnable v)

/-- HARVEST_TOKEN_TIMEOUT (R445). -/
def execHarvestTokenTimeout (s : State) : Host.Outcome State Fault Refusal :=
  .next (s.orWait fun s => s.fxHarvestTokenTimeout)

end Sys2Proof.Machine
end

