-- ==== Sys2Proof/Machine/Map.lean ====
section
/-!
DEFINITION. The capability map: self-test and assignment (R14, R60 to R66, R485), fit signature and class
(R17, R172, R602), the loss of clusters, regions, dies and hub 1 (R15, R30, R31, R310, R311, R470), and
what a dead domain's errors come to (R523).
-/

namespace Sys2Proof.Machine

/-! ### Widths (R60, R61) -/

/-- Width of an array from its failed physical columns. -/
def arrayWidth (f : BitVec 66) : Nat := min 64 (66 - ((List.range 66).filter fun i => f.getLsbD i).length)

def widthsOf (f : List (BitVec 66)) : List Nat := (List.range 6).map fun a => arrayWidth (f.getD a 0#66)

/-- UNIT_CAP of six widths (R21). -/
def capWord (ws : List Nat) : W64 :=
  BitVec.ofNat 64 (((List.range 6).map fun a => ws.getD a 0 * 2 ^ (7 * a)).foldl (· + ·) 0 +
    (if ws.any (fun w => decide (w < 64)) then 2 ^ 47 else 0))

/-! ### Places and domains (R423, R518) -/

/-- Number of instances of a level: 0 unit, 1 cluster, 2 region, 3 die, 4 package. -/
def domCount (lvl : Nat) : Nat :=
  match lvl with | 0 => 768 | 1 => 192 | 2 => 32 | 3 => 8 | _ => 1

/-- The domain of a level that contains another level's domain `ix`. -/
def domUp (from_ lvl ix : Nat) : Nat := ix / (domCount from_ / domCount lvl)

/-- The level of a scope, for the scopes that lie in dies. -/
def scopeLevel (scope : Nat) : Option Nat :=
  match scope with | 1 => some 3 | 2 => some 2 | 3 => some 1 | 4 => some 0 | _ => none

/-- A scope and an index name a place of the module (R423): the module, a die, region, cluster, unit, hub, port,
channel, queue or EID. -/
def placeOk (scope index : Nat) : Bool :=
  decide (index < [1, 8, 32, 192, 768, 2, 24, 512, 262144, 65536].getD scope 0)

/-- The domain of level `lvl` that contains the place of a scope and an index. -/
def domainAt (lvl scope index : Nat) : Option Nat :=
  if lvl = 4 then some 0
  else if scope = 7 then (if lvl = 3 then some (index / 64) else none)
  else match scopeLevel scope with
    | some l => if l ≤ lvl ∧ index < domCount l then some (domUp l lvl index) else none
    | none => none

/-- Level of the handler of an error (R517, R565); halts are handled by their own unit or cluster. -/
def errLevel (e : Err) : Nat :=
  if e.cls = 3 then (if e.scope = 4 then 0 else 1)
  else if e.code = 0x0606 ∧ e.scope = 5 then 4
  else (errInfo e.code).2

/-- Type word 2 of an ERROR event or record (R529). -/
def errWord2 (e : Err) (lvl count : Nat) (disc : Bool) : W64 :=
  let b := fun (x : Bool) n => if x then 2 ^ n else 0
  BitVec.ofNat 64 (e.code * 2 ^ 48 + lvl * 2 ^ 45 + b e.esc 44 + b e.defer 43 + b e.inj 42 + b disc 41 + count % 2 ^ 32)

namespace State

/-! ### Handlers (R518, R530, R531) -/

def hnd (s : State) (lvl ix : Nat) : HandlerSt := smGet {} s.handlers (lvl * 1000 + ix)
def setHnd (s : State) (lvl ix : Nat) (h : HandlerSt) : State :=
  { s with handlers := smSet {} s.handlers (lvl * 1000 + ix) h }

/-- EH_STAT of a handler; an absent logical unit or cluster has none. -/
def rEh (s : State) (lvl ix : Nat) : Option Nat :=
  match lvl with
  | 0 => (s.physUnit ix).map fun pu => rUnit pu 0x80
  | 1 => (s.physClu ix).map fun pc => rClu pc 0x28
  | 2 => some (rRgn ix 0x10)
  | 3 => some (rDie ix 0x20)
  | _ => some 0x50

/-- A change of a handler's EH_STAT. -/
def updEh (s : State) (lvl ix : Nat) (f : State → Nat → State) : State :=
  match s.rEh lvl ix with
  | some a => f s a
  | none => s

/-- BUSY and PEND follow the handler. -/
def showEh (s : State) (lvl ix : Nat) : State :=
  let h := s.hnd lvl ix
  s.updEh lvl ix fun s a => (s.setRegF a 4 4 (if h.cur.isSome then 1 else 0)).setRegF a 2 0 h.q.length

/-- PKG_ERR_CNT (R531). -/
def countErr (s : State) (cls : Nat) : State :=
  match cls with
  | 1 => s.bump 0x40 63 40 1
  | 2 => s.bump 0x40 39 24 1
  | 3 => s.bump 0x40 23 8 1
  | 4 => s.bump 0x40 7 0 1
  | _ => s

/-- The Almanac record of an error; one of a halt carries the words of its event. -/
def errRecord (s : State) (e : Err) (lvl count : Nat) (disc : Bool) : State :=
  if e.cls = 3 then s.record 1 3 e.reason e.scope e.index e.w2 e.w3
  else s.record 2 e.cls 0 e.scope e.index (errWord2 e lvl count disc) e.detail

/-- An error of a dead domain: a record, no event (R523). -/
def discardErr (s : State) (e : Err) : State := (s.countErr e.cls).errRecord e (errLevel e) 1 true

/-- The handlers of a domain and of every domain within it fall silent; what they hold and what is on its
way from them is discarded (R523). -/
def silence (s : State) (lvl ix : Nat) : State :=
  let doms := (List.range (lvl + 1)).flatMap fun l =>
    let n := domCount l / domCount lvl
    (List.range n).map fun i => (l, ix * n + i)
  let s := doms.foldl (fun s d =>
    let h := s.hnd d.1 d.2
    let s := s.setHnd d.1 d.2 { dead := true }
    let s := s.showEh d.1 d.2
    (h.cur.toList ++ h.q).foldl (fun s e => s.discardErr e) s) s
  let inside := fun (e : Err) => decide (errLevel e ≤ lvl) && domainAt lvl e.scope e.index == some ix
  let gone := s.errFlight.filter inside
  let s := { s with errFlight := s.errFlight.filter fun e => !inside e }
  gone.foldl (fun s e => s.discardErr e) s

/-- The handlers of a logical cluster that the spare now stands for. -/
def revive (s : State) (c : Nat) : State :=
  (List.range 4).foldl (fun s u => (s.setHnd 0 (4 * c + u) {}).showEh 0 (4 * c + u)) ((s.setHnd 1 c {}).showEh 1 c)

/-! ### Fit signature and class (R17, R172, R602) -/

/-- The six widths of a physical unit. -/
def widths (s : State) (pu : Nat) : List Nat := (List.range 6).map fun a => s.regF (rUnit pu 0) (7 * a + 6) (7 * a)

/-- The byte string S of R172. -/
def fitBytes (s : State) : List Nat :=
  [hbmGiB % 256, hbmGiB / 256] ++ (List.range 768).flatMap fun u =>
    match s.physUnit u with
    | some pu => s.widths pu
    | none => List.replicate 6 0

/-- FNV-1a 64. -/
def fnv (bs : List Nat) : W64 :=
  bs.foldl (fun h b => (h ^^^ BitVec.ofNat 64 b) * 0x100000001B3#64) 0xCBF29CE484222325#64

/-- 0 A, 1 N, 2 incomplete. -/
def classOf (s : State) : Nat :=
  let us := (List.range 768).map s.physUnit
  if us.any Option.isNone then 2
  else if us.any fun u => match u with
    | some pu => (s.widths pu).any fun w => decide (w < 64)
    | none => false then 1
  else 0

/-- PKG_ID0 and PKG_ID1 recomputed, once every die has reported ready or failed (R602).  The first value of
FIT is no change of it. -/
def publish (s : State) : State :=
  let seen := (List.range 8).all fun d => s.isReady (8 + d) || s.bit 0x20 (8 + d)
  if !seen && s.reg 8 == 0#64 then s
  else
    let f := fnv s.fitBytes
    let s := s.setRegF 0 15 8 s.classOf
    if f = s.reg 8 then s
    else if s.reg 8 = 0#64 then s.setReg 8 f
    else (s.setReg 8 f).bump 0 7 0 1

/-! ### Column tests and self-test (R14, R61 to R66) -/

/-- UNIT_COLFAULT0 to 5, FAULT_HI and RUNS of a finished column test. -/
def setFaults (s : State) (pu : Nat) (f : List (BitVec 66)) : State :=
  let s := (List.range 6).foldl (fun s a => s.setReg (rUnit pu (0x10 + 8 * a)) ((f.getD a 0#66).setWidth 64)) s
  let hi := ((List.range 6).map fun a => (f.getD a 0#66).toNat / 2 ^ 64 * 2 ^ (2 * a)).foldl (· + ·) 0
  (s.setRegF (rUnit pu 8) 19 8 hi).bump (rUnit pu 8) 39 32 1

/-- The self-test of a die: its column tests, the assignment of its clusters and their widths.  A cluster
that has been declared dead stays dead. -/
def selfTest (s : State) (d : Nat) (t : SelfTest) : State :=
  let ws := fun (i : Nat) => (List.range 4).map fun u => widthsOf (t.colFaults.getD (4 * i + u) [])
  let s := (List.range 112).foldl (fun s i =>
    let f := t.colFaults.getD i []
    (s.setFaults (112 * d + i) f).setReg (rUnit (112 * d + i) 0) (capWord (widthsOf f))) s
  (List.range 4).foldl (fun s g =>
    let r := 4 * d + g
    let ok := (List.range 7).filter fun p =>
      let i := 7 * g + p
      t.clusterOk.getD i false && !smGet false s.deadClus (28 * d + i) &&
        (ws i).all fun x => x.all fun w => decide (56 ≤ w)
    let full := fun (p : Nat) => (ws (7 * g + p)).all fun x => x.all (· == 64)
    let log := ((ok.filter full) ++ ok.filter fun p => !full p).take 6
    let spare := (ok.filter fun p => !log.contains p).headD 7
    let map := ((List.range 6).map fun c => log.getD c 7 * 2 ^ (3 * c)).foldl (· + ·) 0
    let mask := (ok.map fun p => 2 ^ p).foldl (· + ·) 0
    s.setReg (rRgn r 0) (BitVec.ofNat 64
      (s.regF (rRgn r 0) 39 32 * 2 ^ 32 + spare * 2 ^ 25 + mask * 2 ^ 18 + map))) s

/-! ### A cluster declared dead (R15, R470) -/

/-- The physical cluster's state is lost; the units and the control core start empty. -/
def emptyCluster (s : State) (pc : Nat) : State :=
  let s := (List.range 4).foldl (fun s u =>
    let pu := 4 * pc + u
    let s := if s.runsChain pu then s.sendAbort (s.logUnit pu) else s
    let s := [0x58, 0x100, 0x108, 0x110, 0x118].foldl (fun s o => s.setReg (rUnit pu o) 0#64) s
    -- a column test that runs on the unit ends with it
    (s.clrBit (rUnit pu 8) 1).setUnit pu {}) s
  let s := (List.range 256).foldl (fun s i => s.setReg (rClu pc (0x1000 + 8 * i)) 0#64) s
  ((s.setReg (rClu pc 0) 0#64).setReg (rClu pc 0x10) 0#64).setClu pc {}

/-- The program of a dead physical cluster has ended; `q` stands for its logical cluster now. -/
def endDead (s : State) (pc : Nat) (q : Option Nat) : State :=
  match s.running with
  | none => s
  | some l =>
    if !l.contains pc then s
    else
      let new := q.getD pc
      let s := { s with running := some (l.map fun x => if x = pc then new else x) }
      let e := match (s.clu pc).ended with | some r => r | none => 0x0E
      (s.updClu new fun c => { c with ended := some e }).endCheck

/-- Logical cluster `c` is declared dead: its generation advances, the region's spare stands for it, or it
becomes absent.  `spare` says that no lower-numbered one of the same handling needs the spare (R15). -/
def declareDead (s : State) (c : Nat) (spare : Bool := true) : State :=
  match s.physClu c with
  | none => s
  | some pc =>
    let r := c / 6
    let i := c % 6
    let gen := (s.rgnGen c + 1) % 256
    let left := s.regF (rRgn r 0) 27 25
    let sp := if spare then left else 7
    let q := if sp = 7 then none else some (7 * r + sp)
    let ended := (s.clu pc).ended
    let s := s.silence 1 c
    let s := s.setRegF (rRgn r 8) (8 * i + 7) (8 * i) gen
    let s := s.emptyCluster pc
    let s := match q with | some q => (s.emptyCluster q).setRegF (rClu q 0x20) 7 0 gen | none => s
    let s := s.updClu pc fun x => { x with ended := ended }
    let s := s.setRegF (rRgn r 0) (3 * i + 2) (3 * i) sp
    let s := if spare then s.setRegF (rRgn r 0) 27 25 7 else s
    let s := s.setRegF (rRgn r 0) (18 + pc % 7) (18 + pc % 7) 0
    let s := s.bump (rRgn r 0) 39 32 1
    let s := { s with deadClus := smSet false s.deadClus pc true }
    let s := if q.isSome then s.revive c else s
    (s.endDead pc q).closeFaults.publish

/-- CLUSTER_DEAD of a logical cluster, before it is declared: the physical cluster in DETAIL. -/
def clusterDeadErr (s : State) (c : Nat) : Err :=
  mkErr 0x0201 3 c (BitVec.ofNat 64 (((s.physClu c).getD 0) % 7 * 256))

/-! ### A region, a die or hub 1 lost (R30, R31, R310, R311) -/

/-- Every physical cluster of a region is gone; `dead`: they are declared dead (R485). -/
def loseClusters (s : State) (r : Nat) (dead : Bool := true) : State :=
  let s := (List.range 7).foldl (fun s p =>
    let pc := 7 * r + p
    let ended := (s.clu pc).ended
    let s := s.emptyCluster pc
    let s := if dead then { s with deadClus := smSet false s.deadClus pc true } else s
    (s.updClu pc fun x => { x with ended := ended }).endDead pc none) s
  let seq := s.regF (rRgn r 0) 39 32 + 1
  (s.setReg (rRgn r 0) (BitVec.ofNat 64 (seq % 256 * 2 ^ 32 + 7 * 2 ^ 25 + 0x3FFFF))).closeFaults

/-- Every sector of a channel poisoned. -/
def poisonChan (s : State) (ch : Nat) : State :=
  { s with chanPoison := smSetL false s.chanPoison (ch * 2 ^ 26) (List.replicate (cch / 32) true) }

/-- The sectors of a held write poisoned. -/
def poisonWait (s : State) (w : Wait) : State :=
  if reqWrites s w.req then
    ((List.range 4).filter fun i => decide (w.lo < 32 * i + 32) && decide (32 * i < w.lo + w.n)).foldl (fun s i =>
      let off := w.line * 128 + 32 * i
      s.putSector w.ch off (s.getSector w.ch off).1 true) s
  else s

/-- A region is lost: its clusters are gone, its slice stops, its dirty lines or all its channels are
poisoned (R310). -/
def loseRegion (s : State) (r : Nat) (readable : Bool) : State :=
  if smGet false s.lostRegions r then s
  else
    let s := (s.silence 2 r).loseClusters r
    let sl := s.slice r
    let s := s.setSlice r { lost := true }
    let s := if readable then
        (sl.lines.filter (·.dirty)).foldl (fun s l => s.writeBack { l with poison := List.replicate 4 true }) s
      else (List.range 16).foldl (fun s i => s.poisonChan (64 * (r / 4) + 16 * (r % 4) + i)) s
    let s := (sl.held ++ sl.fills).foldl (fun s w => s.poisonWait w) s
    let s := s.setReg (rMsc r 0) 0#64
    ({ s with lostRegions := smSet false s.lostRegions r true }).publish

/-- A piece of a request comes from outside a die. -/
def foreign (d : Nat) (w : Wait) : Bool :=
  match w.req with
  | .stream u _ _ _ => dieOfUnit u.val != d
  | _ => true

/-- A compute die is lost with its units, its update engine, its slices and its channels (R31, R311).  What
waits at its slices for units of other dies is answered as later requests are. -/
def loseDie (s : State) (d : Nat) : State :=
  if smGet false s.lostDies d then s
  else
    let s := s.silence 3 d
    let ws := (List.range 4).flatMap fun g =>
      let sl := s.slice (4 * d + g)
      (sl.held ++ sl.fills).filter (foreign d)
    let s := (List.range 4).foldl (fun s g =>
      ((s.loseClusters (4 * d + g)).setSlice (4 * d + g) {}).setReg (rMsc (4 * d + g) 0) 0#64) s
    let s := s.setTgt (1 + d) { s.tgt (1 + d) with job := none }
    let w := setFld (setFld (s.reg 0x18) (8 + d) (8 + d) 0) (17 + 2 * d) (16 + 2 * d) 0
    let s := ({ s with lostDies := smSet false s.lostDies d true }.setReadyWord w).publish
    ws.foldl (fun s w => s.serve w) s

/-- Hub 1 is lost with its engines, its ports, Harvest and the way to the flash (R30).  The module is lost to the
job: as in R29 every unit goes, and no update, transfer or collective job continues (R516).  HBM, BAR4, the
host interface, management and the ports of hub 0 stay. -/
def loseHub1 (s : State) : State :=
  if s.hub1Lost then s
  else
    let s := ((List.range 32).foldl (fun s r => s.loseClusters r false) s).publish
    let s := (List.range 14).foldl (fun s k => s.setTgt (1 + k) { s.tgt (1 + k) with job := none }) s
    let s := (List.range 12).foldl (fun s i => (s.setPort (12 + i) {}).setLnk (12 + i) 0) s
    let s := (List.range 4).foldl (fun s e => s.setCle e {}) s
    let s := s.setFlash fun f => { f with gens := f.gens.map fun g => { g with run := false } }
    let s := s.updFab fun f => { f with
      inject := f.inject.filter fun x => x.2 != 1, held := f.held.filter fun x => x.1 % 2 == 0 }
    let w := setFld (setFld (s.reg 0x18) 4 3 0) 55 44 0
    { s with hjob := none, hub1Lost := true, fatal := true }.setReadyWord w

end State

end Sys2Proof.Machine
end

