-- ==== Sys2Proof/Machine/Errors.lean ====
section
/-!
DEFINITION. Error handling (chapter 17): arrival, queues and escalation, handling and reports, strikes,
injection; the Almanac's mirror and restore; the time base.
-/

namespace Sys2Proof.Machine

namespace State

/-! ### Delivery (R519 to R521, R523) -/

/-- The error comes from a domain that has been declared dead: one at or above the level that handles it.  An
error that a level above raises about a dead domain, its loss or a write to it, is none from that domain. -/
def fromDead (s : State) (e : Err) : Bool :=
  (List.range 4).any fun l => decide (errLevel e ≤ l) && match domainAt l e.scope e.index with
    | some ix => (s.hnd l ix).dead
    | none => false

/-- An error at the handler of a level, and from there up while queues are full; `n` levels at most. -/
def arriveAt : Nat → State → Nat → Err → State
  | 0, s, _, _ => s
  | n + 1, s, lvl, e =>
    match domainAt lvl e.scope e.index with
    | none => s
    | some ix =>
      let h := s.hnd lvl ix
      if h.cur.isNone then (s.setHnd lvl ix { h with cur := some e }).showEh lvl ix
      else if h.q.length < 4 then (s.setHnd lvl ix { h with q := h.q ++ [e] }).showEh lvl ix
      else
        let s := s.updEh lvl ix fun s a => s.bump a 23 16 1
        let e := { e with esc := true }
        if lvl = 4 then (s.countErr e.cls).errRecord e 4 1 false
        else
          let s := match domainAt (lvl + 1) e.scope e.index with
            | some up => s.updEh (lvl + 1) up fun s a => s.bump a 39 24 1
            | none => s
          arriveAt n s (lvl + 1) e

/-- An error reaches the handler of its level; one from a dead domain is discarded. -/
def deliverErr (s : State) (e : Err) : State :=
  if s.fromDead e then s.discardErr e else arriveAt 5 s (errLevel e) e

/-! ### The whole module lost (R29) -/

/-- Registers of the always-on domain, which a loss under R29 leaves: PKG_FAIL, PKG_BOOT, PKG_ERR_CNT, CLK_STAT,
and the Almanac's. -/
def alwaysOn (k : Nat) : Bool :=
  k == 0x20 || k == 0x28 || k == 0x40 || k == 0x50 || k == 0x10000 || k == 0x40000 || k == 0x40008

/-- The module is lost to the job: every unit, the contents of HBM and PCIe access are gone.  The
always-on domain, the Almanac, the flash and what the MMC keeps stay (R29, R577). -/
def loseModule (s : State) : State :=
  { pending := s.pending, ctr := s.ctr, out := s.out, hostMem := s.hostMem
    regs := s.regs.filter fun x => alwaysOn x.1
    almanac := s.almanac, almStage := s.almStage, flash := s.flash, mmc := s.mmc
    pwr := { perst := s.pwr.perst, off := s.pwr.off }, fatal := true, modLost := true }

/-- A record that is written only if the always-on domain lives long enough: a free bit decides (R517). -/
def fatalRecord (s : State) (e : Err) : State :=
  let f := s.freeWord
  if f.1.getLsbD 0 then f.2.errRecord e 4 1 false else f.2

/-- An error whose raising rule is R29. -/
def isFatal29 (e : Err) : Bool :=
  e.code == 0x0507 || e.code == 0x0508 || e.code == 0x0509 || (e.code == 0x0602 && e.scope == 5 && e.index == 0)

/-- What a block does by itself with the fault that it detects: a word or sector whose check fails is poisoned
(R298, R299); a controller counts a corrected sector, counts and marks an uncorrectable one (R281). -/
def detected (s : State) (e : Err) : State :=
  let ch := fld e.detail 40 32
  let off := fld e.detail 31 0 / 32 * 32
  if e.code = 0x0102 then
    match s.physUnit e.index with
    | some pu => s.updUnit pu fun u => { u with
        tpoison := smSet false u.tpoison (fld e.detail 9 0 * 64 + fld e.detail 21 16) true }
    | none => s
  else if 512 ≤ ch ∨ cch ≤ off then s
  else if e.code = 0x0301 then s.poisonSector ch off
  else if e.code = 0x0401 then s.bump (rChan ch 0) 23 0 1
  else if e.code = 0x0402 then s.markUe ch off
  else s

/-- The bits of DETAIL that R517 and R565 name for a code; the others are 0. -/
def detailBits (code : Nat) : W64 :=
  BitVec.ofNat 64 <| match code with
  | 0x0101 => 0x7FF0000007F
  | 0x0102 => 0x3F03FF
  | 0x0103 => 2 ^ 42 - 1
  | 0x0201 => 0x7FF
  | 0x0301 | 0x0401 | 0x0402 => 0x1FF7FFFFFFF
  | 0x0302 => 1
  | 0x0403 => 0x1FF0000000F
  | 0x0404 | 0x0406 => 0x1FF00000000
  | 0x0405 => 0xFF
  | 0x0501 => 0xF1F
  | 0x0502 => 0xFFFFFFFFFF1F0003
  | 0x0503 => 0xFFFF0000001F0000
  | 0x0504 => 0x3F
  | 0x0508 => 0xFFFFFFFFFFFF0007
  | 0x0505 | 0x0506 | 0x0509 => 0
  | 0x0601 => 0x1F0FFF
  | 0x0602 => 0x1FF001F0FFF
  | 0x0603 => 0xFFFF
  | 0x0606 => 0xFFFFFFFF7FFF01FF
  | _ => 2 ^ 64 - 1

/-- An error of R517 or R565 by its code, place and DETAIL, as the block that detects it raises it. -/
def knownErr (e : Err) : Option Err :=
  if (errInfo e.code).1 = 0 || !placeOk e.scope e.index then none
  else
    let x := mkErr e.code e.scope e.index (e.detail &&& detailBits e.code)
    let x := if e.code = 0x0602 ∧ e.scope = 5 then { x with cls := 5 } else x
    if (domainAt (errLevel x) x.scope x.index).isNone then none else some x

/-- The check of a word or sector that is poisoned already: its error has been raised, unless a squash has
discarded it, so nothing is raised again (R524, R525). -/
def raisedBefore (s : State) (e : Err) : Bool :=
  let ch := fld e.detail 40 32
  let off := fld e.detail 31 0 / 32 * 32
  if e.code = 0x0102 then
    match s.physUnit e.index with
    | some pu => smGet false (s.unit pu).tpoison (errWord e) && !smGet false (s.unit pu).unseen (errWord e)
    | none => false
  else if e.code = 0x0301 ∨ e.code = 0x0402 then
    decide (ch < 512) && decide (off < cch) && !s.undetected ch off &&
      ((s.getSector ch off).2 || (e.code == 0x0301 && match (s.slice (sliceOf ch)).find ch (off / 128) with
        | some l => l.poison.getD (off % 128 / 32) false
        | none => false))
  else false

/-- The error of a poisoned word or sector is seen now. -/
def seeNow (s : State) (e : Err) : State :=
  if e.code = 0x0102 then
    match s.physUnit e.index with
    | some pu => s.updUnit pu fun u => { u with unseen := smSet false u.unseen (errWord e) false }
    | none => s
  else if e.code = 0x0301 ∨ e.code = 0x0402 then s.detectNow (fld e.detail 40 32) (fld e.detail 31 0 / 32 * 32)
  else s

/-- A detected error reaches its handler.  A check that fails in a read of speculative work is held until that
work is confirmed (R230, R524). -/
def detectErr (s : State) (defer : Bool) (e : Err) : State :=
  let s := (s.detected e).seeNow e
  match if e.code = 0x0102 && defer then s.physUnit e.index else none with
  | some pu => if (s.unit pu).speculates then s.raiseSpec pu true e else s.deliverErr e
  | none => s.deliverErr e

/-- ERROR_ARRIVAL (R519): the `i`-th error in flight, or one that a block detects by itself. -/
def fxErrorArrival (s : State) (a : Nat ⊕ Err) : State :=
  match a with
  | .inl i =>
    match s.errFlight[i]? with
    | none => s
    | some e => State.deliverErr { s with errFlight := s.errFlight.eraseIdx i } e
  | .inr e =>
    match knownErr e with
    | none => s
    | some x =>
      if isFatal29 x then (s.fatalRecord x).loseModule
      else if s.raisedBefore x then s
      else s.detectErr e.defer x

/-! ### Handling and reports (R518, R527 to R529) -/

/-- The action of the rule that raised an error, and the error with its DETAIL filled in. -/
def errAction (s : State) (e : Err) : State × Err :=
  if e.inj then (s, e)
  else match e.code with
  | 0x0201 =>
    let p := fld e.detail 10 8
    if s.physClu e.index = some (e.index / 6 * 7 + p) then
      -- R15: the spare goes to the lowest of the clusters that the region's handler declares dead
      let first := !((s.hnd 2 (e.index / 6)).q.any fun x => x.code == 0x0201 && !x.inj && decide (x.index < e.index) &&
        s.physClu x.index == some (x.index / 6 * 7 + fld x.detail 10 8))
      let spare := first && s.regF (rRgn (e.index / 6) 0) 27 25 != 7
      let s := s.declareDead e.index first
      (s, { e with detail := setFld e.detail 7 0 (if spare then s.rgnGen e.index else 0xFF) })
    else (s, e)
  | 0x0302 => (s.loseRegion e.index (e.detail.getLsbD 0), e)
  | 0x0405 => (s.loseDie e.index, e)
  | 0x0506 => (s.loseHub1, e)
  | 0x0602 => (if e.scope = 1 then s.loseDie e.index else s.loseHub1, e)
  | _ => (s, e)

/-- The event and the PLDM message of a report (R527, R583). -/
def errEvent (s : State) (e : Err) (lvl count alm : Nat) : State :=
  let v : Evt := { type := if e.cls = 3 then 1 else 2, cls := e.cls, reason := e.reason, scope := e.scope,
                   index := e.index, alm := alm
                   w2 := if e.cls = 3 then e.w2 else errWord2 e lvl count false
                   w3 := if e.cls = 3 then e.w3 else e.detail
                   w4 := e.w4
                   -- the unit that a chain abort names (R137), in the word that R424 leaves free
                   w5 := if e.cls = 3 then e.detail else 0#64 }
  let s := { s with evtFlight := s.evtFlight ++ [v] }
  s.updMmc fun m => { m with events := (if m.events.length = 64 then m.events.drop 1 else m.events) ++ [v] }

/-- A report: the record, the event and the PLDM message. -/
def report (s : State) (e : Err) (lvl count : Nat) : State :=
  let alm := s.nextAlm
  (s.errRecord e lvl count false).errEvent e lvl count alm

/-- CORRECTED errors and LOST_DIE_WRITE are reported at a limited rate. -/
def limited (e : Err) : Bool := e.cls == 1 || e.code == 0x0406

/-- The report of a handled error under R528. -/
def reportLimited (s : State) (e : Err) (lvl ix : Nat) : State :=
  if !limited e then s.report e lvl 1
  else
    let same := fun (r : RateRec) => r.lvl == lvl && r.ix == ix && r.code == e.code
    if s.rates.any same then
      { s with rates := s.rates.map fun r => if same r then { r with n := r.n + 1, last := e } else r }
    else State.report { s with rates := s.rates ++ [{ lvl := lvl, ix := ix, code := e.code, last := e }] } e lvl 1

/-- ERROR_HANDLING_END (R518): action, record, event; the next queued error is taken. -/
def fxErrorHandlingEnd (s : State) (lvl ix : Nat) : State :=
  match (s.hnd lvl ix).cur with
  | none => s
  | some e =>
    let x := s.errAction e
    let s := (x.1.countErr x.2.cls).updEh lvl ix fun s a => s.bump a 63 40 1
    let s := s.reportLimited x.2 lvl ix
    let h := s.hnd lvl ix
    (s.setHnd lvl ix { h with cur := h.q.head?, q := h.q.drop 1 }).showEh lvl ix

/-- RATE_LIMIT_REPORT (R528): one second after a report. -/
def fxRateLimitReport (s : State) (lvl ix code : Nat) : State :=
  let same := fun (r : RateRec) => r.lvl == lvl && r.ix == ix && r.code == code
  match s.rates.find? same with
  | none => s
  | some r =>
    if r.n = 0 then { s with rates := s.rates.filter fun x => !same x }
    else State.report { s with rates := s.rates.map fun x => if same x then { x with n := 0 } else x } r.last lvl r.n

/-! ### Strikes (R522) -/

/-- The domain loss that the handler above carries for a struck handler. -/
def strikeErr (s : State) (lvl ix : Nat) : State × Err :=
  match lvl with
  | 0 => (s, s.clusterDeadErr (ix / 4))
  | 1 => (s, s.clusterDeadErr ix)
  | 2 =>
    -- whether the slice's tags are still readable is the world's
    let f := s.freeWord
    (f.2, mkErr 0x0302 2 ix (BitVec.ofNat 64 (f.1.toNat % 2)))
  | _ => (s, mkErr 0x0405 1 ix (BitVec.ofNat 64 (s.regF 0x10000 47 40)))

/-- HANDLER_STRIKE (R522): the striking error, the one being handled when its time is over or else the one
detected in the handler's own resources, is recorded with ESC = 1; the handler above declares the domain dead and
carries the loss.  What the handler had before it is discarded with the domain (R523). -/
def fxHandlerStrike (s : State) (lvl : Nat) (x : Strike) : State :=
  let ix := x.index
  if domCount lvl ≤ ix || (s.hnd lvl ix).dead then s
  else
    let h := s.hnd lvl ix
    let s := s.updEh lvl ix fun s a => s.bump a 15 8 1
    let s := match (match x.own with | some e => knownErr e | none => h.cur) with
      | some e => s.errRecord { e with esc := true } lvl 1 false
      | none => s
    if lvl = 4 then
      let e := { mkErr 0x0509 5 0 0#64 with esc := true }
      (s.fatalRecord e).loseModule
    else
      let s := s.setHnd lvl ix { h with cur := if x.own.isSome then h.cur else none }
      let s := s.updEh (lvl + 1) (domUp lvl (lvl + 1) ix) fun s a => s.bump a 39 24 1
      let x := s.strikeErr lvl ix
      let e := { x.2 with esc := true }
      let dead := if lvl = 0 then 1 else lvl
      let s := x.1.silence dead (domUp lvl dead ix)
      arriveAt 5 s (errLevel e) e

/-! ### Injection (R532) -/

/-- PKG_ERR_INJ (R532). -/
def fxPkgErrInj (s : State) (v : W64) : State :=
  let e := { mkErr (fld v 63 48) (fld v 47 40) (fld v 39 20) 0#64 with inj := true }
  if !(e.cls == 1 || e.cls == 2) || s.bit 0x38 0 || s.program.isSome ||
      !placeOk e.scope e.index || (domainAt (errLevel e) e.scope e.index).isNone then s
  else s.deliverErr e

/-! ### The Almanac's copies (R542, R543) -/

/-- The Almanac written to the copy whose turn it is (R542); a write that the hold-up bank does not carry to its
end leaves a copy whose CRC does not hold. -/
def mirror (s : State) (whole : Bool := true) : State :=
  let n := s.regF rAlm 60 44
  let c : AlmCopy := { recs := (List.range n).map fun i => smGet [] s.almanac i, clears := s.regF rAlm 10 0, sound := whole }
  let s := s.setFlash fun f => if f.last5 then { f with copy4 := c, last5 := false } else { f with copy5 := c, last5 := true }
  if whole then s.setRegF rAlm 43 27 n else s

/-- ALMANAC_MIRROR (R542). -/
def fxAlmanacMirror (s : State) : State :=
  if !s.isReady 4 || s.hub1Lost || s.bit rAlm 62 then s else s.mirror

/-- ALMANAC_RESTORE (R543): once FLASH is set, the newer copy whose CRC holds and then the staged records; with
neither, the Almanac starts empty. -/
def fxAlmanacRestore (s : State) : State :=
  if !s.isReady 4 || !s.bit rAlm 62 then s
  else
    let c := s.flash.newest
    let m := (c.map (·.recs)).getD []
    let staged := s.almStage
    let s := { s with almanac := smSetL [] [] 0 m, almStage := [] }
    let s := (s.setRegF rAlm 60 44 m.length).setRegF rAlm 43 27 m.length
    let s := s.setRegF rAlm 10 0 ((c.map (·.clears)).getD 0)
    let s := if m.length = 65536 then s.setBit rAlm 63 else s
    let s := if s.flash.short || c.isNone then (s.setBit rAlm 61).setFlash fun f => { f with short := false } else s
    staged.foldl (fun s r => s.putRecords r) (s.clrBit rAlm 62)

/-! ### The time base (R514) -/

/-- PWR_STRETCH: the field of a die. -/
def stretchOf (s : State) (d : Nat) : Nat := s.regF 0x10118 (4 * d + 3) (4 * d)

/-- OPSEC_TICK (R514): a second; THR_S of stretched dies advances (R558), an hour ends the count of R304. -/
def fxOpsecTick (s : State) : State :=
  if s.pwr.off then s
  else
    let s := s.bump 0x40000 47 16 1
    let s := (List.range 8).foldl (fun s d =>
      if s.stretchOf d ≠ 0 then s.bump (rDie d 0x30) 15 0 1 else s) s
    if s.regF 0x40000 47 16 % 3600 = 0 then
      s.chans.foldl (fun s x => s.updChan x.1 fun c => { c with ueHour := 0 }) s
    else s

/-- The counts saved to the boot flash. -/
def saveTime (s : State) : State := s.updMmc fun m => { m with savedTime := setFld (s.reg 0x40000) 15 0 0 }

/-- TIME_BASE_SAVE (R514). -/
def fxTimeBaseSave (s : State) : State := if s.isReady 0 then s.saveTime else s

end State

/-! ### The meanings of the commands -/

/-- ERROR_ARRIVAL (R519). -/
def execErrorArrival (e : Nat ⊕ Err) (s : State) : Host.Outcome State Fault Refusal :=
  .next (s.fxErrorArrival e)

/-- ERROR_HANDLING_END (R518). -/
def execErrorHandlingEnd (lvl : Fin 5) (ix : Nat) (s : State) : Host.Outcome State Fault Refusal :=
  .next (s.fxErrorHandlingEnd lvl.val ix)

/-- HANDLER_STRIKE (R522). -/
def execHandlerStrike (lvl : Fin 5) (x : Strike) (s : State) : Host.Outcome State Fault Refusal :=
  .next (s.fxHandlerStrike lvl.val x)

/-- RATE_LIMIT_REPORT (R528). -/
def execRateLimitReport (lvl : Fin 5) (ix : Nat) (code : BitVec 16) (s : State) : Host.Outcome State Fault Refusal :=
  .next (s.fxRateLimitReport lvl.val ix code.toNat)

/-- PKG_ERR_INJ (R532). -/
def execPkgErrInj (v : W64) (s : State) : Host.Outcome State Fault Refusal :=
  .next (s.fxPkgErrInj v)

/-- ALMANAC_MIRROR (R542). -/
def execAlmanacMirror (s : State) : Host.Outcome State Fault Refusal :=
  .next (s.fxAlmanacMirror)

/-- ALMANAC_RESTORE (R543). -/
def execAlmanacRestore (s : State) : Host.Outcome State Fault Refusal :=
  .next (s.fxAlmanacRestore)

/-- OPSEC_TICK (R514). -/
def execOpsecTick (s : State) : Host.Outcome State Fault Refusal :=
  .next (s.fxOpsecTick)

/-- TIME_BASE_SAVE (R514). -/
def execTimeBaseSave (s : State) : Host.Outcome State Fault Refusal :=
  .next (s.fxTimeBaseSave)

end Sys2Proof.Machine
end

