-- ==== Sys2Proof/Machine/Power.lean ====
section
/-!
DEFINITION. Resets, secure boot and bring-up, clocks, operating points, power states and the keep store
(chapter 16).
-/

namespace Sys2Proof.Machine

/-- Nominal core voltage of an operating point in mV (R497). -/
def nominalMv (p : Nat) : Nat :=
  match p with | 0 => 750 | 1 => 680 | 2 => 630 | 3 => 580 | _ => 550

namespace State

/-! ### Operating points (R497 to R501, R563) -/

def rOp (d : Nat) : Nat := 0x10200 + 8 * d
def fCur (s : State) (d : Nat) : Nat := s.regF (rOp d) 44 42
def vCur (s : State) (d : Nat) : Nat := s.regF (rOp d) 41 39
def opBusy (s : State) (d : Nat) : Bool := s.bit (rOp d) 47

/-- MON_MARGIN: the offset of a point in steps, and its EXHAUSTED bit. -/
def marginOff (s : State) (d p : Nat) : Nat := s.regF (rDie d 0x38) (4 * p + 3) (4 * p)
def exhausted (s : State) (d p : Nat) : Bool := s.bit (rDie d 0x38) (20 + p)

/-- The voltage setpoint of a point (R497). -/
def setVmv (s : State) (d p : Nat) : State := s.setRegF (rOp d) 27 16 (nominalMv p + 5 * s.marginOff d p)

def setF (s : State) (d p : Nat) : State := s.setRegF (rOp d) 44 42 p
def setV (s : State) (d p : Nat) : State := (s.setRegF (rOp d) 41 39 p).setVmv d p

/-- A refused request. -/
def opRefuse (s : State) (d : Nat) : State := s.bump (rOp d) 63 48 1

/-- A die that is present: its DIE bit is set. -/
def dieUp (s : State) (d : Nat) : Bool := s.isReady (8 + d)

/-- The loaded slot map has chain records that cross dies: an incoming chain row (agent 0x016) at the first
unit of a die (R209). -/
def crossDie (s : State) : Bool :=
  s.program.isSome && s.slotMap.units.any fun x =>
    x.1 % 96 == 0 && x.1 != 0 && x.2.any fun r => r.port / 4096 == 2 && r.owner % 8192 == 0x16

/-- The dies that a frequency or TARGET request to die `d` applies to (R500). -/
def opGroup (s : State) (d : Nat) : List Nat := if s.crossDie then (List.range 8).filter s.dieUp else [d]

/-- More than one of T_WR, F_WR and V_WR. -/
def opMixed (v : W64) : Bool := decide (1 < fld v 11 11 + fld v 7 7 + fld v 3 3)

/-- A write of PWR_OPd that is refused whatever it requests: more than one of T_WR, F_WR and V_WR, or a point
above 4 in any of its fields (R501). -/
def opBad (v : W64) : Bool :=
  opMixed v || decide (4 < fld v 10 8) || decide (4 < fld v 6 4) || decide (4 < fld v 2 0)

/-- The voltage of a die slews to a point; the frequencies of the dies `ds` of a TARGET request follow. -/
def slew (s : State) (d p : Nat) (ds : List Nat) : State :=
  let s := (s.setBit (rOp d) 47).setVmv d p
  s.updPwr fun w => { w with goal := smSet none w.goal d (some (p, ds)) }

/-- PWR_OP_V_WR (R498, R501). -/
def fxPwrOpVWr (s : State) (d : Nat) (v : W64) : State :=
  let p := fld v 10 8
  if opBad v then s.opRefuse d
  else if fld v 11 11 = 0 then s
  else if s.opBusy d || decide (s.fCur d < p) || s.exhausted d p then s.opRefuse d
  else if p = s.vCur d then s
  else s.slew d p []

/-- PWR_OP_F_WR (R498 to R501): at one root-clock edge on every die of the group. -/
def fxPwrOpFWr (s : State) (d : Nat) (v : W64) : State :=
  let p := fld v 6 4
  let ds := s.opGroup d
  if opBad v then s.opRefuse d
  else if fld v 7 7 = 0 then s
  else if ds.any (fun x => s.opBusy x || decide (p < s.vCur x) || s.exhausted x p) then
    s.opRefuse d
  else ds.foldl (fun s x => s.setF x p) s

/-- Both points of the dies of a group to `p`, in the legal order (R498, R500).  A die whose frequency must
fall lowers it first, also where another die of the group must raise its voltage first. -/
def opTarget (s : State) (ds : List Nat) (p : Nat) : State :=
  if ds.all fun x => decide (s.vCur x ≤ p) then
    ds.foldl (fun s x => let s := s.setF x p; if s.vCur x = p then s else s.slew x p []) s
  else ds.foldl (fun s x => (if s.fCur x < p then s.setF x p else s).slew x p ds) s

/-- A TARGET request to die `d`. -/
def opRequest (s : State) (d p : Nat) : State :=
  let ds := s.opGroup d
  if ds.any (fun x => s.opBusy x || s.exhausted x p) then s.opRefuse d else s.opTarget ds p

/-- PWR_OP_T_WR (R498, R500, R501). -/
def fxPwrOpTWr (s : State) (d : Nat) (v : W64) : State :=
  if opBad v then s.opRefuse d
  else if fld v 3 3 = 0 then s
  else s.opRequest d (fld v 2 0)

/-- VOLTAGE_SLEW_DONE (R499, R500): the new voltage is regulated.  Once no die of a TARGET request slews,
the frequencies of all change at one edge. -/
def fxVoltageSlewDone (s : State) (d : Nat) : State :=
  match smGet none s.pwr.goal d with
  | none => s
  | some (p, grp) =>
    let s := s.setV d p
    if grp = [] then (s.clrBit (rOp d) 47).updPwr fun w => { w with goal := smSet none w.goal d none }
    else
      -- a die of the request waits with its voltage in place until every die's is
      let ds := grp.filter fun x => smGet none s.pwr.goal x == some (p, grp)
      if ds.all fun x => s.vCur x == p then
        ds.foldl (fun s x => ((s.setF x p).clrBit (rOp x) 47).updPwr fun w => { w with goal := smSet none w.goal x none }) s
      else s

/-- PWR_STRETCH_WRITE (R502): a write holding a value from 13 to 15 is discarded whole. -/
def fxPwrStretchWrite (s : State) (v : W64) : State :=
  if (List.range 8).any fun d => decide (12 < fld v (4 * d + 3) (4 * d)) then s
  else s.setRegF 0x10118 31 0 (fld v 31 0)

/-! ### Resets (R480, R481) -/

/-- Registers in an extent of counters or of state that a warm reset keeps: what to keep of each, as a
mask (R470, R480, R481 and the rules that say "cleared only by cold reset"). -/
def warmMask (k : Nat) : Nat :=
  let all := 2 ^ 64 - 1
  -- EH_STAT without its state of the moment
  let eh := all - 0x1F
  if k = 0x50 then eh
  else if k = 0x40 ∨ k = 0x40000 ∨ k = 0x40008 ∨ k = 0x300040 then all
  else if k = 0x10000 then 0xFF00000000
  else if k = 0x20010 then all - 511
  else if k = 0x10108 then 0xFFFFFFFF
  else if k = rSnap 0x48 then 2 ^ 32
  else if k < 0x100000 then 0
  else if k < 0x300000 then
    let o := k % 0x100000
    if 0x10000 ≤ o ∧ o < 0x13000 then (if 0x18 ≤ o % 0x400 then all else 0)
    else if 0x20000 ≤ o ∧ o < 0x20200 then (if o % 0x100 = 8 then all else 2 ^ 60 - 1)
    else 0
  else if k < 0x1000000 ∨ 0x9000000 ≤ k then 0
  else if k / 0x80000 % 8 = 7 then
    let o := k % 0x80000
    if o = 0x10 ∨ o = 0x40020 then eh
    else if o = 8 ∨ o = 0x40018 ∨ o = 0x40028 then all
    -- UPE_STAT without its state of the moment, UPE_COUNT
    else if o = 0x40100 then 2 ^ 60 - 1
    else if o = 0x40108 then all
    else if 0x20000 ≤ o ∧ o < 0x21000 ∧ o % 0x100 = 0 then all
    else 0
  else
    let o := k % 0x80000
    if o = 0x40020 then all
    else if o = 0x40028 then eh
    else if o < 0x40000 then
      (if o % 0x10000 = 0x50 then all
       else if o % 0x10000 = 0x80 then eh
       else if o % 0x10000 = 0x08 then 0xFF00000000 else 0)
    else 0

/-- A register as a warm reset leaves it. -/
def warmReg (x : Nat × W64) : Option (Nat × W64) :=
  let m := BitVec.ofNat 64 (warmMask x.1)
  let v := (x.2 &&& m) ||| (regReset x.1 &&& ~~~m)
  if v = regReset x.1 then none else some (x.1, v)

/-- A channel that is not retired trains again (R481). -/
def untrain (s : State) : State :=
  (List.range 512).foldl (fun s ch => if s.retired ch then s else s.setRegF (rChan ch 0) 63 60 0) s

/-- MON_MARGIN and MON_JUB take their restored fields from the boot flash (R566). -/
def restoreMargins (s : State) : State :=
  (List.range 8).foldl (fun s d =>
    (s.setReg (rDie d 0x38) (smGet 0#64 s.mmc.margin d)).setRegF (rDie d 0x40) 63 16 (fld (smGet 0#64 s.mmc.jubWord d) 63 16)) s

/-- The function returns to D0: WAKE# is released (R506). -/
def toD0 (s : State) : State :=
  let s := if s.pwr.d3hot || s.pwr.d3cold then s.emit (.wakePin false) else s
  s.updPwr fun w => { w with d3hot := false, d3cold := false }

/-- Every state that a module reset clears, with the registers `rs` kept (R480, R601).  The reset returns the
function to D0. -/
def clearModule (s : State) (rs : SMap W64) : State :=
  let s := s.toD0
  { pending := s.pending, ctr := s.ctr, out := s.out, hostMem := s.hostMem, regs := rs
    almanac := s.almanac, almStage := s.almStage, flash := s.flash
    mmc := { s.mmc with sessions := [], events := [], i3c := none }
    pwr := { perst := s.pwr.perst } }

/-- The device address of a channel's offset (R285, R286), the inverse of `chanAddr`. -/
def devAddr (s : State) (ch off : Nat) : Nat :=
  let sl := off / 2 ^ 27
  let o := off % 2 ^ 27
  sl * 2 ^ 36 +
    (if bitAt (s.reg 0x30).toNat sl then (o / 1024 * 512 + ch % 64 * 8 + ch / 64) * 1024 + o % 1024
    else ch / 64 * 2 ^ 33 + (o / 4096 * 64 + ch % 64) * 4096 + o % 4096)

/-- The channel byte `k` lies in the partner memory. -/
def inReserve (s : State) (k : Nat) : Bool :=
  let a := s.devAddr (k / 2 ^ 31) (k % 2 ^ 31)
  decide (s.partnerBase ≤ a) && decide (a < spareBase)

/-- A cold reset; by a command the always-on domain keeps the Almanac and the time base.  It clears HBM, but the
one that ends a fence, by command with 50 V on, leaves the slots' contents (R469, R480; DESIGN CHOICE, log 20). -/
def coldClear (s : State) (commanded : Bool) : State :=
  let c := s.clearModule (s.regs.filter fun x => x.1 == 0x40000 || x.1 == 0x40008)
  let c := if commanded && s.fenced then
      { c with chanBytes := s.chanBytes.filter fun x => s.inReserve x.1
               chanPoison := s.chanPoison.filter fun x => s.inReserve (32 * x.1) }
    else c
  let c := c.updMmc fun m => { m with testAccess := false, tapUsed := false }
  c.restoreMargins

/-- The units that a migration has moved, of the channels. -/
def calmChans (m : SMap ChanSt) : SMap ChanSt :=
  m.filterMap fun (x : Nat × ChanSt) =>
    let y : ChanSt := { x.2 with badWindows := 0, failing := false, tg := [] }
    if y = {} then none else some (x.1, y)

/-- A warm reset (R480, R481).  No loss outlives it: a lost function brings itself up again, or fails.  A
module that is fenced stays fenced (R469) and shows it (R476). -/
def warmClear (s : State) : State :=
  let c := s.clearModule (s.regs.filterMap warmReg)
  let c : State := { c with
    chanBytes := s.chanBytes, chanPoison := s.chanPoison, pages := s.pages
    chans := calmChans s.chans
    deadClus := s.deadClus, fatal := s.fatal
    fab := { inj := s.fab.inj, dlv := s.fab.dlv } }
  let c := if c.bit (rSnap 0x48) 32 then c.setRegF rHv 63 60 6 else c
  c.untrain.restoreMargins

/-! ### Secure boot (R489 to R492) -/

/-- A function could not come up: its PKG_FAIL bit, and one error (R483, R487, R488). -/
def failFn (s : State) (b : Nat) : State :=
  if s.bit 0x20 b then s
  else
    let place : Nat × Nat := if b < 3 then (5, 0) else if b < 5 then (5, 1) else if b < 16 then (1, b - 8)
      else if b < 32 then (1, (b - 16) / 2) else (6, b - 32)
    ((s.setBit 0x20 b).setReady b false).raiseCode 0x0504 place.1 place.2 b

/-- The functions that cannot come up without the function of bit `b` (R484). -/
def dependents (b : Nat) : List Nat :=
  match b with
  | 0 => (List.range 56).filter fun x => x != 0 && !(5 ≤ x && decide (x < 8))
  | 2 => (List.range 12).map (32 + ·)
  | 3 => 4 :: (List.range 12).map (44 + ·)
  | _ => []

/-- A function could not come up, nor can those that depend on it (R483, R484). -/
def failDown (s : State) (b : Nat) : State := (b :: dependents b).foldl (fun s x => s.failFn x) s

/-- PKG_BOOT.STAGE changes and is printed (R492, R589). -/
def setStage (s : State) (v : Nat) : State :=
  if s.regF 0x28 63 56 = v then s
  else let s := s.setRegF 0x28 63 56 v; s.emit (.uart [s.reg 0x28])

/-- A key slot of the fuses that is not revoked holds the digest of an image's public key (R489). -/
def keyKnown (m : MmcSt) (key : BitVec 384) : Bool := m.keys.any fun k => k.1 == key && !k.2

/-- The bank that boots: the selected one, else the other, else none.  An image whose key no slot holds or
whose security version is below the fuses is refused (R489 to R491). -/
def bootBank (m : MmcSt) (b : BootVerdict) : Option Bool :=
  let okA := b.bankOk.1 && keyKnown m b.bankKey.1 && decide (m.fuse ≤ m.svnA)
  let okB := b.bankOk.2 && keyKnown m b.bankKey.2 && decide (m.fuse ≤ m.svnB)
  let ok := fun (x : Bool) => if x then okB else okA
  if ok m.sel then some m.sel else if ok (!m.sel) then some (!m.sel) else none

/-- Bits of PKG_FAIL but MMC and HIF. -/
def allFail : Nat := 0x00FFFFFFFFFFFF1C

/-- The digests of the images that verified (R489): of bank `k`, of hub 1 and of the dies. -/
def measured (b : BootVerdict) (k : Bool) : List (BitVec 384) :=
  let d := fun i => b.digests.getD i 0#384
  (if k then d 1 else d 0) :: ((if b.hub1Ok then [d 2] else []) ++ (if b.dieOk then [d 3] else []))

/-- The boot after a reset (R489 to R492); `last` is PKG_BOOT.LAST_RESET.  Where neither bank verifies, the MMC
enters recovery mode and every function but itself and the host interface fails. -/
def boot (s : State) (b : BootVerdict) (last : Nat) (failBefore : W64) : State :=
  let m := s.mmc
  let s := (s.setRegF 0x28 52 50 last).setRegF 0x28 31 16 m.fuse
  let n := fun (x : Bool) => if x then 1 else 0
  match bootBank m b with
  | none =>
    let s := (s.updMmc fun m => { m with meas := [] }).record 0x14 0 0 0 0 (s.reg 0x28) failBefore
    let s := ((List.range 56).filter fun x => bitAt allFail x).foldl (fun s x => s.failFn x) s
    s.publish.setStage 0xE0
  | some k =>
    let s := (s.setRegF 0x28 55 55 (n k)).setRegF 0x28 54 54 (n (k != m.sel))
    let s := s.setRegF 0x28 47 32 (if k then m.svnB else m.svnA)
    let s := (s.updMmc fun m => { m with meas := measured b k }).record 0x14 0 0 0 0 (s.reg 0x28) failBefore
    let s := if b.hub1Ok then s else s.failDown 3
    if b.dieOk then s else ((List.range 8).foldl (fun s d => s.failFn (8 + d)) s).publish

/-- POWER_ON_COLD_RESET (R480, R489 to R491, R514, R543, R573): the 50 V input rises through its lockout. -/
def fxPowerOnColdReset (s : State) (b : BootVerdict) (maddr : Nat) : State :=
  let fail := s.reg 0x20
  -- records written before the power loss that the newer sound copy does not hold (R543)
  let short := !s.bit rAlm 62 && match s.flash.newest with
    | some c => decide (c.recs.length < s.regF rAlm 60 44) || c.clears != s.regF rAlm 10 0
    | none => decide (s.regF rAlm 60 44 ≠ 0)
  let c := s.coldClear false
  let c := State.setReg { c with almanac := [], almStage := [] } rAlm 0#64
  let c := (c.setBit rAlm 62).setFlash fun f => { f with short := f.short || short }
  -- PCYC is saved at once, so that two power cycles differ also where a later save is lost (R514)
  let now := setFld c.mmc.savedTime 63 48 (fld c.mmc.savedTime 63 48 + 1)
  let c := (c.setReg 0x40000 now).updMmc fun m => { m with maddr := maddr, savedTime := now }
  c.boot b 0 fail

/-- The hold on a command reset: a flash segment in progress (R586). -/
def flashBusy (s : State) : Bool := s.flash.gens.any (·.run)

/-- A warm reset with its boot. -/
def warmReset (s : State) (b : BootVerdict) (last : Nat) : State := s.warmClear.boot b last (s.reg 0x20)

/-- PERST_ASSERT (R482, R571): a warm reset, but in SOLSTICE with the function in D3hot. -/
def fxPerstAssert (s : State) (b : BootVerdict) : State :=
  if s.pwr.off || s.pwr.perst then s
  else if s.pwrState = 3 ∧ s.pwr.d3hot then s.updPwr fun w => { w with perst := true, d3cold := true }
  else
    let s := s.warmReset b 2
    s.updPwr fun w => { w with perst := true }

/-- PERST_DEASSERT (R482, R506). -/
def fxPerstDeassert (s : State) : State :=
  if !s.pwr.perst then s
  else
    let wake := s.pwr.d3cold
    let s := (s.updPwr fun w => { w with perst := false }).toD0
    if wake then s.wakeUp 1 else s

/-- D3HOT_ENTRY (R482). -/
def fxD3hotEntry (s : State) : State := s.updPwr fun w => { w with d3hot := true }

/-- D3HOT_TO_D0 (R506). -/
def fxD3hotToD0 (s : State) : State := if s.pwr.d3hot then s.toD0.wakeUp 1 else s

/-! ### Functions that become ready (R483 to R488) -/

/-- PKG_READY bit of a function. -/
def funcBit : Func → Nat
  | .mmc => 0
  | .hif => 1
  | .fab0 => 2
  | .hub1 => 3
  | .flash => 4
  | .die d => 8 + d.val
  | .stack d i => 16 + 2 * d.val + i.val
  | .port p => 32 + p.val

def reported (s : State) (b : Nat) : Bool := s.isReady b || s.bit 0x20 b

/-- What a function waits for (R484, R485). -/
def funcFree (s : State) : Func → Bool
  | .mmc => true
  | .hif => s.isReady 0 && !s.pwr.perst
  | .fab0 => s.isReady 0
  | .hub1 => s.isReady 0
  | .flash => s.isReady 3
  | .die d => s.isReady 0 && s.reported (16 + 2 * d.val) && s.reported (17 + 2 * d.val)
  | .stack _ _ => s.isReady 0
  | .port p => s.isReady (2 + p.val / 12)

/-- A function that was lost while it came up cannot report before the next reset. -/
def funcLost (s : State) : Func → Bool
  | .hub1 => s.hub1Lost
  | .flash => s.hub1Lost
  | .die d => smGet false s.lostDies d.val
  | .stack d _ => smGet false s.lostDies d.val
  | .port p => s.hub1Lost && decide (12 ≤ p.val)
  | _ => false

/-- The wake in progress comes from DORMANT, in which everything is retained. -/
def retained (s : State) : Bool := s.pwrState == 5 && s.pwr.src == 2

/-- A die fails when both its stacks failed, or with a refused stack (R488). -/
def stackFail (s : State) (d i : Nat) (refused : Bool) : State :=
  let s := s.failFn (16 + 2 * d + i)
  if refused || (s.bit 0x20 (16 + 2 * d) && s.bit 0x20 (17 + 2 * d)) then s.failFn (8 + d) else s

/-- The default test program of a channel after a cold reset, which its generator has run in TEST (R312): a
PRBS31 write, then a PRBS31 read-check, with a seed that is not given.  MEMC_TG_STAT shows it DONE; what it
found is free. -/
def defaultTest (s : State) (c : Nat) : State :=
  let f := s.freeWord
  let g := f.2.freeWord
  let h := g.2.freeWord
  let seed := fld f.1 31 0 / 2 * 2 + 1
  let step := fun (op : Nat) => BitVec.ofNat 64 (op * 2 ^ 61 + seed)
  let s := (h.2.setReg (rTg c 0x40) (step 1)).setReg (rTg c 0x48) (step 2)
  let s := (s.setReg (rTg c 0x10) (setFld (setFld g.1 63 59 17) 58 58 0)).setReg (rTg c 0x18) h.1
  s.updChan c fun x => { x with tg := s.reg (rTg c 0x08) :: (List.range 8).map fun k => s.reg (rTg c (0x40 + 8 * k)) }

/-- The channels of a stack after training (R282, R304, R481): verification only after a warm reset or a
SOLSTICE wake, with the default test after a cold reset (R312).  A retired channel stays retired. -/
def stackReady (s : State) (d i : Nat) (ch : List (Option (Fin 6))) : State :=
  let cold := decide (s.regF 0x28 52 50 < 2)
  let s := (List.range 32).foldl (fun s n =>
    let c := 64 * d + 32 * i + n
    if s.retired c then s
    else
      let s := if cold then s.defaultTest c else s
      match ch.getD n (some 0) with
      | some k => (s.setRegF (rChan c 0) 63 60 2).setRegF (rChan c 0) 59 56 k.val
      | none => s.retireChan c true cold) s
  s.setReady (16 + 2 * d + i) true

/-- A die comes up: self-test, OP0 or its saved point (R485, R501). -/
def dieReady (s : State) (d : Nat) (t : SelfTest) : State :=
  let s := s.selfTest d t
  let s := s.setFlash fun f => { f with bringup := f.bringup ++ [{ test := t, chans := (List.range 64).map fun n =>
    let c := 64 * d + n
    (s.reg (rChan c 0), s.reg (rTg c 0x10), s.reg (rTg c 0x18)) }] }
  let s := s.setVmv d (s.vCur d)
  (s.setReady (8 + d) true).publish

/-- The journal scan before FLASH is set (R452): generations without a commit record are freed.  Then the
slots that wait for FLASH are written (R484). -/
def journalScan (s : State) : State :=
  let s := [0, 1].foldl (fun s n => if (s.flashOpen n).isSome then s.setRegF (rSlot n) 59 58 0 else s) s
  let s := s.setFlash fun f => { f with gens := f.gens.filter (·.committed) }
  let s := [0, 1].foldl (fun s n =>
    match (s.flash.gens.filter fun g => g.slot == n).getLast? with
    | some g => s.setRegF (rSnap (0x20 + 8 * n)) 63 32 (recE g.grec)
    | none => s) s
  let s := s.setReady 4 true
  s.flashDue.foldl (fun s n => { s.flashBegin n with flashDue := [] }) s

/-- STAGE follows the dies: loading from the first that reports, complete after the last (R492). -/
def bootStage (s : State) : State :=
  if s.regF 0x28 63 56 = 0xE0 ∨ s.regF 0x28 63 56 = 3 then s
  else if (List.range 8).all fun d => s.reported (8 + d) then s.setStage 3
  else if (List.range 8).any fun d => s.reported (8 + d) then s.setStage 2
  else s

/-- FUNCTION_READY (R483 to R488). -/
def fxFunctionReady (s : State) (f : Func) (o : ReadyOutcome) : State :=
  let b := funcBit f
  let recovery := s.regF 0x28 63 56 == 0xE0
  if s.pwr.off || s.modLost || s.reported b || !s.funcFree f || ((recovery || s.mmc.tapUsed) && decide (2 ≤ b)) then s
  else
    let fail := match f with
      | .stack d i => (s.stackFail d.val i.val false).publish.bootStage
      | _ => (s.failDown b).publish.bootStage
    if s.funcLost f then fail
    else match o with
    | .failed => fail
    | .capacityMismatch => match f with
      | .stack d i => (s.stackFail d.val i.val true).publish.bootStage
      | _ => s
    | .ready t ch =>
      match f with
      | .mmc =>
        let s := (s.setReady 0 true).setRegF 0x10000 1 0 3
        if recovery then s else (s.setStage 1).bootStage
      | .die d => if s.retained then s.setReady b true else (s.dieReady d.val t).bootStage
      | .stack d i => if s.retained then s.setReady b true else s.stackReady d.val i.val ch
      | .flash => s.journalScan
      | .port p => if 3 ≤ s.lnkState p.val ∧ s.lnkState p.val ≤ 5 then s.setReady b true else s
      | _ => s.setReady b true

/-! ### Clock losses (R495) -/

/-- ROOT_CLOCK_LOSS (R29, R495, R496): the reference oscillator or the lock of the root PLL.  Which of them is
lost is free; with the reference gone the PLL's lock may hold on, by a second free bit. -/
def fxRootClockLoss (s : State) : State :=
  if s.pwr.off then s
  else
    let f := s.freeWord
    let ref := f.1.getLsbD 0
    let s := if ref then f.2.clrBit 0x10000 0 else f.2
    let s := if ref && f.1.getLsbD 1 then s else (s.clrBit 0x10000 1).bump 0x10000 39 32 1
    (s.fatalRecord (mkErr 0x0507 5 0 (s.reg 0x10000))).loseModule

/-- DIE_CLOCK_LOSS (R31, R495, R496). -/
def fxDieClockLoss (s : State) (d : Nat) : State :=
  if smGet false s.lostDies d || s.pwr.off then s
  else
    let s := (s.setBit 0x10000 (40 + d)).loseDie d
    s.raiseCode 0x0405 1 d (s.regF 0x10000 47 40)

/-! ### Entry into a low state (R504, R505) -/

/-- A job of target `k` runs, or waits in an SQ of that target. -/
def jobAt (s : State) (k : Nat) : Bool :=
  (match (s.tgt k).job with | some j => decide (j.stage < 4) | none => false) ||
  s.enabled.any fun q => s.qKind q == 1 && s.qHead q != s.qTail q &&
    targetKey (s.regF (rQ q 2) 63 56) (s.regF (rQ q 2) 55 48) == k

/-- A Harvest job runs or waits at HEAD of its ring. -/
def harvestBusy (s : State) : Bool :=
  s.hjob.isSome || (s.bit (rSnap 0x40) 63 && bitAt (s.peekByte (s.hvEntry + 7)).1.toNat 7)

/-- The first condition of R504 that refuses `st`; 0 none. -/
def refusal (s : State) (st : Nat) : Nat :=
  let low := decide (2 ≤ st)
  if s.anyFetching then 1
  else if ((List.range 8).any fun d => s.jobAt (1 + d)) ||
      (low && (((List.range 6).any fun i => s.jobAt (9 + i)) || s.harvestBusy)) then 2
  else if low && (((List.range 512).any fun ch => s.chState ch == 3) ||
      ((List.range 8).any fun d => s.regF (rMig d) 63 60 == 1)) then 3
  else if low && s.flash.gens.any fun g => !g.committed then 4
  else if low && s.vigilState != 0 then 5
  else if s.pwrState == 4 || s.pwrState == 5 then 7
  else 0

/-- A request for a state (R504, R506). -/
def pwrRequest (s : State) (st bit : Nat) : State :=
  if st = 0 then s.wakeUp bit
  else if 3 < st then s.setRegF rPwr 56 54 6
  else if st = s.pwrState then s
  else
    let c := s.refusal st
    if c ≠ 0 then s.setRegF rPwr 56 54 c
    else if st < s.pwrState then s
    else
      let s := s.updPwr fun w => { w with wakeSrc := none, src := 0, wait := if s.pwrState = 2 then w.wait else 0 }
      let s := (s.setRegF rPwr 63 60 4).setRegF rPwr 59 57 st
      -- step 1: ports sleep by the handshake of R364
      if 2 ≤ st then (List.range 24).foldl (fun s p => s.fxPortSleep p) s else s

/-- REQ_ACTIVE (R506). -/
def fxReqActive (s : State) : State := s.pwrRequest 0 1
/-- REQ_IDLE (R504). -/
def fxReqIdle (s : State) : State := s.pwrRequest 1 1
/-- REQ_DORMANT (R504). -/
def fxReqDormant (s : State) : State := s.pwrRequest 2 1
/-- REQ_SOLSTICE (R504). -/
def fxReqSolstice (s : State) : State := s.pwrRequest 3 1

/-- PKG_READY bits cleared, remembered for the wake that must set them again (R505, R508). -/
def stopFns (s : State) (mask : Nat) : State :=
  let m := BitVec.ofNat 64 mask
  let gone := (s.reg 0x18 &&& m).toNat
  let s := s.updPwr fun w => { w with wait := w.wait ||| gone }
  s.setReadyWord (s.reg 0x18 &&& ~~~m)

/-- PKG_READY bits of the ports in LOW_POWER. -/
def sleepingPorts (s : State) : Nat :=
  (((List.range 24).filter fun p => s.lnkState p == 6).map fun p => 2 ^ (32 + p)).foldl (· + ·) 0

/-- Registers of powered-down blocks that SOLSTICE keeps, in the keep store or in the always-on domain, and
those of hub 0's powered functions: a mask of the bits kept (R510). -/
def keepMask (k : Nat) : Nat :=
  let all := 2 ^ 64 - 1
  -- PWR_OPd: F_CUR, V_CUR and the setpoint that follows from V_CUR
  if 0x10200 ≤ k ∧ k < 0x10240 then 0x1F80_0FFF_0000
  else if k < 0x100000 then all
  else if k < 0x300000 then
    let o := k % 0x100000
    if 0x10000 ≤ o ∧ o < 0x13000 then
      (if o % 0x400 = 0 ∨ 0x18 ≤ o % 0x400 then all else if o % 0x400 = 8 then 0xF000000000000000 else 0)
    -- CLE_STAT.UNMATCHED and CLE_PROG
    else if 0x20000 ≤ o ∧ o < 0x20200 then (if o % 0x100 = 8 then all else 0xFFFF00000000)
    else if k / 0x100000 = 2 ∧ 0x30000 ≤ o ∧ o < 0x30050 then
      (if o % 0x100 = 0x10 ∨ o % 0x100 = 0x18 then 0x0000FFFFFFFF0000
       else if o % 0x100 = 0 ∨ o % 0x100 = 8 ∨ o % 0x100 = 0x40 ∨ o % 0x100 = 0x48 then all else 0)
    else 0
  else if k < 0x1000000 then
    -- FAB_SELF, FAB_TC_CFG, FAB_VAL_CNT, FAB_VIGIL, FAB_RETIRE, FAB_DROP
    (if k = 0x300018 ∨ k = 0x300020 ∨ k = 0x300038 ∨ 0x301000 ≤ k then 0 else all)
  else if 0x9000000 ≤ k then all
  else if k / 0x80000 % 8 = 7 then
    let o := k % 0x80000
    -- RGN_CLUSTER_MAP.PHYS_OK
    if o = 0 then 0x1FC0000
    else if o = 8 ∨ o = 0x40010 ∨ o = 0x40018 ∨ o = 0x40028 ∨ o = 0x40108 then all
    -- UPE_STAT.JOBS
    else if o = 0x40100 then 0xFFFF00000000
    else if 0x20000 ≤ o ∧ o < 0x21000 ∧ o % 0x100 = 0 then all
    else 0
  else
    let o := k % 0x80000
    if o = 0x40020 then all
    else if o < 0x40000 then
      (if o % 0x10000 = 0x50 ∨ o % 0x10000 = 0x70 ∨ o % 0x10000 = 0x78 then all
       else if o % 0x10000 = 0x08 then 0xFF00000000 else 0)
    else 0

/-- A register as SOLSTICE leaves it. -/
def keepReg (x : Nat × W64) : Option (Nat × W64) :=
  let m := BitVec.ofNat 64 (keepMask x.1)
  let v := (x.2 &&& m) ||| (regReset x.1 &&& ~~~m)
  if v = regReset x.1 then none else some (x.1, v)

/-- Step 2 of the entry into SOLSTICE: slices flushed and unpinned (R292, R295). -/
def flushAll (s : State) : State :=
  (List.range 32).foldl (fun s r =>
    let s := ((s.slice r).lines.filter (·.dirty)).foldl (fun s l => s.writeBack l) s
    let sl := s.slice r
    (s.setSlice r { sl with lines := sl.lines.map fun l => { l with dirty := false, pinned := false } }).setRegF
      (rMsc r 0) 31 14 0) s

/-- Slices of lost regions stay lost; the others start empty. -/
def lostOnly (m : SMap SliceSt) : SMap SliceSt :=
  m.filterMap fun (x : Nat × SliceSt) => if x.2.lost then some (x.1, { lost := true }) else none

/-- Steps 3 and 4 of the entry into SOLSTICE: the keep store written, compute dies and hub 1 off (R505, R510).
DESIGN CHOICE (log 22): updates of scale records that are still in flight (R154) are lost with the dies. -/
def enterSolstice (s : State) : State :=
  let s : State := { s with
    regs := s.regs.filterMap keepReg
    units := [], clus := [], tokens := [], scaleQ := [], slices := lostOnly s.slices, slotMap := {}, staged := none, program := none
    running := none, frame0 := [], relock := [], faults := [], ports := [], cles := [], hjob := none, mons := []
    handlers := s.handlers.filter fun x => decide (4000 ≤ x.1)
    fab := { rt0 := s.fab.rt0, rt1 := s.fab.rt1, val0 := s.fab.val0, val1 := s.fab.val1, inj := s.fab.inj
             dlv := s.fab.dlv, peers := s.fab.peers } }
  let s := if s.bit (rSnap 0x48) 32 then s.setRegF rHv 63 60 6 else s
  s.restoreMargins

/-- Every die to OP4 (R505, step 3 of DORMANT).  A change in progress ends in it. -/
def diesToOp4 (s : State) : State :=
  let s := (List.range 8).foldl (fun s d =>
    if s.dieUp d then ((s.setF d 4).setV d 4).clrBit (rOp d) 47 else s) s
  s.updPwr fun w => { w with goal := [] }

/-- Step 1 of an entry into DORMANT or SOLSTICE has ended: no port is UP, or, when a wake source has arrived,
none waits in the handshake (R364, R505, R507). -/
def portsQuiet (s : State) : Bool :=
  let low := 2 ≤ s.regF rPwr 59 57
  (List.range 24).all fun p => !s.lnkUp p || ((s.port p).sleep == 0 && (!low || s.pwr.wakeSrc.isSome))

/-- Every enabled port is LOW_POWER (R363): one without a link has no partner to shake hands with. -/
def portsLow (s : State) : State :=
  (List.range 24).foldl (fun s p => if s.lnkState p = 0 then s else s.lowPower p) s

/-- The functions that DORMANT and SOLSTICE stop; a DISABLED port is off already. -/
def stoppedFns (s : State) : Nat :=
  0xFFFFFF1C + (((List.range 24).filter fun p => s.lnkState p != 0).map fun p => 2 ^ (32 + p)).foldl (· + ·) 0

/-- Steps 2 to 4 of an entry into state `st`, as far as step `n` (R505).  PKG_READY bits are cleared at the step
that stops their functions: 2 the stacks, 3 (DORMANT) or 4 (SOLSTICE) the dies, 4 hub 1, its flash and the
fabric of hub 0. -/
def entrySteps (s : State) (st n : Nat) : State :=
  let fabric := s.stoppedFns &&& 0xFFFFFF000000001C
  let s := s.portsLow.stopFns (fabric &&& 0xFFFFFF00000000)
  if n < 2 then s
  else
    let s := if st = 3 then s.flushAll else s
    let s := s.stopFns 0xFFFF0000
    if n < 3 then s
    else if st = 2 then
      let s := s.diesToOp4.stopFns 0xFF00
      if n < 4 then s else s.stopFns 0x1C
    else (s.stopFns 0xFF1C).enterSolstice

/-- The low state as from which the module leaves an entry into `st` that stopped after step `n` (R507). -/
def leavesAs (st n : Nat) : Nat := if st = 3 ∧ n < 3 then 2 else st

/-- POWER_ENTRY_COMPLETE (R505, R507): the entry goes through its remaining steps; a wake source that has
arrived stops it at the end of the step that it met, which is free.  That is step 1 while a port is still
UP. -/
def fxPowerEntryComplete (s : State) : State :=
  if s.pwrState ≠ 4 || !s.portsQuiet then s
  else
    let st := s.regF rPwr 59 57
    match s.pwr.wakeSrc with
    | some bit =>
      if st < 2 then (s.bump rPwr 39 32 1).beginWake bit st
      else
        let f := s.freeWord
        let n := if (List.range 24).any f.2.lnkUp then 1 else 1 + f.1.toNat % 4
        let s := if n = 1 then f.2.stopFns f.2.sleepingPorts else f.2.entrySteps st n
        (s.bump rPwr 39 32 1).beginWake bit (leavesAs st n)
    | none =>
      let s := if 2 ≤ st then s.entrySteps st 4 else s
      let s := s.setRegF rPwr 63 60 st
      -- a timer of 0 ms wakes at once (R513)
      if s.bit 0x10110 63 ∧ s.regF 0x10110 31 0 = 0 then s.wakeUp 3 else s

/-- PWR_TIMER_EXPIRY (R506, R513). -/
def fxPwrTimerExpiry (s : State) : State :=
  if s.bit 0x10110 63 ∧ 1 ≤ s.pwrState ∧ s.pwrState ≤ 3 then s.wakeUp 3 else s

/-! ### The end of a wake (R508, R510) -/

/-- The bits of a register that the keep store holds: its items of R510. -/
def keepItems (k : Nat) : Nat :=
  let all := 2 ^ 64 - 1
  if k = 0x30 ∨ k = 0x10118 ∨ k = 0x300008 ∨ k = 0x300040 ∨ (0x10200 ≤ k ∧ k < 0x10240) then all
  else if k < 0x100000 then 0
  else if k < 0x300000 then
    -- LNK_STAT.STATE is no item; MON_PLIMIT and the monitor points are none
    (if 0x10000 ≤ k % 0x100000 ∧ k % 0x100000 < 0x13000 ∧ k % 0x400 = 8 then 0 else keepMask k)
  else if 0x1000000 ≤ k ∧ k < 0x9000000 then keepMask k
  else 0

/-- Neither copy of the keep store holds: every item takes its reset value (R510).  What self-test, training
and the ports have found since is no item. -/
def dropKeep (s : State) : State :=
  let mapReg := fun (k : Nat) => decide (0x1000000 ≤ k) && (k % 0x80000 == 0) && k / 0x80000 % 8 == 7
  let s := { s with
    regs := s.regs.filterMap fun (x : Nat × W64) =>
      let m := BitVec.ofNat 64 (if mapReg x.1 then 0 else keepItems x.1)
      let v := (regReset x.1 &&& m) ||| (x.2 &&& ~~~m)
      if v = regReset x.1 then none else some (x.1, v)
    pages := [], chans := [], deadClus := [] }
  let s := (List.range 512).foldl (fun s ch =>
    if s.isReady (16 + ch / 32) then s.setRegF (rChan ch 0) 63 60 2 else s) s
  let s := (List.range 8).foldl (fun s d => s.setVmv d 0) s.restoreMargins
  (s.setBit rPwr 48).raiseCode 0x0505 0 0 0

/-- WAKE_COMPLETE (R508): every function that the low state stopped has reported. -/
def fxWakeComplete (s : State) (copies : Bool × Bool) : State :=
  if s.pwrState ≠ 5 || (List.range 56).any fun b => bitAt s.pwr.wait b && !s.reported b then s
  else
    let s := if s.pwr.src = 3 ∧ !copies.1 ∧ !copies.2 then s.dropKeep else s
    (s.setRegF rPwr 63 60 0).updPwr fun w => { w with wait := 0, src := 0 }

end State

/-! ### The meanings of the commands -/

/-- POWER_ON_COLD_RESET (R480). -/
def execPowerOnColdReset (b : BootVerdict) (maddr : BitVec 4) (s : State) : Host.Outcome State Fault Refusal :=
  .next (s.fxPowerOnColdReset b maddr.toNat)

/-- PERST_ASSERT (R482). -/
def execPerstAssert (b : BootVerdict) (s : State) : Host.Outcome State Fault Refusal :=
  .next (s.fxPerstAssert b)

/-- PERST_DEASSERT (R571). -/
def execPerstDeassert (s : State) : Host.Outcome State Fault Refusal :=
  .next (s.fxPerstDeassert)

/-- FUNCTION_READY (R483). -/
def execFunctionReady (f : Func) (o : ReadyOutcome) (s : State) : Host.Outcome State Fault Refusal :=
  .next (s.fxFunctionReady f o)

/-- ROOT_CLOCK_LOSS (R495). -/
def execRootClockLoss (s : State) : Host.Outcome State Fault Refusal :=
  .next (s.fxRootClockLoss)

/-- DIE_CLOCK_LOSS (R495). -/
def execDieClockLoss (d : DieIx) (s : State) : Host.Outcome State Fault Refusal :=
  .next (s.fxDieClockLoss d.val)

/-- VOLTAGE_SLEW_DONE (R499). -/
def execVoltageSlewDone (d : DieIx) (s : State) : Host.Outcome State Fault Refusal :=
  .next (s.fxVoltageSlewDone d.val)

/-- POWER_ENTRY_COMPLETE (R505). -/
def execPowerEntryComplete (s : State) : Host.Outcome State Fault Refusal :=
  .next (s.fxPowerEntryComplete)

/-- D3HOT_TO_D0 (R506). -/
def execD3hotToD0 (s : State) : Host.Outcome State Fault Refusal :=
  .next (s.fxD3hotToD0)

/-- PWR_TIMER_EXPIRY (R513). -/
def execPwrTimerExpiry (s : State) : Host.Outcome State Fault Refusal :=
  .next (s.fxPwrTimerExpiry)

/-- WAKE_COMPLETE (R508). -/
def execWakeComplete (copies : Bool × Bool) (s : State) : Host.Outcome State Fault Refusal :=
  .next (s.fxWakeComplete copies)

/-- D3HOT_ENTRY (R482). -/
def execD3hotEntry (s : State) : Host.Outcome State Fault Refusal :=
  .next (s.fxD3hotEntry)

end Sys2Proof.Machine
end

