-- ==== Sys2Proof/Machine/Monitor.lean ====
section
/-!
DEFINITION. Monitor points, thermal and power control, column tests, the Jubilee (chapter 18 and R62, R63).
-/

namespace Sys2Proof.Machine

/-- A monitor point adds a sample to its live bank (R548).  `edges`: EDGE0 to EDGE14. -/
def addSample (m : MonSt) (v shift : Nat) (edges : List Nat) : MonSt :=
  let x := min (v / 2 ^ shift) 65535
  let b := (edges.filter fun e => decide (e ≤ x)).length
  let up := fun (n : Nat) => min (n + 1) 0xFFFFFFFF
  { min := min m.min v, max := max m.max v, cnt := up m.cnt, bins := m.bins.set b (up (m.bins.getD b 0)) }

/-- Margin after the first `n` steps that meets the target, within `room` steps: the steps taken, the last
margin, whether the target is met (R562). -/
def raiseMargin (target : Int) : List Int → Nat → Nat → Nat × Int × Bool
  | [], n, _ => (n, 0, false)
  | m :: ms, n, room =>
    if target ≤ m then (n, m, true)
    else match room with
      | 0 => (n, m, false)
      | r + 1 => raiseMargin target ms (n + 1) r

namespace State

/-! ### Monitor points (R546 to R551) -/

/-- EDGE0 to EDGE14 of a point. -/
def monEdges (s : State) (b n : Nat) : List Nat :=
  (List.range 15).map fun i => s.regF (rMon b n (8 + 8 * (i / 4))) (16 * (i % 4) + 15) (16 * (i % 4))

/-- MON_JUB (R566). -/
def rJub (d : Nat) : Nat := rDie d 0x40

/-- A die that is powered: ready, or in its Jubilee, where its DIE bit is clear (R562). -/
def diePowered (s : State) (d : Nat) : Bool := s.dieUp d || (s.bit (rJub d) 1 && !smGet false s.lostDies d)

/-- The function of a block is powered (R547). -/
def monOn (s : State) (b : Nat) : Bool :=
  if b < 8 then s.diePowered b else if b = 8 then s.isReady 0 else s.isReady 3

/-- The sources of a block are sampled: never in DORMANT or SOLSTICE (R547). -/
def sampled (s : State) (b : Nat) : Bool := s.monOn b && s.pwrState != 2 && s.pwrState != 3

/-- MONITOR_SAMPLE (R547, R548, R551). -/
def fxMonitorSample (s : State) (b n v : Nat) : State :=
  let c := s.reg (rMon b n 0)
  if fld c 63 63 = 0 ∨ fld c 55 48 = 0 ∨ !s.sampled b then s
  else
    let k := b * 128 + n
    let s := { s with mons := smSet {} s.mons k (addSample (smGet {} s.mons k) v (fld c 24 20) (s.monEdges b n)) }
    let a := s.reg (rMon b n 0x78)
    if fld a 63 32 < v ∨ v < fld a 31 0 then
      let d := v * 2 ^ 32 + n * 2 ^ 24 + fld c 55 48 * 2 ^ 16 + fld c 38 30
      if b < 8 then s.raiseCode 0x0606 1 b d else s.raiseCode 0x0606 5 (b - 8) d
    else s

/-- A window closes: the live bank goes to the last bank and starts again (R549). -/
def closeWindow (s : State) (b n : Nat) : State :=
  let k := b * 128 + n
  let m := smGet {} s.mons k
  let bin := fun i => m.bins.getD i 0
  let s := (List.range 8).foldl (fun s i =>
    s.setReg (rMon b n (0x28 + 8 * i)) (BitVec.ofNat 64 (bin (2 * i + 1) * 2 ^ 32 + bin (2 * i)))) s
  let s := s.setReg (rMon b n 0x68) (BitVec.ofNat 64 (m.max * 2 ^ 32 + m.min))
  let s := (s.setRegF (rMon b n 0x70) 63 32 m.cnt).bump (rMon b n 0x70) 31 0 1
  { s with mons := smSet {} s.mons k {} }

/-- WINDOW_CLOSE (R549): WIN ms have passed. -/
def fxWindowClose (s : State) (b n : Nat) : State :=
  if s.regF (rMon b n 0) 19 0 = 0 ∨ !s.monOn b then s else s.closeWindow b n

/-- MON_CLOSE (R549): a write of CLOSE. -/
def fxMonClose (s : State) (b n : Nat) : State := if s.monOn b then s.closeWindow b n else s

/-! ### Throttling (R553 to R558) -/

def rTherm (d : Nat) : Nat := rDie d 0x30
def sTh (s : State) (d : Nat) : Nat := s.regF (rTherm d) 43 40
def sPwr (s : State) (d : Nat) : Nat := s.regF (rTherm d) 39 36

/-- Field d of PWR_STRETCH (R556). -/
def stretchUpdate (s : State) (d : Nat) : State :=
  s.setRegF 0x10118 (4 * d + 3) (4 * d) (max (s.regF (rTherm d) 35 32) (max (s.sTh d) (s.sPwr d)))

/-- THERMAL_CONTROL (R553, R554, R556, R557); temperatures are in 1/16 °C. -/
def fxThermalControl (s : State) (d tj hot : Nat) (aged : Bool) : State :=
  if !s.diePowered d then s
  else
    let thr := 16 * s.regF (rTherm d) 31 24
    let was := decide (1680 ≤ s.regF (rTherm d) 63 52) && s.sTh d == 12
    let old := s.sTh d
    let new := if thr ≤ tj then min (old + 1) 12 else if tj + 48 < thr ∧ aged then old - 1 else old
    let s := ((s.setRegF (rTherm d) 63 52 tj).setRegF (rTherm d) 51 47 hot).setRegF (rTherm d) 43 40 new
    let s := s.stretchUpdate d
    if 1680 ≤ tj ∧ new = 12 ∧ !was then
      let s := s.bump (rTherm d) 23 16 1
      (s.raiseCode 0x0601 1 d (hot * 2 ^ 16 + tj)).opRequest d 4
    else s

/-- POWER_CONTROL (R555 to R557, R576): `sample` in 0.1 W, `avg` in W, `vin` in 10 mV. -/
def fxPowerControl (s : State) (sample avg vin : Nat) (ms tenMs : Bool) : State :=
  if !s.sampled 8 then s else
  let r := 0x150000
  let low := decide (3800 ≤ vin) && decide (vin ≤ 4000)
  -- limits in 0.01 W
  let pmax := let p := 100 * s.regF r 47 32; if low then min p (210 * vin) else p
  let psus := let p := 100 * s.regF r 31 16; if low then min p (190 * vin) else p
  let old := s.sPwr 0
  let was := old == 12 && decide (psus < 100 * s.regF r 15 0)
  let s := s.setRegF r 15 0 avg
  let x := if pmax < 10 * sample then min (old + 4) 12 else old
  let x := if psus < 100 * avg ∧ ms then min (x + 1) 12 else x
  let x := if 100 * avg + 30000 < psus ∧ tenMs then x - 1 else x
  let s := (List.range 8).foldl (fun s d => s.setRegF (rTherm d) 39 36 x) s
  let s := (List.range 8).foldl (fun s d => if s.diePowered d then s.stretchUpdate d else s) s
  if x = 12 ∧ psus < 100 * avg ∧ !was then s.raiseCode 0x0603 0 0 avg else s

/-- THERMAL_TRIP (R557): hardware removes the power of a die, or a hub is lost. -/
def fxThermalTrip (s : State) (dom sensor temp : Nat) : State :=
  if temp < 1680 then s
  else
    let det := sensor * 2 ^ 16 + temp
    if dom < 8 then
      if smGet false s.lostDies dom then s
      else (s.loseDie dom).raiseCode 0x0602 1 dom (dom * 2 ^ 32 + det)
    else
      let e := { mkErr 0x0602 5 (dom - 8) (BitVec.ofNat 64 (2 ^ 40 + (dom - 8) * 2 ^ 32 + det)) with cls := 5 }
      if dom = 8 then (s.fatalRecord e).loseModule
      else if s.hub1Lost then s
      else s.loseHub1.raise e

/-! ### Column tests (R62, R63, R66) -/

/-- A column test of a logical unit starts, while no program is loaded or staged to be (R62).  DESIGN CHOICE (log
24): in service only units that stand for a logical unit are tested, not those of spare clusters. -/
def startTest (s : State) (u : Nat) : State :=
  match s.physUnit u with
  | some pu => if s.program.isSome || s.staged.isSome then s else s.setBit (rUnit pu 8) 1
  | none => s

/-- COLUMN_TEST_DONE (R61, R63, R65, R66): a narrowed cluster goes to a full-width spare if there is one;
one with an array below 56 columns cannot stay in any case (R14, R61); otherwise the new widths are
published.  DESIGN CHOICE (log 24): a test that changes no width leaves CHANGED as it is, until it is
written; a self-test does not set it. -/
def fxColumnTestDone (s : State) (u : Nat) (faults : List (BitVec 66)) : State :=
  match s.physUnit u with
  | none => s
  | some pu =>
    if !s.bit (rUnit pu 8) 1 then s
    else
      let c := u / 4
      let old := s.widths pu
      let new := widthsOf faults
      let s := (s.clrBit (rUnit pu 8) 1).setFaults pu faults
      if old = new then s
      else
        let s := s.setBit (rUnit pu 8) 2
        let sp := s.regF (rRgn (c / 6) 0) 27 25
        let full := sp != 7 && (List.range 4).all fun i => (s.widths (4 * (c / 6 * 7 + sp) + i)).all (· == 64)
        let narrower := (List.range 6).any fun a => decide (new.getD a 0 < old.getD a 0)
        if (full && narrower) || new.any fun w => decide (w < 56) then
          let e := s.clusterDeadErr c
          let s := s.declareDead c
          s.raise { e with detail := setFld e.detail 7 0 (if sp = 7 then 0xFF else s.rgnGen c) }
        else
          let s := s.setReg (rUnit pu 0) (capWord new)
          s.publish.raiseCode 0x0103 4 u (fld (capWord new) 41 0)

/-! ### The Jubilee (R560 to R564, R566) -/


/-- The conditions of R561. -/
def jubFree (s : State) (d : Nat) : Bool :=
  s.program.isNone && !s.jobAt (1 + d) && decide (s.pwrState ≤ 1)

/-- JUBILEE_DUE (R561): 3,600,000 s of OPSEC after the last one. -/
def fxJubileeDue (s : State) (d : Nat) : State :=
  if s.bit (rJub d) 1 ∨ (s.regF 0x40000 47 16 + 2 ^ 32 - s.regF (rJub d) 47 16) % 2 ^ 32 < 3600000 ∨ !s.dieUp d then s
  else s.setBit (rJub d) 2

/-- JUBILEE_START: a write of MON_JUB (R561, R566).  A TARGET_PS outside 1 to 40 discards the write. -/
def fxJubileeStart (s : State) (d : Nat) (v : W64) : State :=
  let t := fld v 15 8
  if t = 0 ∨ 40 < t then s
  else
    let s := s.setRegF (rJub d) 15 8 t
    let s := if fld v 3 3 = 1 then s.clrBit (rJub d) 3 else s
    if fld v 0 0 = 0 ∨ s.bit (rJub d) 1 then s
    else if s.jubFree d then s.setBit (rJub d) 2
    else s.setBit (rJub d) 3

/-- JUBILEE_RUN (R561, R562): a pending Jubilee begins with the column test of its die.  It waits for a
staged load to end (R62; log 18). -/
def fxJubileeRun (s : State) (d : Nat) : State :=
  if !s.bit (rJub d) 2 || s.bit (rJub d) 1 || !s.jubFree d || s.staged.isSome || !s.dieUp d then s
  else
    let s := (s.clrBit (rJub d) 2).setBit (rJub d) 1
    let s := s.updPwr fun w => { w with jubOp := smSet 0 w.jubOp d (s.fCur d) }
    let s := s.setReady (8 + d) false
    (List.range 96).foldl (fun s i => s.startTest (96 * d + i)) s

/-- The new margin word of one operating point: offset, EXHAUSTED; for OP0 the margin. -/
def marginPoint (target : Int) (w : W64) (p : Nat) (run : MarginRun) : W64 :=
  let off := fld w (4 * p + 3) (4 * p)
  let m := raiseMargin target run off (10 - off)
  let w := setFld w (4 * p + 3) (4 * p) (if m.2.2 then m.1 else 10)
  let w := if m.2.2 then w else setFld w (20 + p) (20 + p) 1
  if p = 0 then setFld w 39 32 (m.2.1 % 256).toNat else w

/-- PREDICT_H (R564): the headroom of OP0 over its rate, from the earliest of the last four Jubilees. -/
def predict (jubs : List (Nat × Nat)) (now off : Nat) : Nat :=
  match (jubs.take 4).getLast? with
  | none => 0xFFFFFF
  | some j =>
    let growth := off - j.2
    if growth = 0 then 0xFFFFFF
    else min 0xFFFFFF ((10 - off) * ((now + 2 ^ 32 - j.1) % 2 ^ 32) / (growth * 3600))

/-- JUBILEE_COMPLETE (R562 to R564), once the column tests of the die have ended. -/
def fxJubileeComplete (s : State) (d : Nat) (runs : List MarginRun) : State :=
  if !s.bit (rJub d) 1 || smGet false s.lostDies d || (List.range 96).any fun i => match s.physUnit (96 * d + i) with
      | some pu => s.bit (rUnit pu 8) 1
      | none => false then s
  else
    let now := s.regF 0x40000 47 16
    let w0 := s.reg (rDie d 0x38)
    let w := (List.range 5).foldl (fun w i => marginPoint (s.regF (rJub d) 15 8) w (4 - i) (runs.getD (4 - i) [])) w0
    let off := fld w 3 0
    let w := setFld w 63 40 (predict (smGet [] s.mmc.jubs d) now off)
    let s := s.setReg (rDie d 0x38) w
    let s := (s.clrBit (rJub d) 1).bump (rJub d) 63 48 1
    let s := s.setRegF (rJub d) 47 16 now
    let s := s.updMmc fun m => { m with
      jubs := smSet [] m.jubs d (((now, off) :: smGet [] m.jubs d).take 8)
      margin := smSet 0#64 m.margin d w
      jubWord := smSet 0#64 m.jubWord d (setFld (s.reg (rJub d)) 15 0 0) }
    -- back to the earlier point, or the lowest that is not exhausted
    let p := smGet 0 s.pwr.jubOp d
    let p := if s.exhausted d p then ((List.range 5).find? fun q => !s.exhausted d q).getD p else p
    let s := (s.setF d p).setV d p
    let s := s.updPwr fun x => { x with jubOp := smSet 0 x.jubOp d 0 }
    let s := (s.setReady (8 + d) true).publish
    let s := if 8 ≤ off ∨ fld w 63 40 < 2000 then s.raise (mkErr 0x0604 1 d w) else s
    if fld w 24 20 ≠ fld w0 24 20 then s.raise (mkErr 0x0605 1 d w) else s

end State

/-! ### The meanings of the commands -/

/-- MONITOR_SAMPLE (R548). -/
def execMonitorSample (b : MonIx) (n : Fin 128) (v : W32) (s : State) : Host.Outcome State Fault Refusal :=
  .next (s.fxMonitorSample b.val n.val v.toNat)

/-- WINDOW_CLOSE (R549). -/
def execWindowClose (b : MonIx) (n : Fin 128) (s : State) : Host.Outcome State Fault Refusal :=
  .next (s.fxWindowClose b.val n.val)

/-- MON_CLOSE (R549). -/
def execMonClose (b : MonIx) (n : Fin 128) (s : State) : Host.Outcome State Fault Refusal :=
  .next (s.gate (if b.val < 8 then 8 + b.val else if b.val = 8 then 0 else 3) fun s => s.fxMonClose b.val n.val)

/-- THERMAL_CONTROL (R554). -/
def execThermalControl (d : DieIx) (tj : BitVec 12) (hot : Fin 32) (aged : Bool) (s : State) : Host.Outcome State Fault Refusal :=
  .next (s.fxThermalControl d.val tj.toNat hot.val aged)

/-- POWER_CONTROL (R555). -/
def execPowerControl (sample : Nat) (avg10 : BitVec 16) (vin : Nat) (msDue : Bool) (tenMsDue : Bool) (s : State) : Host.Outcome State Fault Refusal :=
  .next (s.fxPowerControl sample avg10.toNat vin msDue tenMsDue)

/-- THERMAL_TRIP (R557). -/
def execThermalTrip (dom : Fin 10) (sensor : Fin 32) (temp : BitVec 12) (s : State) : Host.Outcome State Fault Refusal :=
  .next (s.fxThermalTrip dom.val sensor.val temp.toNat)

/-- JUBILEE_DUE (R561). -/
def execJubileeDue (d : DieIx) (s : State) : Host.Outcome State Fault Refusal :=
  .next (s.fxJubileeDue d.val)

/-- JUBILEE_START (R561). -/
def execJubileeStart (d : DieIx) (v : W64) (s : State) : Host.Outcome State Fault Refusal :=
  .next (s.gate (8 + d.val) fun s => s.fxJubileeStart d.val v)

/-- JUBILEE_RUN (R562). -/
def execJubileeRun (d : DieIx) (s : State) : Host.Outcome State Fault Refusal :=
  .next (s.fxJubileeRun d.val)

/-- JUBILEE_COMPLETE (R562). -/
def execJubileeComplete (d : DieIx) (runs : List MarginRun) (s : State) : Host.Outcome State Fault Refusal :=
  .next (s.fxJubileeComplete d.val runs)

/-- COLUMN_TEST_DONE (R63). -/
def execColumnTestDone (u : UnitIx) (faults : List (BitVec 66)) (s : State) : Host.Outcome State Fault Refusal :=
  .next (s.fxColumnTestDone u.val faults)

end Sys2Proof.Machine
end

