-- ==== Sys2Proof/Machine/Bar0.lean ====
section
/-!
DEFINITION. The register model (R592 to R608): the writable fields of every register with their access
types, reads and writes of BAR0 by either requester, register transactions, the shadow and active
descriptor blocks and the program-store window.
-/

namespace Sys2Proof.Machine

/-! ### Access types and fields (R593) -/

/-- How a write of a field acts.  RWL acts as RW: a model without a clock stores both at once. -/
inductive Access where
  | rw
  | rwt
  | w1c
  | wo
  deriving DecidableEq, Repr

/-- A writable field: bits [hi:lo]. -/
structure RegFld where
  hi  : Nat
  lo  : Nat
  acc : Access
  deriving DecidableEq, Repr

/-- What an access covers of its 8-byte register (R592). -/
inductive Part where
  | low
  | high
  | whole
  deriving DecidableEq, Repr

/-- The part that an access of `size` bytes at `off` covers; none for another size or alignment. -/
def partOf (off size : Nat) : Option Part :=
  if size = 8 ∧ off % 8 = 0 then some .whole
  else if size = 4 ∧ off % 8 = 0 then some .low
  else if size = 4 ∧ off % 8 = 4 then some .high
  else none

/-- The written bytes at their place in the register. -/
def placed (p : Part) (v : W64) : W64 :=
  match p with
  | .whole => v
  | .low => setFld v 63 32 0
  | .high => BitVec.ofNat 64 (fld v 31 0 * 2 ^ 32)

/-- The bytes of a register that a part leaves, combined with those it writes. -/
def combine (p : Part) (old x : W64) : W64 :=
  match p with
  | .whole => x
  | .low => setFld old 31 0 (fld x 31 0)
  | .high => setFld old 63 32 (fld x 63 32)

/-- The field lies wholly in the part (R592). -/
def RegFld.within (f : RegFld) (p : Part) : Bool :=
  match p with
  | .whole => true
  | .low => decide (f.hi < 32)
  | .high => decide (32 ≤ f.lo)

def fRw (hi lo : Nat) : RegFld := ⟨hi, lo, .rw⟩
def fRwt (hi lo : Nat) : RegFld := ⟨hi, lo, .rwt⟩
def fW1c (b : Nat) : RegFld := ⟨b, b, .w1c⟩
def fWo (hi lo : Nat) : RegFld := ⟨hi, lo, .wo⟩

/-- Fields of the package registers. -/
def pkgFields (k : Nat) : List RegFld :=
  match k with
  -- the last slab's bit is RO (R284)
  | 0x30 => [fRwt (if Config.order768 then 10 else 6) 0]
  | 0x38 => [fRw 0 0]
  | 0x48 => [fWo 63 48, fWo 47 40, fWo 39 20]
  | 0x80 => [fWo 15 0]
  | 0x88 => [fWo 0 0]
  | 0x90 => [fWo 0 0]
  | 0x10100 => [fRw 8 8, fWo 2 0]
  | 0x10108 => [fW1c 48]
  | 0x10110 => [fRw 63 63, fRw 31 0]
  | 0x10118 => [fRw 31 0]
  | 0x20000 => [fRw 47 28]
  | 0x20020 => [fRw 20 20, fRw 19 0]
  | 0x40010 => [fRw 15 0]
  | _ =>
    if 0x10200 ≤ k ∧ k < 0x10240 then [fWo 11 11, fWo 10 8, fWo 7 7, fWo 6 4, fWo 3 3, fWo 2 0]
    else if 0x20800 ≤ k ∧ k < 0x21000 then [fRw 63 63, fRw 17 0]
    -- the MSI-X table: address, then data and vector control with its mask bit
    else if 0x30000 ≤ k ∧ k < 0x38000 then (if k % 16 = 0 then [fRw 63 32, fRw 31 2] else [fRw 32 32, fRw 31 0])
    else if 0x41000 ≤ k ∧ k < 0x42000 then
      match k % 0x40 with
      | 0x00 => [fRw 63 63, fRw 55 48, fRw 47 32, fRw 31 24, fRw 23 16, fRw 15 8]
      | 0x08 => [fRw 63 32, fRw 31 0]
      | 0x10 => [fRw 63 32, fRw 31 0]
      | 0x18 => [fRw 63 32, fRw 31 0]
      | 0x20 => [fRw 63 32, fRw 31 0]
      | _ => []
    else []

/-- Fields of a monitor point's registers (R552). -/
def monFields (o : Nat) : List RegFld :=
  match o with
  | 0x00 => [fRwt 63 63, fRwt 55 48, fRwt 38 30, fWo 25 25, fRwt 24 20, fRwt 19 0]
  | 0x08 => [fRwt 63 48, fRwt 47 32, fRwt 31 16, fRwt 15 0]
  | 0x10 => [fRwt 63 48, fRwt 47 32, fRwt 31 16, fRwt 15 0]
  | 0x18 => [fRwt 63 48, fRwt 47 32, fRwt 31 16, fRwt 15 0]
  | 0x20 => [fRwt 47 32, fRwt 31 16, fRwt 15 0]
  | 0x78 => [fRw 63 32, fRw 31 0]
  | _ => []

/-- Fields of a hub's registers. -/
def hubFields (h o : Nat) : List RegFld :=
  if 0x10000 ≤ o ∧ o < 0x13000 then
    match o % 0x400 with
    | 0x00 => [fWo 7 7, fWo 6 6, fRw 5 5, fRw 4 4, fRw 3 3, fWo 2 2, fRw 0 0]
    | 0x08 => [fW1c 45, fW1c 44]
    | _ => []
  else if h = 1 ∧ 0x30000 ≤ o ∧ o < 0x30050 then
    match o with
    | 0x30000 => [fRwt 23 21, fRwt 20 19, fRwt 18 17, fRwt 16 16, fRwt 15 15, fRwt 8 0]
    | 0x30008 => [fRwt 48 48, fRwt 47 32, fRwt 16 16, fRwt 15 0]
    | 0x30010 => [fRwt 47 32, fRwt 31 16]
    | 0x30018 => [fRwt 47 32, fRwt 31 16]
    | 0x30040 => [fRw 63 63, fRw 57 53, fRw 47 0]
    | 0x30048 => [fRw 15 0]
    | _ => []
  else if h = 0 ∧ o = 0x50000 then [fRw 47 32, fRw 31 16]
  else if 0x60000 ≤ o ∧ o < 0x64000 then monFields (o % 0x80)
  else []

/-- Fields of the fabric's registers. -/
def fabFields (k : Nat) : List RegFld :=
  match k with
  | 0x300000 => [fRwt 15 0]
  | 0x300008 => [fRw 3 0]
  | 0x300010 => [fRw 13 0]
  | 0x300018 => [fRw 63 48, fRw 47 32, fRw 31 16, fRw 15 0]
  | 0x300020 => [fRw 50 48, fRw 47 32, fRw 31 16, fRw 15 0]
  | 0x300028 => [fWo 56 56, fRw 55 48, fRw 47 32]
  | 0x300030 => [fWo 47 32, fWo 15 0]
  | 0x300038 => [fWo 0 0]
  | _ =>
    if 0x480000 ≤ k ∧ k < 0x500000 then [fRw 63 63, fRw 47 32, fRw 5 3, fRw 2 0]
    else if 0x500000 ≤ k ∧ k < 0x510000 then [fRw 15 0]
    else []

/-- Fields of a unit's registers. -/
def unitFields (o : Nat) : List RegFld :=
  if o = 0x08 then [fW1c 2]
  else if o = 0x58 then [fW1c 2, fW1c 1]
  else if o = 0x70 ∨ o = 0x78 then [fRw 15 0]
  else if 0x200 ≤ o ∧ o < 0x300 then [fRw 63 0]
  else if 0x400 ≤ o ∧ o < 0x600 then [fRw 63 63, fRw 62 62, fRw 52 32, fRw 20 0]
  else []

/-- Fields of a cluster's registers, by the offset from 0x4_0000. -/
def cluFields (o : Nat) : List RegFld :=
  if o = 0x08 then [fWo 1 1, fWo 0 0]
  else if o = 0x10 then [fWo 2 2, fW1c 1]
  else if o = 0x30 then [fRw 1 1, fRw 0 0]
  else if 0x1000 ≤ o ∧ o < 0x1800 then [fW1c 16]
  else []

/-- Fields of a window-7 register; `g0` for region 0 of a die. -/
def w7Fields (g0 : Bool) (o : Nat) : List RegFld :=
  if o = 0x10008 then [fWo 1 1, fWo 0 0]
  else if 0x20000 ≤ o ∧ o < 0x21000 then
    (if o % 0x100 = 8 then [fRw 51 41, fRw 40 30, fRw 3 3, fRw 2 2, fWo 1 1, fWo 0 0]
     else if 0x40 ≤ o % 0x100 ∧ o % 0x100 < 0x80 then [fRw 63 61, fRw 60 60, fRw 59 57, fRw 31 0] else [])
  else if g0 then
    if o = 0x40010 then [fRwt 11 8, fRwt 7 4, fRwt 3 0]
    else if o = 0x40030 then [fRw 35 32, fRw 31 24]
    else if o = 0x40040 then [fRw 15 8, fW1c 3, fWo 0 0]
    else if 0x60000 ≤ o ∧ o < 0x64000 then monFields (o % 0x80)
    else []
  else []

/-- Fields of a queue context's words (R407).  The fields of word 2 depend on KIND and lie each in one
half; it is kept as written. -/
def queueFields (w : Nat) : List RegFld :=
  match w with
  | 0 => [fRw 63 62, fRw 61 61, fRw 60 60, fRw 55 51, fRw 20 20, fRw 19 0]
  | 1 => [fRw 63 0]
  | 2 => [fRw 63 32, fRw 31 0]
  | _ => []

/-- The writable fields of a register; none where the offset holds no register, or only RO fields. -/
def fieldsAt (k : Nat) : List RegFld :=
  if k < 0x100000 then pkgFields k
  else if k < 0x300000 then hubFields (k / 0x100000 - 1) (k % 0x100000)
  else if k < 0x1000000 then fabFields k
  else if k < 0x9000000 then
    let o := k % 0x80000
    if k / 0x80000 % 8 = 7 then w7Fields (k / 0x400000 % 4 == 0) o
    else if o < 0x40000 then unitFields (o % 0x10000)
    else cluFields (o - 0x40000)
  else if k < 0xA000000 then queueFields (k / 8 % 8)
  else []

/-- The register value that a write amounts to: the written half over the present one, fields that span
bit 32 as they are, and no action or clear that the part does not write (R592). -/
def effect (cur x : W64) (p : Part) (fs : List RegFld) : W64 :=
  fs.foldl (fun y f =>
    if f.within p then y
    else setFld y f.hi f.lo (match f.acc with | .wo | .w1c => 0 | _ => fld cur f.hi f.lo)) (combine p cur x)

namespace State

/-! ### Transactions (R597 to R601) -/

def rTxnStat (w : Who) : Nat := rTxn w 0x98

def txn (s : State) (w : Who) : TxnSt :=
  match w with
  | .host => s.txnHost
  | .mgmt => s.txnMgmt

def setTxn (s : State) (w : Who) (t : TxnSt) : State :=
  match w with
  | .host => { s with txnHost := t }
  | .mgmt => { s with txnMgmt := t }

def otherWho (w : Who) : Who :=
  match w with
  | .host => .mgmt
  | .mgmt => .host

def txnOpen (s : State) (w : Who) : Bool := s.regF (rTxnStat w) 63 60 == 1

/-- PKG_TXN_BEGIN (R597): ignored while a transaction is open. -/
def fxPkgTxnBegin (s : State) (w : Who) (_v : W64) : State :=
  if s.txnOpen w then s
  else ((s.setRegF (rTxnStat w) 63 60 1).setRegF (rTxnStat w) 47 39 0).setTxn w {}

/-- RWT fields of a write staged in the writer's open transaction; without one, discarded (R593, R598). -/
def stage (s : State) (w : Who) (k : Nat) (p : Part) (x : W64) : State :=
  let fs := (fieldsAt k).filter fun f => f.acc == .rwt && f.within p
  let t := s.txn w
  let old := t.staged.find? fun e => e.1 == k
  if fs.isEmpty then s
  else if !s.txnOpen w then s.bump (rTxnStat w) 38 28 1
  else if old.isNone && decide (256 ≤ t.staged.length) then
    s.setTxn w { t with ovf := match t.ovf with | some a => some a | none => some k }
  else
    let v := fs.foldl (fun v f => setFld v f.hi f.lo (fld x f.hi f.lo)) (match old with | some e => e.2 | none => s.reg k)
    let st := smInsert (smErase t.staged k) k v
    (s.setTxn w { t with staged := st, conflict := t.conflict.filter fun c => c != k }).setRegF (rTxnStat w) 47 39 st.length

/-- A register with the staged values of a transaction over it. -/
def stagedReg (s : State) (t : TxnSt) (k : Nat) : W64 :=
  match t.staged.find? fun e => e.1 == k with
  | some e => e.2
  | none => s.reg k

/-- Where a monitor register lies: block, point, offset within the point. -/
def monAt (k : Nat) : Option (Nat × Nat × Nat) :=
  let o := k % 0x100000
  if 0x100000 ≤ k ∧ k < 0x300000 ∧ 0x60000 ≤ o ∧ o < 0x64000 then
    some (7 + k / 0x100000, (o - 0x60000) / 0x80, o % 0x80)
  else
    let q := k % 0x1000000
    if 0x1000000 ≤ k ∧ k < 0x9000000 ∧ 0x3E0000 ≤ q ∧ q < 0x3E4000 then
      some (k / 0x1000000 - 1, (q - 0x3E0000) / 0x80, q % 0x80)
    else none

/-- A source that the block has, with an index in its range (R547). -/
def sourceOk (b src ix : Nat) : Bool :=
  let die := decide (b < 8)
  match src with
  | 0x00 => ix == 0
  | 0x01 => decide (ix < (if die then 32 else 8))
  | 0x02 => die && decide (ix < 2)
  | 0x03 => die && decide (ix < 4)
  | 0x04 => die && decide (ix < 4)
  | 0x05 => die && ix == 0
  | 0x06 => die && decide (ix < 4)
  | 0x07 => die && decide (ix < 4)
  | 0x08 => die && decide (ix < 64)
  | 0x09 => die && decide (ix < 384)
  | 0x0A => die && decide (ix < 64)
  | 0x20 => !die && ix / 48 == b - 8
  | 0x21 => !die && ix / 12 == b - 8
  | 0x22 => b == 8 && ix == 0
  | 0x23 => b == 8 && ix == 0
  | 0x24 => b == 8 && ix == 0
  | 0x25 => b == 9 && ix == 0
  | _ => false

/-- The staged value of a register breaks a field rule of its chapter (R262, R472, R550). -/
def rangeBad (s : State) (t : TxnSt) (k : Nat) (v : W64) : Bool :=
  if k = rSnap 0 then
    let res := fld v 8 0
    fld v 23 21 == 0 || decide (4 < fld v 23 21) || decide (384 < res) ||
      (res != 0 && decide (res < fld v 15 15 + 1))
  else if 0x1000000 ≤ k ∧ k % 0x1000000 = 0x3C0010 then
    fld v 11 8 + fld v 7 4 + fld v 3 0 != 16 || fld v 11 8 == 0 || fld v 7 4 == 0 || fld v 3 0 == 0
  else match monAt k with
    | some (b, _, 0) => !sourceOk b (fld v 55 48) (fld v 38 30)
    | some (b, n, o) =>
      if 0x08 ≤ o ∧ o ≤ 0x20 then
        let j := (o - 0x08) / 8
        let edge := fun (i : Nat) => fld (s.stagedReg t (rMon b n (0x08 + 8 * (i / 4)))) (16 * (i % 4) + 15) (16 * (i % 4))
        -- pairs with an edge of this register
        (List.range 14).any fun i => (i / 4 == j || (i + 1) / 4 == j) && decide (edge (i + 1) < edge i)
      else false
    | none => false

/-- A page that a program was granted lies in the reserve of a staged SNAP_CFG (R472). -/
def reserveGranted (s : State) (v : W64) : Bool :=
  let base := spareBase - fld v 8 0 * 2 ^ 30
  s.pages.any fun x => bitAt x.2 0 && decide (base < (x.1 + 1) * 2 ^ 21) && decide (x.1 * 2 ^ 21 < spareBase)

/-- A state condition of the register's chapter fails (R288, R369, R472). -/
def conditionBad (s : State) (k : Nat) (v : W64) : Bool :=
  if k = 0x30 then v != s.reg k && (s.program.isSome || s.staged.isSome)
  else if k = rFab 0 then fld v 15 0 != s.selfEid && (List.range 24).any s.lnkUp
  else if k = rSnap 0 then
    s.regF (rSlot 0) 63 60 == 1 || s.regF (rSlot 1) 63 60 == 1 || s.reserveGranted v
  else false

/-- The first failing check of a commit, with the register that causes it (R599): every check over the
staged registers in ascending offset. -/
def commitFault (s : State) (t : TxnSt) : Option (Nat × Nat) :=
  match t.ovf with
  | some k => some (5, k)
  | none =>
    let find := fun (c : Nat) (p : Nat × W64 → Bool) => (t.staged.find? p).map fun e => (c, e.1)
    match find 4 fun e => !s.regReady e.1 || s.regLost e.1 with
    | some x => some x
    | none => match find 3 fun e => t.conflict.contains e.1 with
      | some x => some x
      | none => match find 1 fun e => s.rangeBad t e.1 e.2 with
        | some x => some x
        | none => find 2 fun e => s.conditionBad e.1 e.2

/-- A committed value takes effect: its RWT fields, and what its chapter ties to the commit. -/
def commitReg (s : State) (w : Who) (k : Nat) (v : W64) : State :=
  let old := s.reg k
  let s := ((fieldsAt k).filter fun f => f.acc == .rwt).foldl (fun s f => s.setRegF k f.hi f.lo (fld v f.hi f.lo)) s
  let changed := s.reg k != old
  -- the other requester's staged value of the register is in conflict (R599)
  let o := s.txn (otherWho w)
  let s := if changed && o.staged.any fun e => e.1 == k then s.setTxn (otherWho w) { o with conflict := k :: o.conflict }
    else s
  if k = rFab 0 then s.setBit k 48
  else if k = rSnap 0 then
    -- every slot becomes EMPTY, its generation record with it (R472)
    (if fld old 15 15 ≠ fld v 15 15 ∨ fld old 8 0 ≠ fld v 8 0 then
      [0, 1].foldl (fun s n =>
        let s := s.flashAbandon n
        let s := if n < s.slotN ∧ s.slotSize ≠ 0 then s.calm (·.memWrite (s.slotBase n + 4) [0#8] 0) else s
        s.setRegF (rSlot n) 63 60 0) s
    else s)
  else match monAt k with
    | some (b, n, _) => if changed then { s with mons := smSet {} s.mons (b * 128 + n) {} } else s
    | none => s

/-- PKG_TXN_COMMIT (R599, R600). -/
def fxPkgTxnCommit (s : State) (w : Who) (v : W64) : State :=
  if !s.txnOpen w || fld v 0 0 == 0 then s
  else
    let t := s.txn w
    match s.commitFault t with
    | some (cause, first) =>
      ((s.closeTxn w 4).setRegF (rTxnStat w) 55 48 cause).setRegF (rTxnStat w) 27 0 first
    | none => (t.staged.foldl (fun s e => s.commitReg w e.1 e.2) s).closeTxn w 1

/-- PKG_TXN_ROLLBACK (R597). -/
def fxPkgTxnRollback (s : State) (w : Who) (v : W64) : State :=
  if fld v 0 0 = 0 then s else s.closeTxn w 2

/-- TXN_TIMEOUT (R601): TMO_MS have passed since the BEGIN. -/
def fxTxnTimeout (s : State) (w : Who) : State := s.closeTxn w 3

/-! ### Descriptor blocks and the program-store window (R234, R237, R238, R592, R605, R606) -/

/-- A write into the shadow block of a slot: HOSTMOD is set, and the live field of word 26 goes to the
active block too. -/
def shadowWrite (s : State) (pu sl o : Nat) (p : Part) (x : W64) : State :=
  let a := rUnit pu (0x1000 + 0x400 * sl + o)
  let s := s.setReg a (combine p (s.reg a) x)
  let s := s.updUnit pu fun u => { u with hostmod := smSet false u.hostmod sl true }
  if o = 208 ∧ p ≠ .high then s.setRegF (rUnit pu (0x2000 + 0x400 * sl + 208)) 2 0 (fld x 2 0) else s

/-- A write into an active block: only bits [2:0] of word 26. -/
def activeWrite (s : State) (pu sl o : Nat) (p : Part) (x : W64) : State :=
  if o = 208 ∧ p ≠ .high then s.setRegF (rUnit pu (0x2000 + 0x400 * sl + 208)) 2 0 (fld x 2 0) else s

/-- Bank and bank byte of a byte of the program-store window (R606). -/
def pstoreAt (s : State) (pc o : Nat) : Nat × Nat :=
  (s.regF (rClu pc 0x30) 1 1, 131072 * s.regF (rClu pc 0x30) 0 0 + o)

/-- A write through the program-store window; one to the bank being fetched is refused (R234).  Whole
command words lose their poison. -/
def pstoreWrite (s : State) (pc o : Nat) (bs : List Byte) : State :=
  let a := s.pstoreAt pc o
  if s.fetching pc && s.ccBank pc == a.1 then (s.setBit (rClu pc 0x10) 1).bump (rClu pc 0x10) 63 48 1
  else s.updClu pc fun c => { c with
    store := smSetL 0#8 c.store (a.1 * 262144 + a.2) bs
    spoison := if bs.length = 8 then smSet false c.spoison (a.1 * 32768 + a.2 / 8) false else c.spoison }

/-- The word of the window at an offset that is a multiple of 8. -/
def pstoreWord (s : State) (pc o : Nat) : W64 :=
  let a := s.pstoreAt pc o
  BitVec.ofNat 64 (leVal (smGetL 0#8 (s.clu pc).store (a.1 * 262144 + a.2) 8))

/-- SHADOW_BLOCK_WRITE (R237). -/
def fxShadowBlockWrite (s : State) (u sl off size : Nat) (v : W64) : State :=
  match s.physUnit u, partOf off size with
  | some pu, some p => s.gate (8 + u / 96) fun s => s.shadowWrite pu sl (off / 8 * 8) p (placed p v)
  | _, _ => s

/-- ACTIVE_BLOCK_LIVE_WRITE (R238). -/
def fxActiveBlockLiveWrite (s : State) (u sl off size : Nat) (v : W64) : State :=
  match s.physUnit u, partOf off size with
  | some pu, some p => s.gate (8 + u / 96) fun s => s.activeWrite pu sl (off / 8 * 8) p (placed p v)
  | _, _ => s

/-- PSTORE_WINDOW_WRITE (R234, R606). -/
def fxPstoreWindowWrite (s : State) (c off size : Nat) (v : W64) : State :=
  match s.physClu c, partOf off size with
  | some pc, some _ => s.gate (8 + c / 24) fun s => s.pstoreWrite pc off (leBytes size v.toNat)
  | _, _ => s

/-! ### Register writes (R592 to R595) -/

/-- A write of a context's word of an enabled or disabled queue (R408 to R410). -/
def queueWrite (s : State) (n word : Nat) (y : W64) : State :=
  let cur := s.reg (rQ n word)
  match word with
  | 0 =>
    if s.qEn n then
      (if fld y 60 60 = 0 then s.fxQueueDisable n y else if s.qLocked n y then s.qcfgErr n 7 else s)
    else if fld y 60 60 = 1 then s.fxQueueEnable n y else s.qWrite0 n y
  | 1 => if s.qEn n then (if y = cur then s else s.qcfgErr n 7) else s.setReg (rQ n 1) y
  | 2 =>
    if s.qEn n && s.qKind n == 1 then
      (if y &&& 0xFFFF00000003FFFF#64 = cur &&& 0xFFFF00000003FFFF#64 then s else s.qcfgErr n 7)
    else s.setReg (rQ n 2) y
  | _ => s

/-- A write that its register's rule discards whole (R222, R246, R537, R558). -/
def discards (s : State) (k : Nat) (y : W64) : Bool :=
  if k = 0x38 then s.anyFetching
  else if 0x41000 ≤ k ∧ k < 0x42000 then
    k % 0x40 != 0 && (fld y 61 60 != 0 || fld y 29 28 != 0 || fld y 34 32 != 0 || fld y 2 0 != 0)
  else if k = 0x150000 then
    let hi := fld y 47 32
    let su := fld y 31 16
    decide (8000 < hi) || decide (hi < su) || decide (su < 2000) || decide (7600 < su)
  else if 0x1000000 ≤ k ∧ k < 0x9000000 then
    if k / 0x80000 % 8 = 7 then
      k % 0x1000000 == 0x3C0030 && (decide (12 < fld y 35 32) || decide (fld y 31 24 < 80) || decide (100 < fld y 31 24))
    else
      decide (k % 0x80000 < 0x40000) && decide (0x400 ≤ k % 0x10000) && decide (k % 0x10000 < 0x600) &&
        s.fetching (((k / 0x1000000 - 1) * 4 + k / 0x400000 % 4) * 7 + k / 0x80000 % 8)
  else false

/-- RW fields stored and W1C bits cleared (R593). -/
def storePlain (s : State) (k : Nat) (y : W64) (fs : List RegFld) : State :=
  fs.foldl (fun s f => match f.acc with
    | .rw => s.setRegF k f.hi f.lo (fld y f.hi f.lo)
    | .w1c => if fld y f.hi f.lo = 1 then s.setRegF k f.hi f.lo 0 else s
    | _ => s) s

/-- PKG, CLK, PWR, HIF and Almanac registers with a behaviour of their own; none for the others. -/
def pkgAct (s : State) (w : Who) (k : Nat) (p : Part) (y : W64) : Option State :=
  match k with
  | 0x48 => some (if p = .whole then s.fxPkgErrInj y else s)
  | 0x80 => some (if p = .high then s else s.fxPkgTxnBegin w y)
  | 0x88 => some (s.fxPkgTxnCommit w y)
  | 0x90 => some (s.fxPkgTxnRollback w y)
  | 0x10100 =>
    let s := s.setRegF k 8 8 (fld y 8 8)
    some (if p = .high then s else s.pwrRequest (fld y 2 0) (match w with | .host => 1 | .mgmt => 2))
  | 0x10118 => some (s.fxPwrStretchWrite y)
  | 0x20000 =>
    some (s.setRegF k 47 28 (fld y 47 28 / 2 ^ (s.regF k 4 0 - 28) * 2 ^ (s.regF k 4 0 - 28)))
  | _ =>
    if 0x10200 ≤ k ∧ k < 0x10240 then
      let d := (k - 0x10200) / 8
      some (if fld y 3 3 = 1 then s.fxPwrOpTWr d y
        else if fld y 7 7 = 1 then s.fxPwrOpFWr d y else s.fxPwrOpVWr d y)
    else if 0x30000 ≤ k ∧ k < 0x38000 ∧ k % 16 = 8 then
      let v := (k - 0x30000) / 16
      let s := (s.setRegF k 32 32 (fld y 32 32)).setRegF k 31 0 (fld y 31 0)
      -- a vector that is no longer masked sends its pending message
      some (if s.msixEn ∧ !s.msixMask ∧ fld y 32 32 = 0 ∧ s.bit (0x38000 + 8 * (v / 64)) (v % 64) then
        (s.clrBit (0x38000 + 8 * (v / 64)) (v % 64)).emit (.msix v) else s)
    else none

/-- Registers of the hubs and the fabric with a behaviour of their own. -/
def hubAct (s : State) (w : Who) (k : Nat) (p : Part) (y : W64) : Option State :=
  if k < 0x300000 then
    let h := k / 0x100000 - 1
    let o := k % 0x100000
    if 0x10000 ≤ o ∧ o < 0x13000 ∧ o % 0x400 = 0 then
      let n := 12 * h + (o - 0x10000) / 0x400
      if p = .high then some s
      else
        let s := (s.setRegF k 5 3 (fld y 5 3))
        let s := if fld y 7 7 = 1 then s.fxClrCnt n else s
        let s := if fld y 0 0 ≠ s.regF k 0 0 then s.fxLnkEnable n (fld y 0 0 == 1) else s
        let s := if fld y 2 2 = 1 then s.fxLnkRetrain n else s
        some (if fld y 6 6 = 1 then s.fxLanternSend n else s)
    else if k = rSnap 0x40 then some (s.ringWrite y)
    else none
  else match k with
    | 0x300028 => some (s.fxVigilStart w y)
    | 0x300030 => some (if p = .whole then s.fxFabRetire y else s)
    | 0x300038 => some (if fld y 0 0 = 1 then s.fxFabClrMon else s)
    | _ =>
      if 0x480000 ≤ k ∧ k < 0x500000 then
        some (s.setRt (1 - s.rtBank) ((k - 0x480000) / 8) (y &&& 0x8000FFFF0000003F#64))
      else if 0x500000 ≤ k ∧ k < 0x510000 then
        let i := (k - 0x500000) / 8
        let v := y &&& 0xFFFF#64
        some (s.updFab fun f => if s.rtBank = 0 then { f with val1 := smSet 0#64 f.val1 i v }
          else { f with val0 := smSet 0#64 f.val0 i v })
      else none

/-- Registers of a die with a behaviour of their own.  A write of CLU_CC_CTRL with BREAK and RESUME breaks first,
and resumes a core that the break has stopped (DESIGN CHOICE, log 11). -/
def dieAct (s : State) (k : Nat) (y : W64) : Option State :=
  let d := k / 0x1000000 - 1
  let g := k / 0x400000 % 4
  let o := k % 0x80000
  if k / 0x80000 % 8 = 7 then
    if o = 0x10008 then
      let s := if fld y 1 1 = 1 then s.fxUnpinAll (4 * d + g) else s
      some (if fld y 0 0 = 1 then s.fxMscFlush (4 * d + g) else s)
    else if 0x20000 ≤ o ∧ o < 0x21000 ∧ o % 0x100 = 8 then
      let ch := 64 * d + 16 * g + (o - 0x20000) / 0x100
      some ((s.fxTgStart ch y).fxTgStop ch y [])
    else if g = 0 ∧ o = 0x40040 then some (s.fxJubileeStart d y)
    else none
  else if o = 0x40008 then
    let pc := (d * 4 + g) * 7 + k / 0x80000 % 8
    match s.logClu pc with
    | some c =>
      let s := if fld y 1 1 = 1 then s.fxCcBreak c else s
      some (if fld y 0 0 = 1 then s.fxCcResume c else s)
    | none => some s
  else if o = 0x40010 then
    let pc := (d * 4 + g) * 7 + k / 0x80000 % 8
    let s := if fld y 1 1 = 1 then s.clrBit k 1 else s
    some (if fld y 2 2 = 1 then s.setBit (rClu pc 0x10) 0 else s)
  else none

/-- What a register holds for the halves that a write leaves: the entry of a staging bank for the
tables. -/
def heldWord (s : State) (k : Nat) : W64 :=
  if 0x480000 ≤ k ∧ k < 0x500000 then s.rtStage ((k - 0x480000) / 8)
  else if 0x500000 ≤ k ∧ k < 0x510000 then BitVec.ofNat 64 (s.valStage ((k - 0x500000) / 8))
  else s.reg k

/-- A write of a register, its bytes in place, applied field by field (R592, R593). -/
def regWriteAt (s : State) (w : Who) (k : Nat) (p : Part) (x : W64) : State :=
  let fs := fieldsAt k
  let y := effect (s.heldWord k) x p fs
  if fs.isEmpty || s.discards k y then s
  else if 0x9000000 ≤ k then s.queueWrite ((k - 0x9000000) / 64) (k / 8 % 8) y
  else
    let own := if k < 0x100000 then s.pkgAct w k p y
      else if k < 0x1000000 then s.hubAct w k p y else s.dieAct k y
    match own with
    | some t => t
    | none =>
      let s := (s.storePlain k y fs).stage w k p x
      -- a monitor point's CLOSE acts beside its staged fields
      match monAt k with
      | some (b, n, 0) => if fld y 25 25 = 1 then s.fxMonClose b n else s
      | _ => s

/-- A requester reaches BAR0: the host once the host interface is ready (R483) and while the module is not lost
(R29), the management port once the MMC is; none stands for either. -/
def reaches (s : State) (w : Option Who) : Bool :=
  !s.pwr.off && match w with
    | some .host => s.isReady 1
    | some .mgmt => s.isReady 0
    | none => s.isReady 1 || s.isReady 0

/-- A write of register `a` that has a row of its own: like any write, it needs its requester, and a function
that is ready and not lost (R483, R594). -/
def landed (s : State) (w : Option Who) (a : Nat) (f : State → State) : State :=
  if !s.reaches w then s
  else if !s.regReady a || s.regLost a then s.bump 0x28 15 0 1
  else f s

/-- A write of BAR0 by a requester (R592 to R595). -/
def fxRegisterWrite (s : State) (w : Who) (off size : Nat) (v : W64) : State :=
  match partOf off size with
  | none => s
  | some p =>
    let x := placed p v
    let a := off / 8 * 8
    if !s.reaches (some w) || (decide (0x60000 ≤ a) && decide (a < 0x100000)) then s
    else if !s.regReady a || s.regLost a then s.bump 0x28 15 0 1
    else match s.bar0Key a with
      | none => s
      | some k =>
        let o := k % 0x80000
        if 0x1000000 ≤ k ∧ k < 0x9000000 ∧ k / 0x80000 % 8 ≠ 7 then
          let pc := ((k / 0x1000000 - 1) * 4 + k / 0x400000 % 4) * 7 + k / 0x80000 % 8
          let pu := pc * 4 + o / 0x10000
          let uo := o % 0x10000
          if 0x60000 ≤ o then s.pstoreWrite pc (o - 0x60000 + off % 8) (leBytes size v.toNat)
          else if o < 0x40000 ∧ 0x1000 ≤ uo ∧ uo < 0x1C00 then
            s.shadowWrite pu ((uo - 0x1000) / 0x400) (uo % 0x400) p x
          else if o < 0x40000 ∧ 0x2000 ≤ uo ∧ uo < 0x2C00 then
            s.activeWrite pu ((uo - 0x2000) / 0x400) (uo % 0x400) p x
          else s.regWriteAt w k p x
        else s.regWriteAt w k p x

/-! ### Register reads (R405, R592) -/

/-- The word of BAR0 at an offset that is a multiple of 8, as a requester reads it.  What the MMC block shows
to the management port is not stated, and free. -/
def readWord (s : State) (w : Who) (a : Nat) : W64 :=
  let ready := s.regReady a && !s.regLost a
  if 0x60000 ≤ a ∧ a < 0x100000 then (match w with | .host => 0#64 | .mgmt => Config.freeField s.ctr a)
  else if a = 0x98 then s.reg (rTxnStat w)
  else if 0x50000 ≤ a ∧ a < 0x51000 then
    let i := s.regF 0x40010 15 0 + (a - 0x50000) / 64
    if s.bit rAlm 62 ∨ s.regF rAlm 60 44 ≤ i ∨ 65536 ≤ i then 0#64
    else wordAt (smGet [] s.almanac i) (a / 8 % 8)
  else match s.bar0Key a with
    | none => s.shownAt a
    | some k =>
      let o := k % 0x80000
      if 0x1000000 ≤ k ∧ k < 0x9000000 ∧ k / 0x80000 % 8 ≠ 7 ∧ 0x60000 ≤ o ∧ ready then
        s.pstoreWord (((k / 0x1000000 - 1) * 4 + k / 0x400000 % 4) * 7 + k / 0x80000 % 8) (o - 0x60000)
      -- the reserved bits of a context's word 2 follow its KIND (R407)
      else if 0x9000000 ≤ k ∧ k < 0xA000000 ∧ k / 8 % 8 = 2 then
        s.shownAt a &&& (if s.qKind ((k - 0x9000000) / 64) = 1 then 0xFFFF00000003FFFF#64 else 0xFFFFFFFF00000FFF#64)
      else s.shownAt a

/-- The bytes of a read of BAR0: 0 for another size or alignment than R592 accepts. -/
def readBytes (s : State) (w : Who) (off size : Nat) : List Byte :=
  match partOf off size with
  | none => leBytes size 0
  | some .high => leBytes 4 (fld (s.readWord w (off / 8 * 8)) 63 32)
  | some _ => leBytes size (s.readWord w off).toNat

/-! ### Losses of lock (R206, R494) -/

/-- DIE_LINK_RELOCK (R206): the latency of the boundary between dies `d` and `d` + 1 changes by one cycle. -/
def fxDieLinkRelock (s : State) (d : Nat) (longer : Bool) : State :=
  { s with relock := smSet 0 s.relock d (if longer then 1 else 2) }

/-- HBM_PHY_LOCK_LOSS (R303, R494): the channel fails as in a retrain window, and trains at the fallback
rate. -/
def fxHbmPhyLockLoss (s : State) (ch : Nat) : State :=
  let st := s.chState ch
  if st = 0 ∨ 3 < st ∨ s.chLost ch then s
  else (s.setRegF (rChan ch 0) 63 60 3).updChan ch fun c => { c with failing := true }

end State

/-! ### The meanings of the commands -/

/-- PKG_TXN_BEGIN (R597). -/
def execPkgTxnBegin (w : Who) (v : W64) (s : State) : Host.Outcome State Fault Refusal :=
  .next (s.landed (some w) 0x80 fun s => s.fxPkgTxnBegin w v)

/-- PKG_TXN_COMMIT (R599). -/
def execPkgTxnCommit (w : Who) (v : W64) (s : State) : Host.Outcome State Fault Refusal :=
  .next (s.landed (some w) 0x88 fun s => s.fxPkgTxnCommit w v)

/-- PKG_TXN_ROLLBACK (R597). -/
def execPkgTxnRollback (w : Who) (v : W64) (s : State) : Host.Outcome State Fault Refusal :=
  .next (s.landed (some w) 0x90 fun s => s.fxPkgTxnRollback w v)

/-- PWR_OP_V_WR (R498). -/
def execPwrOpVWr (d : DieIx) (v : W64) (s : State) : Host.Outcome State Fault Refusal :=
  .next (s.landed none (State.rOp d.val) fun s => s.fxPwrOpVWr d.val v)

/-- PWR_OP_F_WR (R498). -/
def execPwrOpFWr (d : DieIx) (v : W64) (s : State) : Host.Outcome State Fault Refusal :=
  .next (s.landed none (State.rOp d.val) fun s => s.fxPwrOpFWr d.val v)

/-- PWR_OP_T_WR (R498). -/
def execPwrOpTWr (d : DieIx) (v : W64) (s : State) : Host.Outcome State Fault Refusal :=
  .next (s.landed none (State.rOp d.val) fun s => s.fxPwrOpTWr d.val v)

/-- PWR_STRETCH_WRITE (R502). -/
def execPwrStretchWrite (v : W64) (s : State) : Host.Outcome State Fault Refusal :=
  .next (s.landed none 0x10118 fun s => s.fxPwrStretchWrite v)

/-- REQ_ACTIVE (R506). -/
def execReqActive (s : State) : Host.Outcome State Fault Refusal :=
  .next (s.landed (some .host) 0x10100 fun s => s.fxReqActive)

/-- REQ_IDLE (R505). -/
def execReqIdle (s : State) : Host.Outcome State Fault Refusal :=
  .next (s.landed (some .host) 0x10100 fun s => s.fxReqIdle)

/-- REQ_DORMANT (R505). -/
def execReqDormant (s : State) : Host.Outcome State Fault Refusal :=
  .next (s.landed (some .host) 0x10100 fun s => s.fxReqDormant)

/-- REQ_SOLSTICE (R505). -/
def execReqSolstice (s : State) : Host.Outcome State Fault Refusal :=
  .next (s.landed (some .host) 0x10100 fun s => s.fxReqSolstice)

/-- TXN_TIMEOUT (R601). -/
def execTxnTimeout (w : Who) (s : State) : Host.Outcome State Fault Refusal :=
  .next (s.fxTxnTimeout w)

/-- SHADOW_BLOCK_WRITE (R237). -/
def execShadowBlockWrite (u : UnitIx) (sl : Slot) (off : Fin 1024) (size : Nat) (v : W64) (s : State) : Host.Outcome State Fault Refusal :=
  .next (s.fxShadowBlockWrite u.val (slotIx sl) off.val size v)

/-- ACTIVE_BLOCK_LIVE_WRITE (R238). -/
def execActiveBlockLiveWrite (u : UnitIx) (sl : Slot) (off : Fin 1024) (size : Nat) (v : W64) (s : State) : Host.Outcome State Fault Refusal :=
  .next (s.fxActiveBlockLiveWrite u.val (slotIx sl) off.val size v)

/-- PSTORE_WINDOW_WRITE (R234). -/
def execPstoreWindowWrite (c : CluIx) (off : Fin 131072) (size : Nat) (v : W64) (s : State) : Host.Outcome State Fault Refusal :=
  .next (s.fxPstoreWindowWrite c.val off.val size v)

/-- REGISTER_WRITE (R593). -/
def execRegisterWrite (w : Who) (off : BitVec 28) (size : Nat) (v : W64) (s : State) : Host.Outcome State Fault Refusal :=
  .next (s.fxRegisterWrite w off.toNat size v)

/-- DIE_LINK_RELOCK (R206). -/
def execDieLinkRelock (d : Fin 7) (longer : Bool) (s : State) : Host.Outcome State Fault Refusal :=
  .next (s.fxDieLinkRelock d.val longer)

/-- HBM_PHY_LOCK_LOSS (R494). -/
def execHbmPhyLockLoss (ch : ChanIx) (s : State) : Host.Outcome State Fault Refusal :=
  .next (s.fxHbmPhyLockLoss ch.val)

end Sys2Proof.Machine
end

