-- ==== Sys2Proof/Machine/Mgmt.lean ====
section
/-!
DEFINITION. The 50 V input, the management port and its protocols, the console and the test access port
(R572 to R590).
-/

namespace Sys2Proof.Machine

/-- The record of a Wilvodom completion: success, refused, not authorised (R586). -/
def mgmtOk : Nat := 0
def mgmtRefused : Nat := 1
def mgmtNotAuthorised : Nat := 0x80

namespace State

/-! ### The input loss sequence (R576 to R578) -/

/-- The sequence of R577 with its CAUSE: a running flash segment completes, everything outside the
always-on and flash domains is lost, the record is written, the mirror is flushed and the time saved. -/
def inputLost (s : State) (m : InputLoss) (cause : Nat) : State :=
  if s.pwr.off then s
  else
    let avg := s.regF 0x150000 15 0
    let seg := if s.flash.gens.any (·.run) then 1 else 0
    let flash := s.isReady 4 && !s.hub1Lost && !s.bit rAlm 62
    let s := [0, 1].foldl (fun s n => s.segmentDone n (commit := false)) s
    let detail := m.vmin.toNat * 2 ^ 48 + avg * 2 ^ 32 + m.vhold.toNat * 2 ^ 16 + cause * 2 + seg
    let s := s.loseModule
    let s := (s.countErr 5).errRecord (mkErr 0x0508 0 0 (BitVec.ofNat 64 detail)) 4 1 false
    let s := if flash then s.mirror m.flushed else s
    s.saveTime.updPwr fun w => { w with off := true }

/-- INPUT_UNDERVOLTAGE (R576). -/
def fxInputUndervoltage (s : State) (m : InputLoss) : State := s.inputLost m 0
/-- INPUT_OVERVOLTAGE (R576). -/
def fxInputOvervoltage (s : State) (m : InputLoss) : State := s.inputLost m 1
/-- INPUT_CURRENT_LIMIT (R576). -/
def fxInputCurrentLimit (s : State) (m : InputLoss) : State := s.inputLost m 2

/-! ### Wilvodom commands (R586 to R588) -/

/-- The MMC answers (R484, R581); in recovery mode it accepts no Wilvodom command (R490). -/
def mmcUp (s : State) : Bool := !s.pwr.off && s.isReady 0

/-- HEALTHY_N is driven low: the MMC runs and no MODULE_FATAL error has occurred since the last cold reset
(R572). -/
def healthyLow (s : State) : Bool := s.mmcUp && !s.fatal

/-- ALERT# is driven: events are pending and the bus is in SMBus mode (R581). -/
def alertLow (s : State) : Bool := s.mmcUp && s.mmc.i3c.isNone && !s.mmc.events.isEmpty

/-- A completion. -/
def answerMgmt (s : State) (code : Nat) (bs : List Byte) : State := s.emit (.mgmt code bs)

/-- A Wilvodom command that any requester may send. -/
def plain (s : State) (f : State → State) : State :=
  if !s.mmcUp then s else if s.recovery then s.answerMgmt mgmtRefused [] else f s

/-- The command came inside a session that counts as authenticated: any open one while no anchor is set
(R586, R587). -/
def authorised (s : State) (auth : Bool) : Bool :=
  auth && s.mmc.sessions.any fun x => x.2 || s.mmc.anchor.isNone

/-- A Wilvodom command marked "session". -/
def session (s : State) (auth : Bool) (f : State → State) : State :=
  s.plain fun s => if s.authorised auth then f s else s.answerMgmt mgmtNotAuthorised []

/-- A command that is refused unless `ok`. -/
def accept (s : State) (ok : Bool) (f : State → State) : State :=
  if ok then (f s).answerMgmt mgmtOk [] else s.answerMgmt mgmtRefused []

/-- REG_READ. -/
def fxRegRead (s : State) (off size : Nat) : State :=
  s.plain fun s =>
    let b := s.readBytes .mgmt off size
    State.answerMgmt { s with ctr := s.ctr + 1 } mgmtOk b

/-- REG_WRITE. -/
def fxRegWrite (s : State) (auth : Bool) (off size : Nat) (v : W64) : State :=
  s.session auth fun s => s.accept true fun s => s.fxRegisterWrite .mgmt off size v

/-- The flash segments in progress complete, and the Almanac mirror is written (R586). -/
def settleFlash (s : State) : State :=
  let s := [0, 1].foldl (fun s n => s.segmentDone n) s
  if s.isReady 4 && !s.hub1Lost && !s.bit rAlm 62 then s.mirror else s

/-- COLD_RESET (R480, R573). -/
def fxColdReset (s : State) (auth : Bool) (b : BootVerdict) (maddr : Nat) : State :=
  s.session auth fun s =>
    let s := (s.answerMgmt mgmtOk []).settleFlash
    ((s.coldClear true).updMmc fun m => { m with maddr := maddr }).boot b 1 (s.reg 0x20)

/-- WARM_RESET (R480). -/
def fxWarmReset (s : State) (auth : Bool) (b : BootVerdict) : State :=
  s.session auth fun s => (s.answerMgmt mgmtOk []).settleFlash.warmReset b 3

/-- POWER_STATE (R504). -/
def fxPowerState (s : State) (auth : Bool) (req : Nat) : State :=
  s.session auth fun s => s.accept true fun s => s.pwrRequest req 2

/-- WAKE (R506). -/
def fxWake (s : State) : State := s.plain fun s => s.accept true fun s => s.wakeUp 2

/-- ADMIT (R467, R469). -/
def fxAdmitModule (s : State) (auth : Bool) (gen : Nat) : State :=
  s.session auth fun s => s.accept true fun s =>
    let s := s.setRegF (rFab 0) 47 32 gen
    if s.fenced then
      (((s.present.map Prod.snd).foldl (fun s pc => s.resetCluster pc) s).clrBit (rSnap 0x48) 32).setRegF rHv 63 60 0
    else s

/-- RETIRE_NOTICE (R468). -/
def fxRetireNotice (s : State) (auth : Bool) (gen : Nat) : State :=
  s.session auth fun s => s.accept true fun s => if gen = s.selfGen then s.calm (·.fence) else s

/-- CHANNEL_RETIRE (R304).  A channel in TEST leaves it only by training (R312). -/
def fxChannelRetire (s : State) (auth : Bool) (ch : Nat) : State :=
  s.session auth fun s => s.accept (decide (2 ≤ s.chState ch) && decide (s.chState ch ≤ 3) && !s.chLost ch) fun s =>
    ((s.retireChan ch false false).release ch).resume

/-- CHANNEL_TEST (R312). -/
def fxChannelTest (s : State) (auth : Bool) (ch : Nat) : State :=
  s.session auth fun s =>
    let dirty := (s.slice (sliceOf ch)).lines.any fun l => l.ch == ch && l.dirty
    s.accept (s.program.isNone && !dirty && s.chState ch == 2 && !s.chLost ch) fun s =>
      s.setRegF (rChan ch 0) 63 60 1

/-- CHANNEL_TRAIN (R304, R312). -/
def fxChannelTrain (s : State) (auth : Bool) (ch : Nat) (passed : Bool) (spared : Nat) : State :=
  s.session auth fun s => s.accept (s.chState ch == 1 && s.regF (rTg ch 0x10) 63 62 != 1 && !s.chLost ch) fun s =>
    let s := if passed then (s.setRegF (rChan ch 0) 63 60 2).setRegF (rChan ch 0) 59 56 spared
      else s.retireChan ch true false
    (s.release ch).resume

/-- COLUMN_TEST (R62), refused while a program is loaded or a load is staged. -/
def fxColumnTest (s : State) (auth : Bool) (u : Option Nat) : State :=
  s.session auth fun s => s.accept (s.program.isNone && s.staged.isNone) fun s =>
    match u with
    | some u => s.startTest u
    | none => (List.range 768).foldl (fun s u => s.startTest u) s

/-- The bytes of four records from an index; a record that is not there reads 0 (R540). -/
def recordBytes (rec_ : Nat → List W64) (ix : Nat) : List Byte :=
  (List.range 4).flatMap fun i => (List.range 8).flatMap fun j => leBytes 8 (wordAt (rec_ (ix + i)) j).toNat

/-- READ_ALMANAC (R540, R544). -/
def fxReadAlmanac (s : State) (archive : Bool) (ix : Nat) : State :=
  s.plain fun s =>
    if archive then
      (if s.isReady 4 then s.answerMgmt mgmtOk (recordBytes (fun i => s.flash.archive.getD i []) ix)
       else s.answerMgmt mgmtRefused [])
    else
      let n := if s.bit rAlm 62 then 0 else s.regF rAlm 60 44
      s.answerMgmt mgmtOk (recordBytes (fun i => if i < n then smGet [] s.almanac i else []) ix)

/-- CLEAR_ALMANAC (R544). -/
def fxClearAlmanac (s : State) (auth : Bool) : State :=
  s.session auth fun s => s.accept (!s.bit rAlm 62 && s.isReady 4 && !s.hub1Lost) fun s =>
    let n := s.regF rAlm 60 44
    let c := (s.regF rAlm 10 0 + 1) % 2048
    let s := s.setFlash fun f =>
      let a := f.newest
      { f with seg6 := a.getD f.seg6, seg7 := a.getD f.seg7, copy4 := { clears := c }, copy5 := { clears := c } }
    let s := { s with almanac := [] }
    let s := s.setReg rAlm (BitVec.ofNat 64 (s.regF rAlm 61 61 * 2 ^ 61 + c))
    s.record 0x13 0 0 0 0 (BitVec.ofNat 64 (n * 2 ^ 32 + c)) 0#64

/-- READ_BRINGUP (R485): the layout of the record's bytes is not stated, and they are free. -/
def fxReadBringup (s : State) (n : Nat) : State :=
  s.plain fun s =>
    if s.isReady 4 && decide (n < s.flash.bringup.length) then
      let l := s.freeWord
      let b := l.2.freeBytes (l.1.toNat % 65536)
      b.2.answerMgmt mgmtOk b.1
    else s.answerMgmt mgmtRefused []

/-- ACTIVATE (R491): the fuses are blown up to the SVN of the image that runs; the field has 64 bits. -/
def fxActivate (s : State) (auth : Bool) : State :=
  s.session auth fun s => s.accept true fun s =>
    let n := max s.mmc.fuse (min 64 (s.regF 0x28 47 32))
    (s.updMmc fun m => { m with fuse := n }).setRegF 0x28 31 16 n

/-- TEST_ACCESS (R590). -/
def fxTestAccess (s : State) (auth : Bool) : State :=
  s.session auth fun s => s.accept true fun s => s.updMmc fun m => { m with testAccess := true }

/-- SET_ANCHOR (R587). -/
def fxSetAnchor (s : State) (auth : Bool) (digest : BitVec 384) : State :=
  s.session auth fun s => s.accept true fun s => s.updMmc fun m => { m with anchor := some digest }

/-! ### PLDM, SPDM, I3C (R581 to R585) -/

/-- The bank that an update writes: the one that did not boot; in recovery mode, in which none booted, the
selected one. -/
def updateBank (s : State) : Bool := if s.recovery then s.mmc.sel else s.regF 0x28 55 55 == 0

/-- An image and its SVN written to a bank. -/
def writeImage (s : State) (bank : Bool) (image svn : Nat) : State :=
  s.updMmc fun m => if bank then { m with imgB := image, svnB := svn } else { m with imgA := image, svnA := svn }

/-- PLDM_FIRMWARE_UPDATE (R584). -/
def fxPldmFirmwareUpdate (s : State) (image svn : Nat) (activateFirmware : Bool) : State :=
  if !s.mmcUp then s
  else
    let bank := s.updateBank
    let s := s.writeImage bank image svn
    if activateFirmware then s.updMmc fun m => { m with sel := bank } else s

/-- PLDM_SENSOR_READ (R583): operational state 0 enabled or 2 unavailable, then MAX of the last window. -/
def fxPldmSensorRead (s : State) (id_ : Nat) : State :=
  if !s.mmcUp || s.recovery then s
  else if id_ < 0x1000 ∨ 0x1000 + 1280 ≤ id_ then s.answerMgmt 0x80 []
  else
    let b := (id_ - 0x1000) / 128
    let n := (id_ - 0x1000) % 128
    if fld (s.shown (rMon b n 0)) 63 63 = 1 ∧ !s.regLost (rMon b n 0) then
      s.answerMgmt mgmtOk (0#8 :: leBytes 4 (fld (s.shown (rMon b n 0x68)) 63 32))
    else s.answerMgmt mgmtOk [2#8]

/-- PLDM_EVENT_RETRIEVAL (R583): the oldest kept event. -/
def fxPldmEventRetrieval (s : State) : State :=
  if !s.mmcUp || s.recovery then s
  else match s.mmc.events with
    | [] => s
    | e :: es => (s.updMmc fun m => { m with events := es }).emit (.pldmEvent e)

/-- An answer of the SPDM responder, whose bytes are free. -/
def spdmAnswer (s : State) : State :=
  let l := s.freeWord
  let b := l.2.freeBytes (l.1.toNat % 65536)
  b.2.emit (.spdm b.1)

/-- The least session number in use by none. -/
def freeSession (l : List (Nat × Bool)) : Nat :=
  ((List.range 4).find? fun i => !(l.any fun x => x.1 == i)).getD 0

/-- SPDM_REQUEST (R585): at most four sessions. -/
def fxSpdmRequest (s : State) (r : SpdmReq) : State :=
  if !s.mmcUp || s.recovery then s
  else
    let s := s.spdmAnswer
    match r with
    | .keyExchange chained =>
      if s.mmc.sessions.length < 4 then
        s.updMmc fun m => { m with sessions := m.sessions ++ [(freeSession m.sessions, chained)] }
      else s
    | .endSession n => s.updMmc fun m => { m with sessions := m.sessions.filter fun x => x.1 != n }
    | _ => s

/-- I3C_ADDRESS_ASSIGN (R581). -/
def fxI3cAddressAssign (s : State) (o : I3cOp) : State :=
  if !s.mmcUp then s
  else s.updMmc fun m => { m with i3c := match o with
    | .setdasa a => some a.toNat
    | .entdaa a => some a.toNat
    | .rstdaa => none }

/-! ### Console and test access (R589, R590) -/

/-- XMODEM_BUNDLE (R589): in recovery mode, to the bank that failed; the selected one is the first that
did. -/
def fxXmodemBundle (s : State) (image svn : Nat) : State :=
  if s.pwr.off || !s.recovery then s else s.writeImage s.mmc.sel image svn

/-- TAP_INTRUSIVE_INSTRUCTION (R590). -/
def fxTapIntrusiveInstruction (s : State) (i : TapInstr) : State :=
  let honoured := match i with
    | .bypass | .idcode | .sample => false
    | _ => s.mmc.testAccess
  if !honoured || s.mmc.tapUsed || s.pwr.off then s
  else (s.updMmc fun m => { m with tapUsed := true }).setReadyWord (s.reg 0x18 &&& 3#64)

/-- TRST (R590): the TAP controllers alone, which hold nothing of the module's state. -/
def fxTrst (s : State) : State := s

end State

/-! ### The meanings of the commands -/

/-- INPUT_UNDERVOLTAGE (R576). -/
def execInputUndervoltage (m : InputLoss) (s : State) : Host.Outcome State Fault Refusal :=
  .next (s.fxInputUndervoltage m)

/-- INPUT_OVERVOLTAGE (R576). -/
def execInputOvervoltage (m : InputLoss) (s : State) : Host.Outcome State Fault Refusal :=
  .next (s.fxInputOvervoltage m)

/-- INPUT_CURRENT_LIMIT (R576). -/
def execInputCurrentLimit (m : InputLoss) (s : State) : Host.Outcome State Fault Refusal :=
  .next (s.fxInputCurrentLimit m)

/-- REG_READ (R586). -/
def execRegRead (off : BitVec 28) (size : Nat) (s : State) : Host.Outcome State Fault Refusal :=
  .next (s.fxRegRead off.toNat size)

/-- REG_WRITE (R586). -/
def execRegWrite (auth : Bool) (off : BitVec 28) (size : Nat) (v : W64) (s : State) : Host.Outcome State Fault Refusal :=
  .next (s.fxRegWrite auth off.toNat size v)

/-- COLD_RESET (R586). -/
def execColdReset (auth : Bool) (b : BootVerdict) (maddr : BitVec 4) (s : State) : Host.Outcome State Fault Refusal :=
  .next (s.fxColdReset auth b maddr.toNat)

/-- WARM_RESET (R586). -/
def execWarmReset (auth : Bool) (b : BootVerdict) (s : State) : Host.Outcome State Fault Refusal :=
  .next (s.fxWarmReset auth b)

/-- POWER_STATE (R586). -/
def execPowerState (auth : Bool) (req : Fin 8) (s : State) : Host.Outcome State Fault Refusal :=
  .next (s.fxPowerState auth req.val)

/-- WAKE (R586). -/
def execWake (s : State) : Host.Outcome State Fault Refusal :=
  .next (s.fxWake)

/-- ADMIT (R467). -/
def execAdmitModule (auth : Bool) (gen : BitVec 16) (s : State) : Host.Outcome State Fault Refusal :=
  .next (s.fxAdmitModule auth gen.toNat)

/-- RETIRE_NOTICE (R468). -/
def execRetireNotice (auth : Bool) (gen : BitVec 16) (s : State) : Host.Outcome State Fault Refusal :=
  .next (s.fxRetireNotice auth gen.toNat)

/-- CHANNEL_RETIRE (R304). -/
def execChannelRetire (auth : Bool) (ch : ChanIx) (s : State) : Host.Outcome State Fault Refusal :=
  .next (s.fxChannelRetire auth ch.val)

/-- CHANNEL_TEST (R312). -/
def execChannelTest (auth : Bool) (ch : ChanIx) (s : State) : Host.Outcome State Fault Refusal :=
  .next (s.fxChannelTest auth ch.val)

/-- COLUMN_TEST (R62). -/
def execColumnTest (auth : Bool) (u : Option UnitIx) (s : State) : Host.Outcome State Fault Refusal :=
  .next (s.fxColumnTest auth (u.map fun x => x.val))

/-- READ_ALMANAC (R586). -/
def execReadAlmanac (archive : Bool) (ix : BitVec 16) (s : State) : Host.Outcome State Fault Refusal :=
  .next (s.fxReadAlmanac archive ix.toNat)

/-- CLEAR_ALMANAC (R544). -/
def execClearAlmanac (auth : Bool) (s : State) : Host.Outcome State Fault Refusal :=
  .next (s.fxClearAlmanac auth)

/-- READ_BRINGUP (R586). -/
def execReadBringup (n : Nat) (s : State) : Host.Outcome State Fault Refusal :=
  .next (s.fxReadBringup n)

/-- ACTIVATE (R491). -/
def execActivate (auth : Bool) (s : State) : Host.Outcome State Fault Refusal :=
  .next (s.fxActivate auth)

/-- TEST_ACCESS (R590). -/
def execTestAccess (auth : Bool) (s : State) : Host.Outcome State Fault Refusal :=
  .next (s.fxTestAccess auth)

/-- SET_ANCHOR (R587). -/
def execSetAnchor (auth : Bool) (digest : BitVec 384) (s : State) : Host.Outcome State Fault Refusal :=
  .next (s.fxSetAnchor auth digest)

/-- CHANNEL_TRAIN (R312). -/
def execChannelTrain (auth : Bool) (ch : ChanIx) (passed : Bool) (spared : Fin 6) (s : State) : Host.Outcome State Fault Refusal :=
  .next (s.fxChannelTrain auth ch.val passed spared.val)

/-- PLDM_FIRMWARE_UPDATE (R584). -/
def execPldmFirmwareUpdate (image : Nat) (svn : BitVec 16) (activateFirmware : Bool) (s : State) : Host.Outcome State Fault Refusal :=
  .next (s.fxPldmFirmwareUpdate image svn.toNat activateFirmware)

/-- PLDM_SENSOR_READ (R583). -/
def execPldmSensorRead (id : BitVec 16) (s : State) : Host.Outcome State Fault Refusal :=
  .next (s.fxPldmSensorRead id.toNat)

/-- SPDM_REQUEST (R585). -/
def execSpdmRequest (r : SpdmReq) (s : State) : Host.Outcome State Fault Refusal :=
  .next (s.fxSpdmRequest r)

/-- I3C_ADDRESS_ASSIGN (R581). -/
def execI3cAddressAssign (o : I3cOp) (s : State) : Host.Outcome State Fault Refusal :=
  .next (s.fxI3cAddressAssign o)

/-- XMODEM_BUNDLE (R589). -/
def execXmodemBundle (image : Nat) (svn : BitVec 16) (s : State) : Host.Outcome State Fault Refusal :=
  .next (s.fxXmodemBundle image svn.toNat)

/-- TAP_INTRUSIVE_INSTRUCTION (R590). -/
def execTapIntrusiveInstruction (i : TapInstr) (s : State) : Host.Outcome State Fault Refusal :=
  .next (s.fxTapIntrusiveInstruction i)

/-- TRST (R590). -/
def execTrst (s : State) : Host.Outcome State Fault Refusal :=
  .next (s.fxTrst)

/-- PLDM_EVENT_RETRIEVAL (R583). -/
def execPldmEventRetrieval (s : State) : Host.Outcome State Fault Refusal :=
  .next (s.fxPldmEventRetrieval)

end Sys2Proof.Machine
end

