-- ==== Sys2Proof/Machine/Dispatch.lean ====
section
/-!
DEFINITION. The dispatch: one arm per command of the opcode table.
-/

namespace Sys2Proof.Machine

def exec (i : Instr) (s : State) : Host.Outcome State Fault Refusal :=
  match i with
  | .cfg c => Sys2Proof.Machine.execCfg c s
  | .dcrcCheck u sl => Sys2Proof.Machine.execDcrcCheck u sl s
  | .patch c => Sys2Proof.Machine.execPatch c s
  | .patchTakeEffect c => Sys2Proof.Machine.execPatchTakeEffect c s
  | .go c => Sys2Proof.Machine.execGo c s
  | .goAdmit u sl => Sys2Proof.Machine.execGoAdmit u sl s
  | .goPrepare u sl t => Sys2Proof.Machine.execGoPrepare u sl t s
  | .goStart u sl => Sys2Proof.Machine.execGoStart u sl s
  | .strm c => Sys2Proof.Machine.execStrm c s
  | .waittok c => Sys2Proof.Machine.execWaittok c s
  | .waittokRelease c => Sys2Proof.Machine.execWaittokRelease c s
  | .tokenTimeout c => Sys2Proof.Machine.execTokenTimeout c s
  | .sigtok c => Sys2Proof.Machine.execSigtok c s
  | .tokenAdd j => Sys2Proof.Machine.execTokenAdd j s
  | .replay c => Sys2Proof.Machine.execReplay c s
  | .swap c => Sys2Proof.Machine.execSwap c s
  | .swapTakeEffect c => Sys2Proof.Machine.execSwapTakeEffect c s
  | .fence c => Sys2Proof.Machine.execFence c s
  | .fenceRelease c => Sys2Proof.Machine.execFenceRelease c s
  | .halt c => Sys2Proof.Machine.execHalt c s
  | .programEnd c => Sys2Proof.Machine.execProgramEnd c s
  | .passStart u e => Sys2Proof.Machine.execPassStart u e s
  | .drainStart u e parity => Sys2Proof.Machine.execDrainStart u e parity s
  | .descriptorComplete u sl => Sys2Proof.Machine.execDescriptorComplete u sl s
  | .scaleReport j => Sys2Proof.Machine.execScaleReport j s
  | .scaleClose j => Sys2Proof.Machine.execScaleClose j s
  | .chainRowArrive u => Sys2Proof.Machine.execChainRowArrive u s
  | .chainAbort u => Sys2Proof.Machine.execChainAbort u s
  | .watchdog u => Sys2Proof.Machine.execWatchdog u s
  | .streamStart u => Sys2Proof.Machine.execStreamStart u s
  | .streamIssue u g => Sys2Proof.Machine.execStreamIssue u g s
  | .elementDelivery u g k t => Sys2Proof.Machine.execElementDelivery u g k t s
  | .faultTimeout u g k => Sys2Proof.Machine.execFaultTimeout u g k s
  | .sliceRequest r => Sys2Proof.Machine.execSliceRequest r s
  | .lineFill ch line sectors => Sys2Proof.Machine.execLineFill ch line sectors s
  | .retrainWindowOpen ch => Sys2Proof.Machine.execRetrainWindowOpen ch s
  | .retrainReopen ch spared => Sys2Proof.Machine.execRetrainReopen ch spared s
  | .retrainTimeout ch restored => Sys2Proof.Machine.execRetrainTimeout ch restored s
  | .fallbackTrainingDone ch passed => Sys2Proof.Machine.execFallbackTrainingDone ch passed s
  | .migrationUnitMove d => Sys2Proof.Machine.execMigrationUnitMove d s
  | .patrolRead ch sector o => Sys2Proof.Machine.execPatrolRead ch sector o s
  | .tgStart ch v => Sys2Proof.Machine.execTgStart ch v s
  | .tgStop ch v => Sys2Proof.Machine.execTgStop ch v s
  | .tgProgramEnd ch faulty => Sys2Proof.Machine.execTgProgramEnd ch faulty s
  | .mscFlush sl => Sys2Proof.Machine.execMscFlush sl s
  | .mscFlushDone sl => Sys2Proof.Machine.execMscFlushDone sl s
  | .unpinAll sl => Sys2Proof.Machine.execUnpinAll sl s
  | .upeJobTake d => Sys2Proof.Machine.execUpeJobTake d s
  | .upeTokenRelease d => Sys2Proof.Machine.execUpeTokenRelease d s
  | .upeTokenTimeout d => Sys2Proof.Machine.execUpeTokenTimeout d s
  | .update d => Sys2Proof.Machine.execUpdate d s
  | .norm d => Sys2Proof.Machine.execNorm d s
  | .statBlend d => Sys2Proof.Machine.execStatBlend d s
  | .rootPrep d => Sys2Proof.Machine.execRootPrep d s
  | .rootT d => Sys2Proof.Machine.execRootT d s
  | .upeJobComplete d => Sys2Proof.Machine.execUpeJobComplete d s
  | .linkTrainingDone p => Sys2Proof.Machine.execLinkTrainingDone p s
  | .trainFail p => Sys2Proof.Machine.execTrainFail p s
  | .initSend p => Sys2Proof.Machine.execInitSend p s
  | .initFlit p f => Sys2Proof.Machine.execInitFlit p f s
  | .codewordReceive p cw => Sys2Proof.Machine.execCodewordReceive p cw s
  | .linkFlit p f => Sys2Proof.Machine.execLinkFlit p f s
  | .nakRepeat p => Sys2Proof.Machine.execNakRepeat p s
  | .ackTimer p => Sys2Proof.Machine.execAckTimer p s
  | .replayTimeout p => Sys2Proof.Machine.execReplayTimeout p s
  | .lockLoss p => Sys2Proof.Machine.execLockLoss p s
  | .partnerSignalLoss p => Sys2Proof.Machine.execPartnerSignalLoss p s
  | .reinject p => Sys2Proof.Machine.execReinject p s
  | .autoRetrain p => Sys2Proof.Machine.execAutoRetrain p s
  | .lnkRetrain p => Sys2Proof.Machine.execLnkRetrain p s
  | .lnkEnable p on => Sys2Proof.Machine.execLnkEnable p on s
  | .lanternSend p => Sys2Proof.Machine.execLanternSend p s
  | .clrCnt p => Sys2Proof.Machine.execClrCnt p s
  | .portSleep p => Sys2Proof.Machine.execPortSleep p s
  | .sleep p => Sys2Proof.Machine.execSleep p s
  | .sleepAck p => Sys2Proof.Machine.execSleepAck p s
  | .sleepAckTimeout p => Sys2Proof.Machine.execSleepAckTimeout p s
  | .signalDetectWake p => Sys2Proof.Machine.execSignalDetectWake p s
  | .lanternDetect p bursts => Sys2Proof.Machine.execLanternDetect p bursts s
  | .autoWakeLantern p => Sys2Proof.Machine.execAutoWakeLantern p s
  | .packetRoute src => Sys2Proof.Machine.execPacketRoute src s
  | .packetForward src => Sys2Proof.Machine.execPacketForward src s
  | .put => Sys2Proof.Machine.execPut s
  | .putAck => Sys2Proof.Machine.execPutAck s
  | .msg => Sys2Proof.Machine.execMsg s
  | .token => Sys2Proof.Machine.execToken s
  | .coll => Sys2Proof.Machine.execColl s
  | .collCredit => Sys2Proof.Machine.execCollCredit s
  | .vigilStart w v => Sys2Proof.Machine.execVigilStart w v s
  | .vigilStop => Sys2Proof.Machine.execVigilStop s
  | .vigilCount => Sys2Proof.Machine.execVigilCount s
  | .vigilCommit => Sys2Proof.Machine.execVigilCommit s
  | .vigilRollback => Sys2Proof.Machine.execVigilRollback s
  | .vigilResume => Sys2Proof.Machine.execVigilResume s
  | .vigilReply => Sys2Proof.Machine.execVigilReply s
  | .vigilStageTimeout => Sys2Proof.Machine.execVigilStageTimeout s
  | .vigilSelfResume => Sys2Proof.Machine.execVigilSelfResume s
  | .fabRetire v => Sys2Proof.Machine.execFabRetire v s
  | .fabClrMon => Sys2Proof.Machine.execFabClrMon s
  | .copyOut h => Sys2Proof.Machine.execCopyOut h s
  | .transferTimeout h => Sys2Proof.Machine.execTransferTimeout h s
  | .reduceScatter e => Sys2Proof.Machine.execReduceScatter e s
  | .allGather e => Sys2Proof.Machine.execAllGather e s
  | .allReduce e => Sys2Proof.Machine.execAllReduce e s
  | .ringPass e => Sys2Proof.Machine.execRingPass e s
  | .collComplete e => Sys2Proof.Machine.execCollComplete e s
  | .collTimeout e => Sys2Proof.Machine.execCollTimeout e s
  | .bar4Read off len => Sys2Proof.Machine.execBar4Read off len s
  | .bar4Write off data => Sys2Proof.Machine.execBar4Write off data s
  | .doorbell off size v => Sys2Proof.Machine.execDoorbell off size v s
  | .doorbellArm off size v => Sys2Proof.Machine.execDoorbellArm off size v s
  | .queueEnable q v => Sys2Proof.Machine.execQueueEnable q v s
  | .queueDisable q v => Sys2Proof.Machine.execQueueDisable q v s
  | .sqFetch q r => Sys2Proof.Machine.execSqFetch q r s
  | .sqEntryTake tgt => Sys2Proof.Machine.execSqEntryTake tgt s
  | .completionPost tgt => Sys2Proof.Machine.execCompletionPost tgt s
  | .msixSend q => Sys2Proof.Machine.execMsixSend q s
  | .eventDelivery => Sys2Proof.Machine.execEventDelivery s
  | .load => Sys2Proof.Machine.execLoad s
  | .slotMapApply t => Sys2Proof.Machine.execSlotMapApply t s
  | .start => Sys2Proof.Machine.execStart s
  | .programStart => Sys2Proof.Machine.execProgramStart s
  | .grant => Sys2Proof.Machine.execGrant s
  | .revoke => Sys2Proof.Machine.execRevoke s
  | .pageRefuse => Sys2Proof.Machine.execPageRefuse s
  | .clusterReset => Sys2Proof.Machine.execClusterReset s
  | .unload => Sys2Proof.Machine.execUnload s
  | .atsTranslationResponse u g k r w logSize => Sys2Proof.Machine.execAtsTranslationResponse u g k r w logSize s
  | .pageRequestResponse u g k r => Sys2Proof.Machine.execPageRequestResponse u g k r s
  | .atsInvalidation addr len => Sys2Proof.Machine.execAtsInvalidation addr len s
  | .priEnableClear => Sys2Proof.Machine.execPriEnableClear s
  | .hostInterfaceReset => Sys2Proof.Machine.execHostInterfaceReset s
  | .harvestRingPoll => Sys2Proof.Machine.execHarvestRingPoll s
  | .harvestTokenRelease => Sys2Proof.Machine.execHarvestTokenRelease s
  | .equinox => Sys2Proof.Machine.execEquinox s
  | .equinoxAgreed => Sys2Proof.Machine.execEquinoxAgreed s
  | .harvestCopyCommit => Sys2Proof.Machine.execHarvestCopyCommit s
  | .record => Sys2Proof.Machine.execRecord s
  | .digest => Sys2Proof.Machine.execDigest s
  | .restore => Sys2Proof.Machine.execRestore s
  | .verify => Sys2Proof.Machine.execVerify s
  | .capture => Sys2Proof.Machine.execCapture s
  | .list => Sys2Proof.Machine.execList s
  | .harvestPut => Sys2Proof.Machine.execHarvestPut s
  | .generationRecordReread => Sys2Proof.Machine.execGenerationRecordReread s
  | .flashSegmentStart slot eCap pHold => Sys2Proof.Machine.execFlashSegmentStart slot eCap pHold s
  | .holdupRecheck slot eCap pHold => Sys2Proof.Machine.execHoldupRecheck slot eCap pHold s
  | .flashSegmentDone d => Sys2Proof.Machine.execFlashSegmentDone d s
  | .isolationTimeout => Sys2Proof.Machine.execIsolationTimeout s
  | .powerOnColdReset b maddr => Sys2Proof.Machine.execPowerOnColdReset b maddr s
  | .perstAssert b => Sys2Proof.Machine.execPerstAssert b s
  | .perstDeassert => Sys2Proof.Machine.execPerstDeassert s
  | .functionReady f o => Sys2Proof.Machine.execFunctionReady f o s
  | .rootClockLoss => Sys2Proof.Machine.execRootClockLoss s
  | .dieClockLoss d => Sys2Proof.Machine.execDieClockLoss d s
  | .pwrOpVWr d v => Sys2Proof.Machine.execPwrOpVWr d v s
  | .pwrOpFWr d v => Sys2Proof.Machine.execPwrOpFWr d v s
  | .pwrOpTWr d v => Sys2Proof.Machine.execPwrOpTWr d v s
  | .voltageSlewDone d => Sys2Proof.Machine.execVoltageSlewDone d s
  | .pwrStretchWrite v => Sys2Proof.Machine.execPwrStretchWrite v s
  | .reqActive => Sys2Proof.Machine.execReqActive s
  | .reqIdle => Sys2Proof.Machine.execReqIdle s
  | .reqDormant => Sys2Proof.Machine.execReqDormant s
  | .reqSolstice => Sys2Proof.Machine.execReqSolstice s
  | .powerEntryComplete => Sys2Proof.Machine.execPowerEntryComplete s
  | .d3hotToD0 => Sys2Proof.Machine.execD3hotToD0 s
  | .pwrTimerExpiry => Sys2Proof.Machine.execPwrTimerExpiry s
  | .wakeComplete copies => Sys2Proof.Machine.execWakeComplete copies s
  | .errorArrival e => Sys2Proof.Machine.execErrorArrival e s
  | .errorHandlingEnd lvl ix => Sys2Proof.Machine.execErrorHandlingEnd lvl ix s
  | .handlerStrike lvl x => Sys2Proof.Machine.execHandlerStrike lvl x s
  | .rateLimitReport lvl ix code => Sys2Proof.Machine.execRateLimitReport lvl ix code s
  | .pkgErrInj v => Sys2Proof.Machine.execPkgErrInj v s
  | .almanacMirror => Sys2Proof.Machine.execAlmanacMirror s
  | .almanacRestore => Sys2Proof.Machine.execAlmanacRestore s
  | .opsecTick => Sys2Proof.Machine.execOpsecTick s
  | .timeBaseSave => Sys2Proof.Machine.execTimeBaseSave s
  | .monitorSample b n v => Sys2Proof.Machine.execMonitorSample b n v s
  | .windowClose b n => Sys2Proof.Machine.execWindowClose b n s
  | .monClose b n => Sys2Proof.Machine.execMonClose b n s
  | .thermalControl d tj hot aged => Sys2Proof.Machine.execThermalControl d tj hot aged s
  | .powerControl sample avg10 vin msDue tenMsDue => Sys2Proof.Machine.execPowerControl sample avg10 vin msDue tenMsDue s
  | .thermalTrip dom sensor temp => Sys2Proof.Machine.execThermalTrip dom sensor temp s
  | .jubileeDue d => Sys2Proof.Machine.execJubileeDue d s
  | .jubileeStart d v => Sys2Proof.Machine.execJubileeStart d v s
  | .jubileeRun d => Sys2Proof.Machine.execJubileeRun d s
  | .jubileeComplete d runs => Sys2Proof.Machine.execJubileeComplete d runs s
  | .columnTestDone u faults => Sys2Proof.Machine.execColumnTestDone u faults s
  | .inputUndervoltage m => Sys2Proof.Machine.execInputUndervoltage m s
  | .inputOvervoltage m => Sys2Proof.Machine.execInputOvervoltage m s
  | .inputCurrentLimit m => Sys2Proof.Machine.execInputCurrentLimit m s
  | .regRead off size => Sys2Proof.Machine.execRegRead off size s
  | .regWrite auth off size v => Sys2Proof.Machine.execRegWrite auth off size v s
  | .coldReset auth b maddr => Sys2Proof.Machine.execColdReset auth b maddr s
  | .warmReset auth b => Sys2Proof.Machine.execWarmReset auth b s
  | .powerState auth req => Sys2Proof.Machine.execPowerState auth req s
  | .wake => Sys2Proof.Machine.execWake s
  | .admitModule auth gen => Sys2Proof.Machine.execAdmitModule auth gen s
  | .retireNotice auth gen => Sys2Proof.Machine.execRetireNotice auth gen s
  | .channelRetire auth ch => Sys2Proof.Machine.execChannelRetire auth ch s
  | .channelTest auth ch => Sys2Proof.Machine.execChannelTest auth ch s
  | .columnTest auth u => Sys2Proof.Machine.execColumnTest auth u s
  | .readAlmanac archive ix => Sys2Proof.Machine.execReadAlmanac archive ix s
  | .clearAlmanac auth => Sys2Proof.Machine.execClearAlmanac auth s
  | .readBringup n => Sys2Proof.Machine.execReadBringup n s
  | .activate auth => Sys2Proof.Machine.execActivate auth s
  | .testAccess auth => Sys2Proof.Machine.execTestAccess auth s
  | .setAnchor auth digest => Sys2Proof.Machine.execSetAnchor auth digest s
  | .channelTrain auth ch passed spared => Sys2Proof.Machine.execChannelTrain auth ch passed spared s
  | .pldmFirmwareUpdate image svn activateFirmware => Sys2Proof.Machine.execPldmFirmwareUpdate image svn activateFirmware s
  | .pldmSensorRead id => Sys2Proof.Machine.execPldmSensorRead id s
  | .spdmRequest r => Sys2Proof.Machine.execSpdmRequest r s
  | .i3cAddressAssign o => Sys2Proof.Machine.execI3cAddressAssign o s
  | .xmodemBundle image svn => Sys2Proof.Machine.execXmodemBundle image svn s
  | .tapIntrusiveInstruction j => Sys2Proof.Machine.execTapIntrusiveInstruction j s
  | .trst => Sys2Proof.Machine.execTrst s
  | .pkgTxnBegin w v => Sys2Proof.Machine.execPkgTxnBegin w v s
  | .pkgTxnCommit w v => Sys2Proof.Machine.execPkgTxnCommit w v s
  | .pkgTxnRollback w v => Sys2Proof.Machine.execPkgTxnRollback w v s
  | .txnTimeout w => Sys2Proof.Machine.execTxnTimeout w s
  | .shadowBlockWrite u sl off size v => Sys2Proof.Machine.execShadowBlockWrite u sl off size v s
  | .activeBlockLiveWrite u sl off size v => Sys2Proof.Machine.execActiveBlockLiveWrite u sl off size v s
  | .pstoreWindowWrite c off size v => Sys2Proof.Machine.execPstoreWindowWrite c off size v s
  | .swapReq c => Sys2Proof.Machine.execSwapReq c s
  | .ccBreak c => Sys2Proof.Machine.execCcBreak c s
  | .ccResume c => Sys2Proof.Machine.execCcResume c s
  | .snapRingEnable v => Sys2Proof.Machine.execSnapRingEnable v s
  | .registerWrite w off size v => Sys2Proof.Machine.execRegisterWrite w off size v s
  | .dieLinkRelock d longer => Sys2Proof.Machine.execDieLinkRelock d longer s
  | .hbmPhyLockLoss ch => Sys2Proof.Machine.execHbmPhyLockLoss ch s
  | .harvestTokenTimeout => Sys2Proof.Machine.execHarvestTokenTimeout s
  | .transferTokenTimeout h => Sys2Proof.Machine.execTransferTokenTimeout h s
  | .d3hotEntry => Sys2Proof.Machine.execD3hotEntry s
  | .pldmEventRetrieval => Sys2Proof.Machine.execPldmEventRetrieval s

end Sys2Proof.Machine
end

