-- ==== Sys2Proof/WellFormed.lean ====
section
/-!
DEFINITION. Well-formed commands: operand lists have the lengths that the manual gives the things they
describe, and operands lie in the ranges of the hardware.  Whether a step may happen in a state is not
asked here: that is its meaning's business.
-/

namespace Sys2Proof

/-- Channel bytes (R280). -/
def chanSize : Nat := if Config.order768 then 1536 * 2 ^ 20 else 1024 * 2 ^ 20

/-- A fault map of a unit: six arrays (R61). -/
def mapWf (f : List (BitVec 66)) : Bool := f.length == 6

/-- R14, R65: 28 physical clusters and 112 physical units of a die. -/
def SelfTest.wf (t : SelfTest) : Bool :=
  t.clusterOk.length == 28 && t.colFaults.length == 112 && t.colFaults.all mapWf

/-- A slot is 64 bytes (R348). -/
def SlotIn.wf (x : SlotIn) : Bool := x.bytes.length == 64

/-- At most 15 corrected symbols and ten slots (R348, R349). -/
def CodewordIn.wf : CodewordIn → Bool
  | .align => true
  | .decoded n slots => decide (n ≤ 15) && slots.length == 10 && slots.all SlotIn.wf
  | .uncorrectable => true

/-- A slice request of at least one byte, at most 4 KiB (R258, R290). -/
def SliceReq.wf : SliceReq → Bool
  | .stream _ _ _ _ => true
  | .read _ len _ => decide (1 ≤ len) && decide (len ≤ 4096)
  | .write _ data _ => decide (1 ≤ data.length) && decide (data.length ≤ 4096)

/-- A die brings its self-test, a stack its 32 channels (R484, R485). -/
def readyWf (f : Func) (o : ReadyOutcome) : Bool :=
  match f, o with
  | .die _, .ready t _ => t.wf
  | .stack _ _, .ready _ ch => ch.length == 32
  | .stack _ _, _ => true
  | _, .capacityMismatch => false
  | _, _ => true

/-- The command is well formed. -/
def Instr.wf (i : Instr) : Bool :=
  match i with
  | .sliceRequest r => r.wf
  | .lineFill _ line os => decide (line < chanSize / 128) && os.length == 4
  | .patrolRead _ sector _ => decide (sector < chanSize / 32)
  | .migrationUnitMove d => decide (d.sectors.length ≤ 32)
  | .tgStop _ v => v.faulty.all fun f => decide (f.1 < chanSize / 32)
  | .tgProgramEnd _ faulty => faulty.all fun f => decide (f.1 < chanSize / 32)
  | .codewordReceive _ cw => cw.wf
  | .linkFlit _ f => f.credits.length == 4
  -- one PCIe read or write (R400, R402)
  | .bar4Read off len => decide (1 ≤ len) && decide (len ≤ 4096) && decide (off + len ≤ 2 ^ 36)
  | .bar4Write off data => decide (1 ≤ data.length) && decide (data.length ≤ 512) && decide (off + data.length ≤ 2 ^ 36)
  -- 4 KiB to 1 GiB (R434)
  | .atsTranslationResponse _ _ _ _ _ n => decide (12 ≤ n) && decide (n ≤ 30)
  | .functionReady f o => readyWf f o
  | .jubileeComplete _ runs => runs.length == 5
  | .columnTestDone _ faults => mapWf faults
  | _ => true

end Sys2Proof
end

