-- ==== Sys2Proof/Safety.lean ====
section
/-!
DEFINITION. What claims call a good state and a safe step: the canonical form of the memories and of the
register table, a queue of well-formed commands, and a step that goes on.
-/

namespace Sys2Proof.Machine

/-- Keys strictly rising and no register listed at its reset value: the canonical form of the register
table. -/
def Registers.wf : SMap W64 → Bool
  | [] => true
  | (k, v) :: m => decide (v ≠ regReset k) && m.all (fun e => decide (k < e.1)) && Registers.wf m

/-- Every memory of the module is in canonical form: the channels and their poison, the tile stores, the
program stores, the flash, the host's memory, the page table. -/
def Memory.wf (s : State) : Bool :=
  smWf 0#8 s.chanBytes && smWf false s.chanPoison && smWf 0#8 s.hostMem && smWf 0 s.pages &&
  smWf 0#8 s.flash.data &&
  (s.units.all fun x => smWf 0#8 x.2.tile && smWf false x.2.tpoison) &&
  s.clus.all fun x => smWf 0#8 x.2.store && smWf false x.2.spoison

/-- Every waiting command is well formed. -/
def Queue.wf (s : State) : Bool := s.pending.all Instr.wf

/-- A step that goes on: the machine neither faults nor refuses. -/
def Goes (s : State) : Prop := ∃ t, step s = .next t

end Sys2Proof.Machine
end

