-- ==== Sys2Proof/Certificates/Slice0/Obligations.lean ====
section
/-!
DEFINITION. The statements for the provers, and the conditions they are stated under.

`Claims` holds the conditions: each `pre` abbreviation is what a clause supposes of the state and of the
command's operands, and nothing else.  In a clause `t` is the state after the command.  A last equation
`t = { s with regs := t.regs, … }` says that every component of the state that it does not name is as before:
every memory, queue, buffer, register table and counter.
-/

open Sys2Proof Sys2Proof.Machine

/-- The front command runs on the state with the queue's rest. -/
def Obligations.StepRunsTheFrontCommand : Prop :=
  ∀ (c : Instr) (cs : List Instr) (s : State),
    step { s with pending := c :: cs } = exec c { s with pending := cs }

/-- DESIGN CHOICE (log 2): nothing happens on an empty queue. -/
def Obligations.EmptyQueueIdles : Prop :=
  ∀ s : State, s.pending = [] → step s = .next s

/-- Commands run first in, first out, one a step, and none of them stops the block. -/
def Obligations.EveryStepCompletesAndTakesOne : Prop :=
  ∀ s : State, ∃ t, step s = .next t ∧ t.pending = s.pending.tail

/-- The queue's invariant. -/
def Obligations.WaitingCommandsStayWellFormed : Prop :=
  ∀ s t : State, Queue.wf s = true → step s = .next t → Queue.wf t = true

/-- The canonical form of the registers is an invariant of every command. -/
def Obligations.RegisterTableStaysCanonical : Prop :=
  ∀ s t : State, Registers.wf s.regs = true → step s = .next t → Registers.wf t.regs = true

/-- The canonical form of the memories is an invariant of every command. -/
def Obligations.MemoriesStayCanonical : Prop :=
  ∀ s t : State, Memory.wf s = true → step s = .next t → Memory.wf t = true

/-- Reset meets every invariant above. -/
def Obligations.ResetStateIsWellFormed : Prop :=
  Registers.wf State.reset.regs = true ∧ Memory.wf State.reset = true ∧ Queue.wf State.reset = true ∧
    State.reset.pending = [] ∧ Goes State.reset

namespace Sys2Proof.Claims

/-- Control core `c` stands at word `w`, which spells opcode `op`; `n` words from there lie in the list and
in the bank and are not poisoned; no break is due. -/
abbrev atCommand (s : State) (c : CluIx) (pc w op n : Nat) (f : Frame) (fs : List Frame) : Prop :=
  s.physClu c.val = some pc ∧ (s.clu pc).frames = f :: fs ∧ w = f.list + f.pos ∧ f.pos + n ≤ f.len ∧
  w + n ≤ 32768 ∧ (∀ i < n, s.ccPoison pc (w + i) = false) ∧ fld (s.ccWord pc w) 63 56 = op ∧
  (s.clu pc).ending = false ∧ (s.clu pc).breakReq = false ∧
  (s.ccState pc = 1 ∨ s.ccState pc = 2 ∧ (s.clu pc).wait = .none)

/-- The selected units can take the command in a queue of 16 entries (R191, R192). -/
abbrev queuesFree (s : State) (pc : Nat) (w0 : W64) (len : UnitSt → Nat) : Prop :=
  ∀ pu ∈ State.selUnits pc w0, s.unitHalted pu = false ∧ len (s.unit pu) < 16

/-- The provenance of a confirmed command at word `w`. -/
abbrev provOf (s : State) (pc w : Nat) (f : Frame) : Prov :=
  { ticket := (s.clu pc).seq, pc := w, bank := s.ccBank pc, iter := f.run, spec := false }

/-- The fields of a CFG pass their checks (R189, R190). -/
abbrev cfgFields (s : State) (w0 w1 : W64) : Prop :=
  fld w0 55 52 ≠ 0 ∧ fld w0 51 50 ≠ 3 ∧ fld w0 48 0 = 0 ∧ fld w1 63 48 = 0 ∧
  (fld w0 49 49 = 0 → fld w1 47 0 % 1024 = 0 ∧ fld w1 47 0 < 262144) ∧
  (fld w0 49 49 = 1 → fld w1 47 0 % 64 = 0 ∧ s.rangePresent (fld w1 47 0) 1024 = true)

/-- The fields of a GO pass their checks. -/
abbrev goFields (w0 : W64) : Prop := fld w0 55 52 ≠ 0 ∧ fld w0 51 50 ≠ 3 ∧ fld w0 49 24 = 0

/-- The fields of a STRM pass their checks. -/
abbrev strmFields (s : State) (w0 w1 : W64) : Prop :=
  fld w0 55 52 ≠ 0 ∧ fld w0 48 43 = 0 ∧ fld w0 39 0 = 0 ∧ fld w1 63 48 = 0 ∧ fld w1 47 0 % 64 = 0 ∧
  (fld w0 49 49 = 0 → fld w1 47 0 + 96 ≤ 262144) ∧
  (fld w0 49 49 = 1 → s.rangePresent (fld w1 47 0) 96 = true)

/-- What the three commands leave alone, and the core's own record of the command. -/
abbrev coreWentOn (s t : State) (pc w : Nat) (us : List Nat) : Prop :=
  t.regF (rClu pc 0) 46 32 = w ∧ t.regF (rClu pc 0) 31 0 = (s.regF (rClu pc 0) 31 0 + 1) % 2 ^ 32 ∧
  (t.clu pc).seq = (s.clu pc).seq + 1 ∧
  (∀ a, a ≠ rClu pc 0 → t.reg a = s.reg a) ∧ (∀ k, k ∉ us → t.unit k = s.unit k) ∧
  (∀ k, k ≠ pc → t.clu k = s.clu k) ∧
  t = { s with regs := t.regs, units := t.units, clus := t.clus }

end Sys2Proof.Claims

open Sys2Proof.Claims in
/-- R191: CFG and GO take one entry in the queue of their slot, STRM one in the stream queue. -/
def Obligations.QueuedCommandsEnterTheirQueues : Prop :=
  -- CFG
  (∀ (s : State) (c : CluIx) (pc w : Nat) (f : Frame) (fs : List Frame),
    atCommand s c pc w 1 2 f fs → cfgFields s (s.ccWord pc w) (s.ccWord pc (w + 1)) →
    queuesFree s pc (s.ccWord pc w) (fun u => (u.queue (fld (s.ccWord pc w) 51 50)).length) →
    ∃ t, exec (.cfg c) s = .next t ∧
      (∀ pu ∈ State.selUnits pc (s.ccWord pc w), (t.unit pu).queue (fld (s.ccWord pc w) 51 50) =
        (s.unit pu).queue (fld (s.ccWord pc w) 51 50) ++
          [{ cmd := .cfg (fld (s.ccWord pc w) 49 49) (fld (s.ccWord pc (w + 1)) 47 0), prov := provOf s pc w f }]) ∧
      coreWentOn s t pc w (State.selUnits pc (s.ccWord pc w))) ∧
  -- GO
  (∀ (s : State) (c : CluIx) (pc w : Nat) (f : Frame) (fs : List Frame),
    atCommand s c pc w 3 1 f fs → goFields (s.ccWord pc w) →
    queuesFree s pc (s.ccWord pc w) (fun u => (u.queue (fld (s.ccWord pc w) 51 50)).length) →
    ∃ t, exec (.go c) s = .next t ∧
      (∀ pu ∈ State.selUnits pc (s.ccWord pc w),
        (t.unit pu).queue (fld (s.ccWord pc w) 51 50) = (s.unit pu).queue (fld (s.ccWord pc w) 51 50) ++
          [{ cmd := .go (fld (s.ccWord pc w) 23 0), prov := provOf s pc w f }] ∧
        (t.unit pu).sb.map (·.ticket) = (s.unit pu).sb.map (·.ticket) ++ [(s.clu pc).seq]) ∧
      coreWentOn s t pc w (State.selUnits pc (s.ccWord pc w))) ∧
  -- STRM
  ∀ (s : State) (c : CluIx) (pc w : Nat) (f : Frame) (fs : List Frame),
    atCommand s c pc w 4 2 f fs → strmFields s (s.ccWord pc w) (s.ccWord pc (w + 1)) →
    queuesFree s pc (s.ccWord pc w) (fun u => u.squeue.length) →
    ∃ t, exec (.strm c) s = .next t ∧
      (∀ pu ∈ State.selUnits pc (s.ccWord pc w),
        (t.unit pu).squeue = (s.unit pu).squeue ++
          [{ gen := fld (s.ccWord pc w) 51 50, task := fld (s.ccWord pc w) 42 40, src := fld (s.ccWord pc w) 49 49,
             addr := fld (s.ccWord pc (w + 1)) 47 0, prov := provOf s pc w f }] ∧
        (t.unit pu).sb = (s.unit pu).sb ++ [{ ticket := (s.clu pc).seq }]) ∧
      coreWentOn s t pc w (State.selUnits pc (s.ccWord pc w))

namespace Sys2Proof.Claims

/-- Only the core's own state and its CLU_CC_STAT differ. -/
abbrev onlyCore (s t : State) (pc : Nat) : Prop :=
  (∀ a, a ≠ rClu pc 0 → t.reg a = s.reg a) ∧ (∀ k, k ≠ pc → t.clu k = s.clu k) ∧
  t = { s with regs := t.regs, clus := t.clus }

/-- PC and CMDS after a command at word `w`. -/
abbrev counted (s t : State) (pc w : Nat) : Prop :=
  t.regF (rClu pc 0) 46 32 = w ∧ t.regF (rClu pc 0) 31 0 = (s.regF (rClu pc 0) 31 0 + 1) % 2 ^ 32

/-- The fields of a PATCH pass their checks. -/
abbrev patchFields (s : State) (w0 w1 : W64) : Prop :=
  fld w0 55 52 ≠ 0 ∧ fld w0 51 50 = 0 ∧ fld w0 49 48 ≠ 3 ∧ fld w0 47 37 = 0 ∧ fld w0 31 0 = 0 ∧
  (fld w0 49 48 = 2 → fld w1 63 48 = 0 ∧ fld w1 47 0 % 8 = 0 ∧ s.rangePresent (fld w1 47 0) 8 = true)

end Sys2Proof.Claims

open Sys2Proof.Claims in
/-- R186, R197, R199: the three commands after which the core waits. -/
def Obligations.WaitingCommandsHoldTheCore : Prop :=
  -- PATCH
  (∀ (s : State) (c : CluIx) (pc w : Nat) (f : Frame) (fs : List Frame),
    atCommand s c pc w 2 2 f fs → patchFields s (s.ccWord pc w) (s.ccWord pc (w + 1)) →
    ∃ t, exec (.patch c) s = .next t ∧ t.ccState pc = 2 ∧
      (t.clu pc).wait = .patch
        { units := fld (s.ccWord pc w) 55 52, pr := fld (s.ccWord pc w) 36 32, mode := fld (s.ccWord pc w) 49 48,
          value := s.ccWord pc (w + 1), pc := w, ticket := (s.clu pc).seq, incr := false } ∧
      counted s t pc w ∧ onlyCore s t pc) ∧
  -- WAITTOK with a VALUE
  (∀ (s : State) (c : CluIx) (pc w : Nat) (f : Frame) (fs : List Frame),
    atCommand s c pc w 5 1 f fs → fld (s.ccWord pc w) 55 48 = 0 → fld (s.ccWord pc w) 23 16 = 0 → fld (s.ccWord pc w) 39 24 ≠ 0 →
    ∃ t, exec (.waittok c) s = .next t ∧ t.ccState pc = 3 ∧
      (t.clu pc).wait = .token (fld (s.ccWord pc w) 47 40) (fld (s.ccWord pc w) 39 24) (fld (s.ccWord pc w) 15 0) w ∧
      counted s t pc w ∧ onlyCore s t pc) ∧
  -- WAITTOK with VALUE 0
  (∀ (s : State) (c : CluIx) (pc w : Nat) (f : Frame) (fs : List Frame),
    atCommand s c pc w 5 1 f fs → fld (s.ccWord pc w) 55 48 = 0 → fld (s.ccWord pc w) 23 16 = 0 → fld (s.ccWord pc w) 39 24 = 0 →
    f.pos + 1 < f.len →
    ∃ t, exec (.waittok c) s = .next t ∧ t.ccState pc = 1 ∧ (t.clu pc).wait = (s.clu pc).wait ∧
      counted s t pc w ∧ onlyCore s t pc) ∧
  -- FENCE
  ∀ (s : State) (c : CluIx) (pc w : Nat) (f : Frame) (fs : List Frame),
    atCommand s c pc w 9 1 f fs → fld (s.ccWord pc w) 55 52 ≠ 0 → fld (s.ccWord pc w) 51 0 = 0 →
    ∃ t, exec (.fence c) s = .next t ∧ t.ccState pc = 4 ∧
      (t.clu pc).wait = .fence (fld (s.ccWord pc w) 55 52) (s.clu pc).seq w ∧
      counted s t pc w ∧ onlyCore s t pc

namespace Sys2Proof.Claims

/-- The fields of a REPLAY pass their checks. -/
abbrev replayFields (w0 w1 : W64) : Prop :=
  fld w0 55 52 ≠ 0 ∧ fld w0 29 15 ≠ 0 ∧ fld w0 14 0 + fld w0 29 15 ≤ 32768 ∧ fld w1 63 32 = 0

/-- The fields of a SIGTOK pass their checks. -/
abbrev sigtokFields (s : State) (w0 w1 : W64) : Prop :=
  fld w0 55 54 = 0 ∧ fld w0 49 48 ≠ 3 ∧ ¬(fld w0 49 48 = 1 ∧ fld w0 51 50 = 3) ∧ fld w0 39 32 ≠ 0 ∧
  fld w0 31 30 ≠ 3 ∧ fld w0 29 24 = 0 ∧ fld w0 15 0 = 0 ∧
  (fld w0 31 30 = 1 → fld w0 23 16 < 192 ∧ (s.physClu (fld w0 23 16)).isSome = true) ∧
  (fld w0 31 30 = 2 → fld w0 23 16 < 192 ∧ fld w1 63 16 = 0)

/-- The words of a SIGTOK. -/
abbrev sigWords (w0 : W64) : Nat := if fld w0 31 30 = 2 then 2 else 1

/-- The ticket that a SIGTOK waits for: of the last GO or STRM of this run, 0 for none. -/
abbrev sigTicket (s : State) (pc : Nat) (w0 : W64) : Nat :=
  if fld w0 49 48 = 1 then smGet 0 (s.clu pc).lastGo (fld w0 53 52 * 4 + fld w0 51 50)
  else if fld w0 49 48 = 2 then smGet 0 (s.clu pc).lastStrm (fld w0 53 52 * 4 + fld w0 51 50)
  else 0

/-- The destination of a SIGTOK. -/
abbrev sigDest (s : State) (pc : Nat) (w0 w1 : W64) : TokDest :=
  if fld w0 31 30 = 2 then .remote (fld w1 15 0) (fld w0 23 16)
  else .clu (if fld w0 31 30 = 1 then fld w0 23 16 else (s.logClu pc).getD 0)

/-- A register in the blocks of the four units of physical cluster `pc`. -/
abbrev unitReg (pc a : Nat) : Prop := regClu0 pc ≤ a ∧ a < regClu0 pc + 0x40000

end Sys2Proof.Claims

open Sys2Proof.Claims in
/-- R194, R196, R200, R235. -/
def Obligations.ReplaySwapSigtokAndHaltTakeEffect : Prop :=
  -- REPLAY
  (∀ (s : State) (c : CluIx) (pc w : Nat) (f : Frame) (fs : List Frame),
    atCommand s c pc w 7 2 f fs → replayFields (s.ccWord pc w) (s.ccWord pc (w + 1)) → fs.length < 4 →
    ∃ t, exec (.replay c) s = .next t ∧ t.ccState pc = 1 ∧
      (t.clu pc).frames =
        { list := fld (s.ccWord pc w) 14 0, len := fld (s.ccWord pc w) 29 15, left := fld (s.ccWord pc w) 45 30,
          inc := (BitVec.ofNat 32 (fld (s.ccWord pc (w + 1)) 31 0)).signExtend 64,
          incEn := fld (s.ccWord pc w) 51 51 == 1, incPr := fld (s.ccWord pc w) 50 46,
          units := fld (s.ccWord pc w) 55 52 } :: { f with pos := f.pos + 2 } :: fs ∧
      counted s t pc w ∧ onlyCore s t pc) ∧
  -- SWAP
  (∀ (s : State) (c : CluIx) (pc w : Nat) (f : Frame),
    atCommand s c pc w 8 1 f [] → fld (s.ccWord pc w) 55 0 = 0 →
    ∃ t, exec (.swap c) s = .next t ∧ t.bit (rClu pc 0x10) 0 = true ∧ counted s t pc w ∧
      (∀ a, a ≠ rClu pc 0 → a ≠ rClu pc 0x10 → t.reg a = s.reg a) ∧
      t.regF (rClu pc 0x10) 63 1 = s.regF (rClu pc 0x10) 63 1 ∧ (∀ k, k ≠ pc → t.clu k = s.clu k) ∧
      t = { s with regs := t.regs, clus := t.clus }) ∧
  -- SIGTOK with nothing to wait for
  (∀ (s : State) (c : CluIx) (pc w : Nat) (f : Frame) (fs : List Frame),
    atCommand s c pc w 6 (sigWords (s.ccWord pc w)) f fs → sigtokFields s (s.ccWord pc w) (s.ccWord pc (w + 1)) →
    sigTicket s pc (s.ccWord pc w) = 0 →
    ∃ t, exec (.sigtok c) s = .next t ∧
      t.tokens = s.tokens ++ (if fld (s.ccWord pc w) 31 30 = 2 ∧ s.bit (rFab 0) 48 = false then [] else
        [{ src := some (pc, s.cluGen pc), dest := sigDest s pc (s.ccWord pc w) (s.ccWord pc (w + 1)),
           ctr := fld (s.ccWord pc w) 47 40, add := fld (s.ccWord pc w) 39 32, seq := (s.clu pc).seq }]) ∧
      counted s t pc w ∧ (∀ a, a ≠ rClu pc 0 → t.reg a = s.reg a) ∧ (∀ k, k ≠ pc → t.clu k = s.clu k) ∧
      t = { s with regs := t.regs, clus := t.clus, tokens := t.tokens }) ∧
  -- SIGTOK bound to a descriptor or stream that can still complete
  (∀ (s : State) (c : CluIx) (pc w : Nat) (f : Frame) (fs : List Frame) (e : SbEnt),
    atCommand s c pc w 6 (sigWords (s.ccWord pc w)) f fs → sigtokFields s (s.ccWord pc w) (s.ccWord pc (w + 1)) →
    sigTicket s pc (s.ccWord pc w) ≠ 0 →
    ((s.unit (pc * 4 + fld (s.ccWord pc w) 53 52)).sb.find? fun e => e.ticket == sigTicket s pc (s.ccWord pc w)) = some e →
    e.dead = false →
    ∃ t, exec (.sigtok c) s = .next t ∧
      ({ unit := fld (s.ccWord pc w) 53 52, ticket := sigTicket s pc (s.ccWord pc w),
           dest := sigDest s pc (s.ccWord pc w) (s.ccWord pc (w + 1)), ctr := fld (s.ccWord pc w) 47 40,
           add := fld (s.ccWord pc w) 39 32, seq := (s.clu pc).seq } : SigSt) ∈ (t.clu pc).sigs ∧
      counted s t pc w ∧ (∀ a, a ≠ rClu pc 0 → t.reg a = s.reg a) ∧ (∀ k, k ≠ pc → t.clu k = s.clu k) ∧
      t = { s with regs := t.regs, clus := t.clus, tokens := t.tokens }) ∧
  -- HALT 0x00
  (∀ (s : State) (c : CluIx) (pc w : Nat) (f : Frame) (fs : List Frame),
    atCommand s c pc w 0x0A 1 f fs → fld (s.ccWord pc w) 55 0 = 0 →
    ∃ t, exec (.halt c) s = .next t ∧ t.ccState pc = 1 ∧ (t.clu pc).ending = true ∧ (t.clu pc).frames = [] ∧
      (t.clu pc).order = [] ∧ counted s t pc w ∧ onlyCore s t pc) ∧
  -- HALT 0x10
  ∀ (s : State) (c : CluIx) (pc w : Nat) (f : Frame) (fs : List Frame),
    atCommand s c pc w 0x0A 1 f fs → fld (s.ccWord pc w) 55 0 = 0x10 →
    ∃ t, exec (.halt c) s = .next t ∧ t.ccState pc = 5 ∧ t.regF (rClu pc 0) 55 48 = 0x10 ∧ counted s t pc w ∧
      (t.errFlight.map fun e => (e.cls, e.reason, e.scope)) =
        (s.errFlight.map fun e => (e.cls, e.reason, e.scope)) ++ [(3, 0x10, 3)] ∧
      (∀ a, a ≠ rClu pc 0 → ¬unitReg pc a → t.reg a = s.reg a) ∧
      (∀ k, k / 4 ≠ pc → t.unit k = s.unit k) ∧ (∀ k, k ≠ pc → t.clu k = s.clu k) ∧
      t = { s with regs := t.regs, clus := t.clus, units := t.units, errFlight := t.errFlight, chanUnseen := t.chanUnseen }

namespace Sys2Proof.Claims

/-- What a command whose accesses to device memory may wait acts on (log 27). -/
abbrev fresh (s : State) : State := { s with waited := false }

/-- No access that the command `f` makes to device memory waits for a held channel (R302). -/
abbrev goesOn (f : State → State) (s : State) : Prop := (f (fresh s)).waited = false

/-- The physical units a patch names. -/
abbrev patchUnits (pc : Nat) (p : PatchSt) : List Nat :=
  (List.range 4).filterMap fun u => if bitAt p.units u then some (pc * 4 + u) else none

/-- A waiting patch may take effect now. -/
abbrev patchDue (s : State) (c : CluIx) (pc : Nat) (p : PatchSt) : Prop :=
  s.physClu c.val = some pc ∧ (s.clu pc).wait = .patch p ∧ s.ccState pc = 2 ∧ p.pr < 32 ∧
  (∀ pu ∈ patchUnits pc p, s.patchReady pu p.ticket = true) ∧ (s.clu pc).breakReq = false

/-- Physical cluster `pc` has no speculative work. -/
abbrev noSpec (s : State) (pc : Nat) : Prop :=
  (∀ u < 4, (s.unit (pc * 4 + u)).held = [] ∧ (s.unit (pc * 4 + u)).streams = []) ∧ (s.clu pc).specCmds = 0

/-- A CFG of the cluster has not been checked. -/
abbrev cfgOpen (s : State) (pc : Nat) : Bool :=
  (List.range 4).any fun u => [0, 1, 2].any fun sl =>
    ((s.unit (pc * 4 + u)).queue sl).any fun e => match e.cmd with | .cfg _ _ => true | .go _ => false

end Sys2Proof.Claims

open Sys2Proof.Claims in
/-- R186, R193, R197, R199, R200, R235: how the waits of a control core end. -/
def Obligations.WaitsEndAsTheirRulesSay : Prop :=
  -- PATCH SET and ADD
  (∀ (s : State) (c : CluIx) (pc : Nat) (p : PatchSt), patchDue s c pc p → p.mode ≠ 2 →
    ∃ t, exec (.patchTakeEffect c) s = .next t ∧
      (∀ pu ∈ patchUnits pc p, t.reg (rUnit pu (0x200 + 8 * p.pr)) =
        if p.mode = 1 then s.reg (rUnit pu (0x200 + 8 * p.pr)) + p.value else p.value) ∧
      (∀ a, a ≠ rClu pc 0 → (∀ pu ∈ patchUnits pc p, a ≠ rUnit pu (0x200 + 8 * p.pr)) → t.reg a = s.reg a) ∧
      (∀ k, k ≠ pc → t.clu k = s.clu k) ∧ t = { s with regs := t.regs, clus := t.clus }) ∧
  -- PATCH LOAD
  (∀ (s : State) (c : CluIx) (pc : Nat) (p : PatchSt) (m : State × List Byte × List Bool),
    patchDue s c pc p → p.mode = 2 →
    m = ((fresh s).updClu pc fun k => { k with wait := .none }).memRead (fld p.value 47 0) 8 0 →
    m.1.waited = false → (∀ b ∈ m.2.2, b = false) →
    ∃ t, exec (.patchTakeEffect c) s = .next t ∧
      (∀ pu ∈ patchUnits pc p, t.reg (rUnit pu (0x200 + 8 * p.pr)) = BitVec.ofNat 64 (leVal m.2.1)) ∧
      (∀ k, k ≠ pc → t.clu k = s.clu k) ∧ t = { m.1 with regs := t.regs, clus := t.clus, waited := s.waited }) ∧
  -- PATCH LOAD of a word whose channel is held
  (∀ (s : State) (c : CluIx) (pc : Nat) (p : PatchSt), patchDue s c pc p → p.mode = 2 →
    (((fresh s).updClu pc fun k => { k with wait := .none }).memRead (fld p.value 47 0) 8 0).1.waited = true →
    exec (.patchTakeEffect c) s = .next s) ∧
  -- WAITTOK_RELEASE
  (∀ (s : State) (c : CluIx) (pc ctr value tmo w : Nat) (f : Frame) (fs : List Frame),
    s.physClu c.val = some pc → (s.clu pc).wait = .token ctr value tmo w → ctr < 256 → s.ccState pc = 3 →
    value ≤ s.regF (rClu pc (0x1000 + 8 * ctr)) 15 0 → noSpec s pc → (s.clu pc).sigs = [] →
    (s.clu pc).breakReq = false → (s.clu pc).frames = f :: fs → f.pos < f.len →
    ∃ t, exec (.waittokRelease c) s = .next t ∧ t.ccState pc = 1 ∧ (t.clu pc).wait = .none ∧
      t.regF (rClu pc (0x1000 + 8 * ctr)) 15 0 = s.regF (rClu pc (0x1000 + 8 * ctr)) 15 0 - value ∧
      (∀ a, a ≠ rClu pc 0 → a ≠ rClu pc (0x1000 + 8 * ctr) → t.reg a = s.reg a) ∧
      (∀ k, k / 4 ≠ pc → t.unit k = s.unit k) ∧ (∀ k, k ≠ pc → t.clu k = s.clu k) ∧
      t = { s with regs := t.regs, clus := t.clus, units := t.units }) ∧
  -- TOKEN_TIMEOUT
  (∀ (s : State) (c : CluIx) (pc ctr value tmo w : Nat),
    s.physClu c.val = some pc → (s.clu pc).wait = .token ctr value tmo w → w < 32768 → s.ccState pc = 3 →
    (s.clu pc).ended = none → tmo ≠ 0 → s.regF (rClu pc (0x1000 + 8 * ctr)) 15 0 < value →
    ∃ t, exec (.tokenTimeout c) s = .next t ∧ t.ccState pc = 5 ∧ t.regF (rClu pc 0) 55 48 = 0x0C ∧
      t.regF (rClu pc 0) 46 32 = w ∧ t.reg (rClu pc (0x1000 + 8 * ctr)) = s.reg (rClu pc (0x1000 + 8 * ctr)) ∧
      (t.clu pc).ended = some 0x0C ∧
      (t.errFlight.map fun e => (e.cls, e.reason, e.scope)) =
        (s.errFlight.map fun e => (e.cls, e.reason, e.scope)) ++ [(3, 0x0C, 3)] ∧
      (∀ a, a ≠ rClu pc 0 → ¬unitReg pc a → t.reg a = s.reg a) ∧
      (∀ k, k / 4 ≠ pc → t.unit k = s.unit k) ∧ (∀ k, k ≠ pc → t.clu k = s.clu k) ∧
      t = { s with regs := t.regs, clus := t.clus, units := t.units, errFlight := t.errFlight,
                   running := t.running, evtFlight := t.evtFlight, chanUnseen := t.chanUnseen }) ∧
  -- FENCE_RELEASE
  (∀ (s : State) (c : CluIx) (pc units n w : Nat),
    s.physClu c.val = some pc → (s.clu pc).wait = .fence units n w → s.ccState pc = 4 →
    s.fenceDone pc units n = true → (s.clu pc).breakReq = false →
    ∃ t, exec (.fenceRelease c) s = .next t ∧ (t.clu pc).wait ≠ .fence units n w ∧
      (∀ f fs, (s.clu pc).frames = f :: fs → f.pos < f.len → t.ccState pc = 1 ∧ (t.clu pc).wait = .none) ∧
      onlyCore s t pc) ∧
  -- SWAP_TAKE_EFFECT
  (∀ (s : State) (c : CluIx) (pc : Nat), s.physClu c.val = some pc → s.bit (rClu pc 0x10) 0 = true →
    s.fetching pc = false →
    ∃ t, exec (.swapTakeEffect c) s = .next t ∧ t.bit (rClu pc 0x10) 0 = false ∧ t.ccBank pc = 1 - s.ccBank pc ∧
      t.regF (rClu pc 0) 63 57 = s.regF (rClu pc 0) 63 57 ∧ t.regF (rClu pc 0) 55 0 = s.regF (rClu pc 0) 55 0 ∧
      (∀ a, a ≠ rClu pc 0 → a ≠ rClu pc 0x10 → t.reg a = s.reg a) ∧ t = { s with regs := t.regs }) ∧
  -- PROGRAM_END
  ∀ (s : State) (c : CluIx) (pc : Nat), s.physClu c.val = some pc → (s.clu pc).ending = true → s.ccState pc = 1 →
    cfgOpen s pc = false → (s.clu pc).ended = none →
    ∃ t, exec (.programEnd c) s = .next t ∧ t.ccState pc = 0 ∧ t.regF (rClu pc 0) 55 48 = 0 ∧
      t.regF (rClu pc 0) 46 0 = s.regF (rClu pc 0) 46 0 ∧ (t.clu pc).ended = some 0 ∧ (t.clu pc).frames = [] ∧
      (∀ pcs, s.running = some pcs → (∀ k ∈ pcs, k ≠ pc → (s.clu k).ended = some 0) →
        t.running = none ∧ (t.evtFlight.map fun e => (e.type, e.reason)) =
          (s.evtFlight.map fun e => (e.type, e.reason)) ++ [(5, 0)]) ∧
      (∀ pcs k, s.running = some pcs → k ∈ pcs → k ≠ pc → (s.clu k).ended = none →
        t.running = s.running ∧ t.evtFlight = s.evtFlight) ∧
      (∀ a, a ≠ rClu pc 0 → t.reg a = s.reg a) ∧ (∀ k, k ≠ pc → t.clu k = s.clu k) ∧
      t = { s with regs := t.regs, clus := t.clus, running := t.running, evtFlight := t.evtFlight }

namespace Sys2Proof.Claims

/-- The die of a cluster reports ready in PKG_READY. -/
abbrev dieReady (s : State) (c : CluIx) : Prop := s.bit 0x18 (8 + c.val / 24) = true

/-- The addition may reach physical cluster `pc` (R196, R470). -/
abbrev admitted (s : State) (t : TokFlight) (pc : Nat) : Prop :=
  match t.src with
  | none => True
  | some (src, tag) => src = pc ∨ s.gatewayOk src tag = true

end Sys2Proof.Claims

open Sys2Proof.Claims in
/-- R196, R235, R245, R470. -/
def Obligations.DebugSwapRequestAndTokensReachTheirCluster : Prop :=
  -- CC_BREAK in RUN
  (∀ (s : State) (c : CluIx) (pc : Nat), dieReady s c → s.physClu c.val = some pc → s.ccState pc = 1 →
    (s.clu pc).ending = false →
    ∃ t, exec (.ccBreak c) s = .next t ∧ t.ccState pc = 5 ∧ t.regF (rClu pc 0) 55 48 = 0x10 ∧
      t.regF (rClu pc 0) 46 0 = s.regF (rClu pc 0) 46 0 ∧ (t.clu pc).breakReq = false ∧
      (t.errFlight.map fun e => (e.cls, e.reason, e.scope)) =
        (s.errFlight.map fun e => (e.cls, e.reason, e.scope)) ++ [(3, 0x10, 3)] ∧
      (∀ a, a ≠ rClu pc 0 → ¬unitReg pc a → t.reg a = s.reg a) ∧ (∀ k, k / 4 ≠ pc → t.unit k = s.unit k) ∧
      (∀ k, k ≠ pc → t.clu k = s.clu k) ∧
      t = { s with regs := t.regs, clus := t.clus, units := t.units, errFlight := t.errFlight,
                   chanUnseen := t.chanUnseen }) ∧
  -- CC_BREAK in another fetching state
  (∀ (s : State) (c : CluIx) (pc : Nat), dieReady s c → s.physClu c.val = some pc →
    2 ≤ s.ccState pc → s.ccState pc ≤ 4 →
    (s.ccState pc = 3 → (s.clu pc).specStop = true ∨ s.serialise = true) →
    ∃ t, exec (.ccBreak c) s = .next t ∧ (t.clu pc).breakReq = true ∧ t.regs = s.regs ∧ onlyCore s t pc) ∧
  -- CC_BREAK on a core that fetches speculatively
  (∀ (s : State) (c : CluIx) (pc : Nat), dieReady s c → s.physClu c.val = some pc → s.ccState pc = 3 →
    (s.clu pc).specStop = false → s.serialise = false →
    ∃ t, exec (.ccBreak c) s = .next t ∧ t.ccState pc = 5 ∧ t.regF (rClu pc 0) 55 48 = 0x10 ∧
      t.regF (rClu pc 0) 46 0 = s.regF (rClu pc 0) 46 0 ∧
      (∀ u < 4, (t.unit (pc * 4 + u)).held = [] ∧ (∀ r ∈ (t.unit (pc * 4 + u)).runs, r.prov.spec = false) ∧
        (∀ x ∈ (t.unit (pc * 4 + u)).squeue, x.prov.spec = false)) ∧
      (∀ k, k / 4 ≠ pc → t.unit k = s.unit k) ∧ (∀ k, k ≠ pc → t.clu k = s.clu k) ∧
      t = { s with regs := t.regs, clus := t.clus, units := t.units, errFlight := t.errFlight,
                   chanUnseen := t.chanUnseen }) ∧
  -- CC_RESUME
  (∀ (s : State) (c : CluIx) (pc : Nat), dieReady s c → s.physClu c.val = some pc → s.ccState pc = 5 →
    s.regF (rClu pc 0) 55 48 = 0x10 →
    ∃ t, exec (.ccResume c) s = .next t ∧
      ((s.clu pc).wait = .none → t.ccState pc = 1) ∧ (∀ p, (s.clu pc).wait = .patch p → t.ccState pc = 2) ∧
      (∀ i v m w, (s.clu pc).wait = .token i v m w → t.ccState pc = 3) ∧
      (∀ u n w, (s.clu pc).wait = .fence u n w → t.ccState pc = 4) ∧
      t.regF (rClu pc 0) 59 0 = s.regF (rClu pc 0) 59 0 ∧ t.clus = s.clus ∧ onlyCore s t pc) ∧
  -- SWAP_REQ
  (∀ (s : State) (c : CluIx) (pc : Nat), dieReady s c → s.physClu c.val = some pc →
    ∃ t, exec (.swapReq c) s = .next t ∧ t.bit (rClu pc 0x10) 0 = true ∧
      t.regF (rClu pc 0x10) 63 1 = s.regF (rClu pc 0x10) 63 1 ∧
      (∀ a, a ≠ rClu pc 0x10 → t.reg a = s.reg a) ∧ t = { s with regs := t.regs }) ∧
  -- TOKEN_ADD at a counter of this module
  (∀ (s : State) (i : Nat) (x : TokFlight) (c pc : Nat), s.tokens[i]? = some x → x.dest = .clu c →
    s.physClu c = some pc → admitted s x pc →
    ∃ t, exec (.tokenAdd i) s = .next t ∧ t.tokens = s.tokens.eraseIdx i ∧
      t.regF (rClu pc (0x1000 + 8 * x.ctr)) 15 0 = min (s.regF (rClu pc (0x1000 + 8 * x.ctr)) 15 0 + x.add) 65535 ∧
      (65535 < s.regF (rClu pc (0x1000 + 8 * x.ctr)) 15 0 + x.add →
        t.bit (rClu pc (0x1000 + 8 * x.ctr)) 16 = true) ∧
      (∀ a, a ≠ rClu pc (0x1000 + 8 * x.ctr) → t.reg a = s.reg a) ∧
      t = { s with regs := t.regs, tokens := t.tokens }) ∧
  -- TOKEN_ADD dropped by the gateway
  (∀ (s : State) (i : Nat) (x : TokFlight) (c src tag : Nat), s.tokens[i]? = some x → x.dest = .clu c →
    x.src = some (src, tag) → s.physClu c ≠ some src → s.gatewayOk src tag = false →
    ∃ t, exec (.tokenAdd i) s = .next t ∧ t.tokens = s.tokens.eraseIdx i ∧
      ∀ k, k ≠ src → k < 224 → ∀ n < 256, t.reg (rClu k (0x1000 + 8 * n)) = s.reg (rClu k (0x1000 + 8 * n))) ∧
  -- TOKEN_ADD for another module
  ∀ (s : State) (i : Nat) (x : TokFlight) (eid c : Nat), s.tokens[i]? = some x → x.dest = .remote eid c →
    (x.src = none ∨ x.passed = true) →
    ∃ t, exec (.tokenAdd i) s = .next t ∧
      t.tokens = (if s.bit (rFab 0) 48 = true then s.tokens.set i { x with passed := true } else s.tokens.eraseIdx i) ∧
      t = { s with tokens := t.tokens }

namespace Sys2Proof.Claims

/-- The CFG at the head of a slot's queue and its source. -/
abbrev cfgHead (s : State) (u : UnitIx) (pu : Nat) (sl : Slot) (src addr : Nat) (p : Prov) (st : Stage) (rest : List QEnt)
    (x : State × List Byte × Bool) : Prop :=
  s.physUnit u.val = some pu ∧ (s.unit pu).queue (slotIx sl) = { cmd := .cfg src addr, prov := p, stage := st } :: rest ∧
  p.spec = false ∧ x = (fresh s).cfgSource (pu / 4) p.bank src addr ∧ x.1.waited = false ∧ x.2.2 = false

/-- The GO at the head of a slot's queue. -/
abbrev goHead (s : State) (u : UnitIx) (pu : Nat) (sl : Slot) (ph : Nat) (p : Prov) (st : Stage) (rest : List QEnt) : Prop :=
  s.physUnit u.val = some pu ∧ (s.unit pu).queue (slotIx sl) = { cmd := .go ph, prov := p, stage := st } :: rest

/-- A provenance that the registers can report. -/
abbrev provFits (p : Prov) : Prop := p.spec = false ∧ p.bank < 2 ∧ p.pc < 32768

/-- What GO_ADMIT asks for (R183, R229, R247). -/
abbrev admissible (s : State) (u : UnitIx) (pu : Nat) (sl : Slot) (p : Prov) : Prop :=
  s.unitHalted pu = false ∧ (s.unit pu).admits p.ticket = true ∧
  (s.serialise = true → (s.unit pu).idleBefore p.ticket = true) ∧
  (p.spec = true → s.specWaits pu p.ticket (dDrain (s.shadow pu (slotIx sl)) == 2) = false) ∧
  (∀ r ∈ (s.unit pu).runs, r.slot = slotIx sl → sl ≠ .rru ∧ 0 < r.total ∧ r.total ≤ r.fed) ∧
  (usesRru (s.shadow pu (slotIx sl)) u.val = true → ∀ r ∈ (s.unit pu).runs, usesRru r.desc u.val = false ∨ r.started = false)

/-- The state in which a preparation judges its descriptor: HOSTMOD judged, the shadow block copied. -/
abbrev copied (s : State) (pu : Nat) (sl : Slot) : State :=
  (s.updUnit pu fun v => if smGet false v.hostmod (slotIx sl)
    then { v with shadowOk := smSet false v.shadowOk (slotIx sl) (State.dcrcOk (s.shadow pu (slotIx sl))) } else v).setRegs
      (rUnit pu (0x2000 + 0x400 * slotIx sl)) (s.shadow pu (slotIx sl))

/-- The scoreboard entry of a command. -/
abbrev entryOf (s : State) (pu : Nat) (p : Prov) : Option SbEnt := (s.unit pu).sb.find? fun e => e.ticket == p.ticket

/-- The state in which a prepared RRU descriptor begins its operation: its entry freed, its phase wait
counted. -/
abbrev begun (s : State) (pu ph : Nat) (p : Prov) (rest : List QEnt) (r : RunSt) : State :=
  if r.phaseWait then
    ((s.updUnit pu fun v => v.setQueue 2 rest).countSlip pu p.spec (rUnit pu 0x60) ph).bumpSpec pu p.spec
      (rUnit pu 0x60) 39 24 1
  else s.updUnit pu fun v => v.setQueue 2 rest

/-- Both engines carried to the cycle of the halt that an RRU operation meets, and the halt of the unit then (R69). -/
abbrev carried (s : State) (pu u : Nat) (g : RunSt × Nat × List QEnt) (h : HaltInfo) : State × HaltInfo :=
  match h.cyc with
  | some _ => (s.startGo pu u 2 g).1.toHalt pu u
      ((((s.startGo pu u 2 g).1.unit pu).runs.map fun r => 2 * r.total + 1).foldl (· + ·) 0) h
  | none => ((s.startGo pu u 2 g).1, h)

/-- A word of the shadow block, or from 0x2000 on of the active block. -/
abbrev blockReg (pu base : Nat) (sl : Slot) (a : Nat) : Prop :=
  rUnit pu (base + 0x400 * slotIx sl) ≤ a ∧ a < rUnit pu (base + 0x400 * slotIx sl) + 0x400

end Sys2Proof.Claims

open Sys2Proof.Claims in
/-- R176, R181, R183. -/
def Obligations.ConfiguredAndAdmittedDescriptorsStart : Prop :=
  -- DCRC_CHECK, the DCRC right
  (∀ (s : State) (u : UnitIx) (pu : Nat) (sl : Slot) (src addr : Nat) (p : Prov) (st : Stage) (rest : List QEnt)
      (x : State × List Byte × Bool),
    cfgHead s u pu sl src addr p st rest x → State.dcrcOk (State.words 128 x.2.1) = true →
    ∃ t, exec (.dcrcCheck u sl) s = .next t ∧
      (∀ i < 128, t.reg (rUnit pu (0x1000 + 0x400 * slotIx sl + 8 * i)) = wordAt (State.words 128 x.2.1) i) ∧
      smGet false (t.unit pu).shadowOk (slotIx sl) = true ∧ smGet false (t.unit pu).hostmod (slotIx sl) = false ∧
      (t.unit pu).queue (slotIx sl) = rest ∧
      (∀ k, k ≠ pu → t.unit k = s.unit k) ∧ t.clus = s.clus ∧
      (∀ a, ¬blockReg pu 0x1000 sl a → t.reg a = x.1.reg a) ∧ t = { x.1 with regs := t.regs, units := t.units, waited := s.waited }) ∧
  -- DCRC_CHECK, the DCRC wrong
  (∀ (s : State) (u : UnitIx) (pu : Nat) (sl : Slot) (src addr : Nat) (p : Prov) (st : Stage) (rest : List QEnt)
      (x : State × List Byte × Bool),
    cfgHead s u pu sl src addr p st rest x → State.dcrcOk (State.words 128 x.2.1) = false → s.ccState (pu / 4) = 1 →
    smGet none (s.unit pu).saved (slotIx sl) = none →
    ∃ t, exec (.dcrcCheck u sl) s = .next t ∧ t.ccState (pu / 4) = 5 ∧ t.regF (rClu (pu / 4) 0) 55 48 = 9 ∧
      smGet false (t.unit pu).shadowOk (slotIx sl) = false ∧ (∀ k, k / 4 ≠ pu / 4 → t.unit k = s.unit k)) ∧
  -- DCRC_CHECK, a poisoned source
  (∀ (s : State) (u : UnitIx) (pu : Nat) (sl : Slot) (src addr : Nat) (p : Prov) (st : Stage) (rest : List QEnt),
    s.physUnit u.val = some pu → (s.unit pu).queue (slotIx sl) = { cmd := .cfg src addr, prov := p, stage := st } :: rest →
    p.spec = false → ((fresh s).cfgSource (pu / 4) p.bank src addr).2.2 = true →
    ((fresh s).cfgSource (pu / 4) p.bank src addr).1.waited = false → s.ccState (pu / 4) = 1 →
    ∃ t, exec (.dcrcCheck u sl) s = .next t ∧ t.ccState (pu / 4) = 5 ∧ t.regF (rClu (pu / 4) 0) 55 48 = 0x0A ∧
      (∀ k, k / 4 ≠ pu / 4 → t.unit k = s.unit k)) ∧
  -- GO_ADMIT
  (∀ (s : State) (u : UnitIx) (pu : Nat) (sl : Slot) (ph : Nat) (p : Prov) (rest : List QEnt),
    goHead s u pu sl ph p .queued rest → admissible s u pu sl p →
    ∃ t, exec (.goAdmit u sl) s = .next t ∧
      (t.unit pu).queue (slotIx sl) = { cmd := .go ph, prov := p, stage := .admitted } :: rest ∧
      t.unit pu = { s.unit pu with queues := (t.unit pu).queues } ∧
      (∀ k, k ≠ slotIx sl → (t.unit pu).queue k = (s.unit pu).queue k) ∧
      (∀ k, k ≠ pu → t.unit k = s.unit k) ∧ t = { s with units := t.units }) ∧
  -- GO_PREPARE
  (∀ (s : State) (u : UnitIx) (pu : Nat) (sl : Slot) (t0 n ph : Nat) (p : Prov) (rest : List QEnt) (run : RunSt)
      (m : State × (Nat ⊕ RunSt)),
    goHead s u pu sl ph p .admitted rest →
    (copied (fresh s) pu sl).prepCheck pu u.val (slotIx sl) ph (s.shadow pu (slotIx sl)) (entryOf s pu p) = none →
    m = (copied (fresh s) pu sl).prepRead pu u.val (slotIx sl) (s.shadow pu (slotIx sl)) p → m.2 = .inr run → m.1.waited = false →
    ∃ t, exec (.goPrepare u sl ⟨t0, n⟩) s = .next t ∧
      (t.unit pu).queue (slotIx sl) = { cmd := .go ph, prov := p, stage := .prepared } :: rest ∧
      (∀ i < 128, t.reg (rUnit pu (0x2000 + 0x400 * slotIx sl + 8 * i)) =
        s.reg (rUnit pu (0x1000 + 0x400 * slotIx sl + 8 * i))) ∧
      (∃ r, (t.unit pu).runs = (s.unit pu).runs ++ [r] ∧ r.prov = p ∧ r.slot = slotIx sl ∧ r.started = false ∧
        r.desc = (judged (s.shadow pu (slotIx sl)) u.val).take 27 ∧
        (ph = 0xFFFFFF → r.cyc0 = n + 1) ∧
        (ph ≠ 0xFFFFFF → n < r.cyc0 ∧ r.cyc0 ≤ n + s.slotMap.frameLen ∧ s.framePos (dieOfUnit u.val) r.cyc0 = ph)) ∧
      (∀ k, k ≠ pu → t.unit k = s.unit k) ∧ t.clus = s.clus ∧ t = { m.1 with units := t.units, waited := s.waited }) ∧
  -- GO_PREPARE, a check that fails
  (∀ (s : State) (u : UnitIx) (pu : Nat) (sl : Slot) (t0 n ph r : Nat) (p : Prov) (rest : List QEnt),
    goHead s u pu sl ph p .admitted rest → p.spec = false → p.bank < 2 → p.pc < 32768 → s.unitHalted pu = false →
    0 < r → r < 32 →
    (copied (fresh s) pu sl).prepCheck pu u.val (slotIx sl) ph (s.shadow pu (slotIx sl)) (entryOf s pu p) = some r →
    ∃ t, exec (.goPrepare u sl ⟨t0, n⟩) s = .next t ∧ t.unitHalted pu = true ∧ t.regF (rUnit pu 0x100) 63 56 = r ∧
      (t.unit pu).queues = []) ∧
  -- GO_START on FWD or BWD
  (∀ (s : State) (u : UnitIx) (pu : Nat) (sl : Slot) (ph : Nat) (p : Prov) (rest : List QEnt) (r : RunSt),
    goHead s u pu sl ph p .prepared rest → sl ≠ .rru → p.spec = false →
    ((s.unit pu).runs.find? fun r => r.prov.ticket == p.ticket) = some r →
    ∃ t, exec (.goStart u sl) s = .next t ∧ (t.unit pu).queue (slotIx sl) = rest ∧
      (t.unit pu).runs = (s.unit pu).runs.map (fun q => if q.prov.ticket == p.ticket
        then { r with started := true, endCyc := r.cyc0 } else q) ∧
      t.regF (rUnit pu 0x60) 63 40 = (s.regF (rUnit pu 0x60) 63 40 + if r.phaseWait then 1 else 0) % 2 ^ 24 ∧
      t.regF (rUnit pu 0x60) 39 24 = (s.regF (rUnit pu 0x60) 39 24 + if r.phaseWait then 1 else 0) % 2 ^ 16 ∧
      t.bit (rUnit pu 0x58) 0 = (s.bit (rUnit pu 0x58) 0 || dDrain r.desc == 2) ∧
      (∀ a, a ≠ rUnit pu 0x60 → a ≠ rUnit pu 0x58 → t.reg a = s.reg a) ∧
      (∀ k, k ≠ pu → t.unit k = s.unit k) ∧ t = { s with regs := t.regs, units := t.units }) ∧
  -- GO_START on the RRU slot
  (∀ (s : State) (u : UnitIx) (pu ph : Nat) (p : Prov) (rest : List QEnt) (r : RunSt) (x : State × RunSt × Option HaltInfo),
    goHead s u pu .rru ph p .prepared rest →
    ((s.unit pu).runs.find? fun r => r.prov.ticket == p.ticket) = some r →
    x = (begun s pu ph p rest r).rruRun pu u.val { r with started := true, endCyc := r.cyc0 } → x.2.2 = none →
    ∃ t, exec (.goStart u .rru) s = .next t ∧ (t.unit pu).queue 2 = rest ∧
      (t.unit pu).runs = (x.1.unit pu).runs.map (fun q => if q.prov.ticket == p.ticket then x.2.1 else q) ∧
      (t.unit pu).tile = (x.1.unit pu).tile ∧ (t.unit pu).tpoison = (x.1.unit pu).tpoison ∧
      (∀ k, k ≠ pu → t.unit k = x.1.unit k) ∧ t = { x.1 with units := t.units }) ∧
  -- an access of the operation that COLLIDEs: a halt that another drain has met in an earlier cycle comes first
  ∀ (s : State) (u : UnitIx) (pu ph : Nat) (p : Prov) (rest : List QEnt) (r : RunSt) (h k : HaltInfo),
    goHead s u pu .rru ph p .prepared rest → s.unitHalted pu = false →
    ((s.unit pu).runs.find? fun r => r.prov.ticket == p.ticket) = some r →
    (s.startGo pu u.val 2 (r, ph, rest)).2 = some h → k = (carried s pu u.val (r, ph, rest) h).2 →
    provFits k.prov → k.reason < 32 → k.source < 8 → k.task < 8 → k.serial < 2 ^ 32 →
    (k = h ∨ k.before h = true) ∧
    ∃ t, exec (.goStart u .rru) s = .next t ∧ t.regF (rUnit pu 0x100) 63 56 = k.reason ∧ (t.unit pu).queues = []

namespace Sys2Proof.Claims

/-- The access is the owner's own by the slot map (R217). -/
abbrev owned (s : State) (u port owner cyc : Nat) : Prop :=
  judge (s.unitRecs u) s.slotMap.frameLen port owner (s.framePos (dieOfUnit u) cyc) = .own

/-- The events of a pass of a run. -/
abbrev fillLen (r : RunSt) : Nat :=
  fillSlots (fmtOf r.desc 3 3 0) (fmtOf r.desc 3 7 4) ((List.range (dK r.desc)).filter fun k => bitAt r.kMask k).length

/-- The start of the engine's next pass and its wait (R40). -/
abbrev startOf (s : State) (pu : Nat) (e : Eng) (r : RunSt) : Nat × Nat := State.passStartCyc (s.eng pu (engIx e)) r.cyc0

/-- The end of a pass that starts in cycle `c`: its fill slots, and the freeze of R247 that falls within. -/
abbrev endOf (x : EngSt) (r : RunSt) (c : Nat) : Nat :=
  c + fillLen r + (if c < x.frzAt ∧ x.frzAt < c + fillLen r then x.frzLen else 0)

/-- The drain start of a pass and its hold by R247. -/
abbrev drainOf (s : State) (pu : Nat) (u : UnitIx) (e : Eng) (p : PassRec) (r : RunSt) : Nat × Nat :=
  State.drainCyc (s.eng pu (engIx e)) p s.slotMap.frameLen (s.serialHold pu u.val r p).2

/-- The drain start of the engine's latest drained pass, 64 cycles on. -/
abbrev drainFree (x : EngSt) : Nat :=
  match (x.hist.filter fun q => q.d.isSome).head? with
  | some q => (q.d.map (· + 64)).getD 0
  | none => 0

end Sys2Proof.Claims

open Sys2Proof.Claims in
/-- R40, R43, R244. -/
def Obligations.PassesStartDrainAndDescriptorsComplete : Prop :=
  -- PASS_START
  (∀ (s : State) (u : UnitIx) (pu : Nat) (e : Eng) (r : RunSt),
    s.physUnit u.val = some pu → s.nextPass pu (engIx e) = some r → s.unitHalted pu = false →
    (∀ p ∈ (s.eng pu (engIx e)).hist.drop 1, p.d.isSome = true) →
    (s.feed pu u.val (engIx e) r (startOf s pu e r).1).2 = none →
    ∃ t, exec (.passStart u e) s = .next t ∧ (t.eng pu (engIx e)).count = (s.eng pu (engIx e)).count + 1 ∧
      (∃ p ∈ (t.eng pu (engIx e)).hist.head?, p.ticket = r.prov.ticket ∧ p.index = r.fed ∧
        p.page = (s.eng pu (engIx e)).count % 2 ∧ p.s = (startOf s pu e r).1 ∧
        p.fin = endOf (s.eng pu (engIx e)) r (startOf s pu e r).1 ∧ p.d = none) ∧
      (t.unit pu).runs = (s.unit pu).runs.map (fun q => if q.prov.ticket == r.prov.ticket
        then { r with fed := r.fed + 1 } else q) ∧
      (t.unit pu).tile = (s.unit pu).tile ∧ (t.unit pu).tpoison = (s.unit pu).tpoison ∧
      (∀ a, a ≠ rUnit pu (0x40 + 8 * engIx e) → a ≠ rUnit pu 0x50 → a ≠ rUnit pu 0x60 → t.reg a = s.reg a) ∧
      (∀ k, k ≠ pu → t.unit k = s.unit k) ∧ t = { s with regs := t.regs, units := t.units }) ∧
  -- DRAIN_START
  (∀ (s : State) (u : UnitIx) (pu : Nat) (e : Eng) (p : PassRec) (r : RunSt),
    s.physUnit u.val = some pu →
    ((s.eng pu (engIx e)).hist.filter fun p => p.d.isNone).getLast? = some p → p.s ≤ p.fin →
    ((s.unit pu).runs.find? fun r => r.prov.ticket == p.ticket) = some r → s.unitHalted pu = false →
    r.dead = false → r.prov.spec = false → (s.serialHold pu u.val r p).1 = true →
    (s.drainPass pu u.val (engIx e) p r (drainOf s pu u e p r) []).2 = none →
    ∃ t, exec (.drainStart u e []) s = .next t ∧
      t.regF (rUnit pu (0x40 + 8 * engIx e)) 63 40 = (s.regF (rUnit pu (0x40 + 8 * engIx e)) 63 40 + 1) % 2 ^ 24 ∧
      (∃ q ∈ (t.eng pu (engIx e)).hist, q.ticket = p.ticket ∧ q.index = p.index ∧
        q.d = some ((drainOf s pu u e p r).1 + (drainOf s pu u e p r).2)) ∧
      (drainOf s pu u e p r).1 = max (p.fin + 3) (drainFree (s.eng pu (engIx e))) ∧
      (s.serialise = false → (drainOf s pu u e p r).2 = 0) ∧
      (∃ q ∈ (t.unit pu).runs, q.prov.ticket = p.ticket ∧ q.drained = r.drained + 1) ∧
      (∀ k, k ≠ pu → some k ≠ s.physUnit (u.val + 1) → t.unit k = s.unit k)) ∧
  -- DESCRIPTOR_COMPLETE
  (∀ (s : State) (u : UnitIx) (pu : Nat) (sl : Slot) (r : RunSt),
    s.physUnit u.val = some pu → ((s.unit pu).runs.find? fun r => r.slot == slotIx sl) = some r →
    State.runLanded r u.val = true → r.prov.spec = false →
    ∃ t, exec (.descriptorComplete u sl) s = .next t ∧
      (if sl = .fwd then t.regF (rUnit pu 0x108) 31 0 else if sl = .bwd then t.regF (rUnit pu 0x108) 63 32
        else t.regF (rUnit pu 0x110) 63 32) = dSerial r.desc ∧
      t.scaleQ = s.scaleQ ++ State.scaleUpds r u.val (pu / 4) ∧
      (t.unit pu).runs = (s.unit pu).runs.filter (fun q => q.prov.ticket != r.prov.ticket) ∧
      (∀ x ∈ (t.unit pu).sb, x.ticket ≠ r.prov.ticket) ∧
      (∀ a, a ≠ rUnit pu 0x58 → a ≠ rUnit pu 0x108 → a ≠ rUnit pu 0x110 → t.reg a = s.reg a) ∧
      (∀ k, k ≠ pu → t.unit k = s.unit k) ∧ (∀ k, k ≠ pu / 4 → t.clu k = s.clu k) ∧
      t = { s with regs := t.regs, units := t.units, clus := t.clus, scaleQ := t.scaleQ, tokens := t.tokens }) ∧
  -- WATCHDOG
  ∀ (s : State) (u : UnitIx) (pu : Nat) (h : HaltInfo), s.physUnit u.val = some pu → s.unitHalted pu = false →
    s.regF (rUnit pu 0x70) 15 0 ≠ 0 → State.watchdogName (s.unit pu) = some h → provFits h.prov →
    h.task < 8 → h.serial < 2 ^ 32 → h.source < 8 →
    ∃ t, exec (.watchdog u) s = .next t ∧ t.regF (rUnit pu 0x100) 63 56 = 0x0D ∧
      t.regF (rUnit pu 0x100) 55 53 = h.source ∧ t.regF (rUnit pu 0x100) 46 32 = h.prov.pc ∧
      (t.unit pu).queues = [] ∧ (t.unit pu).squeue = [] ∧ (t.unit pu).tile = (s.unit pu).tile ∧
      (t.errFlight.map fun e => (e.cls, e.reason, e.scope)) =
        (s.errFlight.map fun e => (e.cls, e.reason, e.scope)) ++ [(3, 0x0D, 4)] ∧
      (∀ a, ¬unitReg (pu / 4) a → t.reg a = s.reg a) ∧
      t = { s with regs := t.regs, units := t.units, errFlight := t.errFlight, faults := t.faults }

namespace Sys2Proof.Claims

/-- The row at the front of a unit's link, from a sender whose generation is current. -/
abbrev rowComes (s : State) (u : UnitIx) (pu : Nat) (x : ChainRow) (rest : List ChainRow) : Prop :=
  s.physUnit u.val = some pu ∧ (s.unit pu).chain.link = x :: rest ∧
  (x.src.1 = pu / 4 ∨ s.gatewayOk x.src.1 x.src.2 = true)

/-- The first chain run of the unit in which it is not the head. -/
abbrev chainRun (s : State) (u : UnitIx) (pu : Nat) : Option RunSt :=
  (s.unit pu).runs.find? fun r => r.slot != 2 && dDrain r.desc == 2 && decide (dFirst r.desc < u.val)

/-- An abort has come behind the last row that the predecessor sends. -/
abbrev abortCame (s : State) (u : UnitIx) (pu : Nat) : Prop :=
  (s.unit pu).chain.abort = true ∧ (s.unit pu).chain.link = [] ∧ s.stillSends (u.val - 1) = false

/-- Little-endian bytes [o, o + n) of a record. -/
abbrev at' (bs : List Byte) (o n : Nat) : Nat := leVal ((bs.drop o).take n)

end Sys2Proof.Claims

open Sys2Proof.Claims in
/-- R133, R137, R152, R153. -/
def Obligations.ChainRowsAndScaleUpdatesArrive : Prop :=
  -- CHAIN_ROW_ARRIVE on a running unit
  (∀ (s : State) (u : UnitIx) (pu : Nat) (x : ChainRow) (rest : List ChainRow),
    rowComes s u pu x rest → s.unitHalted pu = false →
    (∀ i < x.vals.length, x.vals.getD i [] ≠ [] →
      owned s u.val (0x2000 + arrBase x.eng + i) (ownerOf x.task 0x016) x.cyc ∧
      ∀ y ∈ (s.unit pu).slips, y.port = 0x2000 + arrBase x.eng + i → y.cyc ≠ x.cyc) →
    (∀ y ∈ (s.unit pu).chain.own, y.eng ≠ x.eng) →
    ∃ t, exec (.chainRowArrive u) s = .next t ∧ (t.unit pu).chain.link = rest ∧
      (t.unit pu).chain.buf = (s.unit pu).chain.buf ++ [x] ∧
      t.unit pu = { s.unit pu with chain := { (s.unit pu).chain with link := rest, buf := (s.unit pu).chain.buf ++ [x] },
                                   slips := (t.unit pu).slips } ∧
      (∀ k, k ≠ pu → t.unit k = s.unit k) ∧ t = { s with units := t.units }) ∧
  -- CHAIN_ROW_ARRIVE on a halted unit
  (∀ (s : State) (u : UnitIx) (pu : Nat) (x : ChainRow) (rest : List ChainRow),
    rowComes s u pu x rest → s.unitHalted pu = true →
    (∀ y ∈ (s.unit pu).chain.own, ¬(y.eng = x.eng ∧ y.pass = x.pass)) →
    ∃ t, exec (.chainRowArrive u) s = .next t ∧
      t.unit pu = { s.unit pu with chain := { (s.unit pu).chain with link := rest } } ∧
      (∀ k, k ≠ pu → t.unit k = s.unit k) ∧ t = { s with units := t.units }) ∧
  -- CHAIN_ABORT
  (∀ (s : State) (u : UnitIx) (pu : Nat) (r : RunSt),
    s.physUnit u.val = some pu → chainRun s u pu = some r → s.unitHalted pu = false →
    (abortCame s u pu ∨ s.linkDead pu u.val = true) → provFits r.prov →
    ∃ t, exec (.chainAbort u) s = .next t ∧ t.regF (rUnit pu 0x100) 63 56 = 0x0B ∧ t.bit (rUnit pu 0x58) 1 = true ∧
      t.regF (rUnit pu 0x140) 63 56 =
        (if abortCame s u pu then 7 else 8) ∧
      (t.unit pu).queues = [] ∧ (t.unit pu).chain.abort = false ∧ (t.unit pu).tile = (s.unit pu).tile ∧
      (∀ a, ¬unitReg (pu / 4) a → t.reg a = s.reg a) ∧
      t = { s with regs := t.regs, units := t.units, errFlight := t.errFlight, faults := t.faults }) ∧
  -- CHAIN_ABORT where no member waits for rows
  (∀ (s : State) (u : UnitIx) (pu : Nat), s.physUnit u.val = some pu → chainRun s u pu = none →
    ∃ t, exec (.chainAbort u) s = .next t ∧
      t.unit pu = { s.unit pu with chain := { (s.unit pu).chain with abort := false, dead := false } } ∧
      (∀ k, k ≠ pu → t.unit k = s.unit k) ∧ t = { s with units := t.units }) ∧
  -- SCALE_REPORT
  (∀ (s : State) (i : Nat) (x : ScaleUpd) (p : Report) (m : State × List Byte × List Bool),
    s.scaleQ[i]? = some x → x.report = some p → m = (fresh s).memRead x.addr 64 0 → goesOn (·.fxScaleReport i) s →
    ∃ t, exec (.scaleReport i) s = .next t ∧
      t.scaleQ = (if x.close = true then s.scaleQ.set i { x with report := none } else s.scaleQ.eraseIdx i) ∧
      t = { m.1.memWrite (x.addr + 5) (((State.applyReport m.2.1 p).drop 5).take 19) 0 with
        scaleQ := t.scaleQ, waited := s.waited }) ∧
  -- the report itself
  (∀ (bs : List Byte) (p : Report), bs.length = 64 →
    at' (State.applyReport bs p) 6 2 = min (at' bs 6 2 + 1) 65535 ∧
    at' (State.applyReport bs p) 8 4 = min (at' bs 8 4 + p.novf) (2 ^ 32 - 1) ∧
    at' (State.applyReport bs p) 12 4 = min (at' bs 12 4 + p.nnf) (2 ^ 32 - 1) ∧
    (0 < p.novf → at' (State.applyReport bs p) 5 1 % 2 = 1) ∧
    (0 < p.nnf → at' (State.applyReport bs p) 5 1 / 2 % 2 = 1) ∧
    (State.applyReport bs p).length = 64 ∧ (State.applyReport bs p).take 5 = bs.take 5 ∧
    at' (State.applyReport bs p) 16 4 = at' bs 16 4 ∧ (State.applyReport bs p).drop 24 = bs.drop 24) ∧
  -- SCALE_CLOSE of a record without reports
  (∀ (s : State) (i : Nat) (x : ScaleUpd) (m : State × List Byte × List Bool),
    s.scaleQ[i]? = some x → x.report = none → x.close = true →
    m = State.memRead { fresh s with scaleQ := s.scaleQ.eraseIdx i } x.addr 64 0 → goesOn (·.fxScaleClose i) s → at' m.2.1 6 2 = 0 →
    ∃ t, exec (.scaleClose i) s = .next t ∧ t.scaleQ = s.scaleQ.eraseIdx i ∧ t = { m.1 with waited := s.waited }) ∧
  -- SCALE_CLOSE of a record with reports
  (∀ (s : State) (i : Nat) (x : ScaleUpd) (m : State × List Byte × List Bool),
    s.scaleQ[i]? = some x → x.report = none → x.close = true →
    m = State.memRead { fresh s with scaleQ := s.scaleQ.eraseIdx i } x.addr 64 0 → goesOn (·.fxScaleClose i) s → at' m.2.1 6 2 ≠ 0 →
    ∃ t, exec (.scaleClose i) s = .next t ∧ t.scaleQ = s.scaleQ.eraseIdx i ∧
      t.regF (rDie ((m.1.chanAddr x.addr).1 / 64) 0x28) 63 32 =
        (m.1.regF (rDie ((m.1.chanAddr x.addr).1 / 64) 0x28) 63 32 + 1) % 2 ^ 32 ∧
      t.units = s.units ∧ t.clus = s.clus ∧ t.out = s.out) ∧
  -- the CLOSE itself
  ∀ (bs : List Byte) (f : Byte), bs.length = 64 → 1 ≤ at' bs 3 1 % 16 → at' bs 3 1 % 16 ≤ 8 →
    at' bs 3 1 / 16 % 8 < at' bs 3 1 % 16 →
    (State.applyClose bs f).length = 64 ∧ at' (State.applyClose bs f) 0 1 = at' bs 1 1 ∧
    at' (State.applyClose bs f) 5 1 = 0 ∧ at' (State.applyClose bs f) 6 2 = 0 ∧
    at' (State.applyClose bs f) 16 4 = (at' bs 16 4 + 1) % 2 ^ 32 ∧ at' (State.applyClose bs f) 20 4 = 0 ∧
    at' (State.applyClose bs f) (32 + 4 * (at' bs 3 1 / 16 % 8)) 4 = at' bs 20 4 ∧
    at' (State.applyClose bs f) 3 1 % 16 = at' bs 3 1 % 16 ∧
    at' (State.applyClose bs f) 3 1 / 16 % 8 = (at' bs 3 1 / 16 % 8 + 1) % (at' bs 3 1 % 16) ∧
    (at' bs 4 1 % 2 = 0 → at' (State.applyClose bs f) 1 1 = at' bs 1 1) ∧
    at' (State.applyClose bs f) 8 8 = at' bs 8 8

namespace Sys2Proof.Claims

/-- The entry at the head of the stream queue, free to start. -/
abbrev startable (s : State) (u : UnitIx) (pu : Nat) (e : SEnt) (rest : List SEnt) : Prop :=
  s.physUnit u.val = some pu ∧ (s.unit pu).squeue = e :: rest ∧
  (match s.stream pu e.gen e.task with | some st => st.halted | none => true) = true ∧ s.unitHalted pu = false

/-- The program of an entry, read now unless it has been: state, header, instructions, failed check. -/
abbrev program (s : State) (u : UnitIx) (pu : Nat) (e : SEnt) : State × List W64 × List (List W64) × Option Nat :=
  match e.prog with | some p => (fresh s, p.1, p.2, none) | none => (fresh s).readProg pu u.val e

/-- The parameter registers of a unit. -/
abbrev params (s : State) (pu : Nat) : List W64 := (List.range 32).map fun i => s.reg (rUnit pu (0x200 + 8 * i))

/-- The hint of a stream's next element (R291). -/
abbrev hintOf (st : StreamSt) : Nat :=
  if st.prov.spec && dfld (st.instr st.next) 0 55 54 == 2 then 0 else dfld (st.instr st.next) 0 55 54

/-- The requests of the next element, added, and how many are new. -/
abbrev requests (s : State) (pu : Nat) (st : StreamSt) : List Req × Nat :=
  State.elemReqs st st.next s.reqSeq (hintOf st)
    (if iOp (st.instr st.next) = 1 then (State.tileRow (s.unit pu) st st.next).1 else [])
    (if iOp (st.instr st.next) = 1 then (State.tileRow (s.unit pu) st st.next).2 else [])

/-- A LOAD or STORE element may be issued now. -/
abbrev issuable (s : State) (pu : Nat) (g : GenIx) (st : StreamSt) : Prop :=
  (∀ r ∈ State.elemRanges st st.next, s.translate r.1 r.2.1 (iOp (st.instr st.next) == 1) = 0) ∧
  State.outOf st + (requests s pu st).2 ≤ 64 ∧ s.genOut pu g.val + (requests s pu st).2 ≤ 256 ∧
  (iOp (st.instr st.next) = 1 → s.gatewayOk (pu / 4) (s.cluGen (pu / 4)) = true)

/-- The data of an element has come, or has been accepted. -/
abbrev dataDone (st : StreamSt) : Prop :=
  ∀ r ∈ State.elemRanges st st.dlv, ∃ q ∈ State.reqOf st st.dlv r.2.2, q.done = true

/-- A PUSH element's destination. -/
abbrev pushTo (u : UnitIx) (st : StreamSt) : Nat := dieOfUnit u.val * 96 + dfld (st.instr st.dlv) 1 46 40

/-- No recorded access to a tile store meets those of the element, in the cycles `cs` (R219). -/
abbrev wordsFree (s : State) (pu : Nat) (st : StreamSt) (cs : List Nat) : Prop :=
  ∀ x ∈ (State.rowWords st st.dlv ++ State.rowScales st st.dlv).zip cs, ∀ y ∈ (s.unit pu).slips,
    ¬(y.port = x.1 / 32 % 64 ∧ y.cyc = x.2)

/-- The element may be delivered from cycle `cyc` on, on the way `p` (R256, R263, R264). -/
abbrev deliverable (s : State) (u : UnitIx) (pu : Nat) (g : GenIx) (k : TaskIx) (cyc : Nat) (st : StreamSt)
    (p : State.Path) : Prop :=
  s.elemPath u.val g.val k.val cyc st st.dlv = some p ∧ wordsFree s pu st (p.cycles 0) ∧
  (iOp (st.instr st.dlv) < 2 → dataDone st) ∧
  (iOp (st.instr st.dlv) = 2 → (∃ q ∈ s.physUnit (pushTo u st), s.unitHalted q = false ∧ q ≠ pu ∧
      wordsFree s q st (p.cycles 0x10000)) ∧
    (u.val / 4 = pushTo u st / 4 ∨ s.gatewayOk (pu / 4) (s.cluGen (pu / 4)) = true))

end Sys2Proof.Claims

open Sys2Proof.Claims in
/-- R255, R256, R258, R266, R270. -/
def Obligations.StreamsStartIssueAndDeliver : Prop :=
  -- STREAM_START, a program that passes
  (∀ (s : State) (u : UnitIx) (pu : Nat) (e : SEnt) (rest : List SEnt)
      (m : State × List W64 × List (List W64) × Option Nat),
    startable s u pu e rest → e.prov.spec = false → s.serialise = false → m = program s u pu e → m.1.waited = false → m.2.2.2 = none →
    (m.1.unit pu).admits e.prov.ticket = true → State.baseBad (params m.1 pu) m.2.2.1 = false →
    ∃ t, exec (.streamStart u) s = .next t ∧ (t.unit pu).squeue = rest ∧
      (t.stream pu e.gen e.task).map (fun x => (x.hdr, x.instrs, x.pr, x.prov)) =
        some (m.2.1, m.2.2.1, params m.1 pu, e.prov) ∧
      (t.stream pu e.gen e.task).map (fun x => (x.next, x.dlv, x.total, x.halted, x.blocked)) =
        some (0, 0, sTotal m.2.1, false, false) ∧
      (t.unit pu).tile = (s.unit pu).tile ∧ (∀ k, k ≠ pu → t.unit k = s.unit k) ∧ 
      t = { m.1 with units := t.units, waited := s.waited }) ∧
  -- STREAM_START, a program that fails
  (∀ (s : State) (u : UnitIx) (pu sub : Nat) (e : SEnt) (rest : List SEnt)
      (m : State × List W64 × List (List W64) × Option Nat),
    startable s u pu e rest → provFits e.prov → e.task < 8 → sub < 64 → m = program s u pu e → m.1.waited = false →
    m.2.2.2 = some sub →
    ∃ t, exec (.streamStart u) s = .next t ∧ t.regF (rUnit pu 0x100) 63 56 = 0x0B ∧
      t.regF (rUnit pu 0x140) 63 56 = sub ∧ t.regF (rUnit pu 0x140) 53 52 = e.gen % 4 ∧
      t.regF (rUnit pu 0x140) 51 49 = e.task ∧ (t.unit pu).squeue = [] ∧ (t.unit pu).tile = (s.unit pu).tile) ∧
  -- STREAM_ISSUE of an element
  (∀ (s : State) (u : UnitIx) (pu : Nat) (g : GenIx) (k : Nat) (fresh : Bool) (st : StreamSt),
    s.physUnit u.val = some pu → s.pickStream pu g.val = some (k, fresh) → s.stream pu g.val k = some st → k < 8 → st.xlat = false →
    (iOp (st.instr st.next) = 2 ∨ iOp (st.instr st.next) < 2 ∧ issuable s pu g st) →
    ∃ t, exec (.streamIssue u g) s = .next t ∧ (t.stream pu g.val k).map (·.next) = some (st.next + 1) ∧
      (t.stream pu g.val k).map (·.reqs) =
        some (if iOp (st.instr st.next) = 2 then st.reqs else (requests s pu st).1) ∧
      (fresh = true → t.regF (rUnit pu (0x120 + 8 * g.val)) 47 45 = k) ∧
      (∀ a, a ≠ rUnit pu (0x120 + 8 * g.val) → t.reg a = s.reg a) ∧ (t.unit pu).tile = (s.unit pu).tile ∧
      (∀ j, j ≠ pu → t.unit j = s.unit j) ∧ t = { s with regs := t.regs, units := t.units, reqSeq := t.reqSeq }) ∧
  -- STREAM_ISSUE of an element on a device page that is not present
  (∀ (s : State) (u : UnitIx) (pu : Nat) (g : GenIx) (k : Nat) (fresh : Bool) (st : StreamSt) (r : Nat × Nat × Bool),
    s.physUnit u.val = some pu → s.pickStream pu g.val = some (k, fresh) → s.stream pu g.val k = some st → k < 8 → st.xlat = false →
    iOp (st.instr st.next) < 2 → st.prov.spec = false → s.faultAddr r.1 r.2.1 < s.partnerBase →
    ((State.elemRanges st st.next).find? fun r => s.translate r.1 r.2.1 (iOp (st.instr st.next) == 1) != 0) = some r →
    s.translate r.1 r.2.1 (iOp (st.instr st.next) == 1) = 256 →
    ∃ t, exec (.streamIssue u g) s = .next t ∧
      (t.stream pu g.val k).map (fun x => (x.blocked, x.next, x.faultId.isSome)) = some (true, st.next, true) ∧
      t.bit (rUnit pu 0x140) 54 = true ∧ t.regF (rUnit pu 0x140) 53 52 = g.val ∧ t.regF (rUnit pu 0x140) 51 49 = k ∧
      t.regF (rUnit pu 0x148) 15 0 = (s.regF (rUnit pu 0x148) 15 0 + 1) % 2 ^ 16 ∧
      (∀ j, j ≠ pu → t.unit j = s.unit j) ∧
      t = { s with regs := t.regs, units := t.units, faults := t.faults, evtFlight := t.evtFlight }) ∧
  -- STREAM_ISSUE of an element on a reserved device page
  (∀ (s : State) (u : UnitIx) (pu : Nat) (g : GenIx) (k : Nat) (fresh : Bool) (st : StreamSt) (r : Nat × Nat × Bool),
    s.physUnit u.val = some pu → s.pickStream pu g.val = some (k, fresh) → s.stream pu g.val k = some st → k < 8 →
    st.xlat = false → iOp (st.instr st.next) < 2 → st.prov.spec = false → s.partnerBase ≤ s.faultAddr r.1 r.2.1 →
    s.unitHalted pu = false →
    ((State.elemRanges st st.next).find? fun r => s.translate r.1 r.2.1 (iOp (st.instr st.next) == 1) != 0) = some r →
    s.translate r.1 r.2.1 (iOp (st.instr st.next) == 1) = 256 → provFits st.prov →
    ∃ t, exec (.streamIssue u g) s = .next t ∧ t.regF (rUnit pu 0x100) 63 56 = 0x0B ∧
      t.regF (rUnit pu 0x140) 63 56 = 4 ∧ t.regF (rUnit pu 0x140) 53 52 = g.val ∧ t.regF (rUnit pu 0x140) 51 49 = k ∧
      (t.unit pu).squeue = [] ∧ (t.unit pu).tile = (s.unit pu).tile) ∧
  -- STREAM_ISSUE of an element on a host page without a translation
  (∀ (s : State) (u : UnitIx) (pu : Nat) (g : GenIx) (k : Nat) (fresh : Bool) (st : StreamSt) (r : Nat × Nat × Bool),
    s.physUnit u.val = some pu → s.pickStream pu g.val = some (k, fresh) → s.stream pu g.val k = some st → k < 8 →
    st.xlat = false → iOp (st.instr st.next) < 2 →
    ((State.elemRanges st st.next).find? fun r => s.translate r.1 r.2.1 (iOp (st.instr st.next) == 1) != 0) = some r →
    s.translate r.1 r.2.1 (iOp (st.instr st.next) == 1) = 1 →
    ∃ t, exec (.streamIssue u g) s = .next t ∧
      (t.stream pu g.val k).map (fun x => (x.xlat, x.next)) = some (true, st.next) ∧
      t.out = .xlatRequest u.val g.val k (s.xlatAsk r.1 r.2.1 (iOp (st.instr st.next) == 1)) s.streamPasid :: s.out ∧
      (∀ a, a ≠ rUnit pu (0x120 + 8 * g.val) → t.reg a = s.reg a) ∧ (∀ j, j ≠ pu → t.unit j = s.unit j) ∧
      t = { s with regs := t.regs, units := t.units, out := t.out }) ∧
  -- ELEMENT_DELIVERY
  ∀ (s : State) (u : UnitIx) (pu cyc : Nat) (g : GenIx) (k : TaskIx) (st0 st : StreamSt)
      (p : State.Path),
    s.physUnit u.val = some pu → s.stream pu g.val k.val = some st0 → st0.halted = false → st0.dlv < st0.next →
    (s.doHost pu u.val g.val k.val st0.dlv).settleInvals.stream pu g.val k.val = some st → st.dlv = st0.dlv → st.prov.spec = false →
    deliverable s u pu g k cyc st p → iOp (st.instr st.dlv) < 3 →
    ∃ t, exec (.elementDelivery u g k cyc) s = .next t ∧
      t.regF (rUnit pu (0x120 + 8 * g.val)) 31 0 = (s.regF (rUnit pu (0x120 + 8 * g.val)) 31 0 + 1) % 2 ^ 32 ∧
      (if st.dlv + 1 = st.total then
          if State.openReqs st = [] then t.stream pu g.val k.val = none
          else (t.stream pu g.val k.val).map (fun x => (x.halted, x.reqs)) = some (true, State.openReqs st)
        else (t.stream pu g.val k.val).map (·.dlv) = some (st.dlv + 1)) ∧
      (∀ a, a ≠ rUnit pu (0x120 + 8 * g.val) → t.reg a = s.reg a) ∧
      (∀ j, j ≠ pu → (iOp (st.instr st.dlv) = 2 → s.physUnit (pushTo u st) ≠ some j) → t.unit j = s.unit j) ∧
      t = { s with regs := t.regs, units := t.units, clus := t.clus, tokens := t.tokens, hostMem := t.hostMem,
                   ctr := t.ctr, out := t.out, invals := t.invals }

namespace Sys2Proof.Claims

/-- The stream of a command. -/
abbrev streamAt (s : State) (u : UnitIx) (pu : Nat) (g : GenIx) (k : TaskIx) (st : StreamSt) : Prop :=
  s.physUnit u.val = some pu ∧ s.stream pu g.val k.val = some st ∧ st.halted = false

/-- The provenance of every stream can be reported. -/
abbrev allFit (s : State) : Prop := ∀ x ∈ s.allStreams, ∀ y ∈ s.stream x.1 x.2.1 x.2.2, provFits y.prov

/-- The registers that a stream's halt writes. -/
abbrev sfltHalt (pu a : Nat) : Prop :=
  a ∈ [0x58, 0x100, 0x110, 0x118, 0x140, 0x148, 0x150, 0x158].map (rUnit pu)

/-- The range of the stream's element whose translation was asked for. -/
abbrev missing (st : StreamSt) (x : Nat × Nat × Bool) : Prop :=
  ((State.elemRanges st st.next).find? fun x => x.1 == st.faddr) = some x

/-- The stream blocked on the host page `a` of its element. -/
abbrev blockedHost (st : StreamSt) (a : Nat) : StreamSt :=
  { st with pend := none, blocked := true, xlat := false, fpage := a }

/-- A request issued to the host range is outstanding (R269). -/
abbrev openIn (s : State) (x : Nat × Nat) : Bool :=
  s.units.any fun u => u.2.streams.any fun y => match y.2 with
    | some st => st.reqs.any fun q => q.host && !q.done && decide (q.addr % 2 ^ 47 < x.1 + x.2) &&
        decide (x.1 < q.addr % 2 ^ 47 + q.len)
    | none => false

end Sys2Proof.Claims

open Sys2Proof.Claims in
/-- R269, R273, R434, R435. -/
def Obligations.HostTranslationAndPageAnswersActOnStreams : Prop :=
  -- FAULT_TIMEOUT
  (∀ (s : State) (u : UnitIx) (pu : Nat) (g : GenIx) (k : TaskIx) (st : StreamSt),
    streamAt s u pu g k st → st.blocked = true → s.regF (rUnit pu 0x78) 15 0 ≠ 0 → s.unitHalted pu = false →
    provFits st.prov →
    ∃ t, exec (.faultTimeout u g k) s = .next t ∧ t.regF (rUnit pu 0x100) 63 56 = 0x0B ∧
      t.regF (rUnit pu 0x100) 55 53 = 3 ∧ t.regF (rUnit pu 0x100) 46 32 = st.prov.pc ∧
      t.regF (rUnit pu 0x140) 63 56 = 5 ∧ t.bit (rUnit pu 0x140) 55 = true ∧ t.bit (rUnit pu 0x140) 54 = false ∧
      t.regF (rUnit pu 0x140) 53 52 = g.val ∧ t.regF (rUnit pu 0x140) 51 49 = k.val ∧
      t.regF (rUnit pu 0x140) 47 0 = st.faddr % 2 ^ 48 ∧
      (t.unit pu).queues = [] ∧ (t.unit pu).squeue = [] ∧ (t.unit pu).tile = (s.unit pu).tile ∧
      (t.stream pu g.val k.val).map (fun x => (x.halted, x.next)) = some (true, st.next) ∧
      (∀ a, ¬sfltHalt pu a → t.reg a = s.reg a) ∧
      t = { s with regs := t.regs, units := t.units, errFlight := t.errFlight, faults := t.faults }) ∧
  -- ATS_TRANSLATION_RESPONSE that grants the access
  (∀ (s : State) (u : UnitIx) (pu : Nat) (g : GenIx) (k : TaskIx) (st : StreamSt) (w : Bool) (n : Nat)
      (x : Nat × Nat × Bool),
    streamAt s u pu g k st → st.xlat = true → 12 ≤ n → n ≤ 30 → missing st x →
    (st.stores st.next = true → w = true) →
    ∃ t, exec (.atsTranslationResponse u g k true w n) s = .next t ∧
      t.stream pu g.val k.val = some { st with xlat := false, fpage := s.xlatAsk x.1 x.2.1 (st.stores st.next) } ∧
      t.atc.head? = some
        { pasid := s.streamPasid, base := s.xlatAsk x.1 x.2.1 (st.stores st.next) % 2 ^ 47 / 2 ^ n * 2 ^ n,
          size := n, rd := true, wr := w } ∧ (∀ e ∈ t.atc.tail, e ∈ s.atc) ∧
      t.atc.length ≤ 8192 ∧
      t.unit pu = { s.unit pu with streams := (t.unit pu).streams } ∧ (∀ j, j ≠ pu → t.unit j = s.unit j) ∧
      t = { s with units := t.units, atc := t.atc }) ∧
  -- ATS_TRANSLATION_RESPONSE that grants neither read nor write
  (∀ (s : State) (u : UnitIx) (pu : Nat) (g : GenIx) (k : TaskIx) (st : StreamSt) (n a : Nat) (x : Nat × Nat × Bool),
    streamAt s u pu g k st → st.xlat = true → 12 ≤ n → n ≤ 30 → st.retry = false → missing st x →
    a = s.xlatAsk x.1 x.2.1 (st.stores st.next) →
    st.prov.spec = false → s.pri = true → s.priStop = false → st.prg = false → st.faultId = none →
    (s.setStream pu g.val k.val (some (blockedHost st a))).groupsOut < 512 →
    ∃ t, exec (.atsTranslationResponse u g k false false n) s = .next t ∧
      t.stream pu g.val k.val = some { blockedHost st a with prg := true } ∧
      t.out = .pageRequest (s.logUnit pu) g.val k.val a (st.stores st.next) s.streamPasid :: s.out ∧
      t.regF (rUnit pu 0x140) 47 0 = st.faddr % 2 ^ 48 ∧
      t.bit (rUnit pu 0x140) 54 = true ∧ t.regF (rUnit pu 0x140) 63 56 = 0 ∧
      t.regF (rUnit pu 0x148) 15 0 = (s.regF (rUnit pu 0x148) 15 0 + 1) % 2 ^ 16 ∧
      (∀ a, a ∉ [0x140, 0x148, 0x150, 0x158].map (rUnit pu) → t.reg a = s.reg a) ∧
      t.unit pu = { s.unit pu with streams := (t.unit pu).streams } ∧ (∀ j, j ≠ pu → t.unit j = s.unit j) ∧
      t = { s with regs := t.regs, units := t.units, out := t.out }) ∧
  -- PAGE_REQUEST_RESPONSE: success
  (∀ (s : State) (u : UnitIx) (pu : Nat) (g : GenIx) (k : TaskIx) (st : StreamSt),
    s.physUnit u.val = some pu → s.stream pu g.val k.val = some st → st.prg = true →
    ∃ t, exec (.pageRequestResponse u g k .success) s = .next t ∧
      t.stream pu g.val k.val = some { st with prg := false, blocked := false, retry := true } ∧
      (∀ a, a ≠ rUnit pu 0x140 → t.reg a = s.reg a) ∧
      t = { s with regs := t.regs, units := t.units, out := t.out }) ∧
  -- PAGE_REQUEST_RESPONSE: Invalid Request
  (∀ (s : State) (u : UnitIx) (pu : Nat) (g : GenIx) (k : TaskIx) (st : StreamSt),
    s.physUnit u.val = some pu → s.stream pu g.val k.val = some st → st.prg = true → st.halted = false →
    s.unitHalted pu = false → provFits st.prov →
    ∃ t, exec (.pageRequestResponse u g k .invalidRequest) s = .next t ∧ t.regF (rUnit pu 0x100) 63 56 = 0x0B ∧
      t.regF (rUnit pu 0x140) 63 56 = 4 ∧ (∀ a, ¬sfltHalt pu a → t.reg a = s.reg a) ∧
      t = { s with regs := t.regs, units := t.units, errFlight := t.errFlight, out := t.out, faults := t.faults }) ∧
  -- PAGE_REQUEST_RESPONSE: Invalid Request for a stream that has stopped
  (∀ (s : State) (u : UnitIx) (pu : Nat) (g : GenIx) (k : TaskIx) (st : StreamSt),
    s.physUnit u.val = some pu → s.stream pu g.val k.val = some st → st.prg = true → st.halted = true →
    ∃ t, exec (.pageRequestResponse u g k .invalidRequest) s = .next t ∧
      (t.stream pu g.val k.val).map (·.prg) = some false ∧ t = { s with units := t.units, out := t.out }) ∧
  -- PAGE_REQUEST_RESPONSE: Response Failure
  (∀ (s : State) (u : UnitIx) (pu : Nat) (g : GenIx) (k : TaskIx) (st : StreamSt),
    s.physUnit u.val = some pu → s.stream pu g.val k.val = some st → st.prg = true → allFit s →
    ∃ t, exec (.pageRequestResponse u g k .responseFailure) s = .next t ∧ t.priStop = true ∧
      (∀ x ∈ s.allStreams, ∀ y ∈ s.stream x.1 x.2.1 x.2.2, y.prg = true → y.halted = false →
        t.unitHalted x.1 = true) ∧
      t = { s with regs := t.regs, units := t.units, errFlight := t.errFlight, priStop := true, faults := t.faults }) ∧
  -- ATS_INVALIDATION
  (∀ (s : State) (addr : BitVec 48) (n : Nat),
    ∃ t, exec (.atsInvalidation addr n) s = .next t ∧
      (∀ e, e ∈ t.atc ↔ e ∈ s.atc ∧
        (addr.toNat % 2 ^ 47 + n ≤ e.base ∨ e.base + 2 ^ e.size ≤ addr.toNat % 2 ^ 47)) ∧
      t.invals = (s.invals ++ [(addr.toNat % 2 ^ 47, n)]).filter (fun x => openIn s x) ∧
      t.out = (((s.invals ++ [(addr.toNat % 2 ^ 47, n)]).filter fun x => !openIn s x).map
        fun (x : Nat × Nat) => Out.invalidateDone x.1 x.2).reverse ++ s.out ∧
      t = { s with atc := t.atc, invals := t.invals, out := t.out }) ∧
  -- PRI_ENABLE_CLEAR
  ∀ (s : State), allFit s →
    ∃ t, exec .priEnableClear s = .next t ∧ t.pri = false ∧
      (∀ x ∈ s.allStreams, ∀ y ∈ s.stream x.1 x.2.1 x.2.2,
        y.blocked = true → y.faultId = none → y.halted = false → t.unitHalted x.1 = true) ∧
      t = { s with regs := t.regs, units := t.units, errFlight := t.errFlight, pri := false, priStop := false,
                   faults := t.faults }

namespace Sys2Proof.Claims

/-- The one piece of a request at device address `a` of `n` bytes, which its slice may take. -/
abbrev onePiece (s : State) (r : SliceReq) (a n : Nat) (w : Wait) : Prop :=
  s.waits r a n = [w] ∧ 0 < n ∧ n ≤ 256 ∧ (s.heldOf w.ch).length < 64 ∧ s.chLost w.ch = false

/-- Both ends of a range are populated. -/
abbrev inHbm (a n : Nat) : Prop := populated a = true ∧ populated (a + n - 1) = true

/-- The slice of a piece. -/
abbrev at_ (s : State) (w : Wait) : SliceSt := s.slice (sliceOf w.ch)

/-- The line of a piece, when its slice holds it. -/
abbrev lineOf (s : State) (w : Wait) : Option Line := (at_ s w).find w.ch w.line

/-- A line as every line is kept: 128 bytes and four poison flags. -/
abbrev fullLine (l : Line) : Prop := l.data.length = 128 ∧ l.poison.length = 4

/-- A line without poison. -/
abbrev cleanLine (l : Line) : Prop := l.poison = [false, false, false, false] ∧ l.data.length = 128

/-- Slices other than `r` are as before. -/
abbrev otherSlices (s t : State) (r : Nat) : Prop := ∀ k, k ≠ r → t.slice k = s.slice k

/-- The bytes of a piece of a line, by request offset. -/
abbrev gotOf (w : Wait) (l : Line) : List (Nat × Byte × Bool) :=
  (List.range w.n).map fun i => (w.off + i, l.data.getD (w.lo + i) 0#8, false)

/-- What a channel holds of a line's sector. -/
abbrev sector (s : State) (ch line i : Nat) : List Byte × Bool := s.getSector ch (line * 128 + 32 * i)

end Sys2Proof.Claims

open Sys2Proof.Claims in
/-- R281, R290 to R295, R298, R302. -/
def Obligations.CacheSlicesServeFillFlushAndUnpin : Prop :=
  -- a STREAM read of a present line
  (∀ (s : State) (a : BitVec 48) (n : Nat) (w : Wait) (l : Line),
    inHbm a.toNat n → onePiece s (.read a n 0) a.toNat n w → lineOf s w = some l →
    ∃ t, exec (.sliceRequest (.read a n 0)) s = .next t ∧ t = { s with ctr := t.ctr } ∧
      (cleanLine l → t = s)) ∧
  -- a LAST_USE read of a present line
  (∀ (s : State) (a : BitVec 48) (n : Nat) (w : Wait) (l : Line),
    inHbm a.toNat n → onePiece s (.read a n 2) a.toNat n w → lineOf s w = some l →
    ∃ t, exec (.sliceRequest (.read a n 2)) s = .next t ∧ lineOf t w = none ∧
      (∀ c ln, (c, ln) ≠ (w.ch, w.line) →
        (at_ t w).find c ln = (at_ s w).find c ln) ∧
      t.regF (rMsc (sliceOf w.ch) 0) 47 32 =
        (s.regF (rMsc (sliceOf w.ch) 0) 47 32 + (if l.dirty then 1 else 0)) % 2 ^ 16 ∧
      (∀ r, r ≠ rMsc (sliceOf w.ch) 0 → t.reg r = s.reg r) ∧ otherSlices s t (sliceOf w.ch) ∧
      (l.dirty = false → t.chanBytes = s.chanBytes ∧ t.chanPoison = s.chanPoison) ∧
      t = { s with regs := t.regs, slices := t.slices, chanBytes := t.chanBytes, chanPoison := t.chanPoison,
                   ctr := t.ctr }) ∧
  -- a write to a present line
  (∀ (s : State) (a : BitVec 48) (d : List Byte) (h : Fin 3) (w : Wait) (l : Line),
    inHbm a.toNat d.length → onePiece s (.write a d h) a.toNat d.length w → lineOf s w = some l → fullLine l →
    s.chState w.ch ≠ 5 →
    ∃ t, exec (.sliceRequest (.write a d h)) s = .next t ∧
      (∀ k, k < d.length → (t.peekByte (a.toNat + k)).1 = d.getD k 0#8) ∧
      (∃ m, lineOf t w = some m ∧ m.dirty = true ∧ fullLine m ∧
        ∀ i, i < 128 → (i < w.lo ∨ w.lo + d.length ≤ i) → m.data.getD i 0#8 = l.data.getD i 0#8) ∧
      (∀ c ln, (c, ln) ≠ (w.ch, w.line) → (at_ t w).find c ln = (at_ s w).find c ln) ∧
      otherSlices s t (sliceOf w.ch) ∧ (∀ r, r ≠ rMsc (sliceOf w.ch) 0 → t.reg r = s.reg r) ∧
      (h ≠ 1 → t.regs = s.regs) ∧ t = { s with regs := t.regs, slices := t.slices }) ∧
  -- a stream's read of a present line
  (∀ (s : State) (u : UnitIx) (g : GenIx) (k : TaskIx) (pu i : Nat) (q : Req) (st : StreamSt) (w : Wait) (l : Line),
    s.physUnit u.val = some pu → s.stream pu g.val k.val = some st → (st.reqs.find? fun q => q.num == i) = some q →
    q.host = false → q.asked = false → q.write = false → q.hint = 0 →
    onePiece s (.stream u g k i) q.addr q.len w → lineOf s w = some l → cleanLine l →
    ∃ t, exec (.sliceRequest (.stream u g k i)) s = .next t ∧
      (t.stream pu g.val k.val).map (fun x => x.reqs.find? fun q => q.num == i) =
        some (some { q with asked := true, got := q.got ++ gotOf w l }) ∧
      (t.stream pu g.val k.val).map (fun x => { x with reqs := [] }) = some { st with reqs := [] } ∧
      t.unit pu = { s.unit pu with streams := (t.unit pu).streams } ∧ (∀ j, j ≠ pu → t.unit j = s.unit j) ∧
      t = { s with units := t.units }) ∧
  -- a read of an absent line waits for its fill
  (∀ (s : State) (a : BitVec 48) (n : Nat) (h : Fin 3) (w : Wait),
    inHbm a.toNat n → onePiece s (.read a n h) a.toNat n w → lineOf s w = none → s.lineHeld w.ch w.line = false →
    (h = 2 ∨ s.noVictim w.ch w.line = false) →
    ∃ t, exec (.sliceRequest (.read a n h)) s = .next t ∧
      at_ t w = { at_ s w with fills := (at_ s w).fills ++ [w] } ∧ otherSlices s t (sliceOf w.ch) ∧
      t = { s with slices := t.slices }) ∧
  -- a read of an absent line whose channel is in its window is held
  (∀ (s : State) (a : BitVec 48) (n : Nat) (h : Fin 3) (w : Wait),
    inHbm a.toNat n → onePiece s (.read a n h) a.toNat n w → lineOf s w = none → s.lineHeld w.ch w.line = true →
    (at_ s w).lost = false →
    ∃ t, exec (.sliceRequest (.read a n h)) s = .next t ∧
      at_ t w = { at_ s w with held := (at_ s w).held ++ [w] } ∧ otherSlices s t (sliceOf w.ch) ∧
      t.regF (rMsc (sliceOf w.ch) 0) 10 0 = (s.regF (rMsc (sliceOf w.ch) 0) 10 0 + 1) % 2 ^ 11 ∧
      (∀ r, r ≠ rMsc (sliceOf w.ch) 0 → t.reg r = s.reg r) ∧ t = { s with regs := t.regs, slices := t.slices }) ∧
  -- LINE_FILL for one STREAM read, without errors
  (∀ (s : State) (ch : ChanIx) (line : Nat) (a : BitVec 48) (n : Nat) (w : Wait),
    ((s.slice (sliceOf ch.val)).fills.filter fun w => w.ch == ch.val && w.line == line) = [w] →
    w.req = .read a n 0 → lineOf s w = none →
    (at_ s w).lost = false → ((at_ s w).ways ch.val line).length < 16 →
    (∀ i < 4, s.undetected ch.val (line * 128 + 32 * i) = false) →
    ∃ t, exec (.lineFill ch line []) s = .next t ∧ lineOf t w = some (s.fetchLine ch.val line) ∧
      (at_ t w).fills = (at_ s w).fills.filter (fun w => !(w.ch == ch.val && w.line == line)) ∧
      (∀ c ln, (c, ln) ≠ (ch.val, line) → (at_ t w).find c ln = (at_ s w).find c ln) ∧
      otherSlices s t (sliceOf ch.val) ∧ t = { s with slices := t.slices, ctr := t.ctr }) ∧
  -- MSC_FLUSH
  (∀ (s : State) (r : RgnIx), s.bit 0x18 (8 + r.val / 4) = true → (s.slice r.val).lost = false →
    s.bit (rMsc r.val 8) 2 = false →
    ∃ t, exec (.mscFlush r) s = .next t ∧ t.bit (rMsc r.val 8) 2 = true ∧
      t.slice r.val = { s.slice r.val with
        flush := ((s.slice r.val).lines.filter (·.dirty)).map fun l => (l.ch, l.line) } ∧
      otherSlices s t r.val ∧ (∀ a, a ≠ rMsc r.val 8 → t.reg a = s.reg a) ∧
      t = { s with regs := t.regs, slices := t.slices }) ∧
  -- MSC_FLUSH_DONE
  (∀ (s : State) (r : RgnIx), s.bit (rMsc r.val 8) 2 = true → (∀ l ∈ (s.slice r.val).lines, fullLine l) →
    (∀ x ∈ (s.slice r.val).flush, x.1 < 2048 ∧ x.2 < 2 ^ 24 ∧ s.retired x.1 = false ∧ s.chHeld x.1 = false) →
    ∃ t, exec (.mscFlushDone r) s = .next t ∧ t.bit (rMsc r.val 8) 2 = false ∧ (t.slice r.val).flush = [] ∧
      (∀ x ∈ (s.slice r.val).flush, ∀ l, (s.slice r.val).find x.1 x.2 = some l →
        (t.slice r.val).find x.1 x.2 = some { l with dirty := false } ∧
        (l.dirty = true → ∀ i, i < 4 →
          sector t x.1 x.2 i = ((l.data.drop (32 * i)).take 32, l.poison.getD i false))) ∧
      (∀ c ln, (c, ln) ∉ (s.slice r.val).flush → (t.slice r.val).find c ln = (s.slice r.val).find c ln) ∧
      otherSlices s t r.val ∧ (∀ a, a ≠ rMsc r.val 8 → t.reg a = s.reg a) ∧
      t = { s with regs := t.regs, slices := t.slices, chanBytes := t.chanBytes, chanPoison := t.chanPoison }) ∧
  -- UNPIN_ALL
  (∀ (s : State) (r : RgnIx), s.bit 0x18 (8 + r.val / 4) = true →
    ∃ t, exec (.unpinAll r) s = .next t ∧
      t.slice r.val = { s.slice r.val with lines := (s.slice r.val).lines.map fun l => { l with pinned := false } } ∧
      t.regF (rMsc r.val 0) 31 14 = 0 ∧ otherSlices s t r.val ∧ (∀ a, a ≠ rMsc r.val 0 → t.reg a = s.reg a) ∧
      t = { s with regs := t.regs, slices := t.slices }) ∧
  -- PATROL_READ of a corrected sector
  (∀ (s : State) (ch : ChanIx) (i : Nat), (s.chState ch.val = 2 ∨ s.chState ch.val = 4) → 32 * i < cch →
    s.chLost ch.val = false → s.home ch.val (32 * i) = (ch.val, 32 * i) → (s.getSector ch.val (32 * i)).2 = false →
    ∃ t, exec (.patrolRead ch i .corrected) s = .next t ∧
      t.regF (rChan ch.val 0) 23 0 = (s.regF (rChan ch.val 0) 23 0 + 1) % 2 ^ 24 ∧
      t.errFlight = s.errFlight ++ [mkErr 0x0401 7 ch.val (BitVec.ofNat 64 (ch.val * 2 ^ 32 + 32 * i))] ∧
      (∀ a, a ≠ rChan ch.val 0 → t.reg a = s.reg a) ∧ t = { s with regs := t.regs, errFlight := t.errFlight }) ∧
  -- PATROL_READ of an uncorrectable sector
  ∀ (s : State) (ch : ChanIx) (i : Nat), s.chState ch.val = 2 → 32 * i < cch →
    s.chLost ch.val = false → (s.getSector ch.val (32 * i)).2 = false → (s.chan ch.val).ueHour < 1000 →
    ∃ t, exec (.patrolRead ch i .uncorrectable) s = .next t ∧
      t.regF (rChan ch.val 0) 39 24 = (s.regF (rChan ch.val 0) 39 24 + 1) % 2 ^ 16 ∧
      t.getSector ch.val (32 * i) = ((s.getSector ch.val (32 * i)).1, true) ∧
      t.errFlight = s.errFlight ++ [mkErr 0x0402 7 ch.val (BitVec.ofNat 64 (ch.val * 2 ^ 32 + 32 * i))] ∧
      (t.chan ch.val).ueHour = (s.chan ch.val).ueHour + 1 ∧ (∀ k, k ≠ ch.val → t.chan k = s.chan k) ∧
      (∀ a, a ≠ rChan ch.val 0 → t.reg a = s.reg a) ∧
      t = { s with regs := t.regs, errFlight := t.errFlight, chans := t.chans, chanBytes := t.chanBytes,
                   chanPoison := t.chanPoison }

namespace Sys2Proof.Claims

/-- Where a reader finds a sector of a channel: in the slice or in the channel. -/
abbrev seenSector (s : State) (ch off : Nat) : List Byte × Bool :=
  match (s.slice (sliceOf ch)).find ch (off / 128) with
  | some l => ((l.data.drop (off % 128)).take 32, l.poison.getD (off % 128 / 32) false)
  | none => s.getSector ch off

/-- Registers other than the channel's state and the counts of its die's slices are as before. -/
abbrev chanRegs (s t : State) (ch : Nat) : Prop :=
  ∀ a, a ≠ rChan ch 0 → (∀ i < 4, a ≠ rMsc (ch / 64 * 4 + i) 0) → t.reg a = s.reg a

/-- No request is held for the channel or for a line that it stores, and neither host requests nor events wait. -/
abbrev noneHeld (s : State) (ch : Nat) : Prop :=
  s.hostQ = [] ∧ s.evtBuf = [] ∧ ∀ i < 4, ∀ w ∈ (s.slice (ch / 64 * 4 + i)).held, w.ch ≠ ch ∧ (s.home w.ch (w.line * 128)).1 ≠ ch

/-- The running program: control word and one step before END. -/
abbrev oneStep (s : State) (ch : Nat) (w : W64) : Prop :=
  s.chState ch = 1 ∧ s.regF (rChan ch 0x10) 63 62 = 1 ∧ s.tgSteps ch = [0] ∧ wordAt (s.chan ch).tg 1 = w ∧
  fld (wordAt (s.chan ch).tg 0) 2 2 = 0

/-- The sector lies in the range of the running program. -/
abbrev inTgRange (s : State) (ch sec : Nat) : Prop :=
  fld (wordAt (s.chan ch).tg 0) 40 30 * 32768 ≤ sec ∧ sec < fld (wordAt (s.chan ch).tg 0) 51 41 * 32768

/-- The pattern of a step in a sector. -/
abbrev patternOf (w : W64) (sec : Nat) : List Byte := State.patSector (fld w 59 57) (fld w 31 0) sec false

/-- The state with the fields of a TG_CTRL write. -/
abbrev tgWritten (s : State) (ch : Nat) (v : W64) : State :=
  ((s.setReg (rChan ch 0x08) (v &&& 0xFFFFFC000000C#64)).setReg (rChan ch 0x10) 0#64).setReg (rChan ch 0x18) 0#64

/-- Registers of the traffic generator. -/
abbrev tgRegs (s t : State) (ch : Nat) : Prop :=
  ∀ a, a ≠ rChan ch 0x08 → a ≠ rChan ch 0x10 → a ≠ rChan ch 0x18 → t.reg a = s.reg a

/-- A START that the generator takes. -/
abbrev tgStarts (s : State) (ch : Nat) (v : W64) : Prop :=
  s.bit 0x18 (16 + ch / 32) = true ∧ s.chState ch = 1 ∧ s.regF (rChan ch 0x10) 63 62 ≠ 1 ∧ bitAt v.toNat 0 = true

end Sys2Proof.Claims

open Sys2Proof.Claims in
/-- R301, R303 to R306, R313 to R315. -/
def Obligations.ChannelsRetrainRetireMigrateAndTest : Prop :=
  -- RETRAIN_WINDOW_OPEN
  (∀ (s : State) (ch : ChanIx), s.chState ch.val = 2 →
    (∀ i < 64, s.chState (64 * (ch.val / 64) + i) ≠ 3) → s.migRuns (ch.val / 64) = false →
    s.regF 0x10108 63 60 ≤ 1 → s.chLost ch.val = false →
    ∃ t, exec (.retrainWindowOpen ch) s = .next t ∧ t.chState ch.val = 3 ∧
      t.regF (rChan ch.val 0) 59 0 = s.regF (rChan ch.val 0) 59 0 ∧
      (∀ a, a ≠ rChan ch.val 0 → t.reg a = s.reg a) ∧ t = { s with regs := t.regs }) ∧
  -- RETRAIN_REOPEN
  (∀ (s : State) (ch : ChanIx) (x : Fin 6), s.chState ch.val = 3 → (s.chan ch.val).failing = false →
    (s.chan ch.val).ueHour ≤ 1000 →
    ∃ t, exec (.retrainReopen ch x) s = .next t ∧ t.chState ch.val = 2 ∧ t.regF (rChan ch.val 0) 59 56 = x.val ∧
      t.regF (rChan ch.val 0) 47 40 = (s.regF (rChan ch.val 0) 47 40 + 1) % 2 ^ 8 ∧
      (t.chan ch.val).badWindows = 0 ∧
      (noneHeld s ch.val → chanRegs s t ch.val ∧ (∀ k, k ≠ ch.val → t.chan k = s.chan k) ∧
        (∀ r, t.slice r = s.slice r) ∧
        t = { s with regs := t.regs, chans := t.chans, slices := t.slices })) ∧
  -- RETRAIN_TIMEOUT, the previous settings verify, for the first time
  (∀ (s : State) (ch : ChanIx), s.chState ch.val = 3 → (s.chan ch.val).failing = false →
    (s.chan ch.val).badWindows = 0 → (s.chan ch.val).ueHour ≤ 1000 →
    ∃ t, exec (.retrainTimeout ch ⟨true, false⟩) s = .next t ∧ t.chState ch.val = 2 ∧ (t.chan ch.val).badWindows = 1 ∧
      t.regF (rChan ch.val 0) 59 56 = s.regF (rChan ch.val 0) 59 56 ∧
      t.regF (rChan ch.val 0) 47 40 = (s.regF (rChan ch.val 0) 47 40 + 1) % 2 ^ 8 ∧
      (noneHeld s ch.val → chanRegs s t ch.val ∧ (∀ k, k ≠ ch.val → t.chan k = s.chan k) ∧
        (∀ r, t.slice r = s.slice r) ∧ t = { s with regs := t.regs, chans := t.chans, slices := t.slices })) ∧
  -- RETRAIN_TIMEOUT, for the second time in a row, or with too many lanes to spare
  (∀ (s : State) (ch : ChanIx) (lanes : Bool), s.chState ch.val = 3 → (s.chan ch.val).failing = false →
    1 ≤ (s.chan ch.val).badWindows ∨ lanes = true ∨ 1000 < (s.chan ch.val).ueHour →
    ∃ t, exec (.retrainTimeout ch ⟨true, lanes⟩) s = .next t ∧ t.chState ch.val = 4 ∧ t.bit (rChan ch.val 0) 55 = true ∧
      ∃ e ∈ t.errFlight, e.code = 0x0403 ∧ e.scope = 7 ∧ e.index = ch.val) ∧
  -- RETRAIN_TIMEOUT, neither settings verify
  (∀ (s : State) (ch : ChanIx) (lanes : Bool), s.chState ch.val = 3 → (s.chan ch.val).failing = false →
    ∃ t, exec (.retrainTimeout ch ⟨false, lanes⟩) s = .next t ∧ (t.chan ch.val).failing = true ∧
      (noneHeld s ch.val → t.chan ch.val = { s.chan ch.val with failing := true } ∧
        (∀ k, k ≠ ch.val → t.chan k = s.chan k) ∧ t = { s with chans := t.chans })) ∧
  -- FALLBACK_TRAINING_DONE
  (∀ (s : State) (ch : ChanIx) (x : Fin 6) (ok : Bool), (s.chan ch.val).failing = true →
    s.regF (State.rMig (ch.val / 64)) 63 60 = 0 →
    ∃ t, exec (.fallbackTrainingDone ch ⟨x, ok⟩) s = .next t ∧ t.chState ch.val = (if ok then 4 else 5) ∧
      (ok = true → t.bit (rChan ch.val 0) 55 = true) ∧ t.regF (rChan ch.val 0) 59 56 = x.val ∧
      (t.chan ch.val).failing = false ∧
      t.regF (State.rMig (ch.val / 64)) 63 60 = 1 ∧ t.regF (State.rMig (ch.val / 64)) 57 52 = ch.val % 64 ∧
      t.bit (State.rMig (ch.val / 64)) 51 = !ok ∧
      (∃ e ∈ t.errFlight, e.code = 0x0403 ∧ e.scope = 7 ∧ e.index = ch.val) ∧
      (noneHeld s ch.val → (∀ a, a ≠ rChan ch.val 0 → (∀ i < 4, a ≠ rMsc (ch.val / 64 * 4 + i) 0) →
          a ≠ State.rMig (ch.val / 64) → t.reg a = s.reg a) ∧
        t = { s with regs := t.regs, chans := t.chans, slices := t.slices, errFlight := t.errFlight })) ∧
  -- MIGRATION_UNIT_MOVE
  (∀ (s : State) (d : DieIx) (ch x : Nat), s.migRuns d.val = true →
    ch = 64 * d.val + s.regF (State.rMig d.val) 57 52 → x = s.regF (State.rMig d.val) 20 0 →
    s.retired ch = true → s.unitMoved ch x = false →
    s.retired (migTarget ch x).1 = false → (∀ i < 32, s.undetected ch (x * 1024 + 32 * i) = false) →
    (∀ l ∈ (s.slice (sliceOf ch)).lines, fullLine l) →
    ∃ t, exec (.migrationUnitMove ⟨d, []⟩) s = .next t ∧ t.regF (State.rMig d.val) 20 0 = x + 1 ∧
      t.regF (State.rMig d.val) 63 60 =
        (if x + 1 = State.migUnits ∧ s.regF (State.rMig d.val) 63 60 = 1 then 2 else s.regF (State.rMig d.val) 63 60) ∧
      t.unitMoved ch x = true ∧ (∀ i, i < 32 → t.getSector ch (x * 1024 + 32 * i) = seenSector s ch (x * 1024 + 32 * i)) ∧
      (∀ a, a ≠ State.rMig d.val → t.reg a = s.reg a) ∧ (∀ k, k ≠ ch → t.chan k = s.chan k) ∧
      t = { s with regs := t.regs, chans := t.chans, chanBytes := t.chanBytes, chanPoison := t.chanPoison }) ∧
  -- TG_START of a good program
  (∀ (s : State) (ch : ChanIx) (v : W64), tgStarts s ch.val v → (tgWritten s ch.val v).tgBad ch.val = false →
    ∃ t, exec (.tgStart ch v) s = .next t ∧ t.regF (rChan ch.val 0x10) 63 62 = 1 ∧
      t.regF (rChan ch.val 0x10) 61 0 = 0 ∧ t.reg (rChan ch.val 0x18) = 0#64 ∧
      (t.chan ch.val).tg = (v &&& 0xFFFFFC000000C#64) ::
        (List.range 8).map (fun i => s.reg (rChan ch.val (0x40 + 8 * i))) ∧
      tgRegs s t ch.val ∧ (∀ k, k ≠ ch.val → t.chan k = s.chan k) ∧
      t = { s with regs := t.regs, chans := t.chans }) ∧
  -- TG_START of a program that the checks refuse
  (∀ (s : State) (ch : ChanIx) (v : W64), tgStarts s ch.val v → (tgWritten s ch.val v).tgBad ch.val = true →
    ∃ t, exec (.tgStart ch v) s = .next t ∧ t.regF (rChan ch.val 0x10) 63 62 = 3 ∧ tgRegs s t ch.val ∧
      t = { s with regs := t.regs }) ∧
  -- TG_PROGRAM_END of a WRITE step
  (∀ (s : State) (ch : ChanIx) (w : W64), oneStep s ch.val w → fld w 63 61 = 1 →
    ∃ t, exec (.tgProgramEnd ch []) s = .next t ∧ t.regF (rChan ch.val 0x10) 63 62 = 2 ∧
      (∀ sec, inTgRange s ch.val sec → t.getSector ch.val (32 * sec) = (patternOf w sec, false)) ∧
      t.regF (rChan ch.val 0x10) 57 0 = s.regF (rChan ch.val 0x10) 57 0 ∧
      (∀ a, a ≠ rChan ch.val 0x10 → t.reg a = s.reg a) ∧
      t = { s with regs := t.regs, chanBytes := t.chanBytes, chanPoison := t.chanPoison }) ∧
  -- TG_PROGRAM_END of a READ step that finds what it looks for
  (∀ (s : State) (ch : ChanIx) (w : W64), oneStep s ch.val w → fld w 63 61 = 2 →
    (∀ sec, inTgRange s ch.val sec → s.getSector ch.val (32 * sec) = (patternOf w sec, false)) →
    ∃ t, exec (.tgProgramEnd ch []) s = .next t ∧ t.regF (rChan ch.val 0x10) 63 62 = 2 ∧
      t.regF (rChan ch.val 0x10) 57 0 = s.regF (rChan ch.val 0x10) 57 0 ∧
      (∀ a, a ≠ rChan ch.val 0x10 → t.reg a = s.reg a) ∧ t = { s with regs := t.regs }) ∧
  -- TG_STOP
  ∀ (s : State) (ch : ChanIx) (v : W64) (bad : List (Nat × W64)), s.bit 0x18 (16 + ch.val / 32) = true →
    bitAt v.toNat 1 = true → s.chState ch.val = 1 → s.regF (rChan ch.val 0x10) 63 62 = 1 →
    ∃ t, exec (.tgStop ch ⟨v, bad⟩) s = .next t ∧ t.regF (rChan ch.val 0x10) 63 62 = 3 ∧
      t.reg (rChan ch.val 0x08) = (v &&& 0xFFFFFC000000C#64) ∧ tgRegs s t ch.val ∧
      (∀ k, k ≠ ch.val → t.chan k = s.chan k) ∧
      t = { s with regs := t.regs, chans := t.chans, chanBytes := t.chanBytes, chanPoison := t.chanPoison, ctr := s.ctr + 1 }

namespace Sys2Proof.Claims

/-- The job of a die's update engine. -/
abbrev upeJob (s : State) (d : DieIx) : Option Job := (s.tgt (1 + d.val)).job

/-- Only the engine's two registers and its target differ. -/
abbrev upeOnly (s t : State) (d : DieIx) : Prop :=
  (∀ a, a ≠ State.rUpe d.val → a ≠ State.rUpeCnt d.val → t.reg a = s.reg a) ∧
  (∀ k, k ≠ 1 + d.val → t.tgt k = s.tgt k) ∧ (t.tgt (1 + d.val)).last = (s.tgt (1 + d.val)).last

/-- The state in which the checks of a job run. -/
abbrev checking (s : State) (d : DieIx) (j : Job) : State :=
  (s.setRegF (State.rUpe d.val) 31 0 (jId j.words)).setRegF (State.rUpe d.val) 63 60 2

/-- The token counter that a job waits on. -/
abbrev waitCtr (j : Job) (pc : Nat) : Nat := rClu pc (0x1000 + 8 * dfld j.words 3 55 48)

/-- WVALUE. -/
abbrev waitVal (j : Job) : Nat := dfld j.words 3 39 24

end Sys2Proof.Claims

open Sys2Proof.Claims in
/-- R319, R321, R322, R323. -/
def Obligations.UpdateEngineJobsAreTakenCheckedAndEnded : Prop :=
  -- UPE_JOB_TAKE with WAIT_EN
  (∀ (s : State) (d : DieIx) (j : Job), upeJob s d = some j → j.stage = 0 → s.pwrState = 0 →
    dfld j.words 3 63 63 = 1 → dfld j.words 3 47 40 < 192 →
    ∃ t, exec (.upeJobTake d) s = .next t ∧ t.regF (State.rUpe d.val) 63 60 = 1 ∧
      t.regF (State.rUpe d.val) 31 0 = jId j.words ∧ upeJob t d = some { j with stage := 1 } ∧ upeOnly s t d ∧
      t = { s with regs := t.regs, targets := t.targets }) ∧
  -- UPE_JOB_TAKE without a wait, a job that passes
  (∀ (s : State) (d : DieIx) (j : Job) (c : UpeChk × List UpeTensor × List W64), upeJob s d = some j →
    j.stage = 0 → s.pwrState = 0 → (dfld j.words 3 63 63 = 0 ∨ 192 ≤ dfld j.words 3 47 40) → c = upeCheck (checking (fresh s) d j) j →
    c.1.s.waited = false → c.1.status = 0 →
    ∃ t, exec (.upeJobTake d) s = .next t ∧ t.regF (State.rUpe d.val) 63 60 = 3 ∧
      t.regF (State.rUpe d.val) 31 0 = jId j.words ∧
      upeJob t d = some { j with stage := 2, tensors := c.2.1, prec := c.2.2 } ∧
      upeOnly c.1.s t d ∧ t = { c.1.s with regs := t.regs, targets := t.targets, waited := s.waited } ∧
      t.units = s.units ∧ t.clus = s.clus ∧ t.tokens = s.tokens ∧ t.scaleQ = s.scaleQ) ∧
  -- UPE_JOB_TAKE without a wait, a job that fails a check
  (∀ (s : State) (d : DieIx) (j : Job) (c : UpeChk × List UpeTensor × List W64), upeJob s d = some j →
    j.stage = 0 → s.pwrState = 0 → (dfld j.words 3 63 63 = 0 ∨ 192 ≤ dfld j.words 3 47 40) → c = upeCheck (checking (fresh s) d j) j →
    c.1.s.waited = false → c.1.status ≠ 0 →
    ∃ t, exec (.upeJobTake d) s = .next t ∧ t.regF (State.rUpe d.val) 63 60 = 0 ∧
      t.regF (State.rUpeCnt d.val) 15 0 = (s.regF (State.rUpeCnt d.val) 15 0 + 1) % 2 ^ 16 ∧
      (upeJob t d).map (fun x => (x.stage, x.status, x.words)) = some (4, c.1.status, j.words) ∧
      upeOnly c.1.s t d ∧ 
      t = { c.1.s with regs := t.regs, targets := t.targets, waited := s.waited }) ∧
  -- the first check comes before every other
  (∀ (s : State) (j : Job), jobBad j.words = true →
    (upeCheck s j).1.status = 2 ∧ (upeCheck s j).1.s = s) ∧
  -- UPE_TOKEN_RELEASE
  (∀ (s : State) (d : DieIx) (j : Job) (pc : Nat), upeJob s d = some j → j.stage = 1 →
    s.physClu (dfld j.words 3 47 40) = some pc → waitVal j ≤ s.regF (waitCtr j pc) 15 0 →
    goesOn (·.fxUpeTokenRelease d.val) s →
    ∃ t, exec (.upeTokenRelease d) s = .next t ∧
      t.regF (waitCtr j pc) 15 0 = s.regF (waitCtr j pc) 15 0 - waitVal j ∧
      (∃ x, upeJob t d = some x ∧ x.words = j.words ∧
        (t.regF (State.rUpe d.val) 63 60 = 3 ∧ x.stage = 2 ∨
         t.regF (State.rUpe d.val) 63 60 = 0 ∧ x.stage = 4 ∧ x.status ≠ 0)) ∧
      t.units = s.units ∧ t.clus = s.clus ∧ t.scaleQ = s.scaleQ) ∧
  -- UPE_TOKEN_RELEASE waits
  (∀ (s : State) (d : DieIx) (j : Job) (pc : Nat), upeJob s d = some j → j.stage = 1 →
    s.physClu (dfld j.words 3 47 40) = some pc → s.regF (waitCtr j pc) 15 0 < waitVal j →
    exec (.upeTokenRelease d) s = .next s) ∧
  -- UPE_TOKEN_TIMEOUT
  (∀ (s : State) (d : DieIx) (j : Job), upeJob s d = some j → j.stage = 1 → dfld j.words 3 15 0 ≠ 0 →
    (∀ pc, s.physClu (dfld j.words 3 47 40) = some pc → s.regF (waitCtr j pc) 15 0 < waitVal j) →
    ∃ t, exec (.upeTokenTimeout d) s = .next t ∧ t.regF (State.rUpe d.val) 63 60 = 0 ∧
      t.regF (State.rUpeCnt d.val) 15 0 = (s.regF (State.rUpeCnt d.val) 15 0 + 1) % 2 ^ 16 ∧
      (upeJob t d).map (fun x => (x.stage, x.status, x.words)) = some (4, 0x0C, j.words) ∧
      upeOnly s t d ∧ t = { s with regs := t.regs, targets := t.targets }) ∧
  -- UPE_JOB_COMPLETE
  ∀ (s : State) (d : DieIx) (j : Job), upeJob s d = some j → j.stage = 3 →
    (∀ x ∈ s.scaleQ, x.clu ≠ 1000 + d.val) →
    ∃ t, exec (.upeJobComplete d) s = .next t ∧ t.regF (State.rUpe d.val) 63 60 = 0 ∧
      t.regF (State.rUpe d.val) 47 32 = (s.regF (State.rUpe d.val) 47 32 + 1) % 2 ^ 16 ∧
      (upeJob t d).map (fun x => (x.stage, x.status, x.words)) = some (4, 0, j.words) ∧
      t.tokens = s.tokens ++ (if dfld j.words 4 63 63 = 1 then
        [{ src := none, dest := .clu (dfld j.words 4 47 40), ctr := dfld j.words 4 55 48,
           add := dfld j.words 4 39 32, seq := 0 }] else []) ∧
      upeOnly s t d ∧ t = { s with regs := t.regs, targets := t.targets, tokens := t.tokens }

namespace Sys2Proof.Claims

/-- The job of OP `op` that the engine runs. -/
abbrev running (s : State) (d : DieIx) (op : Nat) (j : Job) : Prop :=
  upeJob s d = some j ∧ j.stage = 2 ∧ jOp j.words = op

/-- The work of a job is done on memory `m`, with the counts `c`. -/
abbrev worked (s m t : State) (d : DieIx) (j : Job) (c : List Nat) : Prop :=
  t.regF (State.rUpe d.val) 63 60 = 4 ∧
  t.regF (State.rUpeCnt d.val) 63 48 = (s.regF (State.rUpeCnt d.val) 63 48 + c.getD 0 0) % 2 ^ 16 ∧
  t.regF (State.rUpeCnt d.val) 47 32 = (s.regF (State.rUpeCnt d.val) 47 32 + c.getD 1 0) % 2 ^ 16 ∧
  t.regF (State.rUpeCnt d.val) 31 16 = (s.regF (State.rUpeCnt d.val) 31 16 + c.getD 2 0) % 2 ^ 16 ∧
  upeJob t d = some { j with stage := 3, counts := c } ∧ upeOnly m t d ∧
  t = { m with regs := t.regs, targets := t.targets, waited := s.waited }

/-- A dense SGD tensor of one row without a working copy (R325, R328). -/
abbrev sgdRow (T : UpeTensor) : Prop :=
  tSparse T.ent = false ∧ tRows T.ent = 1 ∧ gRule T.grp = 0 ∧ gFlag T.grp 0 = false ∧ tWfmt T.ent = 15

/-- Element of a list of codes. -/
abbrev codeAt (l : List (Nat × Bool)) (i : Nat) : Nat × Bool := l.getD i (0, false)

/-- The gradient of an element (R331). -/
abbrev gradOf (T : UpeTensor) (gmul : W32) (code : Nat) : W32 :=
  fMul (widen (decodeElem ((formatOf (tGfmt T.ent)).getD .fp32) code
    (some (if (formatOf (tGfmt T.ent)).getD .fp32 = .g8e5 then T.tG else 0)))) gmul

/-- The new master of element `i` under SGD (R333, R334, R335): the FP32 word and the extension byte. -/
abbrev sgdNew (T : UpeTensor) (gmul : W32) (step i g w x : Nat) : CvtX :=
  if !(val32 (gradOf T gmul g)).isFin && gFlag T.grp 2 then
    { w := BitVec.ofNat 32 w, xb := x, ovf := false, nonfin := false }
  else convertX (.sr (generator (wordAt T.grp 0) (BitVec.ofNat 32 step) (BitVec.ofNat 32 (dfld T.ent 12 63 32)) i)) false
    ((valX (BitVec.ofNat 32 w) x).add
      (val32 (fMul T.lr (fFma T.wd (BitVec.ofNat 32 w) (gradOf T gmul g)))).negate)

/-- The three planes of a row read: gradient, master, extension. -/
abbrev sgdRead (s : State) (e : List W64) :
    State × List (Nat × Bool) × List (Nat × Bool) × List (Nat × Bool) :=
  let G := s.readCodes (tAddr e 0) (gBytes e) (tRowlen e) (if dfld e 0 62 62 = 1 then 2 else 0)
  let W := G.1.readCodes (tAddr e 1) 4 (tRowlen e) 0
  let X := W.1.readCodes (tAddr e 2) 1 (tRowlen e) 0
  (X.1, G.2, W.2, X.2)

/-- The new row: words and extension bytes with their poison. -/
abbrev sgdRowOf (T : UpeTensor) (gmul : W32) (step : Nat) (G W X : List (Nat × Bool)) : List (CvtX × Bool) :=
  (List.range (tRowlen T.ent)).map fun i =>
    (sgdNew T gmul step i (codeAt G i).1 (codeAt W i).1 (codeAt X i).1,
      (codeAt G i).2 || (codeAt W i).2 || (codeAt X i).2)

/-- What an UPDATE of one such tensor leaves in memory. -/
abbrev sgdMem (s : State) (T : UpeTensor) (ta step : Nat) (row : List (CvtX × Bool)) : State :=
  State.upeGroup
    (((s.writeCodes (tAddr T.ent 1) 4 (row.map fun o => (o.1.w.toNat, o.2)) 0).writeCodes (tAddr T.ent 2) 1
      (row.map fun o => (o.1.xb, o.2)) 0).memWrite (ta + 96) (leBytes 4 (min (dfld T.ent 12 31 0 + 1) (2 ^ 32 - 1))) 0)
    T step

/-- The number of elements of a list that meet a test. -/
abbrev howMany {α : Type} (l : List α) (p : α → Bool) : Nat := (l.filter p).length

/-- The gradients of the touched elements of a dense tensor, by index (R337). -/
abbrev normElems (T : UpeTensor) (gmul : W32) (cs : List (Nat × Bool)) : List (Nat × W32 × W32) :=
  cs.zipIdx.map fun c => (c.2, gradOf T gmul c.1.1, zero32)

/-- A matrix of a preconditioner record. -/
abbrev matrix (s : State) (p : List W64) (i : Nat) : State × List (W32 × Bool) := s.readMat (pAddr p i) (pN p)

/-- A matrix given by its elements. -/
abbrev byCell (n : Nat) (f : Nat → W32 × Bool) : List (W32 × Bool) := (List.range (n * n)).map f

/-- R339. -/
abbrev blended (p : List W64) (S C : List (W32 × Bool)) : List (W32 × Bool) :=
  byCell (pN p) fun i =>
    (fFma (BitVec.ofNat 32 (dfld p 5 31 0)) (State.cellOf S i).1
      (fMul (fSub one32 (BitVec.ofNat 32 (dfld p 5 31 0))) (State.cellOf C i).1), (State.cellOf S i).2 || (State.cellOf C i).2)

/-- DAMP. -/
abbrev damping (p : List W64) : W32 := BitVec.ofNat 32 (dfld p 5 63 32)

/-- A of R340. -/
abbrev symmetric (p : List W64) (S : List (W32 × Bool)) : List (W32 × Bool) :=
  byCell (pN p) fun k =>
    let a := State.cellOf S k
    let b := State.cellOf S (k % pN p * pN p + k / pN p)
    ((if k / pN p = k % pN p then fAdd (fMul (fAdd a.1 b.1) half32) (damping p) else fMul (fAdd a.1 b.1) half32),
      a.2 || b.2)

/-- The sum of squares of A in the order of R140. -/
abbrev squares (A : List (W32 × Bool)) : W32 := State.reduceVal .sumsq (A.zipIdx.map fun a => (a.2, a.1.1, zero32))

/-- Some element is poisoned. -/
abbrev anyPoison (A : List (W32 × Bool)) : Bool := A.any (·.2)

/-- q of R340, or nothing where the preparation is refused. -/
abbrev rootScale (p : List W64) (ss : W32) : Option Int :=
  match val32 ss with
  | .fin _ m e =>
    let q := State.divUp (State.normExp m e) (pP p)
    if positive (damping p) = true ∧ (val32 (damping p)).isFin = true ∧ m ≠ 0 ∧ -126 ≤ q ∧ q ≤ 126 then some q else none
  | _ => none

/-- M of R340. -/
abbrev scaledM (p : List W64) (q : Int) (A : List (W32 × Bool)) : List (W32 × Bool) :=
  A.map fun x => (round32 .rne ((val32 x.1).scale (-(pP p : Int) * q)), x.2 || anyPoison A)

/-- X of R340. -/
abbrev startX (p : List W64) (q : Int) (A : List (W32 × Bool)) : List (W32 × Bool) :=
  byCell (pN p) fun k => (if k / pN p = k % pN p then State.pow2 (-q) else zero32, anyPoison A)

/-- T of R341. -/
abbrev newT (p : List W64) (M : List (W32 × Bool)) : List (W32 × Bool) :=
  M.zipIdx.map fun x =>
    (fMul (fSub (if x.2 / pN p = x.2 % pN p then ofNat32 (pP p + 1) else zero32) x.1.1)
      (fDiv one32 (ofNat32 (pP p))), x.1.2)

/-- The address of a job's preconditioner record. -/
abbrev recOf (j : Job) : Nat := dfld j.words 6 47 0

end Sys2Proof.Claims

open Sys2Proof.Claims in
/-- R333, R334, R337, R339, R340, R341. -/
def Obligations.UpdateEngineComputesItsResults : Prop :=
  -- UPDATE
  (∀ (s : State) (d : DieIx) (j : Job) (T : UpeTensor) (gmul : W32)
      (r : State × List (Nat × Bool) × List (Nat × Bool) × List (Nat × Bool)) (row : List (CvtX × Bool)),
    running s d 1 j → j.tensors = [T] → sgdRow T → gmul = BitVec.ofNat 32 (dfld j.words 2 63 32) →
    goesOn (·.fxUpdate d.val) s → r = sgdRead (fresh s) T.ent → row = sgdRowOf T gmul (jStep j.words) r.2.1 r.2.2.1 r.2.2.2 →
    ∃ t, exec (.update d) s = .next t ∧
      worked s (sgdMem r.1 T (dfld j.words 1 47 0) (jStep j.words) row) t d j
        [howMany row (·.1.ovf), howMany ((List.range (tRowlen T.ent)).map fun i => gradOf T gmul (codeAt r.2.1 i).1)
            (fun g => !(val32 g).isFin), howMany row (·.2), 0] ∧ t.units = s.units ∧ t.clus = s.clus) ∧
  -- NORM
  (∀ (s : State) (d : DieIx) (j : Job) (T : UpeTensor) (G : State × List (Nat × Bool)),
    running s d 2 j → j.tensors = [T] → tSparse T.ent = false → 0 < tRowlen T.ent →
    goesOn (·.fxNorm d.val) s → G = (fresh s).readCodes (tAddr T.ent 0) (gBytes T.ent) (tRows T.ent * tRowlen T.ent) (if dfld T.ent 0 62 62 = 1 then 2 else 0) →
    ∃ t, exec (.norm d) s = .next t ∧
      worked s (G.1.writeCodes (dfld j.words 5 47 0) 4
        [((fAdd zero32 (State.reduceVal .sumsq (normElems T (BitVec.ofNat 32 (dfld j.words 2 63 32)) G.2))).toNat,
          G.2.any (·.2))] 0) t d j [0, 0, 0, 0] ∧ t.units = s.units) ∧
  -- STAT_BLEND
  (∀ (s : State) (d : DieIx) (j : Job) (S C : State × List (W32 × Bool)),
    running s d 3 j → goesOn (·.fxStatBlend d.val) s → S = matrix (fresh s) j.prec 0 → C = matrix S.1 j.prec 1 →
    ∃ t, exec (.statBlend d) s = .next t ∧
      worked s ((C.1.writeMat (pAddr j.prec 0) (blended j.prec S.2 C.2)).memWrite (recOf j + 56)
        (leBytes 4 (dfld j.prec 7 31 0 + 1)) 0) t d j [0, 0, 0, 0] ∧ t.units = s.units) ∧
  -- ROOT_PREP
  (∀ (s : State) (d : DieIx) (j : Job) (S : State × List (W32 × Bool)) (A : List (W32 × Bool)),
    running s d 4 j → goesOn (·.fxRootPrep d.val) s → S = matrix (fresh s) j.prec 0 → A = symmetric j.prec S.2 →
    ∃ t, exec (.rootPrep d) s = .next t ∧ t.units = s.units ∧
      match rootScale j.prec (squares A) with
      | some q =>
        worked s ((((S.1.writeMat (pAddr j.prec 2) (scaledM j.prec q A)).writeMat (pAddr j.prec 3)
          (startX j.prec q A)).memWriteP (recOf j + 50) [BitVec.ofInt 8 q] [anyPoison A] 0).memWrite (recOf j + 52)
          (leBytes 4 (jStep j.words)) 0) t d j [0, 0, 0, 0]
      | none =>
        worked s ((S.1.memWrite (recOf j + 50) [0x80#8] 0).memWrite (recOf j + 52) (leBytes 4 (jStep j.words)) 0)
          t d j [0, 1, 0, 0]) ∧
  -- the scale of ROOT_PREP
  (∀ (p : List W64) (ss : W32) (m : Nat) (e q : Int), (pP p = 1 ∨ pP p = 2 ∨ pP p = 4) →
    positive (damping p) = true → (val32 (damping p)).isFin = true → val32 ss = .fin false m e → 0 < m →
    leMag m e 1 (2 * (pP p : Int) * q) = true → leMag m e 1 (2 * (pP p : Int) * (q - 1)) = false →
    rootScale p ss = if -126 ≤ q ∧ q ≤ 126 then some q else none) ∧
  (∀ (p : List W64) (ss : W32), (positive (damping p) = false ∨ (val32 (damping p)).isFin = false ∨
    (val32 ss).isFin = false ∨ ss = zero32) → rootScale p ss = none) ∧
  -- ROOT_T
  ∀ (s : State) (d : DieIx) (j : Job) (M : State × List (W32 × Bool)),
    running s d 5 j → goesOn (·.fxRootT d.val) s → M = matrix (fresh s) j.prec 2 →
    ∃ t, exec (.rootT d) s = .next t ∧
      worked s (M.1.writeMat (pAddr j.prec 4) (newT j.prec M.2)) t d j [0, 0, 0, 0] ∧ t.units = s.units

namespace Sys2Proof.Claims

/-- Ports other than `p` are as before. -/
abbrev otherPorts (s t : State) (p : PortIx) : Prop := ∀ k, k ≠ p.val → t.port k = s.port k

/-- LNK_STAT of a port. -/
abbrev lnkStat (p : PortIx) : Nat := rLnk p.val 8

/-- The packets that a port going DOWN hands on, each with the port it was first lost at (R359). -/
abbrev handedOn (x : PortSt) (p : PortIx) : List (Packet × Nat) :=
  x.lost ++ x.sent.map (fun t => (t.pkt, p.val)) ++ x.reinj

/-- A port that was in state `st` has gone DOWN (R358, R359). -/
abbrev wentDown (s t : State) (p : PortIx) (st cause : Nat) : Prop :=
  t.lnkState p.val = 4 ∧ t.regF (lnkStat p) 59 56 = cause ∧ t.regF (lnkStat p) 31 0 = 0 ∧
  t.regF (rLnk p.val 0x48) 63 48 = (s.regF (rLnk p.val 0x48) 63 48 + (if st = 3 then 1 else 0)) % 2 ^ 16 ∧
  t.port p.val = { s.port p.val with
    part := [], disc := false, skip := 0, unack := 0, sleep := 0, run := 0, lost := handedOn (s.port p.val) p,
    sent := [], reinj := [] } ∧
  t.errFlight = s.errFlight ++ [mkErr 0x0501 6 p.val (BitVec.ofNat 64 (cause * 2 ^ 8 + p.val))] ∧
  t.bit 0x18 (32 + p.val) = true ∧ otherPorts s t p ∧
  (∀ a, a ≠ lnkStat p → a ≠ rLnk p.val 0x48 → a ≠ 0x18 → t.reg a = s.reg a) ∧
  t = { s with regs := t.regs, ports := t.ports, errFlight := t.errFlight, evtFlight := t.evtFlight }

/-- Only registers of a list differ. -/
abbrev onlyRegs (s t : State) (l : List Nat) : Prop := (∀ a, a ∉ l → t.reg a = s.reg a) ∧ t = { s with regs := t.regs }

/-- What this module sends in INIT (R351). -/
abbrev initOf (s : State) (p : PortIx) (ok : Bool) : InitFlit :=
  { peer := s.reg 0x10, gen := BitVec.ofNat 16 (s.regF 0x300000 47 32)
    dir := ⟨portDir p.val % 6, Nat.mod_lt _ (by decide)⟩, k := ⟨portK p.val % 4, Nat.mod_lt _ (by decide)⟩, rxOk := ok }

/-- A port that has just gone UP (R351, R353, R380), with nothing of the direction to re-inject. -/
abbrev freshPort (x : PortSt) : PortSt :=
  { x with exp := 0, disc := false, skip := 0, part := [], unack := 0, lsn := 0, run := 0, freed := [0, 0, 0, 0],
           cred := [8, 8, 8, 8], seen := [0, 0, 0, 0], sleep := 0 }

/-- Nothing waits for the direction of a port. -/
abbrev nothingHeld (s : State) (p : PortIx) : Prop :=
  (s.port p.val).reinj = [] ∧ s.heldFor (portDir p.val) = []

/-- The partner that INIT names is the one its direction and K say (R351). -/
abbrev cabledRight (s : State) (p : PortIx) (f : InitFlit) : Prop :=
  f.dir.val = oppDir (portDir p.val) ∧ f.k.val = portK p.val ∧
  ∀ q ∈ dirPorts (portDir p.val), q ≠ p.val → s.lnkUp q = true → s.reg (rLnk q 0x10) = f.peer

/-- The partner of a direction. -/
abbrev peerOf (s : State) (p : PortIx) : Option (W64 × Nat) := smGet none s.fab.peers (portDir p.val)

/-- The flows of the port's direction have restarted, and nothing waits for its old partner (R362). -/
abbrev flowsRestart (s t : State) (p : PortIx) : Prop :=
  t.heldFor (portDir p.val) = [] ∧
  (∀ v < 4, smGet 0 t.fab.fsn (4 * portDir p.val + v) = 0 ∧ smGet 0 t.fab.rxE (4 * portDir p.val + v) = 0 ∧
    smGet [] t.fab.rxSet (4 * portDir p.val + v) = []) ∧
  ∀ q ∈ dirPorts (portDir p.val), (t.port q).lost = [] ∧ (t.port q).reinj = [] ∧ (t.port q).sent = []

/-- INIT of the module, direction and K that an UP port's registers hold. -/
abbrev sameLink (s : State) (p : PortIx) (f : InitFlit) : Prop :=
  f.peer = s.reg (rLnk p.val 0x10) ∧ f.dir.val = s.regF (lnkStat p) 50 48 ∧ f.k.val = s.regF (lnkStat p) 47 46

/-- The port's function is ready, so its registers take writes. -/
abbrev portReady (s : State) (p : PortIx) : Prop :=
  s.bit 0x18 (2 + p.val / 12) = true ∧ s.bit 0x18 (32 + p.val) = true

end Sys2Proof.Claims

open Sys2Proof.Claims in
/-- R350 to R352, R358, R359, R362, R364 to R368. -/
def Obligations.PortsTrainAgreeAndGoDown : Prop :=
  -- LINK_TRAINING_DONE
  (∀ (s : State) (p : PortIx), s.lnkState p.val = 1 →
    ∃ t, exec (.linkTrainingDone p) s = .next t ∧ t.lnkState p.val = 2 ∧
      t.regF (lnkStat p) 59 0 = s.regF (lnkStat p) 59 0 ∧
      t.port p.val = { s.port p.val with gotInit := false, sentOk := false, gotOk := false, lanterns := 0 } ∧
      otherPorts s t p ∧ (∀ a, a ≠ lnkStat p → t.reg a = s.reg a) ∧ t = { s with regs := t.regs, ports := t.ports }) ∧
  -- TRAIN_FAIL
  (∀ (s : State) (p : PortIx), s.lnkState p.val = 1 → ∃ t, exec (.trainFail p) s = .next t ∧ wentDown s t p 1 4) ∧
  -- INIT_SEND before the two sides have agreed
  (∀ (s : State) (p : PortIx), s.lnkState p.val = 2 → (s.port p.val).gotOk = false →
    ∃ t, exec (.initSend p) s = .next t ∧
      t.out = .control p.val (ctrlBytes (.init (initOf s p (s.port p.val).gotInit))) :: s.out ∧
      t.port p.val = { s.port p.val with sentOk := (s.port p.val).sentOk || (s.port p.val).gotInit } ∧
      otherPorts s t p ∧ t = { s with ports := t.ports, out := t.out }) ∧
  -- INIT_SEND that completes the agreement
  (∀ (s : State) (p : PortIx), s.lnkState p.val = 2 → (s.port p.val).gotOk = true → (s.port p.val).gotInit = true →
    nothingHeld s p → s.pwrState ≠ 4 →
    ∃ t, exec (.initSend p) s = .next t ∧ t.lnkState p.val = 3 ∧
      t.out = .control p.val (ctrlBytes (.init (initOf s p true))) :: s.out ∧
      t.port p.val = freshPort { s.port p.val with sentOk := true } ∧ t.bit 0x18 (32 + p.val) = true ∧ otherPorts s t p ∧
      (∀ a, a ≠ lnkStat p → a ≠ 0x18 → t.reg a = s.reg a) ∧
      t = { s with regs := t.regs, ports := t.ports, out := t.out, fab := t.fab, evtFlight := t.evtFlight }) ∧
  -- INIT_FLIT of the present partner
  (∀ (s : State) (p : PortIx) (f : InitFlit), s.lnkState p.val = 2 → cabledRight s p f →
    (peerOf s p = none ∨ peerOf s p = some (f.peer, f.gen.toNat)) → ((s.port p.val).sentOk && (f.rxOk || (s.port p.val).gotOk)) = false →
    ∃ t, exec (.initFlit p f) s = .next t ∧ t.lnkState p.val = 2 ∧ t.reg (rLnk p.val 0x10) = f.peer ∧
      t.regF (lnkStat p) 50 48 = f.dir.val ∧ t.regF (lnkStat p) 47 46 = f.k.val ∧
      peerOf t p = some (f.peer, f.gen.toNat) ∧
      t.port p.val = { s.port p.val with gotInit := true, gotOk := (s.port p.val).gotOk || f.rxOk } ∧ otherPorts s t p ∧
      (∀ a, a ≠ lnkStat p → a ≠ rLnk p.val 0x10 → t.reg a = s.reg a) ∧
      t = { s with regs := t.regs, ports := t.ports, fab := { s.fab with peers := t.fab.peers } }) ∧
  -- INIT_FLIT that completes the agreement
  (∀ (s : State) (p : PortIx) (f : InitFlit), s.lnkState p.val = 2 → cabledRight s p f → f.rxOk = true →
    (s.port p.val).sentOk = true →
    ∃ t, exec (.initFlit p f) s = .next t ∧ t.lnkState p.val = 3 ∧ t.reg (rLnk p.val 0x10) = f.peer ∧
      peerOf t p = some (f.peer, f.gen.toNat) ∧ (t.port p.val).exp = 0 ∧ (t.port p.val).freed = [0, 0, 0, 0]) ∧
  -- INIT_FLIT of a new partner
  (∀ (s : State) (p : PortIx) (f : InitFlit) (old : W64 × Nat), s.lnkState p.val = 2 → cabledRight s p f →
    peerOf s p = some old → old ≠ (f.peer, f.gen.toNat) → f.rxOk = false → (s.port p.val).gotOk = false →
    ∃ t, exec (.initFlit p f) s = .next t ∧ peerOf t p = some (f.peer, f.gen.toNat) ∧
      flowsRestart s t p ∧
      (∀ a, a ≠ lnkStat p → a ≠ rLnk p.val 0x10 → a ≠ rLnk p.val 0x50 → t.reg a = s.reg a) ∧
      t = { s with regs := t.regs, ports := t.ports, fab := t.fab }) ∧
  -- INIT_FLIT from the wrong port
  (∀ (s : State) (p : PortIx) (f : InitFlit), s.lnkState p.val = 2 → ¬cabledRight s p f →
    ∃ t, exec (.initFlit p f) s = .next t ∧ t.lnkState p.val = 5 ∧ t.reg (rLnk p.val 0x10) = f.peer ∧
      t.bit 0x18 (32 + p.val) = true ∧ (∀ a, a ≠ lnkStat p → a ≠ rLnk p.val 0x10 → a ≠ 0x18 → t.reg a = s.reg a) ∧
      t = { s with regs := t.regs, evtFlight := t.evtFlight }) ∧
  -- INIT_FLIT on a port that is UP
  (∀ (s : State) (p : PortIx) (f : InitFlit), s.lnkUp p.val = true →
    (sameLink s p f → (peerOf s p = none ∨ peerOf s p = some (f.peer, f.gen.toNat)) →
      ∃ t, exec (.initFlit p f) s = .next t ∧ peerOf t p = some (f.peer, f.gen.toNat) ∧
        t = { s with fab := { s.fab with peers := t.fab.peers } }) ∧
    (∀ old, sameLink s p f → peerOf s p = some old → old ≠ (f.peer, f.gen.toNat) →
      ∃ t, exec (.initFlit p f) s = .next t ∧ peerOf t p = some (f.peer, f.gen.toNat) ∧ t.lnkUp p.val = true ∧
        flowsRestart s t p ∧ (∀ a, a ≠ rLnk p.val 0x50 → t.reg a = s.reg a) ∧
        t = { s with regs := t.regs, ports := t.ports, fab := t.fab }) ∧
    (¬sameLink s p f → ∃ t, exec (.initFlit p f) s = .next t ∧ wentDown s t p 3 6)) ∧
  -- LOCK_LOSS, PARTNER_SIGNAL_LOSS, SLEEP_ACK_TIMEOUT
  (∀ (s : State) (p : PortIx), s.lnkUp p.val = true →
    (∃ t, exec (.lockLoss p) s = .next t ∧ wentDown s t p 3 2) ∧
    (∃ t, exec (.partnerSignalLoss p) s = .next t ∧ wentDown s t p 3 3) ∧
    ((s.port p.val).sleep = 2 → ∃ t, exec (.sleepAckTimeout p) s = .next t ∧ wentDown s t p 3 5)) ∧
  -- AUTO_RETRAIN
  (∀ (s : State) (p : PortIx), s.lnkState p.val = 4 → s.bit (rLnk p.val 0) 3 = true → s.bit (rLnk p.val 0) 0 = true →
    ∃ t, exec (.autoRetrain p) s = .next t ∧ t.lnkState p.val = 1 ∧
      t.regF (lnkStat p) 59 0 = s.regF (lnkStat p) 59 0 ∧ onlyRegs s t [lnkStat p]) ∧
  -- LNK_RETRAIN
  (∀ (s : State) (p : PortIx), portReady s p → s.bit (rLnk p.val 0) 0 = true →
    ((s.lnkState p.val = 4 ∨ s.lnkState p.val = 5) →
      ∃ t, exec (.lnkRetrain p) s = .next t ∧ t.lnkState p.val = 1 ∧ onlyRegs s t [lnkStat p]) ∧
    (s.lnkUp p.val = true → ∃ d t, wentDown s d p 3 5 ∧ exec (.lnkRetrain p) s = .next t ∧
      t.lnkState p.val = 1 ∧ onlyRegs d t [lnkStat p])) ∧
  -- LNK_ENABLE
  (∀ (s : State) (p : PortIx), portReady s p →
    (∃ t, exec (.lnkEnable p true) s = .next t ∧ t.bit (rLnk p.val 0) 0 = true ∧
      t.lnkState p.val = (if s.lnkState p.val = 0 then 1 else s.lnkState p.val) ∧
      onlyRegs s t [rLnk p.val 0, lnkStat p]) ∧
    (∃ t, exec (.lnkEnable p false) s = .next t ∧ t.bit (rLnk p.val 0) 0 = false ∧ t.lnkState p.val = 0 ∧
      (s.lnkUp p.val = false → onlyRegs s t [rLnk p.val 0, lnkStat p]) ∧
      (s.lnkUp p.val = true → (t.port p.val).lost = handedOn (s.port p.val) p ∧ (t.port p.val).sent = []))) ∧
  -- LANTERN_SEND
  (∀ (s : State) (p : PortIx), portReady s p → (s.lnkState p.val = 6 ∨ s.lnkState p.val = 4) →
    ∃ t, exec (.lanternSend p) s = .next t ∧ t = { s with out := .lantern p.val :: s.out }) ∧
  -- CLR_CNT
  (∀ (s : State) (p : PortIx), portReady s p →
    ∃ t, exec (.clrCnt p) s = .next t ∧
      (∀ o ∈ [0x18, 0x20, 0x28, 0x30, 0x38, 0x40, 0x48, 0x50], t.reg (rLnk p.val o) = 0#64) ∧
      onlyRegs s t ([0x18, 0x20, 0x28, 0x30, 0x38, 0x40, 0x48, 0x50].map (rLnk p.val))) ∧
  -- SIGNAL_DETECT_WAKE
  (∀ (s : State) (p : PortIx), s.pwrState = 2 → s.lnkState p.val = 6 →
    ∃ t, exec (.signalDetectWake p) s = .next t ∧ t.lnkState p.val = 1 ∧
      t.pwrState = (if s.bit 0x10100 8 then 5 else 2) ∧ (s.bit 0x10100 8 = false → onlyRegs s t [lnkStat p])) ∧
  (∀ (s : State) (p : PortIx), s.pwrState ≠ 2 → s.pwrState ≠ 3 → s.lnkState p.val = 6 →
    ∃ t, exec (.signalDetectWake p) s = .next t ∧ t.port p.val = { s.port p.val with heard := true } ∧
      otherPorts s t p ∧ t = { s with ports := t.ports }) ∧
  -- LANTERN_DETECT
  (∀ (s : State) (p : PortIx) (n : Nat), 12 ≤ n →
    ∃ t, exec (.lanternDetect p n) s = .next t ∧ t.bit (lnkStat p) 44 = true ∧
      (s.bit (rLnk p.val 0) 4 = true → s.lnkState p.val = 6 → t.lnkState p.val = 1 ∧
        (s.pwrState = 2 → t.pwrState = 5)) ∧
      ((s.bit (rLnk p.val 0) 4 = false ∨ s.lnkState p.val ≠ 6) → onlyRegs s t [lnkStat p])) ∧
  (∀ (s : State) (p : PortIx) (n : Nat), n < 12 → exec (.lanternDetect p n) s = .next s) ∧
  -- AUTO_WAKE_LANTERN
  ∀ (s : State) (p : PortIx), s.lnkState p.val = 6 → s.bit (rLnk p.val 0) 5 = true → (s.waitsFor (portDir p.val) = true ∨ (s.port p.val).reinj ≠ []) →
    s.routerRuns = true → (s.port p.val).heard = false →
    if (s.port p.val).lanterns < 64 then
      ∃ t, exec (.autoWakeLantern p) s = .next t ∧ t.out = .lantern p.val :: s.out ∧
        t.port p.val = { s.port p.val with lanterns := (s.port p.val).lanterns + 1 } ∧ otherPorts s t p ∧
        t = { s with ports := t.ports, out := t.out }
    else if (s.port p.val).lanterns = 64 then
      ∃ t, exec (.autoWakeLantern p) s = .next t ∧ t.bit (lnkStat p) 45 = true ∧ otherPorts s t p ∧
        t.port p.val = { s.port p.val with lanterns := 65 } ∧ (∀ a, a ≠ lnkStat p → t.reg a = s.reg a) ∧
        t = { s with regs := t.regs, ports := t.ports }
    else exec (.autoWakeLantern p) s = .next s

namespace Sys2Proof.Claims

/-- A port that is UP. -/
abbrev up (s : State) (p : PortIx) : Prop := s.lnkUp p.val = true

/-- A LINK flit sent with the port's returns (R354). -/
abbrev linkSent (s : State) (p : PortIx) (ack nak rep : Option (BitVec 12)) : Out :=
  .control p.val (ctrlBytes (.link { ack := ack, nak := nak, replay := rep,
                                     credits := (s.port p.val).freed.map fun n => BitVec.ofNat 64 n }))

/-- The header of a packet without payload. -/
abbrev headOnly (b : List Byte) : Packet := { hdr := b, payload := [] }

/-- No packet waits to leave the port first, and no sleep is asked. -/
abbrev quiet (s : State) (p : PortIx) : Prop := (s.port p.val).reinj = [] ∧ (s.port p.val).sleep = 0

/-- Credits and returns after a LINK flit (R380). -/
abbrev credited (x : PortSt) (f : LinkFlit) : PortSt :=
  { x with
    cred := (List.range 4).map fun v =>
      x.cred.getD v 0 + ((f.credits.getD v 0#64).toNat + 2 ^ 64 - x.seen.getD v 0) % 2 ^ 64
    seen := (List.range 4).map fun v => (f.credits.getD v 0#64).toNat }

/-- How many flits an ACK frees (R355). -/
abbrev ackCount (s : State) (p : PortIx) (l : BitVec 12) : Nat :=
  ((l.toNat + 1) % 4096 + 4096 - State.oldest (s.port p.val)) % 4096

/-- Flits of the receiver's window before an LSN. -/
abbrev backTo (s : State) (p : PortIx) (l : BitVec 12) : Nat := ((s.port p.val).exp + 4096 - l.toNat) % 4096

/-- A port that has become LOW_POWER (R364). -/
abbrev asleep (x : PortSt) : PortSt := { x with sleep := 0, lanterns := 0, heard := false }

/-- Every unacknowledged flit has been sent again (R356). -/
abbrev replayed (s t : State) (p : PortIx) (n : Nat) : Prop :=
  t.out = ((s.port p.val).sent.map fun x => Out.packet p.val ((x.lsn + x.acked) % 4096) x.acked x.pkt).reverse ++
    (linkSent s p none none (some (BitVec.ofNat 12 (State.oldest (s.port p.val)))) :: s.out) ∧
  (t.port p.val).sent = (s.port p.val).sent ∧ (t.port p.val).run = n ∧
  (t.port p.val).runAt = State.oldest (s.port p.val) ∧
  t.regF (rLnk p.val 0x48) 31 0 = (s.regF (rLnk p.val 0x48) 31 0 + 1) % 2 ^ 32 ∧
  t.regF (rLnk p.val 0x48) 47 44 = max (s.regF (rLnk p.val 0x48) 47 44) n ∧
  t.reg (rLnk p.val 0x18) = s.reg (rLnk p.val 0x18) + BitVec.ofNat 64 (State.unacked (s.port p.val)) ∧
  (∀ a, a ≠ rLnk p.val 0x48 → a ≠ rLnk p.val 0x18 → t.reg a = s.reg a) ∧ otherPorts s t p ∧
  t = { s with regs := t.regs, ports := t.ports, out := t.out }

/-- The count of replays at the present oldest LSN, this one included (R357). -/
abbrev replayNo (x : PortSt) : Nat := if x.run ≠ 0 ∧ x.runAt = State.oldest x then x.run + 1 else 1

end Sys2Proof.Claims

open Sys2Proof.Claims in
/-- R349, R353 to R357, R360, R364, R380. -/
def Obligations.PortsCarryFlitsAcknowledgeAndReplay : Prop :=
  -- CODEWORD_RECEIVE: ALIGN
  (∀ (s : State) (p : PortIx), exec (.codewordReceive p .align) s = .next s) ∧
  -- CODEWORD_RECEIVE: uncorrectable
  (∀ (s : State) (p : PortIx), up s p → (s.port p.val).disc = false →
    ∃ t, exec (.codewordReceive p .uncorrectable) s = .next t ∧
      t.regF (rLnk p.val 0x38) 63 32 = (s.regF (rLnk p.val 0x38) 63 32 + 1) % 2 ^ 32 ∧
      t.out = linkSent s p none (some (BitVec.ofNat 12 (s.port p.val).exp)) none :: s.out ∧
      t.port p.val = { s.port p.val with disc := true, skip := 0 } ∧ otherPorts s t p ∧
      (∀ a, a ≠ rLnk p.val 0x38 → t.reg a = s.reg a) ∧
      t = { s with regs := t.regs, ports := t.ports, out := t.out }) ∧
  -- CODEWORD_RECEIVE: corrected symbols, no flit
  (∀ (s : State) (p : PortIx) (n : Nat) (b : List Byte), up s p → 0 < n → n ≤ 15 →
    ∃ t, exec (.codewordReceive p (.decoded n [{ kind := 0, bytes := b }])) s = .next t ∧
      t.regF (rLnk p.val 0x38) 31 0 = (s.regF (rLnk p.val 0x38) 31 0 + 1) % 2 ^ 32 ∧
      t.regF (rLnk p.val 0x40) 63 16 = (s.regF (rLnk p.val 0x40) 63 16 + n) % 2 ^ 48 ∧
      onlyRegs s t [rLnk p.val 0x38, rLnk p.val 0x40]) ∧
  -- CODEWORD_RECEIVE: a CONTROL flit with a bad CRC
  (∀ (s : State) (p : PortIx) (b : List Byte), up s p → ctrlOk b = false →
    ∃ t, exec (.codewordReceive p (.decoded 0 [{ kind := 3, bytes := b }])) s = .next t ∧
      t.regF (rLnk p.val 0x40) 15 0 = (s.regF (rLnk p.val 0x40) 15 0 + 1) % 2 ^ 16 ∧
      onlyRegs s t [rLnk p.val 0x40]) ∧
  -- CODEWORD_RECEIVE: a LINK flit, and its bytes
  (∀ (s : State) (p : PortIx) (f : LinkFlit), up s p → f.credits.length = 4 →
    exec (.codewordReceive p (.decoded 0 [{ kind := 3, bytes := ctrlBytes (.link f) }])) s = exec (.linkFlit p f) s) ∧
  (∀ f : LinkFlit, f.credits.length = 4 → (ctrlBytes (.link f)).length = 64 ∧ ctrlOk (ctrlBytes (.link f)) = true ∧
    ctrlOf (ctrlBytes (.link f)) = .link f) ∧
  -- CODEWORD_RECEIVE: a packet of one flit
  (∀ (s : State) (p : PortIx) (b : List Byte), up s p → (s.port p.val).disc = false → (s.port p.val).skip = 0 →
    (s.port p.val).unack < 63 → leVal ((b.drop 15).take 1) = 0 →
    ∃ t, exec (.codewordReceive p (.decoded 0 [{ kind := 1, bytes := b }])) s = .next t ∧
      t.inp p.val (pVc (headOnly b)) = s.inp p.val (pVc (headOnly b)) ++ [{ pkt := headOnly b }] ∧
      (t.port p.val).exp = ((s.port p.val).exp + 1) % 4096 ∧ (t.port p.val).unack = (s.port p.val).unack + 1 ∧
      (t.port p.val).part = [] ∧ t.reg (rLnk p.val 0x20) = s.reg (rLnk p.val 0x20) + 1#64 ∧
      t.regF (State.rDepth p.val (pVc (headOnly b))) 7 0 = (t.inp p.val (pVc (headOnly b))).length % 2 ^ 8 ∧
      (∀ v, v ≠ pVc (headOnly b) → t.inp p.val v = s.inp p.val v) ∧ otherPorts s t p ∧
      (∀ a, a ≠ rLnk p.val 0x20 → a ≠ State.rDepth p.val (pVc (headOnly b)) → t.reg a = s.reg a) ∧
      t = { s with regs := t.regs, ports := t.ports, fab := { s.fab with busy := t.fab.busy } }) ∧
  -- LINK_FLIT: credits alone
  (∀ (s : State) (p : PortIx) (f : LinkFlit), up s p → quiet s p → f.ack = none → f.nak = none → f.replay = none →
    ∃ t, exec (.linkFlit p f) s = .next t ∧ t.port p.val = credited (s.port p.val) f ∧ otherPorts s t p ∧
      t = { s with ports := t.ports }) ∧
  -- LINK_FLIT: ACK
  (∀ (s : State) (p : PortIx) (f : LinkFlit) (l : BitVec 12), up s p → quiet s p → f.ack = some l → f.nak = none →
    f.replay = none → ackCount s p l ≤ State.unacked (s.port p.val) →
    ∃ t, exec (.linkFlit p f) s = .next t ∧
      State.unacked (t.port p.val) = State.unacked (s.port p.val) - ackCount s p l ∧
      ((t.port p.val).sent.map (·.pkt)) <:+ ((s.port p.val).sent.map (·.pkt)) ∧
      (t.port p.val).cred = (credited (s.port p.val) f).cred ∧ (t.port p.val).exp = (s.port p.val).exp ∧
      otherPorts s t p ∧ t = { s with ports := t.ports }) ∧
  -- LINK_FLIT: REPLAY within the window
  (∀ (s : State) (p : PortIx) (f : LinkFlit) (l : BitVec 12), up s p → quiet s p → f.ack = none → f.nak = none →
    f.replay = some l → backTo s p l ≤ 1024 →
    ∃ t, exec (.linkFlit p f) s = .next t ∧
      t.port p.val = { credited (s.port p.val) f with disc := false, skip := backTo s p l } ∧ otherPorts s t p ∧
      t = { s with ports := t.ports }) ∧
  -- LINK_FLIT: REPLAY beyond it
  (∀ (s : State) (p : PortIx) (f : LinkFlit) (l : BitVec 12), up s p → (s.port p.val).disc = false →
    f.replay = some l → 1024 < backTo s p l → ∃ t, exec (.linkFlit p f) s = .next t ∧ wentDown s t p 3 6) ∧
  -- NAK at the oldest flit, REPLAY_TIMEOUT
  (∀ (s : State) (p : PortIx), up s p → (s.port p.val).sent ≠ [] → replayNo (s.port p.val) ≤ 8 →
    (∃ t, exec (.replayTimeout p) s = .next t ∧ replayed s t p (replayNo (s.port p.val))) ∧
    (∀ f : LinkFlit, quiet s p → f.ack = none → f.replay = none →
      f.nak = some (BitVec.ofNat 12 (State.oldest (s.port p.val))) →
      ∃ t, exec (.linkFlit p f) s = .next t ∧
        replayed (s.setPort p.val (credited (s.port p.val) f)) t p (replayNo (s.port p.val)))) ∧
  -- the ninth
  (∀ (s : State) (p : PortIx), up s p → (s.port p.val).sent ≠ [] → 8 < replayNo (s.port p.val) →
    ∃ t, exec (.replayTimeout p) s = .next t ∧ wentDown s t p 3 1) ∧
  -- NAK_REPEAT
  (∀ (s : State) (p : PortIx), up s p → (s.port p.val).disc = true →
    ∃ t, exec (.nakRepeat p) s = .next t ∧
      t = { s with out := linkSent s p none (some (BitVec.ofNat 12 (s.port p.val).exp)) none :: s.out }) ∧
  -- ACK_TIMER
  (∀ (s : State) (p : PortIx), up s p → 0 < (s.port p.val).unack →
    ∃ t, exec (.ackTimer p) s = .next t ∧
      t.out = linkSent s p (some (BitVec.ofNat 12 ((s.port p.val).exp + 4095))) none none :: s.out ∧
      t.port p.val = { s.port p.val with unack := 0 } ∧ otherPorts s t p ∧
      t = { s with ports := t.ports, out := t.out }) ∧
  -- REINJECT without a sibling that is UP
  (∀ (s : State) (p : PortIx), (s.port p.val).lost ≠ [] → s.sibling p.val = none →
    ∃ t, exec (.reinject p) s = .next t ∧ t.port p.val = { s.port p.val with lost := [] } ∧
      smGet [] t.fab.held (2 * portDir p.val + p.val / 12) =
        smGet [] s.fab.held (2 * portDir p.val + p.val / 12) ++ (s.port p.val).lost ∧
      (∀ k, k ≠ 2 * portDir p.val + p.val / 12 → smGet [] t.fab.held k = smGet [] s.fab.held k) ∧
      otherPorts s t p ∧ t = { s with ports := t.ports, fab := { s.fab with held := t.fab.held } }) ∧
  -- REINJECT to a sibling
  (∀ (s : State) (p : PortIx) (q : Nat), (s.port p.val).lost ≠ [] → s.sibling p.val = some q →
    ∃ t, exec (.reinject p) s = .next t ∧ t.port p.val = { s.port p.val with lost := [] } ∧
      ((t.port q).sent.map (·.pkt) ++ (t.port q).reinj.map (·.1)).Perm
        ((s.port q).sent.map (·.pkt) ++ ((s.port q).reinj ++ (s.port p.val).lost).map (·.1)) ∧
      (∀ x ∈ (t.port q).reinj, x ∈ (s.port q).reinj ++ (s.port p.val).lost) ∧
      (∀ k, k ≠ p.val → k ≠ q → t.port k = s.port k) ∧
      (∀ a, a ≠ rLnk q 0x18 → a ≠ rLnk q 0x28 → a ≠ rLnk q 0x50 → t.reg a = s.reg a) ∧
      t = { s with regs := t.regs, ports := t.ports, out := t.out, fab := { s.fab with busy := t.fab.busy } }) ∧
  -- PORT_SLEEP
  (∀ (s : State) (p : PortIx), up s p → (s.port p.val).sleep = 0 →
    ∃ t, exec (.portSleep p) s = .next t ∧
      (if (s.port p.val).sent = []
        then t.out = .control p.val (ctrlBytes .sleep) :: s.out ∧ t.port p.val = { s.port p.val with sleep := 2 }
        else t.out = s.out ∧ t.port p.val = { s.port p.val with sleep := 1 }) ∧
      otherPorts s t p ∧ t = { s with ports := t.ports, out := t.out }) ∧
  -- SLEEP
  (∀ (s : State) (p : PortIx), up s p →
    ∃ t, exec (.sleep p) s = .next t ∧
      (if (s.port p.val).sent = []
        then t.out = .control p.val (ctrlBytes .sleepAck) :: s.out ∧ t.port p.val = asleep (s.port p.val) ∧
          t.lnkState p.val = 6
        else t.out = s.out ∧ t.port p.val = { s.port p.val with sleep := 3 } ∧ t.lnkState p.val = 3) ∧
      otherPorts s t p ∧ (∀ a, a ≠ lnkStat p → t.reg a = s.reg a) ∧
      t = { s with regs := t.regs, ports := t.ports, out := t.out }) ∧
  -- SLEEP_ACK
  ∀ (s : State) (p : PortIx), up s p → (s.port p.val).sleep = 2 →
    ∃ t, exec (.sleepAck p) s = .next t ∧ t.lnkState p.val = 6 ∧ t.port p.val = asleep (s.port p.val) ∧
      otherPorts s t p ∧ (∀ a, a ≠ lnkStat p → t.reg a = s.reg a) ∧ t = { s with regs := t.regs, ports := t.ports }

namespace Sys2Proof.Claims

/-- The flow of a packet at a port (R361). -/
abbrev flowOf (p : PortIx) (q : Packet) : Nat := 4 * portDir p.val + pVc q

/-- How far a packet's FSN lies ahead of the next expected one. -/
abbrev ahead (s : State) (p : PortIx) (q : Packet) : Nat :=
  (pFsn q + 2 ^ 24 - smGet 0 s.fab.rxE (flowOf p q)) % 2 ^ 24

/-- The packet has been delivered before (R361). -/
abbrev seenBefore (s : State) (p : PortIx) (q : Packet) : Prop :=
  2 ^ 23 ≤ ahead s p q ∨ ahead s p q < 4096 ∧ pFsn q ∈ smGet [] s.fab.rxSet (flowOf p q)

/-- A packet of the window that has not been delivered. -/
abbrev newPacket (s : State) (p : PortIx) (q : Packet) : Prop :=
  ahead s p q < 4096 ∧ pFsn q ∉ smGet [] s.fab.rxSet (flowOf p q) ∧ smGet 0 s.fab.rxE (flowOf p q) < 2 ^ 24

/-- The oldest unjudged packet of an input buffer. -/
abbrev unjudged (s : State) (p : PortIx) (v : Fin 4) (pre post : List RxPkt) (q : Packet) : Prop :=
  s.inp p.val v.val = pre ++ { pkt := q, ready := false } :: post ∧ ∀ x ∈ pre, x.ready = true

/-- One more delivery or drop, of a packet that is not of the Vigil (R385). -/
abbrev dlvOf (s : State) (q : Packet) : W64 := if State.counts q then s.fab.dlv + 1#64 else s.fab.dlv

/-- The registers that every PACKET_ROUTE of a port may change: its counters, its buffer counts. -/
abbrev routeRegs (s t : State) (p : PortIx) (v : Nat) (l : List Nat) : Prop :=
  ∀ a, a ≠ State.rDepth p.val v → a ∉ l → t.reg a = s.reg a

/-- The drop counter of a cause: 0 BAD_HEADER, 1 STALE_EPOCH, 2 NO_ROUTE, 3 RETIRED (R383). -/
abbrev dropLow (k : Nat) : Nat := if k = 0 then 0 else if k = 1 then 48 else if k = 2 then 16 else 32

/-- FAB_DROP. -/
abbrev dropReg : Nat := rFab 0x40

/-- The state without a delivered packet that its consumer has taken. -/
abbrev taken (s : State) (x : Packet × Nat) : State :=
  { s with fab := { s.fab with local_ := s.fab.local_.erase x } }

/-- The first delivered packet that a test accepts. -/
abbrev firstOf (s : State) (want : Packet → Bool) (x : Packet × Nat) : Prop :=
  (s.fab.local_.find? fun x => want x.1) = some x

/-- A payload whose check word holds (R373). -/
abbrev intact (q : Packet) : Prop := pcrc q.payload = hNat q 48 4

/-- One poison flag a byte, from the packet's mask. -/
abbrev putFlags (q : Packet) : List Bool :=
  State.byteFlags ((List.range (q.payload.length / 32)).map fun i => bitAt (pPoison q) i)

/-- The queue that a MSG names. -/
abbrev msgQueue (q : Packet) : Nat := hNat q 12 3 % 2 ^ 18

/-- A VIGIL packet that the module heeds is of its own sequence (R384). -/
abbrev ofSequence (s : State) (q : Packet) : Prop := pOp q = 7 → bitsOf (pArg0 q) 15 8 = s.regF State.rVigil 55 48

/-- Credits that a packet of an input buffer needs in direction `d` (R381). -/
abbrev need (p : PortIx) (v : Fin 4) (d : Nat) (q : Packet) : Nat :=
  if d = oppDir (portDir p.val) ∧ pVc q = v.val then 1 else 2

/-- The injecting hub's draw register has advanced once, and no other (R378). -/
abbrev drawn (s t : State) (hub : Nat) : Prop :=
  if hub = 0 then t.fab.lfsr0 = State.lfsrNext s.fab.lfsr0 ∧ t.fab.lfsr1 = s.fab.lfsr1
  else t.fab.lfsr1 = State.lfsrNext s.fab.lfsr1 ∧ t.fab.lfsr0 = s.fab.lfsr0

/-- Where a forwarded packet goes: its port, and the packet with its FSN. -/
abbrev leavesOn (s t : State) (o d : Nat) (q : Packet) : Prop :=
  t.out = .packet o (s.port o).lsn 0 (setH q 8 3 (smGet 0 s.fab.fsn (4 * d + pVc q))) :: s.out ∧
  smGet 0 t.fab.fsn (4 * d + pVc q) = (smGet 0 s.fab.fsn (4 * d + pVc q) + 1) % 2 ^ 24 ∧
  (t.port o).sent = (s.port o).sent ++ [{ pkt := setH q 8 3 (smGet 0 s.fab.fsn (4 * d + pVc q)), lsn := (s.port o).lsn }] ∧
  (t.port o).lsn = ((s.port o).lsn + nFlits (setH q 8 3 (smGet 0 s.fab.fsn (4 * d + pVc q)))) % 4096

end Sys2Proof.Claims

open Sys2Proof.Claims in
/-- R361, R372 to R375, R381, R382, R427. -/
def Obligations.FabricJudgesRoutesForwardsAndDelivers : Prop :=
  -- PACKET_ROUTE: a duplicate
  (∀ (s : State) (p : PortIx) (v : Fin 4) (pre post : List RxPkt) (q : Packet),
    s.routerRuns = true → unjudged s p v pre post q → seenBefore s p q →
    ∃ t, exec (.packetRoute (.port p v)) s = .next t ∧ t.inp p.val v.val = pre ++ post ∧
      t.regF (rLnk p.val 0x50) 31 0 = (s.regF (rLnk p.val 0x50) 31 0 + 1) % 2 ^ 32 ∧
      (t.port p.val).freed = (s.port p.val).freed.set v.val ((s.port p.val).freed.getD v.val 0 + 1) ∧
      otherPorts s t p ∧ routeRegs s t p v.val [rLnk p.val 0x50] ∧
      t = { s with regs := t.regs, ports := t.ports, fab := { s.fab with dlv := dlvOf s q } }) ∧
  -- PACKET_ROUTE: a new packet to be forwarded
  (∀ (s : State) (p : PortIx) (v : Fin 4) (pre post : List RxPkt) (q q2 : Packet) (d : Nat),
    s.routerRuns = true → unjudged s p v pre post q → newPacket s p q → s.routerCheck q = none →
    s.route q (some (portDir p.val)) = .go d q2 →
    ∃ t, exec (.packetRoute (.port p v)) s = .next t ∧
      t.inp p.val v.val = pre ++ { pkt := q, ready := true } :: post ∧ seenBefore t p q ∧
      t.reg (rLnk p.val 0x30) = s.reg (rLnk p.val 0x30) + 1#64 ∧ otherPorts s t p ∧
      routeRegs s t p v.val [rLnk p.val 0x30] ∧
      t = { s with regs := t.regs, ports := t.ports, fab := { s.fab with rxE := t.fab.rxE, rxSet := t.fab.rxSet } }) ∧
  -- PACKET_ROUTE: a new packet for this module
  (∀ (s : State) (p : PortIx) (v : Fin 4) (pre post : List RxPkt) (q q2 : Packet),
    s.routerRuns = true → unjudged s p v pre post q → newPacket s p q → s.routerCheck q = none →
    s.route q (some (portDir p.val)) = .here q2 → ofSequence s q2 →
    ∃ t, exec (.packetRoute (.port p v)) s = .next t ∧ t.inp p.val v.val = pre ++ post ∧ seenBefore t p q ∧
      t.fab.local_ = s.fab.local_ ++ [(q2, p.val)] ∧
      t.reg (rLnk p.val 0x30) = s.reg (rLnk p.val 0x30) + 1#64 ∧ otherPorts s t p ∧
      routeRegs s t p v.val [rLnk p.val 0x30] ∧
      t = { s with
        regs := t.regs, ports := t.ports
        fab := { s.fab with rxE := t.fab.rxE, rxSet := t.fab.rxSet, local_ := t.fab.local_, dlv := dlvOf s q2 } }) ∧
  -- PACKET_ROUTE: a new packet that is dropped
  (∀ (s : State) (p : PortIx) (v : Fin 4) (pre post : List RxPkt) (q : Packet) (k : Nat),
    s.routerRuns = true → unjudged s p v pre post q → newPacket s p q →
    (s.routerCheck q = some k ∧ k < 4 ∨ s.routerCheck q = none ∧ s.route q (some (portDir p.val)) = .drop ∧ k = 2) →
    ∃ t, exec (.packetRoute (.port p v)) s = .next t ∧ t.inp p.val v.val = pre ++ post ∧ seenBefore t p q ∧
      t.regF dropReg (dropLow k + 15) (dropLow k) = (s.regF dropReg (dropLow k + 15) (dropLow k) + 1) % 2 ^ 16 ∧
      t.fab.local_ = s.fab.local_ ∧ otherPorts s t p ∧
      (k ≠ 3 → routeRegs s t p v.val [rLnk p.val 0x30, dropReg] ∧
        (∃ e, t.errFlight = s.errFlight ++ [e] ∧ e.code = 0x0502 ∧ e.scope = 9 ∧ e.index = pSrc q) ∧
        t = { s with
          regs := t.regs, ports := t.ports, errFlight := t.errFlight
          fab := { s.fab with rxE := t.fab.rxE, rxSet := t.fab.rxSet, dlv := dlvOf s q } })) ∧
  -- PACKET_FORWARD: a routed packet leaves
  (∀ (s : State) (p : PortIx) (v : Fin 4) (pre post : List RxPkt) (q q2 : Packet) (d o : Nat),
    s.inp p.val v.val = pre ++ { pkt := q, ready := true } :: post → (∀ x ∈ pre, x.ready = false) →
    s.route q (some (portDir p.val)) = .go d q2 →
    s.routerRuns = true → s.outFor d q2 (need p v d q2) = some o → s.turn o (pVc q2) = true →
    ∃ t, exec (.packetForward (.port p v)) s = .next t ∧ t.inp p.val v.val = pre ++ post ∧ leavesOn s t o d q2 ∧
      (t.port o).cred.getD (pVc (setH q2 8 3 (smGet 0 s.fab.fsn (4 * d + pVc q2)))) 0 =
        (s.port o).cred.getD (pVc (setH q2 8 3 (smGet 0 s.fab.fsn (4 * d + pVc q2)))) 0 - 1 ∧
      (t.port p.val).freed = (s.port p.val).freed.set v.val ((s.port p.val).freed.getD v.val 0 + 1) ∧
      (∀ k, k ≠ p.val → k ≠ o → t.port k = s.port k) ∧
      routeRegs s t p v.val [rLnk o 0x18, rLnk o 0x28] ∧
      t = { s with
        regs := t.regs, ports := t.ports, out := t.out, fab := { s.fab with fsn := t.fab.fsn, busy := t.fab.busy, rr := t.fab.rr } }) ∧
  -- PACKET_FORWARD: no port takes it, or it is another channel's turn there
  (∀ (s : State) (p : PortIx) (v : Fin 4) (pre post : List RxPkt) (q q2 : Packet) (d : Nat),
    s.inp p.val v.val = pre ++ { pkt := q, ready := true } :: post → (∀ x ∈ pre, x.ready = false) →
    s.route q (some (portDir p.val)) = .go d q2 →
    (∀ o, s.outFor d q2 (need p v d q2) = some o → s.turn o (pVc q2) = false) →
    exec (.packetForward (.port p v)) s = .next s) ∧
  -- PACKET_FORWARD: a packet of the module itself
  (∀ (s : State) (x : Packet × Nat × Option Nat) (rest : List (Packet × Nat × Option Nat)) (q2 : Packet) (d o : Nat),
    s.routerRuns = true → s.waiting = x :: rest → s.mayInject x.1 = true →
    s.routerCheck (s.injectForm x.1 x.2.1).1 = none → s.route (s.injectForm x.1 x.2.1).1 none = .go d q2 →
    s.outFor d q2 2 = some o → s.turn o (pVc q2) = true →
    ∃ t, exec (.packetForward .inject) s = .next t ∧ leavesOn s t o d q2 ∧
      t.fab.inj = (if State.counts x.1 then s.fab.inj + 1#64 else s.fab.inj) ∧ (∀ k, k ≠ o → t.port k = s.port k) ∧
      (∀ a, a ≠ rLnk o 0x18 → a ≠ rLnk o 0x28 → t.reg a = s.reg a) ∧ drawn s t x.2.1 ∧
      t = { s with
        regs := t.regs, ports := t.ports, out := t.out, tokens := t.tokens
        fab := { s.fab with
          inject := t.fab.inject, inj := t.fab.inj, lfsr0 := t.fab.lfsr0, lfsr1 := t.fab.lfsr1, fsn := t.fab.fsn
          busy := t.fab.busy, rr := t.fab.rr } }) ∧
  -- PACKET_ROUTE: a packet of the module for itself
  (∀ (s : State) (x : Packet × Nat × Option Nat) (rest : List (Packet × Nat × Option Nat)) (q2 : Packet),
    s.routerRuns = true → s.waiting = x :: rest → s.mayInject x.1 = true →
    s.routerCheck (s.injectForm x.1 x.2.1).1 = none → s.route (s.injectForm x.1 x.2.1).1 none = .here q2 →
    ofSequence s q2 →
    ∃ t, exec (.packetRoute .inject) s = .next t ∧ t.fab.local_ = s.fab.local_ ++ [(q2, 0)] ∧
      t.fab.inj = (if State.counts x.1 then s.fab.inj + 1#64 else s.fab.inj) ∧ t.fab.dlv = dlvOf s q2 ∧
      drawn s t x.2.1 ∧
      t = { s with
        tokens := t.tokens
        fab := { s.fab with
          inject := t.fab.inject, inj := t.fab.inj, dlv := t.fab.dlv, local_ := t.fab.local_, lfsr0 := t.fab.lfsr0
          lfsr1 := t.fab.lfsr1 } }) ∧
  -- PUT on present pages
  (∀ (s : State) (x : Packet × Nat), firstOf s (fun q => pOp q == 1 && pDie q != 9) x → intact x.1 →
    (x.1.payload = [] ∨ s.rangePresent (pArg0 x.1) x.1.payload.length = true) → goesOn (·.fxPut) s →
    ∃ t, exec .put s = .next t ∧
      t = { ((taken (fresh s) x).memWriteP (pArg0 x.1) x.1.payload (putFlags x.1) 0).send 0 (State.ackOf x.1 false) with
        waited := s.waited }) ∧
  -- PUT while a channel that it writes is held
  (∀ (s : State) (x : Packet × Nat), firstOf s (fun q => pOp q == 1 && pDie q != 9) x → intact x.1 →
    s.rangePresent (pArg0 x.1) x.1.payload.length = true →
    ((taken (fresh s) x).memWriteP (pArg0 x.1) x.1.payload (putFlags x.1) 0).waited = true →
    exec .put s = .next s) ∧
  -- PUT off them
  (∀ (s : State) (x : Packet × Nat), firstOf s (fun q => pOp q == 1 && pDie q != 9) x → intact x.1 →
    x.1.payload ≠ [] → s.rangePresent (pArg0 x.1) x.1.payload.length = false →
    ∃ t, exec .put s = .next t ∧ t = (taken s x).send 0 (State.ackOf x.1 true)) ∧
  -- MSG that is counted and discarded
  (∀ (s : State) (x : Packet × Nat), firstOf s (fun q => pOp q == 3) x → intact x.1 →
    (s.qIs (msgQueue x.1) 3 = false →
      ∃ t, exec .msg s = .next t ∧ t.regF 0x20010 47 32 = (s.regF 0x20010 47 32 + 1) % 2 ^ 16 ∧
        onlyRegs (taken s x) t [0x20010]) ∧
    (s.qIs (msgQueue x.1) 3 = true → s.qRoom (msgQueue x.1) (x.1.payload.length / 32) = false →
      ∃ t, exec .msg s = .next t ∧
        t.regF (rQ (msgQueue x.1) 4) 31 0 = (s.regF (rQ (msgQueue x.1) 4) 31 0 + x.1.payload.length / 32) % 2 ^ 32 ∧
        onlyRegs (taken s x) t [rQ (msgQueue x.1) 4])) ∧
  -- MSG that is posted
  (∀ (s : State) (x : Packet × Nat), firstOf s (fun q => pOp q == 3) x → intact x.1 → x.1.payload.length = 32 →
    s.qIs (msgQueue x.1) 3 = true → s.qRoom (msgQueue x.1) 1 = true → s.qSize (msgQueue x.1) ≤ 65536 →
    goesOn (·.fxMsg) s →
    ∃ t, exec .msg s = .next t ∧
      t.qTail (msgQueue x.1) = (s.qTail (msgQueue x.1) + 1) % s.qSize (msgQueue x.1) ∧
      t.regF (rQ (msgQueue x.1) 4) 63 32 = (s.regF (rQ (msgQueue x.1) 4) 63 32 + 1) % 2 ^ 32 ∧
      (t.queueSt (msgQueue x.1)).fresh = (s.queueSt (msgQueue x.1)).fresh + 1 ∧
      t.evtSeq = (s.evtSeq + 1) % 2 ^ 32 ∧ t.fab = (taken s x).fab ∧ t.units = s.units ∧ t.clus = s.clus) ∧
  -- TOKEN
  ∀ (s : State) (x : Packet × Nat) (pc : Nat), firstOf s (fun q => pOp q == 4) x →
    s.physClu (bitsOf (pArg0 x.1) 23 16) = some pc →
    ∃ t, exec .token s = .next t ∧
      t.regF (rClu pc (0x1000 + 8 * bitsOf (pArg0 x.1) 15 8)) 15 0 =
        min (s.regF (rClu pc (0x1000 + 8 * bitsOf (pArg0 x.1) 15 8)) 15 0 + bitsOf (pArg0 x.1) 7 0) 65535 ∧
      onlyRegs (taken s x) t [rClu pc (0x1000 + 8 * bitsOf (pArg0 x.1) 15 8)]

namespace Sys2Proof.Claims

/-- The function of the hubs takes writes. -/
abbrev hubReady (s : State) : Prop := s.bit 0x18 2 = true

/-- A VIGIL packet (R385) to an EID. -/
abbrev vigilTo (dst stage vseq newEpoch arg1 : Nat) (pay : List Byte) : Packet :=
  mkPacket dst 7 8 noQueue 0 true (stage + vseq * 2 ^ 8 + newEpoch * 2 ^ 16) arg1 0 pay

/-- The packets of a stage to the children. -/
abbrev toChildren (s : State) (stage vseq newEpoch : Nat) : List (Packet × Nat) :=
  (List.range s.nChild).map fun i => (vigilTo (s.child i) stage vseq newEpoch 0 [], 0)

/-- VSEQ. -/
abbrev vseq (s : State) : Nat := s.regF State.rVigil 55 48

/-- A VIGIL packet of a stage has been delivered. -/
abbrev vigilHere (s : State) (stage : Nat) (x : Packet × Nat) : Prop :=
  firstOf s (fun q => pOp q == 7 && pArg0 q % 256 == stage && pArg0 q / 2 ^ 8 % 256 == s.regF State.rVigil 55 48) x

/-- A child's reply, of whatever stage, has been delivered. -/
abbrev replyHere (s : State) (x : Packet × Nat) : Prop :=
  firstOf s (fun q => pOp q == 7 && decide (0x80 ≤ pArg0 q % 256)) x

/-- NEW_EPOCH of a VIGIL packet. -/
abbrev epochOf (x : Packet × Nat) : Nat := pArg0 x.1 / 2 ^ 16 % 4

/-- Nothing is held for a direction without a port that is UP. -/
abbrev noneDiscarded (s : State) : Prop := ∀ d < 6, s.heldFor d = [] ∨ s.dirUp d = true

/-- The answer of a module without children to its parent. -/
abbrev answered (s t : State) (x : Packet × Nat) (stage arg1 : Nat) (pay : List Byte) : Prop :=
  t.fab.inject = s.fab.inject ++ [(vigilTo s.parent stage (vseq s) (epochOf x) arg1 pay, 0)] ∧
  t.fab.local_ = s.fab.local_.erase x ∧ t.fab.vigil.stage = 0 ∧ t.fab.vigil.root = false

/-- The registers a Vigil changes: FAB_VIGIL, FAB_VAL and the states of the collective engines. -/
abbrev vigilRegs (s t : State) : Prop :=
  ∀ a, a ∉ [State.rVigil, rFab 0x10, rCle 0 0, rCle 1 0, rCle 2 0, rCle 3 0] → t.reg a = s.reg a

/-- Which bank of the route table is active. -/
abbrev bankOf (s : State) : Nat := s.regF State.rVigil 57 57

end Sys2Proof.Claims

open Sys2Proof.Claims in
/-- R384 to R388, R390. -/
def Obligations.VigilStopsCountsCommitsAndResumes : Prop :=
  -- VIGIL_START at the root, with children
  (∀ (s : State) (w : Who) (v : W64), hubReady s → fld v 56 56 = 1 → s.vigilState = 0 → s.parent = s.selfEid →
    0 < s.nChild →
    ∃ t, exec (.vigilStart w v) s = .next t ∧ t.vigilState = 1 ∧ vseq t = fld v 55 48 ∧
      t.regF State.rVigil 47 32 = fld v 47 32 ∧ t.fab.vigil.root = true ∧ t.fab.vigil.stage = 1 ∧
      t.fab.vigil.answered = [] ∧
      t.fab.inject = s.fab.inject ++ toChildren s 1 (fld v 55 48) s.fab.vigil.newEpoch ∧
      (noneDiscarded s → vigilRegs s t ∧ t = { s with regs := t.regs, fab := t.fab })) ∧
  -- VIGIL_START elsewhere, or without START
  (∀ (s : State) (w : Who) (v : W64), hubReady s →
    (fld v 56 56 ≠ 1 ∨ s.vigilState ≠ 0 ∨ s.parent ≠ s.selfEid) →
    ∃ t, exec (.vigilStart w v) s = .next t ∧ vseq t = fld v 55 48 ∧ t.regF State.rVigil 47 32 = fld v 47 32 ∧
      t.regF State.rVigil 63 56 = s.regF State.rVigil 63 56 ∧ onlyRegs s t [State.rVigil]) ∧
  -- VIGIL_STOP without children
  (∀ (s : State) (x : Packet × Nat), vigilHere s 1 x → s.nChild = 0 →
    ∃ t, exec .vigilStop s = .next t ∧ t.vigilState = 1 ∧ answered s t x 0x81 1 [] ∧ t.fab.vigil.epoch0 = s.epoch ∧
      (noneDiscarded s → vigilRegs s t ∧ t = { s with regs := t.regs, fab := t.fab })) ∧
  -- VIGIL_STOP with children
  (∀ (s : State) (x : Packet × Nat), vigilHere s 1 x → 0 < s.nChild →
    ∃ t, exec .vigilStop s = .next t ∧ t.vigilState = 1 ∧ t.fab.vigil.stage = 1 ∧ t.fab.vigil.root = false ∧
      t.fab.inject = s.fab.inject ++ toChildren s 1 (vseq s) (epochOf x)) ∧
  -- VIGIL_COUNT without children
  (∀ (s : State) (x : Packet × Nat), vigilHere s 2 x → s.nChild = 0 →
    (s.fab.vigil.root && s.fab.vigil.stage == 2) = false →
    ∃ t, exec .vigilCount s = .next t ∧ t.vigilState = 2 ∧
      answered s t x 0x82 0 (leBytes 8 s.fab.inj.toNat ++ leBytes 8 s.fab.dlv.toNat ++
        leBytes 1 (if s.fab.busy || s.holds then 1 else 0) ++ leBytes 15 0) ∧
      t.fab.busy = s.holds ∧ vigilRegs s t ∧ t = { s with regs := t.regs, fab := t.fab }) ∧
  -- VIGIL_COMMIT without children
  (∀ (s : State) (x : Packet × Nat), vigilHere s 3 x → s.nChild = 0 →
    ∃ t, exec .vigilCommit s = .next t ∧
      answered s t x 0x83 (if s.commitOk then 1 else 0) [] ∧
      (s.commitOk = true → t.vigilState = 3 ∧ bankOf t = 1 - bankOf s ∧ t.epoch = epochOf x ∧ t.fab.vigil.exchanged = true ∧
        t.regF (rFab 0x10) 29 16 = s.regF (rFab 0x10) 13 0 ∧ t.regF (rFab 0x10) 13 0 = s.regF (rFab 0x10) 29 16) ∧
      (s.commitOk = false → t.vigilState = s.vigilState ∧ bankOf t = bankOf s ∧ t.epoch = s.epoch ∧ t.reg (rFab 0x10) = s.reg (rFab 0x10)) ∧
      t.fab.rt0 = s.fab.rt0 ∧ t.fab.rt1 = s.fab.rt1 ∧ vigilRegs s t ∧ t = { s with regs := t.regs, fab := t.fab }) ∧
  -- VIGIL_ROLLBACK without children
  (∀ (s : State) (x : Packet × Nat), vigilHere s 4 x → s.nChild = 0 → s.fab.vigil.epoch0 < 4 →
    ∃ t, exec .vigilRollback s = .next t ∧ answered s t x 0x84 1 [] ∧ t.fab.vigil.exchanged = false ∧
      t.fab.vigil.result = 2 ∧
      (if s.fab.vigil.exchanged then bankOf t = 1 - bankOf s ∧ t.epoch = s.fab.vigil.epoch0 else t.regs = s.regs) ∧
      vigilRegs s t ∧ t = { s with regs := t.regs, fab := t.fab }) ∧
  -- VIGIL_RESUME
  (∀ (s : State) (x : Packet × Nat), vigilHere s 5 x → s.fab.vigil.result < 16 →
    ∃ t, exec .vigilResume s = .next t ∧ t.vigilState = 0 ∧
      t.regF State.rVigil 31 28 = (if s.fab.vigil.result ≠ 0 then s.fab.vigil.result
        else if s.fab.vigil.exchanged then 1 else 3) ∧
      t.fab.vigil.stage = 0 ∧ t.fab.inject = s.fab.inject ++ toChildren s 5 (vseq s) (epochOf x) ∧
      t.fab.local_ = s.fab.local_.erase x ∧ vigilRegs s t ∧ t = { s with regs := t.regs, fab := t.fab }) ∧
  -- VIGIL_REPLY that answers nothing
  (∀ (s : State) (x : Packet × Nat), replyHere s x → s.answersNow x.1 = false →
    exec .vigilReply s = .next (taken s x)) ∧
  -- VIGIL_REPLY, more to come
  (∀ (s : State) (x : Packet × Nat), replyHere s x → s.answersNow x.1 = true → intact x.1 →
    (∃ i < s.nChild, s.child i ≠ pSrc x.1 ∧ s.child i ∉ s.fab.vigil.answered) →
    ∃ t, exec .vigilReply s = .next t ∧ t.fab.vigil.answered = pSrc x.1 :: s.fab.vigil.answered ∧
      t.fab.vigil.stage = s.fab.vigil.stage ∧
      t = { taken s x with fab := { (taken s x).fab with vigil := t.fab.vigil } }) ∧
  -- VIGIL_REPLY, the last answer to STOP at the root
  (∀ (s : State) (x : Packet × Nat), replyHere s x → s.answersNow x.1 = true → intact x.1 →
    s.fab.vigil.stage = 1 → s.fab.vigil.root = true →
    (∀ i < s.nChild, s.child i = pSrc x.1 ∨ s.child i ∈ s.fab.vigil.answered) →
    ∃ t, exec .vigilReply s = .next t ∧ t.vigilState = 2 ∧ t.fab.vigil.stage = 2 ∧ t.fab.vigil.answered = [] ∧
      t.fab.inject = s.fab.inject ++ toChildren s 2 (vseq s) s.fab.vigil.newEpoch ∧
      vigilRegs s t ∧ t = { s with regs := t.regs, fab := t.fab }) ∧
  -- VIGIL_STAGE_TIMEOUT before COMMIT
  (∀ (s : State), s.fab.vigil.root = true → s.fab.vigil.stage ≠ 0 → s.fab.vigil.commitSent = false →
    ∃ t, exec .vigilStageTimeout s = .next t ∧ t.vigilState = 0 ∧ t.regF State.rVigil 31 28 = 3 ∧
      t.fab.vigil.root = false ∧ t.fab.inject = s.fab.inject ++ toChildren s 5 (vseq s) s.fab.vigil.newEpoch ∧
      (∃ e, t.evtFlight = s.evtFlight ++ [e] ∧ e.type = 7) ∧ bankOf t = bankOf s ∧ t.epoch = s.epoch) ∧
  -- VIGIL_SELF_RESUME
  (∀ (s : State), s.vigilState ≠ 0 → s.fab.vigil.root = false →
    ∃ t, exec .vigilSelfResume s = .next t ∧ t.vigilState = 0 ∧ t.regF State.rVigil 31 28 = 4 ∧
      t.fab = { s.fab with vigil := t.fab.vigil } ∧ vigilRegs s t ∧ t = { s with regs := t.regs, fab := t.fab }) ∧
  -- FAB_RETIRE
  (∀ (s : State) (v : W64), hubReady s →
    ∃ t, exec (.fabRetire v) s = .next t ∧
      (∀ m ∈ [(s.fab.rt0, t.fab.rt0), (s.fab.rt1, t.fab.rt1)],
        smGet 0#64 m.2 (fld v 15 0) = setFld (smGet 0#64 m.1 (fld v 15 0)) 47 32 (fld v 47 32)) ∧
      (∀ e, e ≠ fld v 15 0 → smGet 0#64 t.fab.rt0 e = smGet 0#64 s.fab.rt0 e ∧ smGet 0#64 t.fab.rt1 e = smGet 0#64 s.fab.rt1 e) ∧
      t = { s with fab := { s.fab with rt0 := t.fab.rt0, rt1 := t.fab.rt1 } }) ∧
  -- FAB_CLR_MON
  ∀ (s : State), hubReady s →
    ∃ t, exec .fabClrMon s = .next t ∧
      (∀ n < 96, t.regF (rFab (0x1000 + 8 * n)) 23 16 = s.regF (rFab (0x1000 + 8 * n)) 7 0 ∧
        t.regF (rFab (0x1000 + 8 * n)) 15 8 = s.regF (rFab (0x1000 + 8 * n)) 7 0 ∧
        t.regF (rFab (0x1000 + 8 * n)) 7 0 = s.regF (rFab (0x1000 + 8 * n)) 7 0) ∧
      onlyRegs s t ((List.range 96).map fun n => rFab (0x1000 + 8 * n))

namespace Sys2Proof.Claims

/-- One more BAR4 record of a kind at an address (R403). -/
abbrev bar4Noted (s t : State) (kind a : Nat) : Prop :=
  t.regF 0x20018 63 62 = kind ∧ t.regF 0x20018 61 48 = (s.regF 0x20018 61 48 + 1) % 2 ^ 14 ∧
  t.regF 0x20018 47 0 = a % 2 ^ 48

/-- A BAR4 access may be made: the host is heard and HBM is there. -/
abbrev bar4Goes (s : State) (a n : Nat) : Prop :=
  s.hostUp = true ∧ s.bar4Off = false ∧ State.bar4Mapped a n = true

/-- It is made at once: nothing waits before it, and no channel holds a piece of it. -/
abbrev bar4Reaches (s : State) (a n : Nat) (r : HostReq) : Prop :=
  bar4Goes s a n ∧ s.hostQ = [] ∧ s.hostWaits r = false

/-- A doorbell's value: a 4-byte write fills the low half. -/
abbrev ringVal (size : Nat) (v : W64) : W64 := if size = 4 then setFld v 63 32 0 else v

/-- A whole doorbell of an enabled queue that is not in error. -/
abbrev rings (s : State) (off : BitVec 22) (size : Nat) (n : Nat) : Prop :=
  s.hostUp = true ∧ s.hostQ = [] ∧ off.toNat = 16 * n ∧ (size = 4 ∨ size = 8) ∧ s.qEn n = true ∧ s.qErr n = 0

/-- An EQ has no event held or lost. -/
abbrev noEvents (s : State) (n : Nat) : Prop := (∀ x ∈ s.evtBuf, x.1 ≠ n) ∧ smGet 0 s.evtLost n = 0

/-- Only the named registers and the record of queue `n` differ. -/
abbrev onlyQueue (s t : State) (n : Nat) (l : List Nat) : Prop :=
  (∀ a, a ∉ l → t.reg a = s.reg a) ∧ (∀ k, k ≠ n → t.queueSt k = s.queueSt k) ∧
  t = { s with regs := t.regs, queues := t.queues }

/-- An SQ that target `k` may take from. -/
abbrev eligible (s : State) (k q : Nat) : Prop :=
  q < 262144 ∧ s.qIs q 1 = true ∧ s.qErr q = 0 ∧ s.qHead q ≠ s.qTail q ∧
  State.targetKey (s.regF (rQ q 2) 63 56) (s.regF (rQ q 2) 55 48) = k

/-- The next SQ of target `k` in round-robin order. -/
abbrev nextSq (s : State) (k q : Nat) : Prop :=
  eligible s k q ∧
  ((s.tgt k).last ≤ q ∧ (∀ x, eligible s k x → (s.tgt k).last ≤ x → q ≤ x) ∨
   (∀ x, eligible s k x → x < (s.tgt k).last) ∧ ∀ x, eligible s k x → q ≤ x)

/-- How many entries the next read of an SQ's ring returns, and the words of one. -/
abbrev toFetch (s : State) (n : Nat) : Nat :=
  min 8 ((s.qTail n + s.qSize n - s.qHead n) % s.qSize n - (s.queueSt n).buf.length)
abbrev ringEntry (s : State) (n i : Nat) : List W64 :=
  (List.range 8).map fun j => BitVec.ofNat 64 (leVal (((s.hostRead (s.qPasid n)
    (s.qBase n + 64 * ((s.qHead n + (s.queueSt n).buf.length + i) % s.qSize n)) 64).drop (8 * j)).take 8))

/-- The completion entry of a job (R419), with its phase. -/
abbrev cqEntry (s : State) (j : Job) : List W64 :=
  setFld (BitVec.ofNat 64 (j.status * 2 ^ 48 + j.sqn * 2 ^ 30 + s.qHead j.sqn)) 63 63 (s.regF (rQ j.cqn 3) 32 32) ::
    BitVec.ofNat 64 (dfld j.words 0 31 0) :: (List.range 6).map fun i => wordAt j.res i

/-- Where the host's memory holds a queue's tail entry. -/
abbrev tailKey (s : State) (q : Nat) : Nat := hostKey (s.qPasid q) (s.qBase q + 64 * s.qTail q)

/-- A CQ or EQ has one more entry at its tail, in the host's memory. -/
abbrev posted (s t : State) (q : Nat) (ws : List W64) : Prop :=
  t.hostRead (s.qPasid q) (s.qBase q + 64 * s.qTail q) 64 = (ws.flatMap fun w => leBytes 8 w.toNat) ∧
  (∀ k, (k < tailKey s q ∨ tailKey s q + 64 ≤ k) → smGet 0#8 t.hostMem k = smGet 0#8 s.hostMem k) ∧
  t.qTail q = (s.qTail q + 1) % s.qSize q ∧
  t.regF (rQ q 3) 32 32 = (if s.qTail q + 1 = s.qSize q then 1 - s.regF (rQ q 3) 32 32 else s.regF (rQ q 3) 32 32) ∧
  t.regF (rQ q 4) 63 32 = (s.regF (rQ q 4) 63 32 + 1) % 2 ^ 32 ∧
  (t.queueSt q).fresh = (s.queueSt q).fresh + 1 ∧
  (∀ k, k ≠ q → t.queueSt k = s.queueSt k)

/-- A ring of the host with a tail inside it. -/
abbrev hostRing (s : State) (q : Nat) : Prop :=
  s.qDev q = false ∧ s.qRoom q 1 = true ∧ s.qSize q ≤ 65536 ∧ s.qTail q < s.qSize q

/-- A queue is due a message (R422). -/
abbrev msgDue (s : State) (q : Nat) (late : Bool) : Prop :=
  (s.qIs q 2 = true ∨ s.qIs q 3 = true) ∧ s.bit (rQ q 2) 11 = true ∧ s.bit (rQ q 3) 33 = true ∧
  0 < (s.queueSt q).fresh ∧
  (s.regF (rQ q 2) 63 48 ≤ (s.queueSt q).fresh ∨ s.regF (rQ q 2) 47 32 = 0 ∨ late = true)

/-- The state that has numbered its oldest event and taken it off its way. -/
abbrev numbered (s : State) (es : List Evt) : State :=
  { s with evtFlight := es, evtSeq := (s.evtSeq + 1) % 2 ^ 32, ctr := s.ctr + 1 }

/-- The event as it is numbered and stamped. -/
abbrev stamped (s : State) (e : Evt) : Evt :=
  { e with seq := s.evtSeq, time := setFld (s.reg 0x40000) 15 0 (Config.freeWord s.ctr).toNat }

/-- The route of an event type (R425). -/
abbrev evtRoute (e : Evt) : Nat := 0x20800 + 8 * e.type
abbrev evtQueue (s : State) (e : Evt) : Nat := s.regF (evtRoute e) 17 0
abbrev evtRouted (s : State) (e : Evt) : Prop :=
  s.bit (evtRoute e) 63 = true ∧ s.qIs (evtQueue s e) 3 = true

/-- Registers that a reset of the host interface puts back (R436). -/
abbrev hifReg (a : Nat) : Prop :=
  0x9000000 ≤ a ∧ a < 0xA000000 ∨ 0x30000 ≤ a ∧ a < 0x39000 ∨ 0x20800 ≤ a ∧ a < 0x21000 ∨ a = 0x20020

end Sys2Proof.Claims

open Sys2Proof.Claims in
/-- R402, R403, R408 to R412, R415, R416, R421, R422, R425, R426, R436. -/
def Obligations.QueuesRingsCompletionsAndEvents : Prop :=
  -- BAR4_READ
  (∀ (s : State) (off len a : Nat), s.bar4Addr off len = some a →
    (s.hostUp = false → exec (.bar4Read off len) s = .next s) ∧
    (bar4Goes s a len → (s.hostQ ≠ [] ∨ s.hostWaits (.read a len) = true) →
      exec (.bar4Read off len) s = .next { s with hostQ := s.hostQ ++ [.read a len] }) ∧
    (bar4Reaches s a len (.read a len) → (s.memRead a len 0).2.2.any id = false →
      ∃ t, exec (.bar4Read off len) s = .next t ∧
        t.out = .bar4 (some ((List.range len).map fun i => (s.peekByte (a + i)).1, false)) :: s.out ∧
        t.reg 0x20018 = s.reg 0x20018 ∧
        t = { s with
          regs := t.regs, slices := t.slices, chanBytes := t.chanBytes, chanPoison := t.chanPoison
          chans := t.chans, ctr := t.ctr, out := t.out }) ∧
    (bar4Reaches s a len (.read a len) → (s.memRead a len 0).2.2.any id = true →
      ∃ t, exec (.bar4Read off len) s = .next t ∧
        t.out = .bar4 (some ((List.range len).map fun i => (s.peekByte (a + i)).1, true)) :: s.out ∧
        bar4Noted s t 3 a) ∧
    (s.hostUp = true → (s.bar4Off = true ∨ State.bar4Mapped a len = false) →
      ∃ t, exec (.bar4Read off len) s = .next t ∧ bar4Noted s t 1 a ∧
        onlyRegs { s with out := .bar4 none :: s.out } t [0x20018])) ∧
  -- BAR4_WRITE
  (∀ (s : State) (off a : Nat) (data : List Byte), s.bar4Addr off data.length = some a →
    (s.hostUp = false → exec (.bar4Write off data) s = .next s) ∧
    (bar4Goes s a data.length → (s.hostQ ≠ [] ∨ s.hostWaits (.write a data) = true) →
      exec (.bar4Write off data) s = .next { s with hostQ := s.hostQ ++ [.write a data] }) ∧
    (bar4Reaches s a data.length (.write a data) →
      ∃ t, exec (.bar4Write off data) s = .next t ∧ t = { s.memWrite a data 0 with waited := s.waited }) ∧
    (s.hostUp = true → (s.bar4Off = true ∨ State.bar4Mapped a data.length = false) →
      ∃ t, exec (.bar4Write off data) s = .next t ∧ bar4Noted s t 2 a ∧ onlyRegs s t [0x20018])) ∧
  -- DOORBELL: an SQ's tail; a CQ's or EQ's head, not armed
  (∀ (s : State) (off : BitVec 22) (size n : Nat) (v : W64), rings s off size n →
    s.badDoorbell n (ringVal size v) = false →
    (s.qKind n = 1 →
      ∃ t, exec (.doorbell off size v) s = .next t ∧ t.qTail n = fld v 15 0 ∧ t.qHead n = s.qHead n ∧
        onlyRegs s t [rQ n 3]) ∧
    (s.qKind n ≠ 1 → fld v 16 16 = 0 → noEvents s n →
      ∃ t, exec (.doorbell off size v) s = .next t ∧ t.qHead n = fld v 15 0 ∧ t.qTail n = s.qTail n ∧
        t.bit (rQ n 3) 33 = s.bit (rQ n 3) 33 ∧ onlyRegs s t [rQ n 3])) ∧
  -- DOORBELL_ARM
  (∀ (s : State) (off : BitVec 22) (size n : Nat) (v : W64), rings s off size n →
    s.badDoorbell n (ringVal size v) = false → s.qKind n ≠ 1 → fld v 16 16 = 1 → noEvents s n →
    ∃ t, exec (.doorbellArm off size v) s = .next t ∧ t.qHead n = fld v 15 0 ∧ t.qTail n = s.qTail n ∧
      t.bit (rQ n 3) 33 = true ∧
      (t.queueSt n).fresh = (s.qTail n + s.qSize n - fld v 15 0) % s.qSize n ∧ onlyQueue s t n [rQ n 3]) ∧
  -- DOORBELL: out of range, and of a queue that takes none
  (∀ (s : State) (off : BitVec 22) (size n : Nat) (v : W64), s.hostUp = true → s.hostQ = [] → off.toNat = 16 * n →
    (size = 4 ∨ size = 8) →
    (s.qEn n = true → s.qErr n = 0 → s.badDoorbell n (ringVal size v) = true →
      ∃ t, exec (.doorbell off size v) s = .next t ∧ t.qErr n = 1 ∧
        t.evtFlight = s.evtFlight ++ [{ type := 8, scope := 8, index := n, w2 := 1#64 }] ∧
        onlyRegs { s with evtFlight := t.evtFlight } t [rQ n 0]) ∧
    (s.qEn n = false ∨ s.qErr n ≠ 0 →
      ∃ t, exec (.doorbell off size v) s = .next t ∧ t.regF 0x20010 31 16 = (s.regF 0x20010 31 16 + 1) % 2 ^ 16 ∧
        onlyRegs s t [0x20010])) ∧
  -- DOORBELL behind BAR4 accesses that wait
  (∀ (s : State) (off : BitVec 22) (size n : Nat) (v : W64), s.hostUp = true → s.hostQ ≠ [] → off.toNat = 16 * n →
    (size = 4 ∨ size = 8) →
    exec (.doorbell off size v) s = .next { s with hostQ := s.hostQ ++ [.bell off.toNat size v] }) ∧
  -- DOORBELL: a write that is none, and a host that is not heard
  (∀ (s : State) (off : BitVec 22) (size : Nat) (v : W64),
    (off.toNat % 16 ≠ 0 ∨ size ≠ 4 ∧ size ≠ 8 ∨ s.hostUp = false) → exec (.doorbell off size v) s = .next s) ∧
  -- QUEUE_ENABLE
  (∀ (s : State) (n : QIx) (v : W64), s.bit 0x18 1 = true → s.qEn n.val = false → fld v 60 60 = 1 →
    (s.qCheck n.val v = 0 → (fld v 63 62 = 3 → noEvents s n.val) →
      ∃ t, exec (.queueEnable n v) s = .next t ∧ t.qEn n.val = true ∧ t.qKind n.val = fld v 63 62 ∧
        t.qErr n.val = 0 ∧ t.qHead n.val = 0 ∧ t.qTail n.val = 0 ∧
        t.regF (rQ n.val 3) 32 32 = (if fld v 63 62 = 1 then 0 else 1) ∧
        t.bit (rQ n.val 3) 33 = decide (fld v 63 62 ≠ 1) ∧ t.reg (rQ n.val 4) = 0#64 ∧ t.queueSt n.val = {} ∧
        onlyQueue s t n.val [rQ n.val 0, rQ n.val 3, rQ n.val 4]) ∧
    (s.qCheck n.val v ≠ 0 →
      ∃ t, exec (.queueEnable n v) s = .next t ∧ t.qEn n.val = false ∧ t.regF 0x20008 63 56 = s.qCheck n.val v ∧
        t.regF 0x20008 17 0 = n.val ∧ onlyRegs s t [rQ n.val 0, 0x20008])) ∧
  -- QUEUE_DISABLE
  (∀ (s : State) (n : QIx) (v : W64), s.bit 0x18 1 = true → s.qEn n.val = true → fld v 60 60 = 0 →
    (s.qLocked n.val v = false → ¬ (s.qKind n.val = 2 ∧ s.qErr n.val = 0 ∧ s.cqInUse n.val = true) →
      ∃ t, exec (.queueDisable n v) s = .next t ∧ t.qEn n.val = false ∧ (t.queueSt n.val).buf = [] ∧
        (t.queueSt n.val).fresh = (s.queueSt n.val).fresh ∧
        t.evtBuf = (if s.qKind n.val = 3 ∧ s.qErr n.val = 0 then s.evtBuf.filter fun x => x.1 != n.val else s.evtBuf) ∧
        (s.qKind n.val = 3 → s.qErr n.val = 0 → t.regF 0x20010 8 0 = t.evtBuf.length % 2 ^ 9) ∧
        onlyQueue { s with evtBuf := t.evtBuf, evtLost := t.evtLost } t n.val [rQ n.val 0, 0x20010]) ∧
    (s.qLocked n.val v = true →
      ∃ t, exec (.queueDisable n v) s = .next t ∧ t.regF 0x20008 63 56 = 7 ∧ t.regF 0x20008 17 0 = n.val ∧
        onlyRegs s t [0x20008]) ∧
    (s.qLocked n.val v = false → s.qKind n.val = 2 → s.qErr n.val = 0 → s.cqInUse n.val = true →
      ∃ t, exec (.queueDisable n v) s = .next t ∧ t.regF 0x20008 63 56 = 6 ∧ t.regF 0x20008 17 0 = n.val ∧
        onlyRegs s t [0x20008])) ∧
  -- SQ_FETCH
  (∀ (s : State) (n : QIx) (r : RingRead), s.qIs n.val 1 = true → s.qErr n.val = 0 → s.qDev n.val = false →
    0 < toFetch s n.val →
    (r = .ok → ∃ t, exec (.sqFetch n r) s = .next t ∧
      (t.queueSt n.val).buf = (s.queueSt n.val).buf ++ (List.range (toFetch s n.val)).map (ringEntry s n.val) ∧
      onlyQueue s t n.val []) ∧
    (r ≠ .ok → ∃ t, exec (.sqFetch n r) s = .next t ∧ t.qErr n.val = 2 ∧
      t.evtFlight = s.evtFlight ++ [{ type := 8, scope := 8, index := n.val, w2 := 2#64 }] ∧
      onlyRegs { s with evtFlight := t.evtFlight } t [rQ n.val 0])) ∧
  -- SQ_ENTRY_TAKE
  (∀ (s : State) (k : Fin 15) (q : Nat) (e : List W64) (es : List (List W64)), Registers.wf s.regs = true →
    (s.tgt k.val).job = none → s.keyOk k.val = true → (k.val = 0 ∨ s.fenced = false ∧ s.hub1Lost = false) →
    nextSq s k.val q → (s.queueSt q).buf = e :: es → s.qSize q ≤ 65536 →
    ∃ t, exec (.sqEntryTake k) s = .next t ∧
      t.tgt k.val = { job := some { words := e, sqn := q, cqn := s.regF (rQ q 2) 17 0 }, last := q + 1 } ∧
      (t.queueSt q).buf = es ∧ t.qHead q = (s.qHead q + 1) % s.qSize q ∧
      t.regF (rQ q 4) 63 32 = (s.regF (rQ q 4) 63 32 + 1) % 2 ^ 32 ∧ (∀ x, x ≠ k.val → t.tgt x = s.tgt x) ∧
      onlyQueue { s with targets := t.targets } t q [rQ q 3, rQ q 4]) ∧
  -- COMPLETION_POST
  (∀ (s : State) (k : Fin 15) (j : Job), (s.tgt k.val).job = some j → j.stage = 4 → j.sqn < 262144 → j.cqn < 262144 →
    (s.qIs j.cqn 2 = true → hostRing s j.cqn →
      ∃ t, exec (.completionPost k) s = .next t ∧ (t.tgt k.val).job = none ∧ posted s t j.cqn (cqEntry s j) ∧
        (∀ x, x ≠ k.val → t.tgt x = s.tgt x) ∧ (∀ a, a ≠ rQ j.cqn 3 → a ≠ rQ j.cqn 4 → t.reg a = s.reg a) ∧
        t = { s with regs := t.regs, queues := t.queues, hostMem := t.hostMem, targets := t.targets }) ∧
    (s.qIs j.cqn 2 = true → s.qRoom j.cqn 1 = false → exec (.completionPost k) s = .next s) ∧
    (s.qIs j.cqn 2 = false → s.qErr j.cqn ≠ 0 → exec (.completionPost k) s = .next s)) ∧
  -- MSIX_SEND
  (∀ (s : State) (q : QIx) (late : Bool), msgDue s q.val late →
    (s.msixEn = true → s.msixMask = false → s.bit (0x30008 + 16 * s.regF (rQ q.val 2) 10 0) 32 = false →
      ∃ t, exec (.msixSend ⟨q, late⟩) s = .next t ∧ t.out = .msix (s.regF (rQ q.val 2) 10 0) :: s.out ∧
        t.bit (rQ q.val 3) 33 = false ∧ (t.queueSt q.val).fresh = 0 ∧
        onlyQueue { s with out := t.out } t q.val [rQ q.val 3]) ∧
    (s.msixEn = true → (s.msixMask = true ∨ s.bit (0x30008 + 16 * s.regF (rQ q.val 2) 10 0) 32 = true) →
      ∃ t, exec (.msixSend ⟨q, late⟩) s = .next t ∧
        t.bit (0x38000 + 8 * (s.regF (rQ q.val 2) 10 0 / 64)) (s.regF (rQ q.val 2) 10 0 % 64) = true ∧
        t.bit (rQ q.val 3) 33 = false ∧ (t.queueSt q.val).fresh = 0 ∧
        onlyQueue s t q.val [rQ q.val 3, 0x38000 + 8 * (s.regF (rQ q.val 2) 10 0 / 64)])) ∧
  -- EVENT_DELIVERY
  (∀ (s : State) (e : Evt) (es : List Evt), s.evtFlight = e :: es →
    (¬ evtRouted s e → ∃ t, exec .eventDelivery s = .next t ∧ t = numbered s es) ∧
    (evtRouted s e → noEvents s (evtQueue s e) → hostRing s (evtQueue s e) →
      ∃ t, exec .eventDelivery s = .next t ∧
        posted s t (evtQueue s e)
          (setFld (wordAt (State.evtWords (stamped s e)) 0) 63 63 (s.regF (rQ (evtQueue s e) 3) 32 32) ::
            (State.evtWords (stamped s e)).drop 1) ∧
        t = { numbered s es with regs := t.regs, queues := t.queues, hostMem := t.hostMem }) ∧
    (evtRouted s e → s.qRoom (evtQueue s e) 1 = false → s.evtBuf.length < 256 →
      ∃ t, exec .eventDelivery s = .next t ∧ t.evtBuf = s.evtBuf ++ [(evtQueue s e, stamped s e)] ∧
        t.regF 0x20010 8 0 = s.evtBuf.length + 1 ∧
        onlyRegs { numbered s es with evtBuf := t.evtBuf } t [0x20010]) ∧
    (evtRouted s e → s.qRoom (evtQueue s e) 1 = false → 256 ≤ s.evtBuf.length →
      ∃ t, exec .eventDelivery s = .next t ∧
        smGet 0 t.evtLost (evtQueue s e) = smGet 0 s.evtLost (evtQueue s e) + 1 ∧
        t.regF 0x20010 63 48 = (s.regF 0x20010 63 48 + 1) % 2 ^ 16 ∧
        onlyRegs { numbered s es with evtLost := t.evtLost } t [0x20010])) ∧
  -- HOST_INTERFACE_RESET
  ∀ (s : State), (∀ pu g t st, s.stream pu g t = some st → st.prg = false) →
    ∃ t, exec .hostInterfaceReset s = .next t ∧ (∀ a, hifReg a → t.reg a = regReset a) ∧
      t.regF 0x20000 47 28 = 0 ∧ t.regF 0x20010 8 0 = 0 ∧ t.regF 0x98 63 60 = 0 ∧
      (∀ a, ¬ hifReg a → a ∉ [0x20000, 0x20010, 0x98] → t.reg a = s.reg a) ∧
      (∀ x ∈ t.targets, ∀ j, x.2.job = some j → j.cqn = 262144) ∧
      t = { s with
        regs := t.regs, queues := [], evtBuf := [], evtLost := [], atc := [], targets := t.targets
        txnHost := t.txnHost, hostQ := t.hostQ } ∧
      t.hostQ = s.hostQ.filter fun r => match r with | .write .. => true | _ => false

namespace Sys2Proof.Claims

/-- The transfer engine of hub `h` has this job. -/
abbrev transfer (s : State) (h : HubIx) (j : Job) : Prop := (s.tgt (9 + h.val)).job = some j

/-- The job has been taken and nothing of it has been sent. -/
abbrev copyWaits (s : State) (h : HubIx) (j : Job) : Prop :=
  transfer s h j ∧ j.stage ≤ 1 ∧ j.out = [] ∧ ¬ (h.val = 1 ∧ s.harvestCopies = true)

/-- The job's token wait, if it has one, is satisfied in state `s1`. -/
abbrev copyLeaves (s : State) (j : Job) (s1 : State) : Prop :=
  dfld j.words 4 63 63 = 0 ∧ dfld j.words 4 47 40 < 192 ∧ s1 = s ∨
  dfld j.words 4 63 63 = 1 ∧ dfld j.words 4 47 40 < 192 ∧
    s.takeToken (dfld j.words 4 47 40) (dfld j.words 4 55 48) (dfld j.words 4 39 24) = some s1

/-- The PUTs of a transfer. -/
abbrev putsOf (j : Job) : Nat := (cBytes j.words + 2047) / 2048

/-- Packet `i` of a transfer, with a poison mask and a payload. -/
abbrev copyPut (j : Job) (i mask : Nat) (pay : List Byte) : Packet :=
  mkPacket (cEid j.words) 1 8 noQueue (dfld j.words 3 1 0) false (cDst j.words + 2048 * i) i mask pay

/-- Only the job of one target differs, and what `u` lists. -/
abbrev jobOnly (s t : State) (k : Nat) : Prop :=
  (∀ x, x ≠ k → t.tgt x = s.tgt x) ∧ (t.tgt k).last = (s.tgt k).last

/-- A job as it ends. -/
abbrev endedWith (j : Job) (status : Nat) (res : List W64) : Job :=
  { j with stage := 4, status := status, res := res, out := [] }

/-- The oldest PUT_ACK names PUT `i` of the running transfer. -/
abbrev ackFor (s : State) (h : HubIx) (j : Job) (x : Packet × Nat) (i : Nat) : Prop :=
  firstOf s (fun q => pOp q == 2) x ∧ transfer s h j ∧ j.stage = 2 ∧ cEid j.words = pSrc x.1 ∧ i ∈ j.out ∧
  pArg1 x.1 % 2 ^ 32 = i ∧ (h.val = 1 → s.copyAwaits 0 x.1 = false)

/-- The bytes that PUT `i` carried. -/
abbrev putBytes (j : Job) (i : Nat) : Nat := min 2048 (cBytes j.words - 2048 * i)

end Sys2Proof.Claims

open Sys2Proof.Claims in
/-- R391, R392. -/
def Obligations.TransfersCopyOutInOrder : Prop :=
  -- COPY_OUT begins
  (∀ (s s1 : State) (h : HubIx) (j : Job), copyWaits s h j → copyLeaves (fresh s) j s1 → copyOk j.words = true →
    goesOn (·.fxCopyOut h.val) s →
    ∃ t, exec (.copyOut h) s = .next t ∧
      (t.tgt (9 + h.val)).job = some { j with
        stage := 2, out := List.range (min 64 (putsOf j)), counts := [min 64 (putsOf j), 0] } ∧
      jobOnly s t (9 + h.val) ∧
      t.fab.inject.length = s.fab.inject.length + min 64 (putsOf j) ∧
      t.fab.inject.take s.fab.inject.length = s.fab.inject ∧
      (∀ i, i < min 64 (putsOf j) → ∃ mask pay, t.fab.inject[s.fab.inject.length + i]? = some (copyPut j i mask pay, h.val)) ∧
      (∃ mask, t.fab.inject[s.fab.inject.length]? =
        some (copyPut j 0 mask (s1.memRead (cSrc j.words) (putBytes j 0) 0).2.1, h.val)) ∧
      t = { s1 with
        regs := t.regs, slices := t.slices, chanBytes := t.chanBytes, chanPoison := t.chanPoison
        chans := t.chans, ctr := t.ctr, targets := t.targets, fab := { s1.fab with inject := t.fab.inject }
        waited := s.waited }) ∧
  -- COPY_OUT fails its checks
  (∀ (s s1 : State) (h : HubIx) (j : Job), copyWaits s h j → copyLeaves s j s1 → copyOk j.words = false →
    ∃ t, exec (.copyOut h) s = .next t ∧ (t.tgt (9 + h.val)).job = some (endedWith j 2 [0#64]) ∧
      jobOnly s t (9 + h.val) ∧ t = { s1 with targets := t.targets }) ∧
  -- COPY_OUT waits for its token
  (∀ (s : State) (h : HubIx) (j : Job), copyWaits s h j → dfld j.words 4 63 63 = 1 → dfld j.words 4 47 40 < 192 →
    s.takeToken (dfld j.words 4 47 40) (dfld j.words 4 55 48) (dfld j.words 4 39 24) = none →
    ∃ t, exec (.copyOut h) s = .next t ∧ (t.tgt (9 + h.val)).job = some { j with stage := 1 } ∧
      jobOnly s t (9 + h.val) ∧ t = { s with targets := t.targets }) ∧
  -- TRANSFER_TOKEN_TIMEOUT
  (∀ (s : State) (h : HubIx) (j : Job), transfer s h j → j.stage = 1 → dfld j.words 4 15 0 ≠ 0 →
    ∃ t, exec (.transferTokenTimeout h) s = .next t ∧ (t.tgt (9 + h.val)).job = some (endedWith j 0x0C [0#64]) ∧
      jobOnly s t (9 + h.val) ∧ t = { s with targets := t.targets }) ∧
  -- TRANSFER_TIMEOUT
  (∀ (s : State) (h : HubIx) (j : Job), transfer s h j → j.stage = 2 → dfld j.words 7 15 0 ≠ 0 → s.hjob = none →
    ∃ t, exec (.transferTimeout h) s = .next t ∧
      (t.tgt (9 + h.val)).job = some (endedWith j 0x0D [BitVec.ofNat 64 (j.counts.getD 1 0 * 2 ^ 32)]) ∧
      jobOnly s t (9 + h.val) ∧ t = { s with targets := t.targets }) ∧
  -- PUT_ACK that refuses
  (∀ (s : State) (h : HubIx) (j : Job) (x : Packet × Nat) (i : Nat), ackFor s h j x i → bitAt (pArg1 x.1) 32 = true →
    ∃ t, exec .putAck s = .next t ∧
      (t.tgt (9 + h.val)).job = some (endedWith j 2 [BitVec.ofNat 64 (j.counts.getD 1 0 * 2 ^ 32)]) ∧
      jobOnly s t (9 + h.val) ∧ t = { taken s x with targets := t.targets }) ∧
  -- PUT_ACK of one PUT among others, none left to send
  (∀ (s : State) (h : HubIx) (j : Job) (x : Packet × Nat) (i : Nat), ackFor s h j x i → bitAt (pArg1 x.1) 32 = false →
    cBytes j.words ≤ 2048 * j.counts.getD 0 0 → j.out.erase i ≠ [] →
    ∃ t, exec .putAck s = .next t ∧
      (t.tgt (9 + h.val)).job = some { j with
        out := j.out.erase i, counts := [j.counts.getD 0 0, j.counts.getD 1 0 + putBytes j i] } ∧
      jobOnly s t (9 + h.val) ∧ t = { taken s x with targets := t.targets }) ∧
  -- PUT_ACK that makes room for the next PUT
  (∀ (s : State) (h : HubIx) (j : Job) (x : Packet × Nat) (i : Nat), ackFor s h j x i → bitAt (pArg1 x.1) 32 = false →
    2048 * j.counts.getD 0 0 < cBytes j.words → j.out.length = 64 → goesOn (·.fxPutAck) s →
    ∃ t, exec .putAck s = .next t ∧
      (t.tgt (9 + h.val)).job = some { j with
        out := j.out.erase i ++ [j.counts.getD 0 0]
        counts := [j.counts.getD 0 0 + 1, j.counts.getD 1 0 + putBytes j i] } ∧
      jobOnly s t (9 + h.val) ∧
      ∃ mask pay, t.fab.inject = s.fab.inject ++ [(copyPut j (j.counts.getD 0 0) mask pay, h.val)]) ∧
  -- PUT_ACK of the last PUT
  ∀ (s : State) (h : HubIx) (j : Job) (x : Packet × Nat) (i : Nat), ackFor s h j x i → bitAt (pArg1 x.1) 32 = false →
    cBytes j.words ≤ 2048 * j.counts.getD 0 0 → j.out = [i] →
    ∃ t, exec .putAck s = .next t ∧
      (t.tgt (9 + h.val)).job = some { j with
        stage := 4, status := 0, out := [], counts := [j.counts.getD 0 0, j.counts.getD 1 0 + putBytes j i]
        res := [BitVec.ofNat 64 ((j.counts.getD 1 0 + putBytes j i) * 2 ^ 32)] } ∧
      jobOnly s t (9 + h.val) ∧
      t.fab.inject = s.fab.inject ++ (if dfld j.words 6 63 63 = 1 then
        [(State.tokenPacket (cEid j.words) (dfld j.words 6 23 16) (dfld j.words 6 15 8) (dfld j.words 6 7 0), h.val)] else []) ∧
      t.tokens = s.tokens ++ (if dfld j.words 5 63 63 = 1 then
        [{ src := none, dest := .clu (dfld j.words 5 47 40), ctr := dfld j.words 5 55 48, add := dfld j.words 5 39 32,
           seq := 0 }] else []) ∧
      t = { taken s x with
        targets := t.targets, tokens := t.tokens, fab := { (taken s x).fab with inject := t.fab.inject } }

namespace Sys2Proof.Claims

/-- Engine `e` has this job. -/
abbrev collJob (s : State) (e : CleIx) (j : Job) : Prop := (s.tgt (11 + e.val)).job = some j

/-- CLE_STAT of an engine, and its CLE_PROG. -/
abbrev cleStat (e : CleIx) : Nat := rCle e.val 0
abbrev cleProg (e : CleIx) : Nat := rCle e.val 8

/-- The state that has named the job and entered CHECK. -/
abbrev checkingColl (s : State) (e : CleIx) (w : List W64) : State :=
  (((s.setRegF (cleStat e) 31 0 (dfld w 0 31 0)).setRegF (cleStat e) 63 60 2).setCle e.val {})

/-- An entry of the rank table, as it is read. -/
abbrev rankAt (s : State) (w : List W64) (r : Nat) : State × Nat :=
  let m := s.memRead (kRanks w + 2 * r) 2 0
  (m.1, leVal m.2.1)

/-- The ranks before and after this one: round the ring for RING_PASS. -/
abbrev rankBefore (w : List W64) : Option Nat :=
  if kMe w = 0 then (if kOp w = 4 then some (kN w - 1) else none) else some (kMe w - 1)
abbrev rankAfter (w : List W64) : Option Nat :=
  if kMe w + 1 = kN w then (if kOp w = 4 then some 0 else none) else some (kMe w + 1)

abbrev readRank (s : State) (w : List W64) (r : Option Nat) : State × Nat :=
  match r with
  | some r => rankAt s w r
  | none => (s, 0)

/-- The checks of R393 read their ranks from `s0` and leave `s3`, with the EIDs of this rank, the one before
and the one after. -/
abbrev ranksRead (s0 s3 : State) (w : List W64) (me p x : Nat) : Prop :=
  me = (rankAt s0 w (kMe w)).2 ∧ p = (readRank (rankAt s0 w (kMe w)).1 w (rankBefore w)).2 ∧
  x = (readRank (readRank (rankAt s0 w (kMe w)).1 w (rankBefore w)).1 w (rankAfter w)).2 ∧
  s3 = (readRank (readRank (rankAt s0 w (kMe w)).1 w (rankBefore w)).1 w (rankAfter w)).1

/-- A neighbour is VALID in the active table. -/
abbrev neighbour (s : State) (r : Option Nat) (eid : Nat) : Prop := r = none ∨ fld (s.rtActive eid) 63 63 = 1

/-- The job has been taken, asks for no token, and passes every check; `s3` is the state then. -/
abbrev collStarts (s : State) (e : CleIx) (j : Job) (s3 : State) (p x : Nat) : Prop :=
  collJob s e j ∧ j.stage ≤ 1 ∧ dfld j.words 7 63 63 = 0 ∧ collRange j.words = true ∧ collFormats j.words = true ∧
  ranksRead (checkingColl (fresh s) e j.words) s3 j.words s3.selfEid p x ∧ s3.waited = false ∧
  neighbour s3 (rankBefore j.words) p ∧ neighbour s3 (rankAfter j.words) x

/-- The command that takes a collective of each OP. -/
abbrev collCmd (op : Nat) (e : CleIx) : Instr :=
  if op = 2 then .allGather e else if op = 3 then .allReduce e else if op = 4 then .ringPass e else .reduceScatter e

/-- The collective runs, and `n` more segments have been queued and counted. -/
abbrev collRuns (s3 t : State) (e : CleIx) (j : Job) (n : Nat) : Prop :=
  (t.tgt (11 + e.val)).job = some { j with stage := 2 } ∧ jobOnly s3 t (11 + e.val) ∧
  t.regF (cleStat e) 63 60 = (if s3.vigilState = 0 then 3 else 4) ∧
  t.regF (cleStat e) 31 0 = dfld j.words 0 31 0 ∧
  t.regF (cleProg e) 63 32 = (s3.regF (cleProg e) 63 32 + n) % 2 ^ 32 ∧
  t.fab.inject.length = s3.fab.inject.length + n ∧
  (∀ k, k ≠ e.val → t.cle k = s3.cle k)

/-- What running may touch besides: memory through the slices, and the engine's own state. -/
abbrev collFrame (s3 t : State) : Prop :=
  t = { s3 with
    regs := t.regs, slices := t.slices, chanBytes := t.chanBytes, chanPoison := t.chanPoison, chans := t.chans
    ctr := t.ctr, targets := t.targets, cles := t.cles, errFlight := t.errFlight, fab := { s3.fab with inject := t.fab.inject } }

/-- The job ends in the engine with a status; the engine is IDLE. -/
abbrev collEnds (s0 t : State) (e : CleIx) (j : Job) (status : Nat) : Prop :=
  (t.tgt (11 + e.val)).job = some (endedWith j status
    [BitVec.ofNat 64 ((s0.cle e.val).nTx % 2 ^ 32 * 2 ^ 32 + (s0.cle e.val).nRx % 2 ^ 32)]) ∧
  jobOnly s0 t (11 + e.val) ∧ t.regF (cleStat e) 63 60 = 0 ∧
  (∀ a, a ≠ cleStat e → t.reg a = s0.reg a) ∧ t = { s0 with regs := t.regs, targets := t.targets, tokens := t.tokens }

/-- The oldest COLL packet: its engine runs `w`, it belongs to it, and it carries segment `g` of `kind`. -/
abbrev collArrives (s : State) (e : CleIx) (w : List W64) (x : Packet × Nat) (kind g : Nat) : Prop :=
  firstOf s (fun q => pOp q == 5) x ∧ intact x.1 ∧ State.collFields x.1 = (e.val, kind, g, kId w) ∧
  (taken s x).kJob e.val = some w ∧ (taken s x).collMatches e.val w x.1 = true ∧ (s.cle e.val).held = []

/-- The segment of a COLL packet. -/
abbrev segOf (x : Packet × Nat) (kind g : Nat) : Seg :=
  { kind := kind, seg := g, data := x.1.payload
    pois := (List.range (x.1.payload.length / 32)).map fun i => bitAt (pPoison x.1) i
    tc := pTc x.1 }

/-- The segment has been received and counted, and is held no longer. -/
abbrev segTaken (s : State) (e : CleIx) (x : Packet × Nat) (seg : Seg) : State :=
  ((taken s x).bump (cleProg e) 31 0 1).updCle e.val fun c =>
    { c with held := c.held ++ [(pSrc x.1, seg)], nRx := c.nRx + 1 }

/-- The held list empties; when that was the last thing to do, the engine drains. -/
abbrev segLeft (t0 : State) (e : CleIx) (w : List W64) : State :=
  let t1 := t0.updCle e.val fun c => { c with held := c.held.eraseIdx 0 }
  if t1.collDone e.val w = true then (t1.setRegF (cleStat e) 63 60 5).updJob (11 + e.val) fun j => { j with stage := 3 } else t1

/-- A cumulative count that is later than the one known. -/
abbrev laterOf (old n : Nat) : Nat := if (n + 2 ^ 32 - old) % 2 ^ 32 < 2 ^ 31 then n else old

end Sys2Proof.Claims

open Sys2Proof.Claims in
/-- R393 to R398. -/
def Obligations.CollectivesRunAlongTheRankLine : Prop :=
  -- REDUCE_SCATTER and ALL_REDUCE at a rank above 0: it waits for its first sum
  (∀ (s s3 : State) (e : CleIx) (j : Job) (p x : Nat), collStarts s e j s3 p x → 0 < kMe j.words → 0 < kChunk j.words →
    (kOp j.words = 1 → ∃ t, exec (.reduceScatter e) s = .next t ∧ collRuns s3 t e j 0 ∧
      t.cle e.val = { eids := [p, x], stepOk := true } ∧
      onlyRegs { s3 with targets := t.targets, cles := t.cles, waited := s.waited } t [cleStat e]) ∧
    (kOp j.words = 3 → ∃ t, exec (.allReduce e) s = .next t ∧ collRuns s3 t e j 0 ∧
      t.cle e.val = { eids := [p, x], stepOk := true } ∧
      onlyRegs { s3 with targets := t.targets, cles := t.cles, waited := s.waited } t [cleStat e])) ∧
  -- REDUCE_SCATTER and ALL_REDUCE at rank 0: it sends its first sums
  (∀ (s s3 : State) (e : CleIx) (j : Job) (p x : Nat), collStarts s e j s3 p x → kMe j.words = 0 → 2 ≤ kN j.words →
    0 < kChunk j.words →
    (kOp j.words = 1 → goesOn (·.fxReduceScatter e.val) s → ∃ t, exec (.reduceScatter e) s = .next t ∧
      collRuns s3 t e j (min 8 (State.vecSegs j.words)) ∧ (t.cle e.val).own = min 8 (State.vecSegs j.words) ∧
      (t.cle e.val).sentN = [min 8 (State.vecSegs j.words), 0, 0, 0] ∧ (t.cle e.val).wrote = 0 ∧ collFrame { s3 with waited := s.waited } t) ∧
    (kOp j.words = 3 → goesOn (·.fxAllReduce e.val) s → ∃ t, exec (.allReduce e) s = .next t ∧
      collRuns s3 t e j (min 8 (State.vecSegs j.words)) ∧ (t.cle e.val).own = min 8 (State.vecSegs j.words) ∧
      (t.cle e.val).sentN = [min 8 (State.vecSegs j.words), 0, 0, 0] ∧ (t.cle e.val).wrote = 0 ∧ collFrame { s3 with waited := s.waited } t)) ∧
  -- ALL_GATHER: the own chunk, of at most 8 segments
  (∀ (s s3 : State) (e : CleIx) (j : Job) (p x : Nat), collStarts s e j s3 p x → kOp j.words = 2 → 2 ≤ kN j.words →
    0 < chunkSegs j.words → chunkSegs j.words ≤ 8 → goesOn (·.fxAllGather e.val) s →
    ∃ t, exec (.allGather e) s = .next t ∧
      collRuns s3 t e j ((if kMe j.words + 1 = kN j.words then 0 else chunkSegs j.words) +
        (if kMe j.words = 0 then 0 else chunkSegs j.words)) ∧
      (t.cle e.val).sentN = [0, 0, if kMe j.words + 1 = kN j.words then 0 else chunkSegs j.words, 0] ∧
      (t.cle e.val).sentP = [0, 0, if kMe j.words = 0 then 0 else chunkSegs j.words, 0] ∧
      (t.cle e.val).wrote = chunkSegs j.words ∧ collFrame { s3 with waited := s.waited } t) ∧
  -- RING_PASS
  (∀ (s s3 : State) (e : CleIx) (j : Job) (p x : Nat), collStarts s e j s3 p x → kOp j.words = 4 →
    goesOn (·.fxRingPass e.val) s →
    (2 ≤ kN j.words → 0 < chunkSegs j.words →
      ∃ t, exec (.ringPass e) s = .next t ∧ collRuns s3 t e j (min 8 (chunkSegs j.words)) ∧
        (t.cle e.val).step = 1 ∧ (t.cle e.val).stepTx = min 8 (chunkSegs j.words) ∧
        (t.cle e.val).sentN = [0, 0, 0, min 8 (chunkSegs j.words)] ∧ collFrame { s3 with waited := s.waited } t) ∧
    (kN j.words = 1 →
      ∃ t, exec (.ringPass e) s = .next t ∧ (t.tgt (11 + e.val)).job = some { j with stage := 3 } ∧
        jobOnly s3 t (11 + e.val) ∧ t.regF (cleStat e) 63 60 = 5 ∧
        onlyRegs { s3 with targets := t.targets, cles := t.cles, waited := s.waited } t [cleStat e])) ∧
  -- each of the four: the first failing check
  (∀ (s s3 : State) (e : CleIx) (j : Job) (op me p x : Nat), collJob s e j → j.stage ≤ 1 → dfld j.words 7 63 63 = 0 →
    1 ≤ op → op ≤ 4 → kOp j.words = op → ranksRead (checkingColl (fresh s) e j.words) s3 j.words me p x →
    s3.waited = false →
    (collRange j.words = false →
      ∃ t, exec (collCmd op e) s = .next t ∧ collEnds (checkingColl s e j.words) t e j 2) ∧
    (collRange j.words = true → collFormats j.words = false →
      ∃ t, exec (collCmd op e) s = .next t ∧ collEnds (checkingColl s e j.words) t e j 3) ∧
    (collRange j.words = true → collFormats j.words = true → me ≠ s3.selfEid →
      ∃ t, exec (collCmd op e) s = .next t ∧ collEnds { s3 with waited := s.waited } t e j 3) ∧
    (collRange j.words = true → collFormats j.words = true → me = s3.selfEid →
      ¬ (neighbour s3 (rankBefore j.words) p ∧ neighbour s3 (rankAfter j.words) x) →
      ∃ t, exec (collCmd op e) s = .next t ∧ collEnds { s3 with waited := s.waited } t e j 2)) ∧
  -- each of the four: its token has not come
  (∀ (s : State) (e : CleIx) (j : Job) (op : Nat), collJob s e j → j.stage ≤ 1 → 1 ≤ op → op ≤ 4 → kOp j.words = op →
    dfld j.words 7 63 63 = 1 → dfld j.words 7 47 40 < 192 →
    (s.setRegF (cleStat e) 31 0 (dfld j.words 0 31 0)).takeToken (dfld j.words 7 47 40) (dfld j.words 7 55 48)
      (dfld j.words 7 39 24) = none →
    ∃ t, exec (collCmd op e) s = .next t ∧ (t.tgt (11 + e.val)).job = some { j with stage := 1 } ∧
      jobOnly s t (11 + e.val) ∧ t.regF (cleStat e) 63 60 = 1 ∧ t.regF (cleStat e) 31 0 = dfld j.words 0 31 0 ∧
      onlyRegs { s with targets := t.targets } t [cleStat e]) ∧
  -- COLL: a sum at a middle rank
  (∀ (s : State) (e : CleIx) (w : List W64) (x : Packet × Nat) (g : Nat), collArrives s e w x 0 g →
    (kOp w = 1 ∨ kOp w = 3) → 0 < kMe w → kMe w + 1 < kN w → State.roomN (s.cle e.val) 0 = true →
    g = State.nth (s.cle e.val).sentN 0 → goesOn (·.fxColl) s →
    ∃ t, exec .coll s = .next t ∧
      t = { segLeft ((((segTaken (fresh s) e x (segOf x 0 g)).readIn w g).1.segSend e.val w true
        (State.valsSeg 0 g (State.addRank w g (State.segVals (segOf x 0 g))
          ((segTaken (fresh s) e x (segOf x 0 g)).readIn w g).2))).segFree e.val w false 0 (pTc x.1)) e w with
        waited := s.waited }) ∧
  -- COLL: a sum ahead of its turn waits
  (∀ (s : State) (e : CleIx) (w : List W64) (x : Packet × Nat) (g : Nat), collArrives s e w x 0 g →
    (kOp w = 1 ∨ kOp w = 3) → 0 < kMe w → kMe w + 1 < kN w → g ≠ State.nth (s.cle e.val).sentN 0 →
    ∃ t, exec .coll s = .next t ∧ t = segTaken s e x (segOf x 0 g)) ∧
  -- COLL: a result that is written and passed back
  (∀ (s : State) (e : CleIx) (w : List W64) (x : Packet × Nat) (g : Nat), collArrives s e w x 1 g →
    kOp w = 3 → 0 < kMe w → State.roomP (s.cle e.val) 1 = true →
    goesOn (·.fxColl) s →
    ∃ t, exec .coll s = .next t ∧
      t = { segLeft ((((segTaken (fresh s) e x (segOf x 1 g)).writeOut e.val w g (State.segVals (segOf x 1 g))).segSend
        e.val w false (segOf x 1 g)).segFree e.val w true 1 (pTc x.1)) e w with waited := s.waited }) ∧
  -- COLL: a segment that belongs to nothing
  (∀ (s : State) (x : Packet × Nat) (e : CleIx), firstOf s (fun q => pOp q == 5) x → intact x.1 →
    (State.collFields x.1).1 = e.val →
    ((taken s x).kJob e.val = none ∨ ∃ w, (taken s x).kJob e.val = some w ∧ (taken s x).collMatches e.val w x.1 = false) →
    ∃ t, exec .coll s = .next t ∧ t.regF (cleStat e) 47 32 = (s.regF (cleStat e) 47 32 + 1) % 2 ^ 16 ∧
      onlyRegs (taken s x) t [cleStat e]) ∧
  -- COLL_CREDIT: a grant of a sum's buffers, with nothing that waits for it
  (∀ (s : State) (e : CleIx) (w : List W64) (x : Packet × Nat) (n : Nat), firstOf s (fun q => pOp q == 6) x →
    State.collFields x.1 = (e.val, 0, n, kId w) → (taken s x).kJob e.val = some w → (s.cle e.val).held = [] →
    (kOp w = 1 ∨ kOp w = 3) → 0 < kMe w → (taken s x).collDone e.val w = false →
    ∃ t, exec .collCredit s = .next t ∧
      t.cle e.val = { s.cle e.val with
        grantN := (s.cle e.val).grantN.set 0 (laterOf ((s.cle e.val).grantN.getD 0 0) n) } ∧
      (∀ k, k ≠ e.val → t.cle k = s.cle k) ∧ t = { taken s x with cles := t.cles }) ∧
  -- COLL_COMPLETE
  (∀ (s : State) (e : CleIx) (j : Job), collJob s e j → j.stage = 3 →
    ∃ t, exec (.collComplete e) s = .next t ∧ collEnds s t e j 0 ∧
      t.tokens = s.tokens ++ (if dfld j.words 7 62 62 = 1 then
        [{ src := none, dest := .clu (dfld j.words 7 15 8), ctr := dfld j.words 7 23 16, add := dfld j.words 7 7 0,
           seq := 0 }] else [])) ∧
  -- COLL_TIMEOUT
  ∀ (s : State) (e : CleIx) (j : Job), collJob s e j → j.stage = 2 → kTmo j.words ≠ 0 →
    ∃ t, exec (.collTimeout e) s = .next t ∧ collEnds s t e j 0x0D ∧ t.tokens = s.tokens

namespace Sys2Proof.Claims

/-- Firmware has taken a command with this OP and no reserved bit. -/
abbrev fwTook (s : State) (j : Job) (op : Nat) : Prop :=
  (s.tgt 0).job = some j ∧ j.stage = 0 ∧ dfld j.words 0 63 56 = op ∧ State.fwReserved op j.words = false

/-- Firmware's job has ended with a status. -/
abbrev fwEnded (s t : State) (j : Job) (status : Nat) (res : List W64) : Prop :=
  (t.tgt 0).job = some (endedWith j status res) ∧ jobOnly s t 0

/-- The command that serves each OP. -/
abbrev fwCmd (op : Nat) : Instr :=
  match op with
  | 1 => .load
  | 2 => .start
  | 3 => .grant
  | 4 => .revoke
  | 5 => .pageRefuse
  | 6 => .clusterReset
  | _ => .unload

/-- R173: the reason of the first check that fails, 0 when none does, and the state that the reads leave. -/
abbrev loadVerdict (s : State) (w : List W64) : Nat × State :=
  let a := dfld w 1 47 0
  let h := s.memRead a 128 0
  let len := imgNat h.2.1 16 4
  let r := h.1.memRead a len 0
  let sm := parseSlots ((r.2.1.drop (imgNat r.2.1 24 4)).take (imgNat r.2.1 28 4))
  if dfld w 1 49 48 = 3 ∨ a % 1024 ≠ 0 ∨ s.partnerBase < a + 128 then (2, s)
  else if h.2.2.any id = true then (0x0A, h.1)
  else if imgNat h.2.1 0 4 ≠ 0x4C57474E ∨ imgNat h.2.1 60 4 ≠ (crc32c (splice h.2.1 60 (leBytes 4 0))).toNat then (9, h.1)
  else if imgNat h.2.1 4 1 ≠ 1 ∨ imgNat h.2.1 5 1 ≠ 0 then (0x0F, h.1)
  else if len % 1024 ≠ 0 ∨ 2 ^ 31 < len ∨ len < 2048 ∨ h.1.partnerBase < a + len then (2, h.1)
  else if r.2.2.any id = true then (0x0A, r.1)
  else if (crc32c (r.2.1.drop 128)).toNat ≠ imgNat r.2.1 20 4 then (9, r.1)
  else (r.1.imageCheck r.2.1 (dfld w 1 49 48) sm, r.1)

/-- The image of a load. -/
abbrev loadImage (s : State) (w : List W64) : List Byte :=
  let h := s.memRead (dfld w 1 47 0) 128 0
  (h.1.memRead (dfld w 1 47 0) (imgNat h.2.1 16 4) 0).2.1

/-- Every present cluster's target bank holds its section and zeros behind it; the other bank is kept. -/
abbrev bankLoaded (s t : State) (b : List Byte) (bank : Nat) : Prop :=
  ∀ x ∈ s.present,
    (∀ i, i < 262144 → smGet 0#8 (t.clu x.2).store (s.loadBank bank x.2 * 262144 + i) =
      if i < secLen b x.1 then b.getD (secOff b x.1 + i) 0#8 else 0#8) ∧
    (∀ i, i / 262144 ≠ s.loadBank bank x.2 →
      smGet 0#8 (t.clu x.2).store i = smGet 0#8 (s.clu x.2).store i)

/-- No two logical clusters stand on one physical cluster. -/
abbrev onePlace (s : State) : Prop := (s.present.map (·.2)).Nodup

/-- The load's program as it is staged. -/
abbrev stagedOf (b : List Byte) (bank : Nat) (m : SlotMap) : Option (SlotMap × Program) :=
  some (m, { bank := bank, order := (List.range (orderLen b)).map (orderAt b) })

/-- The pages of a GRANT or REVOKE: first page and number. -/
abbrev firstPage (j : Job) : Nat := dfld j.words 1 47 0 / 2 ^ 21
abbrev pageCount (j : Job) : Nat := dfld j.words 2 31 0

/-- The pages of the range hold `v`; every other page is as before. -/
abbrev pagesAre (s t : State) (j : Job) (v : Nat) : Prop :=
  ∀ p, smGet 0 t.pages p = if firstPage j ≤ p ∧ p < firstPage j + pageCount j then v else smGet 0 s.pages p

/-- A stream is blocked on a fault of a device page. -/
abbrev blockedOn (s : State) (pu g k : Nat) (st : StreamSt) (id : Nat) : Prop :=
  g < 4 ∧ k < 8 ∧ s.stream pu g k = some st ∧ st.blocked = true ∧ st.faultId = some id

/-- Registers of one physical cluster's window. -/
abbrev inCluster (pc a : Nat) : Prop := regClu0 pc ≤ a ∧ a < regClu0 pc + 0x80000

/-- A unit with nothing queued, running or in its scoreboard; of its streams only halted ones stay, for the requests that are still out (R257). -/
abbrev emptyUnit (u : UnitSt) : Prop :=
  u.queues = [] ∧ u.squeue = [] ∧ u.runs = [] ∧ u.sb = [] ∧ u.stale = 0 ∧
  ∀ x ∈ u.streams, x.2.any (fun st => st.halted && st.reqs.any fun q => !q.done) = true

end Sys2Proof.Claims

open Sys2Proof.Claims in
/-- R173 to R175, R203, R216, R268, R272, R273, R430, R431, R433. -/
def Obligations.FirmwareServesItsCommands : Prop :=
  -- a reserved OP, and a reserved bit
  (∀ (s : State) (j : Job) (op : Nat), (s.tgt 0).job = some j → j.stage = 0 → 1 ≤ op → op ≤ 7 →
    (dfld j.words 0 63 56 = 0 ∨ 7 < dfld j.words 0 63 56 →
      ∃ t, exec (fwCmd op) s = .next t ∧ fwEnded s t j 1 [] ∧ t = { s with targets := t.targets }) ∧
    (dfld j.words 0 63 56 = op → State.fwReserved op j.words = true →
      ∃ t, exec (fwCmd op) s = .next t ∧ fwEnded s t j 2 [] ∧ t = { s with targets := t.targets })) ∧
  -- LOAD
  (∀ (s : State) (j : Job) (r : Nat × State) (b : List Byte), fwTook s j 1 → s.pwrState = 0 → s.jubilee = false →
    s.colBusy = false → onePlace s → r = loadVerdict (fresh s) j.words → b = loadImage (fresh s) j.words →
    r.2.waited = false →
    ∃ t, exec .load s = .next t ∧ jobOnly s t 0 ∧
      (r.1 ≠ 0 → (t.tgt 0).job = some (endedWith j r.1 []) ∧
        t = { r.2 with targets := t.targets, waited := s.waited }) ∧
      (r.1 = 0 → ∃ m, parseSlots ((b.drop (imgNat b 24 4)).take (imgNat b 28 4)) = some m ∧
        t.staged = stagedOf b (dfld j.words 1 49 48) m ∧ bankLoaded s t b (dfld j.words 1 49 48) ∧
        ((t.tgt 0).job = some { j with stage := 3, res := [BitVec.ofNat 64 (imgNat b 8 8)] } ∨
          (t.tgt 0).job = some (endedWith j 0 [BitVec.ofNat 64 (imgNat b 8 8)])) ∧
        t = { r.2 with clus := t.clus, staged := t.staged, targets := t.targets, waited := s.waited })) ∧
  -- LOAD while a channel that holds its image is held, a Jubilee runs or a column test runs
  (∀ (s : State) (j : Job), fwTook s j 1 → s.pwrState = 0 →
    s.jubilee = true ∨ s.colBusy = true ∨ (loadVerdict (fresh s) j.words).2.waited = true →
    exec .load s = .next s) ∧
  -- SLOT_MAP_APPLY
  (∀ (s : State) (cyc : Nat) (m : SlotMap) (p : Program), s.staged = some (m, p) → s.canApply = true → onePlace s →
    ∃ t, exec (.slotMapApply cyc) s = .next t ∧ t.slotMap = m ∧ t.program = some p ∧ t.staged = none ∧
      (∀ u pu i, u < 768 → s.physUnit u = some pu → i < 64 →
        t.reg (rUnit pu (0x400 + 8 * i)) = wordAt (smGet [] m.regions u) i) ∧
      (∀ x ∈ s.present, ∀ k, k < 256 → t.reg (rClu x.2 (0x1000 + 8 * k)) = 0#64) ∧
      (∀ d, d < 8 → smGet 0 t.frame0 d = cyc ∧ t.reg (rDie d 0) = BitVec.ofNat 64 (m.frameLen * 2 ^ 24)) ∧
      (∀ r, r < 32 → ∀ l ∈ (t.slice r).lines, l.pinned = false) ∧
      (∀ j, (s.tgt 0).job = some j → j.stage = 3 → (t.tgt 0).job = some (endedWith j 0 j.res)) ∧
      jobOnly s t 0 ∧
      t = { s with
        regs := t.regs, slotMap := m, program := some p, staged := none, relock := [], frame0 := t.frame0
        slices := t.slices, targets := t.targets }) ∧
  -- START
  (∀ (s : State) (j : Job), fwTook s j 2 → s.pwrState = 0 → s.fenced = true →
    ∃ t, exec .start s = .next t ∧ fwEnded s t j 0x0E [] ∧ t = { s with targets := t.targets }) ∧
  (∀ (s : State) (j : Job), fwTook s j 2 → s.pwrState = 0 → s.fenced = false →
    (s.anyFetching = true → ∃ t, exec .start s = .next t ∧ fwEnded s t j 8 [] ∧ t = { s with targets := t.targets }) ∧
    (s.anyFetching = false → s.program = none →
      ∃ t, exec .start s = .next t ∧ fwEnded s t j 2 [] ∧ t = { s with targets := t.targets }) ∧
    (s.anyFetching = false → s.program ≠ none → (∀ ch, ch < 512 → s.chState ch ≠ 1) →
      ∃ t, exec .start s = .next t ∧ (t.tgt 0).job = some { j with stage := 1 } ∧ jobOnly s t 0 ∧
        (∀ x ∈ s.present, t.clu x.2 = { s.clu x.2 with startReq := true }) ∧
        (∀ k, (∀ x ∈ s.present, x.2 ≠ k) → t.clu k = s.clu k) ∧ t = { s with clus := t.clus, targets := t.targets })) ∧
  -- PROGRAM_START
  (∀ (s : State) (j : Job), (s.tgt 0).job = some j → dfld j.words 0 63 56 = 2 → j.stage = 1 → s.staged = none →
    (∀ x ∈ s.present, s.bit (rClu x.2 0x10) 0 = false ∧ 0 < fld (s.ccWord x.2 0) 29 15) → onePlace s →
    ∃ t, exec .programStart s = .next t ∧ fwEnded s t j 0 [] ∧ t.running = some (s.present.map (·.2)) ∧
      (∀ x ∈ s.present, t.ccState x.2 = 1 ∧ t.regF (rClu x.2 0) 31 0 = 0 ∧
        (t.clu x.2).frames = [{ list := fld (s.ccWord x.2 0) 14 0, len := fld (s.ccWord x.2 0) 29 15 }] ∧
        (t.clu x.2).order = s.pipeline x.2 ∧ (t.clu x.2).ended = none ∧ (t.clu x.2).store = (s.clu x.2).store ∧
        ∀ k, k < 256 → t.reg (rClu x.2 (0x1000 + 8 * k)) = 0#64) ∧
      (∀ k, (∀ x ∈ s.present, x.2 ≠ k) → t.clu k = s.clu k) ∧
      (∀ x ∈ s.present, ∀ u, u < 4 → t.unit (x.2 * 4 + u) = { s.unit (x.2 * 4 + u) with cfgBad := [] }) ∧
      (∀ k, (∀ x ∈ s.present, k / 4 ≠ x.2) → t.unit k = s.unit k) ∧
      t = { s with regs := t.regs, units := t.units, clus := t.clus, running := t.running, targets := t.targets }) ∧
  -- GRANT
  (∀ (s : State) (j : Job), fwTook s j 3 →
    (s.grantBad j.words = true → ∃ t, exec .grant s = .next t ∧ fwEnded s t j 2 [] ∧ t = { s with targets := t.targets }) ∧
    (s.grantBad j.words = false →
      ∃ t, exec .grant s = .next t ∧ fwEnded s t j 0 [] ∧ pagesAre s t j (if dfld j.words 2 32 32 = 1 then 3 else 1) ∧
        (∀ pu g k st id q, blockedOn s pu g k st id → smGet none s.faults id = some q →
          firstPage j ≤ q → q < firstPage j + pageCount j →
          t.stream pu g k = some { st with blocked := false, faultId := none }) ∧
        (∀ x ∈ t.faults, x ∈ s.faults) ∧
        t = { s with regs := t.regs, units := t.units, pages := t.pages, faults := t.faults, targets := t.targets })) ∧
  -- REVOKE
  (∀ (s : State) (j : Job), fwTook s j 4 →
    (s.grantBad j.words = true → ∃ t, exec .revoke s = .next t ∧ fwEnded s t j 2 [] ∧ t = { s with targets := t.targets }) ∧
    (s.grantBad j.words = false → s.pageBusy (firstPage j) (pageCount j) = true → exec .revoke s = .next s) ∧
    (s.grantBad j.words = false → s.pageBusy (firstPage j) (pageCount j) = false →
      ∃ t, exec .revoke s = .next t ∧ fwEnded s t j 0 [] ∧ pagesAre s t j 0 ∧
        t = { s with pages := t.pages, targets := t.targets })) ∧
  -- PAGE_REFUSE
  (∀ (s : State) (j : Job), fwTook s j 5 →
    (smGet none s.faults (dfld j.words 1 15 0) = none →
      ∃ t, exec .pageRefuse s = .next t ∧ fwEnded s t j 2 [] ∧ t = { s with targets := t.targets }) ∧
    (smGet none s.faults (dfld j.words 1 15 0) ≠ none → allFit s →
      ∃ t, exec .pageRefuse s = .next t ∧ fwEnded s t j 0 [] ∧ smGet none t.faults (dfld j.words 1 15 0) = none ∧
        (∀ pu g k st, blockedOn s pu g k st (dfld j.words 1 15 0) → s.unitHalted pu = false →
          t.regF (rUnit pu 0x100) 63 56 = 0x0B ∧ t.regF (rUnit pu 0x140) 63 56 = 4) ∧
        t = { s with
          regs := t.regs, units := t.units, errFlight := t.errFlight, faults := t.faults, targets := t.targets })) ∧
  -- CLUSTER_RESET of one cluster
  (∀ (s : State) (j : Job) (pc : Nat), fwTook s j 6 → dfld j.words 1 8 8 = 0 → s.physClu (dfld j.words 1 7 0) = some pc →
    dfld j.words 1 7 0 < 192 → (∀ u, u < 4 → s.runsChain (pc * 4 + u) = false) →
    ∃ t, exec .clusterReset s = .next t ∧ fwEnded s t j 0 [] ∧ t.reg (rClu pc 0) = 0#64 ∧
      (∀ k, k < 256 → t.reg (rClu pc (0x1000 + 8 * k)) = 0#64) ∧
      (∀ u, u < 4 → emptyUnit (t.unit (pc * 4 + u)) ∧ (t.unit (pc * 4 + u)).tile = (s.unit (pc * 4 + u)).tile ∧
        ∀ o ∈ [0x100, 0x108, 0x110, 0x118], t.reg (rUnit (pc * 4 + u) o) = 0#64) ∧
      (t.clu pc).store = (s.clu pc).store ∧ (t.clu pc).frames = [] ∧ (t.clu pc).wait = .none ∧
      (∀ k, k / 4 ≠ pc → t.unit k = s.unit k) ∧ (∀ k, k ≠ pc → t.clu k = s.clu k) ∧
      (∀ a, ¬ inCluster pc a → t.reg a = s.reg a) ∧
      t = { s with
        regs := t.regs, units := t.units, clus := t.clus, running := t.running, evtFlight := t.evtFlight
        faults := t.faults, targets := t.targets, chanUnseen := t.chanUnseen }) ∧
  (∀ (s : State) (j : Job), fwTook s j 6 → dfld j.words 1 8 8 = 0 → 192 ≤ dfld j.words 1 7 0 →
    ∃ t, exec .clusterReset s = .next t ∧ fwEnded s t j 2 [] ∧ t = { s with targets := t.targets }) ∧
  -- UNLOAD
  ∀ (s : State) (j : Job), fwTook s j 7 →
    (s.anyFetching = true → ∃ t, exec .unload s = .next t ∧ fwEnded s t j 8 [] ∧ t = { s with targets := t.targets }) ∧
    (s.anyFetching = false →
      ∃ t, exec .unload s = .next t ∧ fwEnded s t j 0 [] ∧ t.program = none ∧ t.running = none ∧ t.staged = none ∧
        t.slotMap = {} ∧ (∀ pc, pc < 224 → (t.clu pc).store = []) ∧ (∀ d, d < 8 → t.reg (rDie d 0) = 0#64) ∧
        (∀ pu i, pu < 896 → i < 64 → t.reg (rUnit pu (0x400 + 8 * i)) = 0#64) ∧
        (∀ x ∈ s.present, t.reg (rClu x.2 0) = 0#64) ∧
        (∀ r, r < 32 → ∀ l ∈ (t.slice r).lines, l.pinned = false) ∧ t.pages = s.pages ∧
        t.chanBytes = s.chanBytes ∧ t.hostMem = s.hostMem ∧ t.reg 8 = s.reg 8)

namespace Sys2Proof.Claims

/-- The engine has a job of an OP that is to be run. -/
abbrev hvReady (s : State) (h : HJob) (op : Nat) : Prop := s.hjob = some h ∧ hvOp h.words = op ∧ h.stage = 2

/-- The job `h` has ended with a status in state `s1`, in a command begun in `s`. -/
abbrev hvClosed (s s1 t : State) (h : HJob) (status : Nat) : Prop :=
  s1.hjob = some h ∧ t = { s1.hvEnd status with waited := s.waited } ∧ t.hjob = none ∧ t.regF State.rHv 63 60 = 0 ∧
  t.regF State.rHv 55 48 = status ∧
  t.regF State.rHv 47 32 = (s1.regF State.rHv 47 32 + 1) % 2 ^ s1.regF (rSnap 0x40) 57 53 % 2 ^ 16 ∧
  (hvOp h.words ≠ 1 ∨ h.stage = 0 → t.tokens = s1.tokens ++ (if status = 0 ∧ dfld h.words 2 63 63 = 1 then
    [{ src := none, dest := .clu (dfld h.words 2 47 40), ctr := dfld h.words 2 55 48, add := dfld h.words 2 39 32,
       seq := 0 }] else []))

/-- The words of the ring entry at HEAD, as stored. -/
abbrev ringWords (s : State) : List W64 := State.words 8 ((List.range 64).map fun i => (s.peekByte (s.hvEntry + i)).1)

/-- SNAP_HV.STATE of a job that runs. -/
abbrev hvRunning (op : Nat) : Nat := if op = 1 then 2 else if op = 4 then 4 else 5

/-- The engine may take an entry; `m` is what its read gives. -/
abbrev hvPolls (s : State) (m : State × List Byte × List Bool) : Prop :=
  s.bit (rSnap 0x40) 63 = true ∧ s.hjob = none ∧ s.fenced = false ∧ s.hub1Lost = false ∧ s.routerRuns = true ∧
    m = (fresh s).memRead s.hvEntry 64 0 ∧ goesOn (·.fxHarvestRingPoll) s

/-- The job of the entry at HEAD. -/
abbrev hvNew (s : State) (w : List W64) : HJob := { words := w, entry := s.hvEntry }

/-- The entry as it is judged: the state that has taken it. -/
abbrev hvTaken (m : State) (w : List W64) : State :=
  ({ m with hjob := some (hvNew m w) }).setRegF State.rHv 63 60
    (if dfld w 1 63 63 = 1 then 1 else hvRunning (hvOp w))

/-- The manifest as the engine holds it: a poisoned entry as zeros. -/
abbrev manifestOf (h : HJob) (m : State × List Byte × List Bool) : List Byte :=
  (List.range (manN h.words)).flatMap fun i =>
    if ((m.2.2.drop (16 * i)).take 16).any id then List.replicate 16 0#8 else (m.2.1.drop (16 * i)).take 16

/-- The job with its manifest, agreeing. -/
abbrev agreeing (h : HJob) (man : List Byte) : HJob := { h with stage := 3, man := man }

/-- The state in which the collective of an Equinox starts. -/
abbrev gathering (s m : State) (h : HJob) (man : List Byte) : State :=
  let s1 := m.memWrite (dfld h.words 5 47 0 + 2048 * dfld h.words 5 63 48) (m.proposal h.words man) 0
  let s2 := ({ s1 with hjob := some (agreeing h man) }).setRegF (State.rCleStat s.ceq) 31 0 (dfld h.words 0 31 0)
  s2.setTgt (11 + s.ceq) { s2.tgt (11 + s.ceq) with
    job := some { words := s1.gatherJob h.words, sqn := 262144, cqn := 262144 } }

/-- The flash generation that a RESTORE names. -/
abbrev restoreGen (s : State) (w : List W64) : Option FlashGen :=
  if dfld w 3 63 63 = 1 then s.flash.gens.find? fun g =>
    g.slot == dfld w 3 62 62 && g.committed && recE g.grec == dfld w 3 31 0 else none

/-- A RESTORE reads the slot it names; `m` is what its read of record and manifest copy gives. -/
abbrev restoreReads (s : State) (w : List W64) (m : State × List Byte × List Bool) : Prop :=
  dfld w 3 63 63 = 0 ∧ dfld w 3 62 62 < s.slotN ∧ s.slotSize ≠ 0 ∧
    m = s.memRead (s.slotBase (dfld w 3 62 62)) 20480 0

/-- The slot's record is COMPLETE and of the step asked for. -/
abbrev recordFits (w : List W64) (m : State × List Byte × List Bool) : Prop :=
  recComplete (m.2.1.take 4096) = true ∧ recE (m.2.1.take 4096) = dfld w 3 31 0

/-- Where a RESTORE takes its generation from: its record and manifest copy, and the state that reading them
leaves (R458). -/
abbrev restoreFrom (s : State) (w : List W64) (s1 : State) (r man : List Byte) : Prop :=
  (∃ g, restoreGen s w = some g ∧ s1 = s ∧ r = g.grec ∧ man = g.man) ∨
  ∃ m, restoreReads s w m ∧ m.2.2.any id = false ∧ recordFits w m ∧ s1 = m.1 ∧ r = m.2.1.take 4096 ∧
    man = m.2.1.drop 4096

/-- `n` PUTs of a phase have been queued. -/
abbrev phaseSent (s t : State) (h : HJob) (ph n : Nat) : Prop :=
  t.fab.inject.length = s.fab.inject.length + n ∧
  ∃ x, t.hjob = some x ∧ x.words = h.words ∧ x.stage = 4 ∧ x.phase = ph ∧ x.next = n ∧ x.out.length = n

/-- The CRC word of the ranges of a DIGEST. -/
abbrev crcBytes (bs : List Byte) : List Byte := leBytes 4 (crc32c bs).toNat

/-- The status of a CAPTURE. -/
abbrev captured (r : State × List (Byte × Bool) × Bool × Bool) : Nat :=
  if r.2.2.1 || r.2.1.any (·.2) then 0x0A else 0

/-- A step record that its magic and CRC admit (R461). -/
abbrev stepRecordOk (b : List Byte) : Prop :=
  imgNat b 0 4 = 0x50535453 ∧ imgNat b 252 4 = (crc32c (b.take 252)).toNat

/-- The bitmap of a VERIFY. -/
abbrev verified (s : State) (w : List W64) (b : List Byte) : List Bool :=
  (List.range 384).map fun j => decide (dfld w 4 63 48 ≤ j) && decide (j < dfld w 4 63 48 + dfld w 4 47 32) &&
    (!(s.packed (b.drop 4096) (2 ^ 30 * j) (segBytes (b.take 4096) j)).2 &&
      (crc32c (s.packed (b.drop 4096) (2 ^ 30 * j) (segBytes (b.take 4096) j)).1).toNat == recSegCrc (b.take 4096) j)

end Sys2Proof.Claims

open Sys2Proof.Claims in
/-- R444 to R449, R458, R460, R463, R464, R466. -/
def Obligations.HarvestTakesAndRunsItsJobs : Prop :=
  -- HARVEST_RING_POLL
  (∀ (s : State) (m : State × List Byte × List Bool), hvPolls s m →
    (dfld (State.words 8 m.2.1) 0 63 63 = 0 → m.2.2.any id = false → exec .harvestRingPoll s = .next { m.1 with waited := s.waited }) ∧
    (m.2.2.any id = true → ∃ t, exec .harvestRingPoll s = .next t ∧
      hvClosed s (hvTaken m.1 (ringWords m.1)) t (hvNew m.1 (ringWords m.1)) 0x0A) ∧
    (dfld (State.words 8 m.2.1) 0 63 63 = 1 → m.2.2.any id = false →
      (hvOp (ringWords m.1) = 0 ∨ 7 < hvOp (ringWords m.1) → ∃ t, exec .harvestRingPoll s = .next t ∧
        hvClosed s (hvTaken m.1 (ringWords m.1)) t (hvNew m.1 (ringWords m.1)) 1) ∧
      (1 ≤ hvOp (ringWords m.1) → hvOp (ringWords m.1) ≤ 7 → hvBad (ringWords m.1) = true →
        ∃ t, exec .harvestRingPoll s = .next t ∧
          hvClosed s (hvTaken m.1 (ringWords m.1)) t (hvNew m.1 (ringWords m.1)) 2) ∧
      (1 ≤ hvOp (ringWords m.1) → hvOp (ringWords m.1) ≤ 7 → hvBad (ringWords m.1) = false →
        ∃ t, exec .harvestRingPoll s = .next t ∧
          t.hjob = some { hvNew m.1 (ringWords m.1) with stage := if dfld (ringWords m.1) 1 63 63 = 1 then 1 else 2 } ∧
          t.regF State.rHv 63 60 = (if dfld (ringWords m.1) 1 63 63 = 1 then 1 else hvRunning (hvOp (ringWords m.1))) ∧
          onlyRegs { m.1 with hjob := t.hjob, waited := s.waited } t [State.rHv]))) ∧
  -- HARVEST_TOKEN_RELEASE and HARVEST_TOKEN_TIMEOUT
  (∀ (s : State) (h : HJob), s.hjob = some h → h.stage = 1 →
    (∀ s1, s.takeToken (dfld h.words 1 47 40) (dfld h.words 1 55 48) (dfld h.words 1 39 24) = some s1 →
      ∃ t, exec .harvestTokenRelease s = .next t ∧ t.hjob = some { h with stage := 2 } ∧
        t.regF State.rHv 63 60 = hvRunning (hvOp h.words) ∧ onlyRegs { s1 with hjob := t.hjob } t [State.rHv]) ∧
    (s.takeToken (dfld h.words 1 47 40) (dfld h.words 1 55 48) (dfld h.words 1 39 24) = none →
      exec .harvestTokenRelease s = .next s) ∧
    (dfld h.words 1 15 0 ≠ 0 → goesOn (·.fxHarvestTokenTimeout) s →
      ∃ t, exec .harvestTokenTimeout s = .next t ∧ hvClosed s (fresh s) t h 0x0C)) ∧
  -- EQUINOX
  (∀ (s : State) (h : HJob) (m : State × List Byte × List Bool), hvReady s h 1 → (s.tgt (11 + s.ceq)).job = none →
    m = (fresh s).memRead (dfld h.words 6 47 0) (16 * manN h.words) 0 → goesOn (·.fxEquinox) s →
    (m.2.2.any id = true → ∃ t, exec .equinox s = .next t ∧
      hvClosed s { m.1 with hjob := some { h with man := manifestOf h m } } t { h with man := manifestOf h m } 0x0A) ∧
    (m.2.2.any id = false → manOk (manifestOf h m) (manN h.words) = false → ∃ t, exec .equinox s = .next t ∧
      hvClosed s { m.1 with hjob := some { h with man := manifestOf h m } } t { h with man := manifestOf h m } 2) ∧
    (m.2.2.any id = false → manOk (manifestOf h m) (manN h.words) = true →
      ∃ t, exec .equinox s = .next t ∧ t.hjob = some (agreeing h (manifestOf h m)) ∧
        (t.tgt (11 + s.ceq)).job.map (·.sqn) = some 262144 ∧ (∀ k, k ≠ 11 + s.ceq → t.tgt k = s.tgt k) ∧
        t = { (gathering s m.1 h (manifestOf h m)).collStart s.ceq (m.1.gatherJob h.words) with waited := s.waited })) ∧
  -- EQUINOX_AGREED
  (∀ (s : State) (h : HJob) (j : Job), s.hjob = some h → h.stage = 3 → hvOp h.words = 1 →
    (s.tgt (11 + s.ceq)).job = some j → j.stage = 4 → j.sqn = 262144 → s.hubFree = true →
    goesOn (·.fxEquinoxAgreed) s →
    let s0 := (fresh s).setTgt (11 + s.ceq) { s.tgt (11 + s.ceq) with job := none }
    (j.status ≠ 0 → ∃ t, exec .equinoxAgreed s = .next t ∧
      t = { s0.hvEnd j.status with waited := s.waited } ∧ t.hjob = none) ∧
    (j.status = 0 → ∃ t, exec .equinoxAgreed s = .next t ∧ (t.tgt (11 + s.ceq)).job = none ∧
      ((s0.agreed h.words).2 = false → t = { (s0.agreed h.words).1.hvEnd 3 with waited := s.waited } ∧ t.hjob = none) ∧
      ((s0.agreed h.words).2 = true → dfld h.words 6 48 48 = 0 → t.hjob = none ∧
        t.regF State.rHv 31 0 = dfld h.words 3 63 32 ∧
        t = { ((s0.agreed h.words).1.setRegF State.rHv 31 0 (dfld h.words 3 63 32)).hvEnd 0 with waited := s.waited }) ∧
      ((s0.agreed h.words).2 = true → dfld h.words 6 48 48 = 1 → t.regF State.rHv 31 0 = dfld h.words 3 63 32 ∧
        t.regF State.rHv 63 60 = 3 ∧ phaseSent s t h 0 2))) ∧
  -- HARVEST_COPY_COMMIT
  (∀ (s : State) (h : HJob), s.hjob = some h → hvOp h.words = 1 → h.stage = 4 → h.phase = 1 → h.out = [] →
    State.hvTotal h ≤ h.next → s.hubFree = true →
    ∃ t, exec .harvestCopyCommit s = .next t ∧ phaseSent s t h 2 2 ∧
      (h.holder + 1 = s.holders → t.tokens = (s.sendReleases (State.ackedRanges h)).tokens ∧
        ∀ x, t.hjob = some x → ∀ i ∈ State.ackedRanges h, i ∈ x.freed) ∧
      (h.holder + 1 ≠ s.holders → t.tokens = s.tokens ∧ ∀ x, t.hjob = some x → x.freed = h.freed) ∧
      t = { s with hjob := t.hjob, tokens := t.tokens, fab := { s.fab with inject := t.fab.inject } }) ∧
  -- RECORD
  (∀ (s : State) (h : HJob) (m : State × List Byte × List Bool), hvReady s h 2 →
    m = (fresh s).memRead (dfld h.words 3 47 0) 256 0 → s.hubFree = true → h.out = [] → goesOn (·.fxRecord) s →
    ∃ t, exec .record s = .next t ∧
      (m.2.2.any id = true → hvClosed s m.1 t h 0x0A) ∧
      (m.2.2.any id = false → ¬ stepRecordOk m.2.1 → hvClosed s m.1 t h 9) ∧
      (m.2.2.any id = false → stepRecordOk m.2.1 → phaseSent s t h 3 1 ∧ t.hjob.map (·.grec) = some m.2.1 ∧
        t = { m.1 with hjob := t.hjob, fab := { m.1.fab with inject := t.fab.inject }, waited := s.waited })) ∧
  -- DIGEST
  (∀ (s : State) (h : HJob) (r : State × List (Byte × Bool) × Bool × Bool), hvReady s h 3 →
    r = (fresh s).readRanges h.words → goesOn (·.fxDigest) s →
    (r.2.2.2 = true → ∃ t, exec .digest s = .next t ∧ hvClosed s r.1 t h 2) ∧
    (r.2.2.2 = false → (r.2.2.1 = true ∨ ∃ x ∈ r.2.1, x.2 = true) →
      ∃ t, exec .digest s = .next t ∧ hvClosed s r.1 t h 0x0A) ∧
    (r.2.2.2 = false → r.2.2.1 = false → (∀ x ∈ r.2.1, x.2 = false) → ∃ t, exec .digest s = .next t ∧
      hvClosed s (r.1.memWrite (dfld h.words 4 47 0) (crcBytes (r.2.1.map (·.1))) 0) t h 0)) ∧
  -- CAPTURE to the host's memory and to device memory, poisoned sectors as stored
  (∀ (s : State) (h : HJob) (r : State × List (Byte × Bool) × Bool × Bool), hvReady s h 6 →
    r = (fresh s).readRanges h.words → r.2.2.2 = false → goesOn (·.fxCapture) s →
    (2 ^ 47 ≤ dfld h.words 4 47 0 → ∃ t, exec .capture s = .next t ∧
      hvClosed s (r.1.hostWrite none (dfld h.words 4 47 0 % 2 ^ 47) (r.2.1.map (·.1))) t h (captured r)) ∧
    (dfld h.words 4 47 0 < 2 ^ 47 → mapped (dfld h.words 4 47 0) r.2.1.length = true →
      ∃ t, exec .capture s = .next t ∧
        hvClosed s (r.1.memWriteP (dfld h.words 4 47 0) (r.2.1.map (·.1)) (r.2.1.map (·.2)) 0) t h (captured r))) ∧
  -- VERIFY
  (∀ (s : State) (h : HJob) (m : State × List Byte × List Bool), hvReady s h 5 →
    m = (fresh s).memRead (dfld h.words 3 47 0) 20480 0 → goesOn (·.fxVerify) s →
    ∃ t, exec .verify s = .next t ∧ (m.2.2.any id = true → hvClosed s m.1 t h 0x0A) ∧
      (m.2.2.any id = false →
        hvClosed s (m.1.memWrite (dfld h.words 5 47 0) (leBytes 48 (flagMask (verified m.1 h.words m.2.1))) 0) t h 0)) ∧
  -- LIST
  (∀ (s : State) (h : HJob), hvReady s h 7 → goesOn (·.fxList) s →
    ∃ t, exec .list s = .next t ∧
      hvClosed s (({ fresh s with ctr := s.ctr + 32768 }).memWrite (dfld h.words 3 47 0)
        ((List.range 32768).map fun i => Config.freeByte (s.ctr + i)) 0) t h 0) ∧
  -- RESTORE of a generation that is not there, or whose record or manifest copy is poisoned
  (∀ (s : State) (h : HJob), hvReady s h 4 → goesOn (·.fxRestore) s →
    (dfld h.words 3 63 63 = 1 → restoreGen s h.words = none → ∃ t, exec .restore s = .next t ∧ hvClosed s (fresh s) t h 2) ∧
    (dfld h.words 3 63 63 = 0 → s.slotN ≤ dfld h.words 3 62 62 → ∃ t, exec .restore s = .next t ∧ hvClosed s (fresh s) t h 2) ∧
    ∀ m, restoreReads (fresh s) h.words m →
      ((m.2.2.take 4096).any id = true → ∃ t, exec .restore s = .next t ∧ hvClosed s m.1 t h 0x0A) ∧
      ((m.2.2.take 4096).any id = false → ¬ recordFits h.words m → ∃ t, exec .restore s = .next t ∧ hvClosed s m.1 t h 2) ∧
      ((m.2.2.take 4096).any id = false → recordFits h.words m → m.2.2.any id = true →
        ∃ t, exec .restore s = .next t ∧ hvClosed s m.1 t h 0x0A)) ∧
  -- RESTORE to another module and to the slot itself
  ∀ (s s1 : State) (h : HJob) (r man : List Byte), hvReady s h 4 → h.out = [] → goesOn (·.fxRestore) s →
    restoreFrom (fresh s) h.words s1 r man →
      (recSegs r < dfld h.words 5 63 48 + dfld h.words 5 47 32 → ∃ t, exec .restore s = .next t ∧ hvClosed s s1 t h 2) ∧
      (dfld h.words 5 63 48 + dfld h.words 5 47 32 ≤ recSegs r → dfld h.words 3 61 61 = 0 → s1.hubFree = true →
        ∃ t, exec .restore s = .next t ∧ phaseSent s1 t h 4 10 ∧
          t.hjob.map (fun x => (x.grec, x.man)) = some (r, man) ∧
          (dfld h.words 3 63 63 = 0 → t.bit (State.rSlot (dfld h.words 3 62 62)) 57 = true) ∧
          (dfld h.words 3 63 63 = 1 → t.regs = s.regs) ∧
          t = { s1 with
            regs := t.regs, hjob := t.hjob, fab := { s1.fab with inject := t.fab.inject }, waited := s.waited }) ∧
      (dfld h.words 5 63 48 + dfld h.words 5 47 32 ≤ recSegs r → dfld h.words 3 61 61 = 1 →
        dfld h.words 3 62 62 < s1.slotN → 2 ^ 26 + recBytes r ≤ s1.slotSize →
        ∃ t, exec .restore s = .next t ∧ t.hjob = none ∧
          t = { s1.restoreHere h.words r man (restoreGen s h.words) with waited := s.waited })

namespace Sys2Proof.Claims

/-- The oldest Harvest PUT that has arrived. -/
abbrev hvPutFirst (s : State) (x : Packet × Nat) : Prop :=
  s.hub1Lost = false ∧ firstOf s (fun q => pOp q == 1 && pDie q == 9) x ∧ intact x.1

/-- R443: slot `k` takes the packet's bytes. -/
abbrev slotTakes (s : State) (q : Packet) (k : Nat) : Prop :=
  s.slotOf (pArg0 q) q.payload.length = some k ∧ s.regF (State.rSlot k) 31 16 = pSrc q ∧
  s.regF (State.rSlot k) 47 32 = pGen q ∧ s.bit (State.rSlot k) 57 = false

/-- Offset of a packet's bytes in its slot. -/
abbrev slotOff (s : State) (q : Packet) (k : Nat) : Nat := pArg0 q - s.slotBase k

/-- The only uncommitted generation of slot `n`, on a module with hub 1 (R30). -/
abbrev openGen (s : State) (n : Nat) (g : FlashGen) : Prop :=
  s.hub1Lost = false ∧ s.flashOpen n = some g ∧ ∀ x ∈ s.flash.gens, x.slot = n → x.committed = false → x = g

/-- SNAP_SLOT's flash state: 1 writing, 2 held for energy, 0 idle. -/
abbrev flashState (s : State) (n : Nat) : Nat := s.regF (State.rSlot n) 59 58

/-- R_MIN: the lowest rate of the last 16 segments; with none measured it is free (R453, log 7). -/
abbrev rateIs (s s1 : State) (r : Nat) : Prop :=
  s.flash.rates = [] ∧ (s1, r) = s.rMin ∨ ∃ x xs, s.flash.rates = x :: xs ∧ s1 = s ∧ r = xs.foldl min x

/-- The bank holds one and a half times E_SEG = P_HOLD × 1 GiB / R_MIN + 1.5 J, all in mJ times R_MIN (R453). -/
abbrev energyThere (cap p r : Nat) : Prop := 3 * (p * 2 ^ 30 + 1500 * r) ≤ 2 * (10 * cap * r)

/-- SNAP_HOLDUP shows E_CAP, and E_SEG in units of 10 mJ rounded up, at most its highest value (log 19). -/
abbrev holdupShows (t : State) (cap p r : Nat) : Prop :=
  t.regF State.rHold 31 16 = cap ∧
  t.regF State.rHold 15 0 = min 65535 ((p * 2 ^ 30 + 1500 * r + (10 * r - 1)) / (10 * r))

/-- The check of R453 has passed: the segment runs. -/
abbrev segStarted (s t : State) (n cap p r : Nat) (g : FlashGen) : Prop :=
  { g with run := true } ∈ t.flash.gens ∧ flashState t n = 1 ∧ holdupShows t cap p r ∧ t.bit State.rHold 63 = false ∧
  onlyRegs { s with flash := { s.flash with gens := t.flash.gens } } t [State.rHold, State.rSlot n]

/-- The check of R453 has failed: SHORT, counted, held. -/
abbrev segHeld (s t : State) (n cap p r : Nat) : Prop :=
  flashState t n = 2 ∧ holdupShows t cap p r ∧ t.bit State.rHold 63 = true ∧
  t.regF State.rHold 62 48 = (s.regF State.rHold 62 48 + 1) % 2 ^ 15 ∧ onlyRegs s t [State.rHold, State.rSlot n]

/-- A slot's record has become one that asks for flash, and flash has room for it. -/
abbrev flashAsked (s : State) (n : Nat) : Prop :=
  recComplete (s.slotRecord n).2.1 = true ∧ bitAt (imgNat (s.slotRecord n).2.1 5 1) 1 = true ∧
  (s.regF (State.rSlot n) 63 60 ≠ 2 ∨ s.regF (rSnap (0x20 + 8 * n)) 31 0 ≠ recE (s.slotRecord n).2.1) ∧
  (∀ g ∈ s.flash.gens, g.slot = n → g.grec ≠ (s.slotRecord n).2.1) ∧ s.flashOpen n = none ∧ s.isReady 4 = true ∧
  recSegs (s.slotRecord n).2.1 ≤ s.freeSegs.length

/-- The Harvest engine waits for this acknowledgement, and no transfer engine does. -/
abbrev hvAckFor (s : State) (h : HJob) (x : Packet × Nat) : Prop :=
  firstOf s (fun q => pOp q == 2) x ∧ s.copyAwaits 0 x.1 = false ∧ s.copyAwaits 1 x.1 = false ∧ s.hjob = some h ∧
  h.stage = 4 ∧ s.hvDst h = pSrc x.1 ∧ pArg1 x.1 % 2 ^ 32 ∈ h.out

/-- The module stands alone (R468). -/
abbrev isolated (s : State) : Prop :=
  s.program ≠ none ∧ (∃ p, p < 24 ∧ s.bit (rLnk p 0) 0 = true) ∧
  (∀ p, p < 24 → s.bit (rLnk p 0) 0 = true → s.lnkUp p = false) ∧ s.regF (rSnap 0x48) 15 0 ≠ 0 ∧ s.fenced = false ∧
  s.routerRuns = true

end Sys2Proof.Claims

open Sys2Proof.Claims in
/-- R443, R446, R448, R452, R453, R468 to R470, R478. -/
def Obligations.PartnerSlotsFlashAndFence : Prop :=
  -- HARVEST_PUT that is refused
  (∀ (s : State) (x : Packet × Nat), hvPutFirst s x → (∀ k, ¬ slotTakes s x.1 k) →
    ∃ t, exec .harvestPut s = .next t ∧ t = (taken s x).send 1 (State.ackOf x.1 true)) ∧
  -- HARVEST_PUT into the data of a slot that is not being written to flash
  (∀ (s : State) (x : Packet × Nat) (k : Nat), hvPutFirst s x → slotTakes s x.1 k → 131072 ≤ slotOff s x.1 k →
    s.flashOpen k = none → k ∉ s.flashDue → goesOn (·.fxHarvestPut) s →
    ∃ t, exec .harvestPut s = .next t ∧
      t = { ((taken (fresh s) x).memWriteP (pArg0 x.1) x.1.payload (putFlags x.1) 0).send 1 (State.ackOf x.1 false) with
        waited := s.waited }) ∧
  -- HARVEST_PUT into the data of one that is
  (∀ (s : State) (x : Packet × Nat) (k : Nat), hvPutFirst s x → slotTakes s x.1 k → 2 ^ 26 < slotOff s x.1 k + x.1.payload.length →
    s.flashOpen k ≠ none → k < 2 → goesOn (·.fxHarvestPut) s →
    ∃ t, exec .harvestPut s = .next t ∧ t.flashOpen k = none ∧ flashState t k = 0 ∧
      t.regF State.rHold 47 32 = (s.regF State.rHold 47 32 + 1) % 2 ^ 16 ∧
      (∀ g ∈ s.flash.gens, (g.slot ≠ k ∨ g.committed = true) ↔ g ∈ t.flash.gens) ∧
      t = { (((taken (fresh s) x).flashAbandon k).memWriteP (pArg0 x.1) x.1.payload (putFlags x.1) 0).send 1
              (State.ackOf x.1 false) with
        waited := s.waited }) ∧
  -- HARVEST_PUT into the step record ring
  (∀ (s : State) (x : Packet × Nat) (k : Nat), hvPutFirst s x → slotTakes s x.1 k → 65536 ≤ slotOff s x.1 k →
    slotOff s x.1 k + x.1.payload.length ≤ 131072 → goesOn (·.fxHarvestPut) s →
    ∃ t, exec .harvestPut s = .next t ∧
      t = { ((taken (fresh s) x).memWriteP (pArg0 x.1) x.1.payload (putFlags x.1) 0).send 1 (State.ackOf x.1 false) with
        waited := s.waited }) ∧
  -- HARVEST_PUT of the first bytes of the generation record
  (∀ (s : State) (x : Packet × Nat) (k : Nat), hvPutFirst s x → slotTakes s x.1 k → slotOff s x.1 k = 0 →
    4 < x.1.payload.length → goesOn (·.fxHarvestPut) s →
    ∃ t, exec .harvestPut s = .next t ∧
      t = { (((((taken (fresh s) x).flashAbandon k).memWriteP (pArg0 x.1) x.1.payload (putFlags x.1) 0).readSlot
              k).flashBegin k).send 1 (State.ackOf x.1 false) with
        waited := s.waited }) ∧
  -- GENERATION_RECORD_REREAD
  (∀ (s : State), s.slotSize ≠ 0 → s.routerRuns = true → (∀ n, n < s.slotN → (s.slotRecord n).2.2 = false) →
    ∃ t, exec .generationRecordReread s = .next t ∧
      (∀ n, n < s.slotN →
        t.regF (State.rSlot n) 63 60 = (if imgNat (s.slotRecord n).2.1 4 1 = 1 ∨ imgNat (s.slotRecord n).2.1 4 1 = 2
          then imgNat (s.slotRecord n).2.1 4 1 else 0) ∧
        t.regF (rSnap (0x20 + 8 * n)) 31 0 = recE (s.slotRecord n).2.1) ∧
      (0 < s.slotN → flashAsked s 0 → flashState t 0 = 1 ∧
        ∃ g, t.flashOpen 0 = some g ∧ g.grec = (s.slotRecord 0).2.1 ∧ g.segs = s.freeSegs.take (recSegs g.grec) ∧ g.done = 0) ∧
      (∀ g ∈ s.flash.gens, g ∈ t.flash.gens) ∧
      onlyRegs { s with flash := { s.flash with gens := t.flash.gens }, flashDue := t.flashDue } t
        [State.rSlot 0, State.rSlot 1, rSnap 0x20, rSnap 0x28]) ∧
  -- FLASH_SEGMENT_START
  (∀ (s s1 : State) (n : Fin 2) (cap : BitVec 16) (p : BitVec 32) (r : Nat) (g : FlashGen), openGen s n.val g →
    g.run = false → flashState s n.val = 1 → rateIs s s1 r →
    (energyThere cap.toNat p.toNat r → ∃ t, exec (.flashSegmentStart n cap p) s = .next t ∧
      segStarted s1 t n.val cap.toNat p.toNat r g) ∧
    (¬ energyThere cap.toNat p.toNat r → ∃ t, exec (.flashSegmentStart n cap p) s = .next t ∧
      segHeld s1 t n.val cap.toNat p.toNat r)) ∧
  -- HOLDUP_RECHECK
  (∀ (s s1 : State) (n : Fin 2) (cap : BitVec 16) (p : BitVec 32) (r : Nat) (g : FlashGen), openGen s n.val g →
    flashState s n.val = 2 → rateIs s s1 r →
    (energyThere cap.toNat p.toNat r → ∃ t, exec (.holdupRecheck n cap p) s = .next t ∧
      segStarted s1 t n.val cap.toNat p.toNat r g) ∧
    (¬ energyThere cap.toNat p.toNat r → ∃ t, exec (.holdupRecheck n cap p) s = .next t ∧
      segHeld s1 t n.val cap.toNat p.toNat r)) ∧
  -- FLASH_SEGMENT_DONE
  (∀ (s : State) (d : SegmentEnd) (g : FlashGen), openGen s d.slot.val g → g.run = true →
    ∃ t, exec (.flashSegmentDone d) s = .next t ∧
      (∀ i, i < segBytes g.grec g.done → smGet 0#8 t.flash.data (g.segs.getD g.done 0 * 2 ^ 30 + i) =
        (s.peekByte (s.slotBase d.slot.val + 2 ^ 26 + 2 ^ 30 * g.done + i)).1) ∧
      (g.done + 1 < g.segs.length → { g with done := g.done + 1, run := false } ∈ t.flash.gens ∧ t.regs = s.regs) ∧
      (g.segs.length ≤ g.done + 1 → flashState t d.slot.val = 0 ∧ t.flashOpen d.slot.val = none ∧
        t.regF (rSnap (0x20 + 8 * d.slot.val)) 63 32 = recE g.grec ∧
        (t.flash.gens.filter fun x => x.slot == d.slot.val && x.committed).length ≤
          max (s.regF (rSnap 0) 23 21) ((s.flash.gens.filter fun x => x.slot == d.slot.val && x.committed).length)) ∧
      (∀ x ∈ s.flash.gens, x.slot ≠ d.slot.val → x ∈ t.flash.gens) ∧
      (0 < d.rate.toNat → (∀ x ∈ s.flash.rates, 0 < x) → t.flash.rates = (d.rate.toNat :: s.flash.rates).take 16) ∧
      onlyRegs { s with flash := { s.flash with gens := t.flash.gens, data := t.flash.data, rates := t.flash.rates } } t
        [State.rSlot d.slot.val, rSnap (0x20 + 8 * d.slot.val)]) ∧
  -- SNAP_RING_ENABLE
  (∀ (s : State) (v : W64), s.bit 0x18 3 = true → fld v 63 63 = 1 → s.bit (rSnap 0x40) 63 = false →
    ∃ t, exec (.snapRingEnable v) s = .next t ∧ t.reg (rSnap 0x40) = v &&& 0x83E0FFFFFFFFF000#64 ∧
      t.regF State.rHv 47 32 = 0 ∧ onlyRegs s t [rSnap 0x40, State.rHv]) ∧
  -- PUT_ACK of one PUT of a copy among others: at the last holder of an EQUINOX the ranges now whole are released
  (∀ (s : State) (h h2 : HJob) (x : Packet × Nat), hvAckFor s h x → bitAt (pArg1 x.1) 32 = false →
    State.hvTotal h ≤ h.next → h.out.erase (pArg1 x.1 % 2 ^ 32) ≠ [] →
    h2 = { h with out := h.out.erase (pArg1 x.1 % 2 ^ 32) } →
    ∃ t, exec .putAck s = .next t ∧
      (hvOp h.words = 1 ∧ h.phase = 1 ∧ h.holder + 1 = s.holders →
        t = ({ taken s x with hjob := some h2 }).sendReleases (State.ackedRanges h2)) ∧
      (hvOp h.words ≠ 1 ∨ h.phase ≠ 1 ∨ h.holder + 1 ≠ s.holders → t = { taken s x with hjob := some h2 })) ∧
  -- PUT_ACK that refuses a copy to the last holder, or a RESTORE
  (∀ (s : State) (h : HJob) (x : Packet × Nat), hvAckFor s h x → bitAt (pArg1 x.1) 32 = true → goesOn (·.fxPutAck) s →
    (hvOp h.words = 4 → ∃ t, exec .putAck s = .next t ∧ t.hjob = none ∧
      t = { ({ taken (fresh s) x with hjob := some { h with out := [] } }).hvEnd 2 with waited := s.waited }) ∧
    (hvOp h.words ≠ 4 → s.holders ≤ h.holder + 1 → ∃ t, exec .putAck s = .next t ∧ t.hjob = none ∧
      t = { ({ taken (fresh s) x with hjob := some { h with out := [] } }).hvEnd (if h.status = 0 then 2 else h.status) with
        waited := s.waited })) ∧
  -- TRANSFER_TIMEOUT of a copy to the last holder
  (∀ (s : State) (h : HJob), s.hjob = some h → h.stage = 4 → s.hubFree = true → h.out ≠ [] → hvOp h.words = 1 →
    dfld h.words 7 15 0 ≠ 0 → s.holders ≤ h.holder + 1 → goesOn (·.fxTransferTimeout 1) s →
    ∃ t, exec (.transferTimeout 1) s = .next t ∧ t.hjob = none ∧
      t = { ({ fresh s with hjob := some { h with out := [] } }).hvEnd (if h.status = 0 then 0x0D else h.status) with
        waited := s.waited }) ∧
  -- ISOLATION_TIMEOUT
  ∀ (s : State), isolated s → goesOn (·.fxIsolationTimeout) s →
    ∃ t, exec .isolationTimeout s = .next t ∧ t.fenced = true ∧ t.hjob = none ∧ t.regF State.rHv 63 60 = 6 ∧
      (∀ x ∈ s.present, t.fetching x.2 = false ∧ ∀ u, u < 4 → t.unitHalted (x.2 * 4 + u) = true) ∧
      (∀ k j, 1 ≤ k → k < 15 → (s.tgt k).job = some j → j.sqn ≠ 262144 → j.stage < 4 →
        (t.tgt k).job.map (fun i => (i.stage, i.status)) = some (4, 0x0E)) ∧
      (∀ k j, 1 ≤ k → k < 15 → (s.tgt k).job = some j → j.sqn ≠ 262144 → 4 ≤ j.stage → t.tgt k = s.tgt k) ∧
      (∀ k j, 11 ≤ k → k < 15 → (s.tgt k).job = some j → j.sqn = 262144 → (t.tgt k).job = none) ∧ t.tgt 0 = s.tgt 0

namespace Sys2Proof.Claims

/-- PWR_OPd and its fields. -/
abbrev opReg (d : Nat) : Nat := 0x10200 + 8 * d
abbrev fPoint (s : State) (d : Nat) : Nat := s.regF (opReg d) 44 42
abbrev vPoint (s : State) (d : Nat) : Nat := s.regF (opReg d) 41 39
abbrev vmv (s : State) (d : Nat) : Nat := s.regF (opReg d) 27 16
abbrev slewing (s : State) (d : Nat) : Prop := s.bit (opReg d) 47 = true

/-- MON_MARGIN: the setpoint of a point on a die, and whether it is exhausted. -/
abbrev setpoint (s : State) (d p : Nat) : Nat := nominalMv p + 5 * s.regF (rDie d 0x38) (4 * p + 3) (4 * p)
abbrev spent (s : State) (d p : Nat) : Prop := s.bit (rDie d 0x38) (20 + p) = true

/-- R500: the dies that a frequency or TARGET request to die `d` reaches. -/
abbrev reaches (s : State) (d x : Nat) : Prop :=
  if s.crossDie = true then s.bit 0x18 (8 + x) = true else x = d

/-- More than one of T_WR, F_WR and V_WR. -/
abbrev mixed (v : W64) : Prop := 1 < fld v 11 11 + fld v 7 7 + fld v 3 3

/-- Only REFUSED of die `d` changes, by one. -/
abbrev opRefused (s t : State) (d : Nat) : Prop :=
  t.regF (opReg d) 63 48 = (s.regF (opReg d) 63 48 + 1) % 65536 ∧
  t.regF (opReg d) 47 0 = s.regF (opReg d) 47 0 ∧ onlyRegs s t [opReg d]

/-- All but the PWR_OP registers and the voltage changes under way is as before; REFUSED too. -/
abbrev onlyPoints (s t : State) : Prop :=
  (∀ a, (∀ d, d < 8 → a ≠ opReg d) → t.reg a = s.reg a) ∧
  (∀ d, d < 8 → t.regF (opReg d) 63 48 = s.regF (opReg d) 63 48) ∧
  t = { s with regs := t.regs, pwr := { s.pwr with goal := t.pwr.goal } }

/-- Die `x` is as before. -/
abbrev opSame (s t : State) (x : Nat) : Prop :=
  t.reg (opReg x) = s.reg (opReg x) ∧ smGet none t.pwr.goal x = smGet none s.pwr.goal x

/-- The voltage of die `x` slews to `p`; `grp`: the dies whose frequencies follow it together. -/
abbrev slewsTo (s t : State) (x p : Nat) (grp : List Nat) : Prop :=
  slewing t x ∧ vmv t x = setpoint s x p ∧ vPoint t x = vPoint s x ∧ smGet none t.pwr.goal x = some (p, grp)

/-- A write that is refused whatever it requests (R501). -/
abbrev badWrite (v : W64) : Prop := mixed v ∨ 4 < fld v 10 8 ∨ 4 < fld v 6 4 ∨ 4 < fld v 2 0

/-- Register `a` takes a write: its function is ready and not lost, and a requester is there (R483, R594). -/
abbrev takesWrite (s : State) (a : Nat) : Prop :=
  s.reaches none = true ∧ s.regReady a = true ∧ s.regLost a = false

/-- The write of `a` is discarded and counted in DISCARDED. -/
abbrev discarded (s t : State) : Prop :=
  t.regF 0x28 15 0 = (s.regF 0x28 15 0 + 1) % 65536 ∧ t.regF 0x28 63 16 = s.regF 0x28 63 16 ∧ onlyRegs s t [0x28]

/-- A voltage request that R498, R501 or R563 refuses. -/
abbrev vIllegal (s : State) (d : Nat) (v : W64) : Prop :=
  badWrite v ∨ slewing s d ∨ fPoint s d < fld v 10 8 ∨ spent s d (fld v 10 8)

/-- A frequency request that they refuse on die `x`. -/
abbrev fIllegal (s : State) (x p : Nat) : Prop := slewing s x ∨ p < vPoint s x ∨ spent s x p

end Sys2Proof.Claims

open Sys2Proof.Claims in
/-- R497 to R502, R563. -/
def Obligations.OperatingPointsFollowTheSequencer : Prop :=
  -- in recovery mode no power register takes a write
  (∀ (s : State) (d : DieIx) (v : W64) (c : Instr), s.reaches none = true → s.regF 0x28 63 56 = 0xE0 →
    c = .pwrOpVWr d v ∨ c = .pwrOpFWr d v ∨ c = .pwrOpTWr d v ∨ c = .pwrStretchWrite v →
    ∃ t, exec c s = .next t ∧ discarded s t) ∧
  -- PWR_OP_V_WR
  (∀ (s : State) (d : DieIx) (v : W64), takesWrite s (opReg d) → badWrite v ∨ (fld v 11 11 = 1 ∧ vIllegal s d v) →
    ∃ t, exec (.pwrOpVWr d v) s = .next t ∧ opRefused s t d) ∧
  (∀ (s : State) (d : DieIx) (v : W64), takesWrite s (opReg d) → fld v 11 11 = 1 → ¬ vIllegal s d v →
    fld v 10 8 ≠ vPoint s d →
    ∃ t, exec (.pwrOpVWr d v) s = .next t ∧ slewsTo s t d (fld v 10 8) [] ∧ fPoint t d = fPoint s d ∧
      (∀ x, x < 8 → x ≠ d.val → opSame s t x) ∧ onlyPoints s t) ∧
  (∀ (s : State) (d : DieIx) (v : W64), takesWrite s (opReg d) → ¬ badWrite v →
    fld v 11 11 = 0 ∨ (¬ vIllegal s d v ∧ fld v 10 8 = vPoint s d) →
    exec (.pwrOpVWr d v) s = .next s) ∧
  -- PWR_OP_F_WR
  (∀ (s : State) (d : DieIx) (v : W64), takesWrite s (opReg d) →
    badWrite v ∨ (fld v 7 7 = 1 ∧ ∃ x, x < 8 ∧ reaches s d x ∧ fIllegal s x (fld v 6 4)) →
    ∃ t, exec (.pwrOpFWr d v) s = .next t ∧ opRefused s t d) ∧
  (∀ (s : State) (d : DieIx) (v : W64), takesWrite s (opReg d) → fld v 7 7 = 1 → ¬ badWrite v →
    (∀ x, x < 8 → reaches s d x → ¬ fIllegal s x (fld v 6 4)) →
    ∃ t, exec (.pwrOpFWr d v) s = .next t ∧
      (∀ x, x < 8 → (reaches s d x → fPoint t x = fld v 6 4) ∧ (¬ reaches s d x → fPoint t x = fPoint s x) ∧
        vPoint t x = vPoint s x ∧ vmv t x = vmv s x ∧ (slewing t x ↔ slewing s x)) ∧
      onlyPoints s t ∧ t.pwr = s.pwr) ∧
  -- PWR_OP_T_WR
  (∀ (s : State) (d : DieIx) (v : W64), takesWrite s (opReg d) →
    badWrite v ∨ (fld v 3 3 = 1 ∧ ∃ x, x < 8 ∧ reaches s d x ∧ (slewing s x ∨ spent s x (fld v 2 0))) →
    ∃ t, exec (.pwrOpTWr d v) s = .next t ∧ opRefused s t d) ∧
  (∀ (s : State) (d : DieIx) (v : W64), takesWrite s (opReg d) → fld v 3 3 = 1 → ¬ badWrite v →
    (∀ x, x < 8 → reaches s d x → ¬ slewing s x ∧ ¬ spent s x (fld v 2 0)) →
    ((∀ x, x < 8 → reaches s d x → vPoint s x ≤ fld v 2 0) → ∃ t, exec (.pwrOpTWr d v) s = .next t ∧
      (∀ x, x < 8 → reaches s d x → fPoint t x = fld v 2 0 ∧ (vPoint s x < fld v 2 0 → slewsTo s t x (fld v 2 0) []) ∧
        (vPoint s x = fld v 2 0 → ¬ slewing t x ∧ vPoint t x = vPoint s x)) ∧
      (∀ x, x < 8 → ¬ reaches s d x → opSame s t x) ∧ onlyPoints s t) ∧
    ((∃ x, x < 8 ∧ reaches s d x ∧ fld v 2 0 < vPoint s x) → ∃ t, exec (.pwrOpTWr d v) s = .next t ∧
      (∀ x, x < 8 → reaches s d x → slewsTo s t x (fld v 2 0) (s.opGroup d) ∧ fPoint t x = max (fPoint s x) (fld v 2 0)) ∧
      (∀ x, x < 8 → ¬ reaches s d x → opSame s t x) ∧ onlyPoints s t)) ∧
  -- VOLTAGE_SLEW_DONE of a voltage request, or of a TARGET request that lowered frequencies first
  (∀ (s : State) (d : DieIx) (p : Nat), smGet none s.pwr.goal d = some (p, []) → p ≤ 4 →
    ∃ t, exec (.voltageSlewDone d) s = .next t ∧ vPoint t d = p ∧ vmv t d = setpoint s d p ∧ ¬ slewing t d ∧
      fPoint t d = fPoint s d ∧ smGet none t.pwr.goal d = none ∧ (∀ x, x < 8 → x ≠ d.val → opSame s t x) ∧
      onlyPoints s t) ∧
  -- of a TARGET request that raised voltages first, while another die of it slews
  (∀ (s : State) (d : DieIx) (p x : Nat) (grp : List Nat), smGet none s.pwr.goal d = some (p, grp) → p ≤ 4 →
    slewing s d → x ∈ grp → x ≠ d.val → smGet none s.pwr.goal x = some (p, grp) → vPoint s x ≠ p →
    ∃ t, exec (.voltageSlewDone d) s = .next t ∧ vPoint t d = p ∧ fPoint t d = fPoint s d ∧ slewing t d ∧
      (∀ y, y < 8 → y ≠ d.val → opSame s t y) ∧ onlyPoints s t) ∧
  -- of the last die of it
  (∀ (s : State) (d : DieIx) (p : Nat) (grp : List Nat), smGet none s.pwr.goal d = some (p, grp) → p ≤ 4 →
    d.val ∈ grp → (∀ x ∈ grp, x < 8) →
    (∀ x ∈ grp, x ≠ d.val → smGet none s.pwr.goal x = some (p, grp) → vPoint s x = p) →
    ∃ t, exec (.voltageSlewDone d) s = .next t ∧ vPoint t d = p ∧
      (∀ x ∈ grp, smGet none s.pwr.goal x = some (p, grp) →
        fPoint t x = p ∧ ¬ slewing t x ∧ smGet none t.pwr.goal x = none) ∧
      (∀ x, x < 8 → x ∉ grp ∨ smGet none s.pwr.goal x ≠ some (p, grp) → opSame s t x) ∧ onlyPoints s t) ∧
  -- PWR_STRETCH_WRITE
  ∀ (s : State) (v : W64), takesWrite s 0x10118 →
    ((∃ d, d < 8 ∧ 13 ≤ fld v (4 * d + 3) (4 * d)) → exec (.pwrStretchWrite v) s = .next s) ∧
    ((∀ d, d < 8 → fld v (4 * d + 3) (4 * d) ≤ 12) → ∃ t, exec (.pwrStretchWrite v) s = .next t ∧
      t.regF 0x10118 31 0 = fld v 31 0 ∧ onlyRegs s t [0x10118])

namespace Sys2Proof.Claims

abbrev pwrStat : Nat := 0x10108

/-- PKG_READY bits of functions that DORMANT and SOLSTICE stop: all but MMC, HIF, reserved ones and ports that are
DISABLED. -/
abbrev stops (s : State) (b : Nat) : Bool :=
  decide (2 ≤ b ∧ b ≤ 4) || decide (8 ≤ b ∧ b < 32) || decide (32 ≤ b ∧ b < 56 ∧ s.lnkState (b - 32) ≠ 0)

/-- After an entry into DORMANT or SOLSTICE: every enabled port is LOW_POWER, the stopped functions are not ready. -/
abbrev stopped (s t : State) : Prop :=
  (∀ p, p < 24 → t.lnkState p = if s.lnkState p = 0 then 0 else 6) ∧
  ∀ b, b < 64 → t.bit 0x18 b = (s.bit 0x18 b && !stops s b)

/-- A wake from low state `frm` begins with source `bit`, in a state that is otherwise `s`. -/
abbrev wakes (s t : State) (bit frm : Nat) : Prop :=
  t.regF pwrStat 63 60 = 5 ∧ t.regF pwrStat 53 49 = 2 ^ bit ∧ t.regF pwrStat 31 0 = (s.regF pwrStat 31 0 + 1) % 2 ^ 32 ∧
  t.bit 0x10110 63 = false ∧ t.pwr = { s.pwr with src := frm } ∧
  (∀ p, p < 24 → t.lnkState p = if 2 ≤ frm ∧ s.lnkState p = 6 then 1 else s.lnkState p) ∧
  (frm = 3 → t.regF 0x28 52 50 = 4) ∧
  (frm ≤ 2 → ∀ a, a ≠ pwrStat → a ≠ 0x10110 → (∀ p, p < 24 → a ≠ rLnk p 8) → t.reg a = s.reg a) ∧
  t = { s with regs := t.regs, frame0 := t.frame0, ctr := t.ctr, out := t.out, almanac := t.almanac,
               almStage := t.almStage, pwr := t.pwr }

/-- ENTERING, with TARGET `st`; of a wake that an earlier entry owes, only DORMANT's functions stay due. -/
abbrev asked (s : State) (st : Nat) : State :=
  { (s.setRegF pwrStat 63 60 4).setRegF pwrStat 59 57 st with
    pwr := { s.pwr with wakeSrc := none, src := 0, wait := if s.pwrState = 2 then s.pwr.wait else 0 } }

/-- The host's write of PWR_CTRL lands: the host interface is ready, the module is not in recovery mode. -/
abbrev hostMay (s : State) : Prop := s.pwr.off = false ∧ s.bit 0x18 1 = true ∧ s.regF 0x28 63 56 ≠ 0xE0

/-- R504 for one low state. -/
abbrev lowRequest (c : Instr) (st : Nat) : Prop :=
  ∀ s : State, hostMay s →
    (s.pwrState ≠ st → s.refusal st ≠ 0 → ∃ t, exec c s = .next t ∧ t.regF pwrStat 56 54 = s.refusal st ∧
      t.regF pwrStat 63 57 = s.regF pwrStat 63 57 ∧ t.regF pwrStat 53 0 = s.regF pwrStat 53 0 ∧ onlyRegs s t [pwrStat]) ∧
    (s.anyFetching = true → s.refusal st = 1) ∧
    (s.pwrState = st → exec c s = .next s) ∧
    (s.pwrState < st → s.refusal st = 0 → ∃ t, exec c s = .next t ∧
      (st = 1 → t = asked s st) ∧ (2 ≤ st → t = (List.range 24).foldl (fun s p => s.fxPortSleep p) (asked s st)))

/-- No port is in its sleep handshake. -/
abbrev portsSettled (s : State) : Prop := ∀ p, p < 24 → s.lnkUp p = true → (s.port p).sleep = 0

/-- An entry into `st` that nothing has stopped, with no timer that wakes at once. -/
abbrev entering (s : State) (st : Nat) : Prop :=
  s.regF pwrStat 63 60 = 4 ∧ s.regF pwrStat 59 57 = st ∧ portsSettled s ∧ s.pwr.wakeSrc = none ∧
  ¬ (s.bit 0x10110 63 = true ∧ s.regF 0x10110 31 0 = 0)

end Sys2Proof.Claims

open Sys2Proof.Claims in
/-- R288, R503 to R508, R510, R512, R513, R571. -/
def Obligations.PowerStatesEnterAndWake : Prop :=
  -- REQ_IDLE, REQ_DORMANT, REQ_SOLSTICE
  lowRequest .reqIdle 1 ∧ lowRequest .reqDormant 2 ∧ lowRequest .reqSolstice 3 ∧
  (∀ (s : State) (c : Instr), c = .reqActive ∨ c = .reqIdle ∨ c = .reqDormant ∨ c = .reqSolstice →
    (s.pwr.off = true ∨ s.bit 0x18 1 = false → exec c s = .next s) ∧
    (s.pwr.off = false → s.bit 0x18 1 = true → s.regF 0x28 63 56 = 0xE0 → ∃ t, exec c s = .next t ∧ discarded s t)) ∧
  -- REQ_ACTIVE
  (∀ s : State, hostMay s → 1 ≤ s.pwrState → s.pwrState ≤ 3 → ∃ t, exec .reqActive s = .next t ∧ wakes s t 1 s.pwrState) ∧
  (∀ s : State, hostMay s → s.pwrState = 4 → s.pwr.wakeSrc = none → ∃ t, exec .reqActive s = .next t ∧
    t = { s with pwr := { s.pwr with wakeSrc := some 1 } }) ∧
  (∀ s : State, hostMay s → s.pwrState = 0 ∨ s.pwrState = 5 → exec .reqActive s = .next s) ∧
  -- PWR_TIMER_EXPIRY
  (∀ s : State, 1 ≤ s.pwrState → s.pwrState ≤ 3 → s.bit 0x10110 63 = true →
    ∃ t, exec .pwrTimerExpiry s = .next t ∧ wakes s t 3 s.pwrState) ∧
  (∀ s : State, s.bit 0x10110 63 = false → exec .pwrTimerExpiry s = .next s) ∧
  -- D3HOT_ENTRY, D3HOT_TO_D0
  (∀ s : State, ∃ t, exec .d3hotEntry s = .next t ∧ t = { s with pwr := { s.pwr with d3hot := true } }) ∧
  (∀ s : State, s.pwr.d3hot = true →
    (s.pwrState = 0 ∨ s.pwrState = 5 → ∃ t, exec .d3hotToD0 s = .next t ∧
      t = { s.emit (.wakePin false) with pwr := { s.pwr with d3hot := false, d3cold := false } }) ∧
    (1 ≤ s.pwrState → s.pwrState ≤ 3 → ∃ t, exec .d3hotToD0 s = .next t ∧
      wakes { s.emit (.wakePin false) with pwr := { s.pwr with d3hot := false, d3cold := false } } t 1 s.pwrState)) ∧
  -- POWER_ENTRY_COMPLETE
  (∀ s : State, entering s 1 → ∃ t, exec .powerEntryComplete s = .next t ∧ t.regF pwrStat 63 60 = 1 ∧
    t.regF pwrStat 59 0 = s.regF pwrStat 59 0 ∧ onlyRegs s t [pwrStat]) ∧
  (∀ s : State, entering s 2 → (∀ p, p < 24 → s.lnkUp p = false) →
    ∃ t, exec .powerEntryComplete s = .next t ∧ t.regF pwrStat 63 60 = 2 ∧ stopped s t ∧
    (∀ d, d < 8 → s.bit 0x18 (8 + d) = true → t.regF (0x10200 + 8 * d) 44 42 = 4 ∧ t.regF (0x10200 + 8 * d) 41 39 = 4 ∧
      t.bit (0x10200 + 8 * d) 47 = false) ∧
    (∀ a, a ≠ pwrStat → a ≠ 0x18 → (∀ d, d < 8 → a ≠ 0x10200 + 8 * d) → (∀ p, p < 24 → a ≠ rLnk p 8) →
      t.reg a = s.reg a) ∧
    t = { s with regs := t.regs, ports := t.ports, pwr := { s.pwr with wait := t.pwr.wait, goal := [] }, evtFlight := t.evtFlight }) ∧
  (∀ s : State, entering s 3 → Registers.wf s.regs = true → (∀ p, p < 24 → s.lnkUp p = false) →
    ∃ t, exec .powerEntryComplete s = .next t ∧ t.regF pwrStat 63 60 = 3 ∧ stopped s t ∧
    t.program = none ∧ t.running = none ∧ t.units = [] ∧ t.clus = [] ∧
    t.tokens = [] ∧ (∀ r, r < 32 → (t.slice r).lines = []) ∧ t.pages = s.pages ∧ t.almanac = s.almanac ∧
    ((∀ r, r < 32 → ∀ l ∈ (s.slice r).lines, l.dirty = false) → t.chanBytes = s.chanBytes ∧ t.chanPoison = s.chanPoison)) ∧
  (∀ (s : State) (bit : Nat), s.regF pwrStat 63 60 = 4 → portsSettled s → s.pwr.wakeSrc = some bit →
    s.regF pwrStat 59 57 = 1 → ∃ t, exec .powerEntryComplete s = .next t ∧
      wakes (s.setRegF pwrStat 39 32 ((s.regF pwrStat 39 32 + 1) % 256)) t bit 1) ∧
  (∀ (s : State) (bit st : Nat), s.regF pwrStat 63 60 = 4 → portsSettled s → s.pwr.wakeSrc = some bit → bit < 5 →
    s.regF pwrStat 59 57 = st → 2 ≤ st → st ≤ 3 → ∃ t, exec .powerEntryComplete s = .next t ∧ t.regF pwrStat 63 60 = 5 ∧
      t.regF pwrStat 53 49 = 2 ^ bit ∧ t.regF pwrStat 39 32 = (s.regF pwrStat 39 32 + 1) % 256 ∧
      (st = 2 → t.program = s.program ∧ t.units = s.units ∧ t.clus = s.clus ∧ t.chanBytes = s.chanBytes) ∧
      ((∃ p, p < 24 ∧ s.lnkUp p = true) → t.program = s.program ∧ t.units = s.units ∧ t.chanBytes = s.chanBytes)) ∧
  -- WAKE_COMPLETE
  (∀ (s : State) (c : Bool × Bool), s.pwrState = 5 → (∃ b, b < 56 ∧ bitAt s.pwr.wait b = true ∧ s.reported b = false) →
    exec (.wakeComplete c) s = .next s) ∧
  (∀ (s : State) (c : Bool × Bool), s.pwrState = 5 → (∀ b, b < 56 → bitAt s.pwr.wait b = true → s.reported b = true) →
    (s.pwr.src ≠ 3 ∨ c.1 = true ∨ c.2 = true → ∃ t, exec (.wakeComplete c) s = .next t ∧ t.pwrState = 0 ∧
      t.regF pwrStat 59 0 = s.regF pwrStat 59 0 ∧
      onlyRegs { s with pwr := { s.pwr with wait := 0, src := 0 } } t [pwrStat]) ∧
    (s.pwr.src = 3 → c = (false, false) → ∃ t, exec (.wakeComplete c) s = .next t ∧ t.pwrState = 0 ∧
      t.bit pwrStat 48 = true ∧ t.reg 0x30 = regReset 0x30 ∧ t.pages = [] ∧ mkErr 0x0505 0 0 0#64 ∈ t.errFlight ∧
      t.deadClus = [] ∧ (∀ p, p < 24 → t.lnkState p = s.lnkState p) ∧
      t.chanBytes = s.chanBytes ∧ t.program = s.program))

namespace Sys2Proof.Claims

/-- Both resets clear these. -/
abbrev workCleared (t : State) : Prop :=
  t.program = none ∧ t.running = none ∧ t.units = [] ∧ t.clus = [] ∧ t.tokens = [] ∧ t.staged = none ∧ t.targets = [] ∧
  t.queues = [] ∧ t.ports = [] ∧ t.cles = [] ∧ t.hjob = none ∧ t.mons = [] ∧ t.atc = [] ∧ t.handlers = [] ∧
  t.mmc.sessions = [] ∧ t.mmc.events = [] ∧ t.mmc.i3c = none ∧ t.reg 0x18 = 0#64

/-- Security version of the image in bank `k` (true: B). -/
abbrev bankSvn (s : State) (k : Bool) : Nat := if k then s.mmc.svnB else s.mmc.svnA

/-- Bank `k` verifies under a key that a slot of the fuses holds unrevoked, and is not below the fuses. -/
abbrev bankGood (s : State) (b : BootVerdict) (k : Bool) : Prop :=
  (if k then b.bankOk.2 else b.bankOk.1) = true ∧
  (if k then b.bankKey.2 else b.bankKey.1, false) ∈ s.mmc.keys ∧ s.mmc.fuse ≤ bankSvn s k

/-- PKG_BOOT and PKG_FAIL of a boot from bank `k`. -/
abbrev bootedFrom (s t : State) (b : BootVerdict) (k : Bool) : Prop :=
  t.regF 0x28 63 56 = 0 ∧ t.bit 0x28 55 = k ∧ t.bit 0x28 54 = (k != s.mmc.sel) ∧
  t.regF 0x28 47 32 = bankSvn s k % 65536 ∧
  t.mmc.meas.head? = some (b.digests.getD (if k then 1 else 0) 0#384) ∧
  (t.bit 0x20 3 = !b.hub1Ok) ∧ (∀ d, d < 8 → t.bit 0x20 (8 + d) = !b.dieOk)

/-- The boot after a reset of cause `last`. -/
abbrev booted (s t : State) (b : BootVerdict) (last : Nat) : Prop :=
  t.regF 0x28 52 50 = last ∧ t.regF 0x28 31 16 = s.mmc.fuse % 65536 ∧
  (bankGood s b s.mmc.sel → bootedFrom s t b s.mmc.sel) ∧
  (¬ bankGood s b s.mmc.sel → bankGood s b (!s.mmc.sel) → bootedFrom s t b (!s.mmc.sel)) ∧
  (¬ bankGood s b s.mmc.sel → ¬ bankGood s b (!s.mmc.sel) → t.regF 0x28 63 56 = 0xE0 ∧
    t.bit 0x28 54 = false ∧ t.reg 0x20 = 0x00FFFFFFFFFFFF1C#64 ∧ t.mmc.meas = [])

/-- Nothing is left in HBM. -/
abbrev hbmGone (t : State) : Prop := t.chanBytes = [] ∧ t.chanPoison = []

/-- What a cold reset leaves of `s`; HBM, registers of the boot, of the Almanac and the time base and of the
margin plan apart. -/
abbrev coldOf (s t : State) : Prop :=
  workCleared t ∧ t.pages = [] ∧ t.chans = [] ∧ t.deadClus = [] ∧ t.lostDies = [] ∧
  t.lostRegions = [] ∧ t.hub1Lost = false ∧ t.fatal = false ∧ t.mmc.testAccess = false ∧ t.mmc.tapUsed = false ∧
  t.mmc.fuse = s.mmc.fuse ∧ t.mmc.sel = s.mmc.sel ∧ t.mmc.imgA = s.mmc.imgA ∧ t.mmc.imgB = s.mmc.imgB ∧
  t.mmc.anchor = s.mmc.anchor ∧ t.flash.gens = s.flash.gens ∧ t.flash.data = s.flash.data ∧
  (∀ a, a ∉ [0, 8, 0x20, 0x28, 0x40000, 0x40008] → (∀ d, d < 8 → a ≠ rDie d 0x38 ∧ a ≠ rDie d 0x40) → t.reg a = regReset a)

/-- What a warm reset leaves of `s`. -/
abbrev warmOf (s t : State) : Prop :=
  workCleared t ∧ t.chanBytes = s.chanBytes ∧ t.chanPoison = s.chanPoison ∧ t.pages = s.pages ∧ t.deadClus = s.deadClus ∧
  t.lostDies = [] ∧ t.lostRegions = [] ∧ t.hub1Lost = false ∧ t.modLost = false ∧ t.fatal = s.fatal ∧
  t.mmc.fuse = s.mmc.fuse ∧ t.mmc.anchor = s.mmc.anchor ∧ t.flash.gens = s.flash.gens ∧ t.flash.data = s.flash.data ∧
  (∀ a ∈ [0x40, 0x40000], t.reg a = s.reg a) ∧ t.regF 0x50 63 5 = s.regF 0x50 63 5 ∧ t.regF 0x50 4 0 = 0 ∧ t.regF 0x10108 31 0 = s.regF 0x10108 31 0 ∧
  t.regF 0x10108 63 32 = 0 ∧ t.regF 0x10000 39 32 = s.regF 0x10000 39 32 ∧
  (∀ r, r < 32 → t.reg (rRgn r 8) = s.reg (rRgn r 8)) ∧ (∀ c, c < 224 → t.reg (rClu c 0x20) = s.reg (rClu c 0x20)) ∧
  (∀ u, u < 896 → t.reg (rUnit u 0x50) = s.reg (rUnit u 0x50) ∧ t.regF (rUnit u 8) 39 32 = s.regF (rUnit u 8) 39 32) ∧
  (∀ c, c < 512 → t.chState c = if s.retired c = true then s.chState c else 0) ∧
  t.fenced = s.fenced ∧ t.regF State.rHv 63 60 = (if s.fenced = true then 6 else 0) ∧
  (∀ a, State.warmMask a = 0 → a ∉ [0, 8, 0x20, 0x28, 0x40008, State.rHv] → (∀ d, d < 8 → a ≠ rDie d 0x38 ∧ a ≠ rDie d 0x40) →
    t.reg a = regReset a) ∧
  (s.bit 0x40008 62 = false → ∀ i, i < s.regF 0x40008 60 44 → smGet [] t.almanac i = smGet [] s.almanac i)

/-- The MMC answers and is not in recovery mode. -/
abbrev mmcServes (s : State) : Prop := s.pwr.off = false ∧ s.bit 0x18 0 = true ∧ s.regF 0x28 63 56 ≠ 0xE0

/-- A command marked "session" is trusted (R586, R587). -/
abbrev trusted (s : State) : Prop := mmcServes s ∧ ∃ x ∈ s.mmc.sessions, x.2 = true ∨ s.mmc.anchor = none

/-- No flash segment is being written. -/
abbrev flashIdle (s : State) : Prop := ∀ g ∈ s.flash.gens, g.run = false

end Sys2Proof.Claims

open Sys2Proof.Claims in
/-- R453, R470, R480, R481, R490 to R492, R543, R573. -/
def Obligations.ResetsClearWhatTheyClear : Prop :=
  -- POWER_ON_COLD_RESET
  (∀ (s : State) (b : BootVerdict) (m : BitVec 4),
    ∃ t, exec (.powerOnColdReset b m) s = .next t ∧ coldOf s t ∧ hbmGone t ∧ booted s t b 0 ∧ t.almanac = [] ∧
      t.bit 0x40008 62 = true ∧ t.mmc.maddr = m.toNat ∧ t.pwr.off = false ∧
      t.regF 0x40000 63 48 = (fld s.mmc.savedTime 63 48 + 1) % 65536 ∧ t.mmc.savedTime = t.reg 0x40000 ∧
      t.regF 0x40000 47 16 = fld s.mmc.savedTime 47 16) ∧
  -- COLD_RESET
  (∀ (s : State) (b : BootVerdict) (m : BitVec 4), trusted s → flashIdle s →
    ∃ t, exec (.coldReset true b m) s = .next t ∧ coldOf s t ∧ booted s t b 1 ∧ t.mmc.maddr = m.toNat ∧
      (s.fenced = false → hbmGone t) ∧
      (s.fenced = true → t.chanBytes = s.chanBytes.filter fun x => s.inReserve x.1) ∧
      .mgmt 0 [] ∈ t.out ∧ t.reg 0x40000 = s.reg 0x40000 ∧
      (s.bit 0x40008 62 = false → ∀ i, i < s.regF 0x40008 60 44 → smGet [] t.almanac i = smGet [] s.almanac i)) ∧
  -- WARM_RESET
  ∀ (s : State) (b : BootVerdict), trusted s → flashIdle s → Registers.wf s.regs = true →
    ∃ t, exec (.warmReset true b) s = .next t ∧ warmOf s t ∧ booted s t b 3 ∧ .mgmt 0 [] ∈ t.out

open Sys2Proof.Claims in
/-- R482. -/
def Obligations.PerstIsAWarmResetButInSolstice : Prop :=
  -- PERST_ASSERT
  (∀ (s : State) (b : BootVerdict), s.pwr.off = false → s.pwr.perst = false → Registers.wf s.regs = true →
    ¬ (s.pwrState = 3 ∧ s.pwr.d3hot = true) →
    ∃ t, exec (.perstAssert b) s = .next t ∧ warmOf s t ∧ booted s t b 2 ∧ t.pwr.perst = true) ∧
  (∀ (s : State) (b : BootVerdict), s.pwr.off = false → s.pwr.perst = false → s.pwrState = 3 → s.pwr.d3hot = true →
    ∃ t, exec (.perstAssert b) s = .next t ∧ t = { s with pwr := { s.pwr with perst := true, d3cold := true } }) ∧
  (∀ (s : State) (b : BootVerdict), s.pwr.perst = true → exec (.perstAssert b) s = .next s) ∧
  -- PERST_DEASSERT
  ∀ s : State,
    (s.pwr.perst = false → exec .perstDeassert s = .next s) ∧
    (s.pwr.perst = true → s.pwr.d3hot = false → s.pwr.d3cold = false →
      ∃ t, exec .perstDeassert s = .next t ∧ t = { s with pwr := { s.pwr with perst := false } }) ∧
    (s.pwr.perst = true → s.pwr.d3cold = true → s.pwrState = 3 → ∃ t, exec .perstDeassert s = .next t ∧
      wakes { s.emit (.wakePin false) with pwr := { s.pwr with perst := false, d3hot := false, d3cold := false } } t 1 3)

namespace Sys2Proof.Claims

/-- PKG_READY bit `b` and its READY event, in a state otherwise `u`. -/
abbrev readied (u t : State) (b : Nat) : Prop :=
  t.reg 0x18 = setFld (u.reg 0x18) b b 1 ∧ (∃ e ∈ t.evtFlight, e.type = 6 ∧ e.w2 = setFld (u.reg 0x18) b b 1) ∧
  onlyRegs { u with evtFlight := t.evtFlight } t [0x18]

/-- PKG_FAIL bit `b` with FUNCTION_FAILED. -/
abbrev fnFailed (t : State) (b : Nat) : Prop :=
  t.bit 0x20 b = true ∧ t.bit 0x18 b = false ∧
  ∃ e ∈ t.errFlight, e.code = 0x0504 ∧ e.detail.toNat = b

/-- The input is there, no test tap has been used, no recovery mode, and bit `b` has not been reported. -/
abbrev canReport (s : State) (b : Nat) : Prop :=
  s.pwr.off = false ∧ s.modLost = false ∧ s.mmc.tapUsed = false ∧ s.regF 0x28 63 56 ≠ 0xE0 ∧ s.bit 0x18 b = false ∧ s.bit 0x20 b = false

/-- Whole columns that failed leave at least 56 in every array of physical cluster `i` of the die, and the
rest of it passes. -/
abbrev cluHealthy (t : SelfTest) (i : Nat) : Prop :=
  t.clusterOk.getD i false = true ∧
  ∀ u, u < 4 → ∀ a, a < 6 →
    ((List.range 66).filter fun c => ((t.colFaults.getD (4 * i + u) []).getD a 0#66).getLsbD c).length ≤ 10

end Sys2Proof.Claims

open Sys2Proof.Claims in
/-- R14, R20, R21, R31, R60, R61, R282, R452, R483 to R488, R495, R496. -/
def Obligations.FunctionsComeUpOrFail : Prop :=
  -- FUNCTION_READY that comes too early or again
  (∀ (s : State) (f : Func) (o : ReadyOutcome),
    s.bit 0x18 (State.funcBit f) = true ∨ s.bit 0x20 (State.funcBit f) = true ∨
      (s.bit 0x18 0 = false ∧ (f = .hif ∨ f = .fab0 ∨ f = .hub1)) ∨ (s.bit 0x18 3 = false ∧ f = .flash) →
    exec (.functionReady f o) s = .next s) ∧
  -- of the MMC
  (∀ (s : State) (x : SelfTest) (c : List (Option (Fin 6))), canReport s 0 →
    ∃ t, exec (.functionReady .mmc (.ready x c)) s = .next t ∧ t.bit 0x18 0 = true ∧ t.regF 0x10000 1 0 = 3 ∧
      ((∀ d, d < 8 → s.bit 0x18 (8 + d) = false ∧ s.bit 0x20 (8 + d) = false) → t.regF 0x28 63 56 = 1) ∧ (∃ e ∈ t.evtFlight, e.type = 6) ∧
      onlyRegs { s with evtFlight := t.evtFlight, out := t.out } t [0x18, 0x10000, 0x28]) ∧
  -- of the host interface and the hubs
  (∀ (s : State) (x : SelfTest) (c : List (Option (Fin 6))), s.bit 0x18 0 = true →
    (canReport s 1 → s.pwr.perst = false →
      ∃ t, exec (.functionReady .hif (.ready x c)) s = .next t ∧ readied s t 1) ∧
    (canReport s 2 → ∃ t, exec (.functionReady .fab0 (.ready x c)) s = .next t ∧ readied s t 2) ∧
    (canReport s 3 → s.hub1Lost = false → ∃ t, exec (.functionReady .hub1 (.ready x c)) s = .next t ∧ readied s t 3)) ∧
  -- of the flash
  (∀ (s : State) (x : SelfTest) (c : List (Option (Fin 6))), canReport s 4 → s.bit 0x18 3 = true → s.hub1Lost = false →
    ∃ t, exec (.functionReady .flash (.ready x c)) s = .next t ∧ t.bit 0x18 4 = true ∧
      (∀ g ∈ t.flash.gens, g ∈ s.flash.gens ∧ g.committed = true) ∧
      (∀ g ∈ s.flash.gens, g.committed = true → g ∈ t.flash.gens) ∧ t.flash.data = s.flash.data) ∧
  -- of a port
  (∀ (s : State) (p : PortIx) (x : SelfTest) (c : List (Option (Fin 6))), canReport s (32 + p) →
    s.bit 0x18 (2 + p / 12) = true → (12 ≤ p.val → s.hub1Lost = false) →
    (3 ≤ s.lnkState p ∧ s.lnkState p ≤ 5 → ∃ t, exec (.functionReady (.port p) (.ready x c)) s = .next t ∧
      readied s t (32 + p)) ∧
    (s.lnkState p < 3 → exec (.functionReady (.port p) (.ready x c)) s = .next s)) ∧
  -- of a stack, after a reset
  (∀ (s : State) (d : DieIx) (i : Fin 2) (x : SelfTest) (c : List (Option (Fin 6))), canReport s (16 + 2 * d + i) →
    s.bit 0x18 0 = true → smGet false s.lostDies d = false → s.pwrState = 0 →
    ∃ t, exec (.functionReady (.stack d i) (.ready x c)) s = .next t ∧ t.bit 0x18 (16 + 2 * d + i) = true ∧
      ∀ n, n < 32 →
        (s.retired (64 * d + 32 * i + n) = false → (∃ k, c.getD n (some 0) = some k ∧ t.chState (64 * d + 32 * i + n) = 2 ∧
            t.regF (rChan (64 * d + 32 * i + n) 0) 59 56 = k) ∨
          (c.getD n (some 0) = none ∧ t.chState (64 * d + 32 * i + n) = 5)) ∧
        (s.retired (64 * d + 32 * i + n) = true → t.chState (64 * d + 32 * i + n) = s.chState (64 * d + 32 * i + n))) ∧
  -- of a die, after a reset
  (∀ (s : State) (d : DieIx) (x : SelfTest) (c : List (Option (Fin 6))), canReport s (8 + d) →
    s.bit 0x18 0 = true → (∀ i, i < 2 → s.bit 0x18 (16 + 2 * d + i) = true) → smGet false s.lostDies d = false →
    s.pwrState = 0 →
    ∃ t, exec (.functionReady (.die d) (.ready x c)) s = .next t ∧ t.bit 0x18 (8 + d) = true ∧
      (∀ i, i < 28 → (t.bit (rRgn (4 * d + i / 7) 0) (18 + i % 7) = true ↔
        cluHealthy x i ∧ smGet false s.deadClus (28 * d + i) = false)) ∧
      (∀ i, i < 112 → ∀ a, a < 6 → t.reg (rUnit (112 * d + i) (0x10 + 8 * a)) =
          (((x.colFaults.getD i []).getD a 0#66).setWidth 64) ∧
        t.regF (rUnit (112 * d + i) 0) (7 * a + 6) (7 * a) =
          min 64 (66 - ((List.range 66).filter fun c => ((x.colFaults.getD i []).getD a 0#66).getLsbD c).length)) ∧
      t.chanBytes = s.chanBytes ∧ t.pages = s.pages ∧ t.program = s.program) ∧
  -- of a function that cannot come up
  (∀ (s : State) (d : DieIx) (i : Fin 2), s.bit 0x18 0 = true → smGet false s.lostDies d = false →
    (canReport s 2 → ∃ t, exec (.functionReady .fab0 .failed) s = .next t ∧ fnFailed t 2) ∧
    (canReport s (16 + 2 * d + i) → canReport s (8 + d) →
      (∃ t, exec (.functionReady (.stack d i) .failed) s = .next t ∧ fnFailed t (16 + 2 * d + i))) ∧
    (canReport s (16 + 2 * d + i) → canReport s (8 + d) →
      ∃ t, exec (.functionReady (.stack d i) .capacityMismatch) s = .next t ∧ fnFailed t (16 + 2 * d + i) ∧
        fnFailed t (8 + d))) ∧
  -- ROOT_CLOCK_LOSS
  (∀ s : State, s.pwr.off = false →
    ∃ t, exec .rootClockLoss s = .next t ∧ t.fatal = true ∧ t.reg 0x18 = 0#64 ∧ t.units = [] ∧ t.clus = [] ∧
      t.chanBytes = [] ∧ t.program = none ∧
      ((t.bit 0x10000 1 = false ∧ t.regF 0x10000 39 32 = (s.regF 0x10000 39 32 + 1) % 256) ∨
        (t.bit 0x10000 0 = false ∧ t.bit 0x10000 1 = s.bit 0x10000 1 ∧ t.regF 0x10000 39 32 = s.regF 0x10000 39 32)) ∧
      t.flash = s.flash ∧ t.mmc = s.mmc ∧ t.reg 0x28 = s.reg 0x28) ∧
  -- DIE_CLOCK_LOSS
  ∀ (s : State) (d : DieIx), s.pwr.off = false → smGet false s.lostDies d = false →
    ∃ t, exec (.dieClockLoss d) s = .next t ∧ t.bit 0x10000 (40 + d) = true ∧ smGet false t.lostDies d = true ∧
      (∀ x, x < 8 → x ≠ d.val → smGet false t.lostDies x = smGet false s.lostDies x) ∧
      t.reg 0x18 = setFld (setFld (s.reg 0x18) (8 + d) (8 + d) 0) (17 + 2 * d) (16 + 2 * d) 0 ∧
      (∀ g, g < 4 → t.regF (rRgn (4 * d + g) 0) 17 0 = 0x3FFFF ∧ t.regF (rRgn (4 * d + g) 0) 24 18 = 0) ∧
      (∃ e ∈ t.errFlight, e.code = 0x0405 ∧ e.index = d.val)

namespace Sys2Proof.Claims

/-- EH_STAT of handler (level, domain). -/
abbrev ehReg (s : State) (l x a : Nat) : Prop := l < 5 ∧ x < domCount l ∧ s.rEh l x = some a

/-- The `i`-th error in flight, for handler (level, domain), from no dead domain. -/
abbrev incoming (s : State) (i : Nat) (e : Err) (l x : Nat) : Prop :=
  s.errFlight[i]? = some e ∧ s.fromDead e = false ∧ errLevel e = l ∧ domainAt l e.scope e.index = some x

/-- Handler (l, x) holds `h`, shown in its EH_STAT `a`; every other handler is as in `s`, and so is all else
but the errors in flight. -/
abbrev handlerIs (s t : State) (l x a : Nat) (h : HandlerSt) : Prop :=
  t.hnd l x = h ∧ (∀ m y, m < 5 → y < domCount m → (m, y) ≠ (l, x) → t.hnd m y = s.hnd m y) ∧
  t.bit a 4 = h.cur.isSome ∧ t.regF a 2 0 = h.q.length % 8 ∧ t.regF a 63 8 = s.regF a 63 8 ∧
  (∀ b, b ≠ a → t.reg b = s.reg b) ∧
  t = { s with regs := t.regs, handlers := t.handlers, errFlight := t.errFlight }

/-- The record that the recorder writes next is one of these words 0 (CONT apart), 2 and 3. -/
abbrev recordedNext (s t : State) (type cls reason scope index : Nat) (w2 w3 : W64) : Prop :=
  s.bit 0x40008 62 = false → s.regF 0x40008 60 44 < 65535 →
    let r := smGet [] t.almanac (s.regF 0x40008 60 44)
    setFld (wordAt r 0) 11 11 0 =
      BitVec.ofNat 64 (type * 2 ^ 56 + cls * 2 ^ 48 + reason * 2 ^ 40 + scope * 2 ^ 32 + index * 2 ^ 12) ∧
    wordAt r 2 = w2 ∧ wordAt r 3 = w3

/-- PKG_ERR_CNT of a class: its place and width. -/
abbrev errCount (s : State) (cls : Nat) : Nat :=
  if cls = 1 then s.regF 0x40 63 40 else if cls = 2 then s.regF 0x40 39 24 else if cls = 3 then s.regF 0x40 23 8
  else s.regF 0x40 7 0
abbrev errWidth (cls : Nat) : Nat := if cls = 1 then 2 ^ 24 else if cls = 4 then 2 ^ 8 else 2 ^ 16
abbrev classCounted (s t : State) (cls : Nat) : Prop := errCount t cls = (errCount s cls + 1) % errWidth cls

/-- The event of a report. -/
abbrev reportEvt (s t : State) (e : Err) (l count : Nat) : Prop :=
  ∃ v ∈ t.evtFlight, v.type = 2 ∧ v.cls = e.cls ∧ v.scope = e.scope ∧ v.index = e.index ∧
    v.w2 = errWord2 e l count false ∧ v.w3 = e.detail ∧ v.alm = s.nextAlm ∧ v ∈ t.mmc.events

/-- An error whose handling takes no action and which is reported each time: DEFERRED, or injected. -/
abbrev plainErr (e : Err) : Prop := e.cls = 2 ∧ e.code ≠ 0x0406 ∧ e.code ≠ 0x0201 ∧ e.code ≠ 0x0302 ∧ e.code ≠ 0x0405 ∧
  e.code ≠ 0x0506 ∧ e.code ≠ 0x0602

/-- Handler (l, x) handles `e`. -/
abbrev handles (s : State) (l : Fin 5) (x a : Nat) (e : Err) : Prop := ehReg s l x a ∧ (s.hnd l x).cur = some e

/-- What the end of a handling without an action changes. -/
abbrev handlingOnly (s t : State) (a : Nat) : Prop :=
  (∀ b, b ≠ a → b ≠ 0x40 → b ≠ 0x40008 → t.reg b = s.reg b) ∧
  t = { s with regs := t.regs, handlers := t.handlers, rates := t.rates, evtFlight := t.evtFlight, ctr := t.ctr,
               out := t.out, almanac := t.almanac, almStage := t.almStage, mmc := { s.mmc with events := t.mmc.events } }

/-- The striking error of a strike: the one in hand, its time over, or one in the handler's own resources, with
none in hand (R522). -/
abbrev strikes (s : State) (l x : Nat) (own : Option Err) (e : Err) : Prop :=
  own = none ∧ (s.hnd l x).cur = some e ∨ ∃ y, own = some y ∧ State.knownErr y = some e ∧ (s.hnd l x).cur = none

/-- The next error of the queue is taken. -/
abbrev nextTaken (s t : State) (l x a : Nat) : Prop :=
  t.hnd l x = { s.hnd l x with cur := (s.hnd l x).q.head?, q := (s.hnd l x).q.drop 1 } ∧
  t.regF a 63 40 = (s.regF a 63 40 + 1) % 2 ^ 24 ∧ t.bit a 4 = (s.hnd l x).q.head?.isSome

end Sys2Proof.Claims

open Sys2Proof.Claims in
/-- R15, R470, R517 to R523, R527, R528, R532. -/
def Obligations.ErrorsQueueEscalateAndReport : Prop :=
  -- ERROR_ARRIVAL at an idle handler
  (∀ (s : State) (i : Nat) (e : Err) (l x a : Nat), incoming s i e l x → ehReg s l x a → (s.hnd l x).cur = none →
    ∃ t, exec (.errorArrival (.inl i)) s = .next t ∧ t.errFlight = s.errFlight.eraseIdx i ∧
      handlerIs s t l x a { s.hnd l x with cur := some e }) ∧
  -- at a busy one with room
  (∀ (s : State) (i : Nat) (e : Err) (l x a : Nat), incoming s i e l x → ehReg s l x a → (s.hnd l x).cur ≠ none →
    (s.hnd l x).q.length < 4 →
    ∃ t, exec (.errorArrival (.inl i)) s = .next t ∧ t.errFlight = s.errFlight.eraseIdx i ∧
      handlerIs s t l x a { s.hnd l x with q := (s.hnd l x).q ++ [e] }) ∧
  -- at a full one below the package, with an idle handler above
  (∀ (s : State) (i : Nat) (e : Err) (l x a y b : Nat), incoming s i e l x → ehReg s l x a → (s.hnd l x).cur ≠ none →
    4 ≤ (s.hnd l x).q.length → domainAt (l + 1) e.scope e.index = some y → ehReg s (l + 1) y b → a ≠ b →
    (s.hnd (l + 1) y).cur = none →
    ∃ t, exec (.errorArrival (.inl i)) s = .next t ∧ t.errFlight = s.errFlight.eraseIdx i ∧ t.hnd l x = s.hnd l x ∧
      t.hnd (l + 1) y = { s.hnd (l + 1) y with cur := some { e with esc := true } } ∧
      t.regF a 23 16 = (s.regF a 23 16 + 1) % 256 ∧ t.regF b 39 24 = (s.regF b 39 24 + 1) % 65536 ∧
      (∀ r, r ≠ a → r ≠ b → t.reg r = s.reg r)) ∧
  -- at a full package handler
  (∀ (s : State) (i : Nat) (e : Err), incoming s i e 4 0 → (s.hnd 4 0).cur ≠ none → 4 ≤ (s.hnd 4 0).q.length → e.cls = 2 →
    ∃ t, exec (.errorArrival (.inl i)) s = .next t ∧ t.handlers = s.handlers ∧ t.evtFlight = s.evtFlight ∧
      classCounted s t 2 ∧ t.regF 0x50 23 16 = (s.regF 0x50 23 16 + 1) % 256 ∧
      recordedNext s t 2 2 0 e.scope e.index (errWord2 { e with esc := true } 4 1 false) e.detail) ∧
  -- from a dead domain
  (∀ (s : State) (i : Nat) (e : Err), s.errFlight[i]? = some e → s.fromDead e = true → e.cls = 2 →
    ∃ t, exec (.errorArrival (.inl i)) s = .next t ∧ t.handlers = s.handlers ∧ t.evtFlight = s.evtFlight ∧ classCounted s t 2 ∧
      recordedNext s t 2 2 0 e.scope e.index (errWord2 e (errLevel e) 1 true) e.detail) ∧
  -- an error that a block detects by itself, of an unlisted code, and of a listed one under R29
  (∀ (s : State) (e : Err), State.knownErr e = none → exec (.errorArrival (.inr e)) s = .next s) ∧
  (∀ (s : State) (e x : Err), State.knownErr e = some x → State.isFatal29 x = true →
    ∃ t, exec (.errorArrival (.inr e)) s = .next t ∧ t.fatal = true ∧ t.units = [] ∧ t.chanBytes = [] ∧ t.evtFlight = []) ∧
  -- ERROR_HANDLING_END of a DEFERRED error
  (∀ (s : State) (l : Fin 5) (x a : Nat) (e : Err), handles s l x a e → plainErr e →
    ∃ t, exec (.errorHandlingEnd l x) s = .next t ∧ nextTaken s t l x a ∧ classCounted s t 2 ∧ reportEvt s t e l 1 ∧
      recordedNext s t 2 2 0 e.scope e.index (errWord2 e l 1 false) e.detail ∧ handlingOnly s t a) ∧
  -- of a CORRECTED error, the first of its pair, and a further one
  (∀ (s : State) (l : Fin 5) (x a : Nat) (e : Err), handles s l x a e → e.cls = 1 → plainErr { e with cls := 2 } →
    ((∀ r ∈ s.rates, ¬ (r.lvl = l ∧ r.ix = x ∧ r.code = e.code)) → ∃ t, exec (.errorHandlingEnd l x) s = .next t ∧
      nextTaken s t l x a ∧ classCounted s t 1 ∧ reportEvt s t e l 1 ∧
      (∃ r ∈ t.rates, r.lvl = l ∧ r.ix = x ∧ r.code = e.code ∧ r.n = 0) ∧ handlingOnly s t a) ∧
    ((∃ r ∈ s.rates, r.lvl = l ∧ r.ix = x ∧ r.code = e.code) → ∃ t, exec (.errorHandlingEnd l x) s = .next t ∧
      nextTaken s t l x a ∧ classCounted s t 1 ∧ t.evtFlight = s.evtFlight ∧ t.almanac = s.almanac ∧
      (∀ r ∈ s.rates, (if r.lvl = l ∧ r.ix = x ∧ r.code = e.code then { r with n := r.n + 1, last := e } else r) ∈ t.rates) ∧
      handlingOnly s t a)) ∧
  -- of CLUSTER_DEAD, with a spare
  (∀ (s : State) (c p sp a : Nat) (e : Err), c < 192 → handles s 2 (c / 6) a e → e.cls = 4 → e.code = 0x0201 → e.inj = false →
    e.index = c → s.regF (rRgn (c / 6) 0) (3 * (c % 6) + 2) (3 * (c % 6)) = p → p < 7 → fld e.detail 10 8 = p →
    s.regF (rRgn (c / 6) 0) 27 25 = sp → sp < 7 → sp ≠ p →
    ∃ t, exec (.errorHandlingEnd 2 (c / 6)) s = .next t ∧
      t.regF (rRgn (c / 6) 0) (3 * (c % 6) + 2) (3 * (c % 6)) = sp ∧ t.regF (rRgn (c / 6) 0) 27 25 = 7 ∧
      t.bit (rRgn (c / 6) 0) (18 + p) = false ∧
      t.regF (rRgn (c / 6) 0) 39 32 = (s.regF (rRgn (c / 6) 0) 39 32 + 1) % 256 ∧
      t.rgnGen c = (s.rgnGen c + 1) % 256 ∧ t.regF (rClu (7 * (c / 6) + sp) 0x20) 7 0 = (s.rgnGen c + 1) % 256 ∧
      (∀ k, k < 6 → k ≠ c % 6 → t.regF (rRgn (c / 6) 0) (3 * k + 2) (3 * k) = s.regF (rRgn (c / 6) 0) (3 * k + 2) (3 * k)) ∧
      smGet false t.deadClus (7 * (c / 6) + p) = true ∧
      ((∀ u, u < 4 → (s.unit (4 * (7 * (c / 6) + sp) + u)).runs = []) → t.unit (4 * (7 * (c / 6) + sp)) = {})) ∧
  -- RATE_LIMIT_REPORT
  (∀ (s : State) (l : Fin 5) (x : Nat) (c : BitVec 16) (r : RateRec),
    (s.rates.find? fun y => y.lvl == l.val && y.ix == x && y.code == c.toNat) = some r →
    (r.n = 0 → ∃ t, exec (.rateLimitReport l x c) s = .next t ∧ t.evtFlight = s.evtFlight ∧ t.almanac = s.almanac ∧
      (∀ y ∈ t.rates, ¬ (y.lvl = l ∧ y.ix = x ∧ y.code = c.toNat)) ∧ t = { s with rates := t.rates }) ∧
    (0 < r.n → r.last.cls ≠ 3 → ∃ t, exec (.rateLimitReport l x c) s = .next t ∧ reportEvt s t r.last l r.n ∧
      recordedNext s t 2 r.last.cls 0 r.last.scope r.last.index (errWord2 r.last l r.n false) r.last.detail ∧
      (∀ y ∈ t.rates, y.lvl = l ∧ y.ix = x ∧ y.code = c.toNat → y.n = 0))) ∧
  -- HANDLER_STRIKE of a region
  (∀ (s : State) (x : Nat) (own : Option Err) (e : Err), x < 32 → (s.hnd 2 x).dead = false →
    strikes s 2 x own e → (s.hnd 2 x).q = [] → e.cls = 2 → (s.hnd 3 (x / 4)).cur = none → s.errFlight = [] →
    ∃ t, exec (.handlerStrike 2 { index := x, own := own }) s = .next t ∧ (t.hnd 2 x).dead = true ∧ (t.hnd 2 x).cur = none ∧
      (∃ y, (t.hnd 3 (x / 4)).cur = some y ∧ y.code = 0x0302 ∧ y.index = x ∧ y.esc = true) ∧
      t.regF (rRgn x 0x10) 15 8 = (s.regF (rRgn x 0x10) 15 8 + 1) % 256 ∧
      t.regF (rDie (x / 4) 0x20) 39 24 = (s.regF (rDie (x / 4) 0x20) 39 24 + 1) % 65536 ∧ t.evtFlight = s.evtFlight ∧
      recordedNext s t 2 2 0 e.scope e.index (errWord2 { e with esc := true } 2 1 false) e.detail) ∧
  -- of the MMC, and of a dead handler
  (∀ s : State, (s.hnd 4 0).dead = false → ∃ t, exec (.handlerStrike 4 { index := 0, own := none }) s = .next t ∧ t.fatal = true ∧ t.units = [] ∧
    t.chanBytes = [] ∧ t.flash = s.flash) ∧
  (∀ (s : State) (l : Fin 5) (x : Strike), (s.hnd l x.index).dead = true → exec (.handlerStrike l x) s = .next s) ∧
  -- PKG_ERR_INJ
  (∀ (s : State) (v : W64),
    s.bit 0x38 0 = true ∨ s.program ≠ none ∨ ¬ ((errInfo (fld v 63 48)).1 = 1 ∨ (errInfo (fld v 63 48)).1 = 2) ∨
      placeOk (fld v 47 40) (fld v 39 20) = false →
    exec (.pkgErrInj v) s = .next s) ∧
  ∀ (s : State) (v : W64) (l x : Nat) (e : Err), s.bit 0x38 0 = false → s.program = none →
    e = { mkErr (fld v 63 48) (fld v 47 40) (fld v 39 20) 0#64 with inj := true } → e.cls = 1 ∨ e.cls = 2 →
    errLevel e = l → placeOk e.scope e.index = true → domainAt l e.scope e.index = some x → (s.hnd l x).cur = none →
    s.fromDead e = false →
    ∃ t, exec (.pkgErrInj v) s = .next t ∧ (t.hnd l x).cur = some e

namespace Sys2Proof.Claims

abbrev almStat : Nat := 0x40008
abbrev almCount (s : State) : Nat := s.regF almStat 60 44
abbrev restoring (s : State) : Prop := s.bit almStat 62 = true

/-- The flash can be written. -/
abbrev flashUp (s : State) : Prop := s.bit 0x18 4 = true ∧ s.hub1Lost = false

/-- The eight words of record `i` as bytes. -/
abbrev recordAt (f : Nat → List W64) (i : Nat) : List Byte :=
  (List.range 8).flatMap fun j => leBytes 8 (wordAt (f i) j).toNat

/-- The copy of segment 4 or 5 that was written last, and the other (R542). -/
abbrev newerCopy (f : FlashSt) : AlmCopy := if f.last5 then f.copy5 else f.copy4
abbrev olderCopy (f : FlashSt) : AlmCopy := if f.last5 then f.copy4 else f.copy5

/-- The newer copy whose CRC holds (R543). -/
abbrev chosenCopy (f : FlashSt) (c : Option AlmCopy) : Prop :=
  c = if (newerCopy f).sound then some (newerCopy f) else if (olderCopy f).sound then some (olderCopy f) else none

end Sys2Proof.Claims

open Sys2Proof.Claims in
/-- R304, R514, R540 to R545, R558, R586. -/
def Obligations.TheAlmanacIsMirroredRestoredAndCleared : Prop :=
  -- ALMANAC_MIRROR: the older copy is written over
  (∀ s : State, flashUp s → ¬ restoring s → almCount s ≤ 65536 →
    ∃ t, exec .almanacMirror s = .next t ∧ t.regF almStat 43 27 = almCount s ∧ olderCopy t.flash = newerCopy s.flash ∧
      (newerCopy t.flash).recs.length = almCount s ∧ (newerCopy t.flash).sound = true ∧
      (∀ i, i < almCount s → (newerCopy t.flash).recs.getD i [] = smGet [] s.almanac i) ∧
      (newerCopy t.flash).clears = s.regF almStat 10 0 ∧ onlyRegs { s with flash := t.flash } t [almStat] ∧
      t.flash = { s.flash with copy4 := t.flash.copy4, copy5 := t.flash.copy5, last5 := !s.flash.last5 }) ∧
  -- ALMANAC_RESTORE
  (∀ s : State, s.bit 0x18 4 = false ∨ ¬ restoring s → exec .almanacRestore s = .next s) ∧
  (∀ (s : State) (c : AlmCopy), s.bit 0x18 4 = true → restoring s → chosenCopy s.flash (some c) → c.recs.length < 65536 →
    s.almStage = [] →
    ∃ t, exec .almanacRestore s = .next t ∧ ¬ restoring t ∧ almCount t = c.recs.length ∧
      (∀ i, i < c.recs.length → smGet [] t.almanac i = c.recs.getD i []) ∧
      t.regF almStat 10 0 = c.clears % 2048 ∧ (s.flash.short = true → t.bit almStat 61 = true) ∧
      t.flash.short = false ∧ t.regF almStat 26 11 = s.regF almStat 26 11) ∧
  (∀ (s : State) (c : AlmCopy) (r : List W64), s.bit 0x18 4 = true → restoring s → chosenCopy s.flash (some c) →
    c.recs.length < 65535 → s.almStage = [[r]] →
    ∃ t, exec .almanacRestore s = .next t ∧ ¬ restoring t ∧ almCount t = c.recs.length + 1 ∧
      smGet [] t.almanac c.recs.length = r ∧ t.almStage = []) ∧
  -- with no copy whose CRC holds
  (∀ s : State, s.bit 0x18 4 = true → restoring s → chosenCopy s.flash none → s.almStage = [] →
    ∃ t, exec .almanacRestore s = .next t ∧ ¬ restoring t ∧ almCount t = 0 ∧ t.almanac = [] ∧ t.bit almStat 61 = true) ∧
  -- READ_ALMANAC
  (∀ (s : State) (ix : BitVec 16), mmcServes s →
    ∃ t, exec (.readAlmanac false ix) s = .next t ∧
      t = s.emit (.mgmt 0 ((List.range 4).flatMap fun k => recordAt
        (fun i => if ¬ restoring s ∧ i < almCount s then smGet [] s.almanac i else []) (ix.toNat + k)))) ∧
  (∀ (s : State) (ix : BitVec 16), mmcServes s → s.bit 0x18 4 = true →
    ∃ t, exec (.readAlmanac true ix) s = .next t ∧
      t = s.emit (.mgmt 0 ((List.range 4).flatMap fun k => recordAt (fun i => s.flash.archive.getD i []) (ix.toNat + k)))) ∧
  -- CLEAR_ALMANAC
  (∀ s : State, trusted s → flashUp s → ¬ restoring s → almCount s ≤ 65536 →
    ∃ t, exec (.clearAlmanac true) s = .next t ∧ t.out.head? = some (.mgmt 0 []) ∧
      (∀ c, chosenCopy s.flash (some c) → t.flash.seg6 = c ∧ t.flash.seg7 = c) ∧
      t.flash.copy4.recs = [] ∧ t.flash.copy5.recs = [] ∧ almCount t = 1 ∧ t.bit almStat 63 = false ∧
      t.regF almStat 26 11 = 0 ∧ t.regF almStat 10 0 = (s.regF almStat 10 0 + 1) % 2048 ∧
      (∀ i, 1 ≤ i → smGet [] t.almanac i = []) ∧
      wordAt (smGet [] t.almanac 0) 0 = BitVec.ofNat 64 (0x13 * 2 ^ 56) ∧
      wordAt (smGet [] t.almanac 0) 2 = BitVec.ofNat 64 (almCount s * 2 ^ 32 + (s.regF almStat 10 0 + 1) % 2048) ∧
      onlyRegs { s with flash := t.flash, almanac := t.almanac, out := t.out, ctr := t.ctr } t [almStat]) ∧
  (∀ s : State, trusted s → ¬ flashUp s ∨ restoring s →
    ∃ t, exec (.clearAlmanac true) s = .next t ∧ t = s.emit (.mgmt mgmtRefused [])) ∧
  (∀ s : State, mmcServes s → ∃ t, exec (.clearAlmanac false) s = .next t ∧ t = s.emit (.mgmt mgmtNotAuthorised [])) ∧
  -- OPSEC_TICK
  (∀ s : State, s.pwr.off = false → ∃ t, exec .opsecTick s = .next t ∧
    t.regF 0x40000 47 16 = (s.regF 0x40000 47 16 + 1) % 2 ^ 32 ∧ t.regF 0x40000 63 48 = s.regF 0x40000 63 48 ∧
    (∀ d, d < 8 → t.regF (rDie d 0x30) 15 0 =
      if s.regF 0x10118 (4 * d + 3) (4 * d) = 0 then s.regF (rDie d 0x30) 15 0 else (s.regF (rDie d 0x30) 15 0 + 1) % 65536) ∧
    (t.regF 0x40000 47 16 % 3600 = 0 → ∀ c, (t.chan c).ueHour = 0) ∧
    (t.regF 0x40000 47 16 % 3600 ≠ 0 → t.chans = s.chans) ∧
    (∀ a, a ≠ 0x40000 → (∀ d, d < 8 → a ≠ rDie d 0x30) → t.reg a = s.reg a) ∧
    t = { s with regs := t.regs, chans := t.chans }) ∧
  -- TIME_BASE_SAVE
  ∀ s : State, s.bit 0x18 0 = true → ∃ t, exec .timeBaseSave s = .next t ∧
    t.mmc.savedTime = setFld (s.reg 0x40000) 15 0 0 ∧ t = { s with mmc := { s.mmc with savedTime := t.mmc.savedTime } }

namespace Sys2Proof.Claims

/-- A die is powered: ready, or in its Jubilee (R562). -/
abbrev dieOn (s : State) (d : Nat) : Prop :=
  s.bit 0x18 (8 + d) = true ∨ (s.bit (rDie d 0x40) 1 = true ∧ smGet false s.lostDies d = false)

/-- The function of a monitor block is powered: a die, hub 0, hub 1 (R547). -/
abbrev blockOn (s : State) (b : Nat) : Prop :=
  if b < 8 then dieOn s b else if b = 8 then s.bit 0x18 0 = true else s.bit 0x18 3 = true

/-- R547: its sources are sampled, which in DORMANT and SOLSTICE they are not. -/
abbrev blockSampled (s : State) (b : Nat) : Prop := blockOn s b ∧ s.pwrState ≠ 2 ∧ s.pwrState ≠ 3

/-- The live bank of a point. -/
abbrev liveBank (s : State) (b n : Nat) : MonSt := smGet {} s.mons (b * 128 + n)

/-- R548: the edges of a point, and the bin that a sample falls in. -/
abbrev monEdge (s : State) (b n i : Nat) : Nat := s.regF (rMon b n (8 + 8 * (i / 4))) (16 * (i % 4) + 15) (16 * (i % 4))
abbrev inBin (s : State) (b n x k : Nat) : Prop :=
  k ≤ 15 ∧ (∀ i, i < k → monEdge s b n i ≤ x) ∧ (∀ i, k ≤ i → i < 15 → x < monEdge s b n i)

/-- The last bank after a close holds what the live bank held. -/
abbrev closed (s t : State) (b n : Nat) : Prop :=
  t.regF (rMon b n 0x68) 63 32 = (liveBank s b n).max % 2 ^ 32 ∧ t.regF (rMon b n 0x68) 31 0 = (liveBank s b n).min % 2 ^ 32 ∧
  t.regF (rMon b n 0x70) 63 32 = (liveBank s b n).cnt % 2 ^ 32 ∧
  t.regF (rMon b n 0x70) 31 0 = (s.regF (rMon b n 0x70) 31 0 + 1) % 2 ^ 32 ∧
  (∀ i, i < 16 → t.regF (rMon b n (0x28 + 8 * (i / 2))) (32 * (i % 2) + 31) (32 * (i % 2)) =
    (liveBank s b n).bins.getD i 0 % 2 ^ 32) ∧
  liveBank t b n = {} ∧ (∀ c m, m < 128 → (c, m) ≠ (b, n) → liveBank t c m = liveBank s c m) ∧
  (∀ a, a ∉ ([0x28, 0x30, 0x38, 0x40, 0x48, 0x50, 0x58, 0x60, 0x68, 0x70] : List Nat).map (rMon b n) → t.reg a = s.reg a) ∧ t = { s with regs := t.regs, mons := t.mons }

abbrev therm (d : Nat) : Nat := rDie d 0x30

/-- R556: the stretch that firmware writes for a die. -/
abbrev stretchIs (t : State) (d : Nat) : Prop :=
  t.regF 0x10118 (4 * d + 3) (4 * d) = max (t.regF (therm d) 35 32) (max (t.regF (therm d) 43 40) (t.regF (therm d) 39 36))

/-- R554 on S_TH; temperatures in 1/16 degree. -/
abbrev nextTh (old tj thr : Nat) (aged : Bool) : Nat :=
  if thr ≤ tj then min (old + 1) 12 else if tj + 48 < thr ∧ aged = true then old - 1 else old

/-- R555 on S_PWR; powers in 0.01 W. -/
abbrev nextPwr (old sample avg pmax psus : Nat) (ms tenMs : Bool) : Nat :=
  let x := if pmax < 10 * sample then min (old + 4) 12 else old
  if psus < 100 * avg ∧ ms = true then min (x + 1) 12
  else if 100 * avg + 30000 < psus ∧ tenMs = true then x - 1 else x

/-- Exactly this error is raised. -/
abbrev errRaised (s t : State) (code scope index : Nat) (detail : W64) : Prop :=
  t.errFlight = s.errFlight ++ [{ mkErr code scope index detail with cls := if code = 0x0602 ∧ scope = 5 then 5 else (errInfo code).1 }]

end Sys2Proof.Claims

open Sys2Proof.Claims in
/-- R502, R548, R549, R551, R553, R555 to R558, R565, R576. -/
def Obligations.MonitorsCountAndControllersThrottle : Prop :=
  -- MONITOR_SAMPLE
  (∀ (s : State) (b : MonIx) (n : Fin 128) (v : W32) (k : Nat), s.bit (rMon b n 0) 63 = true → s.regF (rMon b n 0) 55 48 ≠ 0 →
    blockSampled s b → (liveBank s b n).bins.length = 16 →
    inBin s b n (min (v.toNat / 2 ^ s.regF (rMon b n 0) 24 20) 65535) k →
    ∃ t, exec (.monitorSample b n v) s = .next t ∧ (liveBank t b n).min = min (liveBank s b n).min v.toNat ∧
      (liveBank t b n).max = max (liveBank s b n).max v.toNat ∧
      (liveBank t b n).cnt = min ((liveBank s b n).cnt + 1) 0xFFFFFFFF ∧
      (∀ i, i < 16 → (liveBank t b n).bins.getD i 0 =
        if i = k then min ((liveBank s b n).bins.getD i 0 + 1) 0xFFFFFFFF else (liveBank s b n).bins.getD i 0) ∧
      (∀ c m, m < 128 → (c, m) ≠ (b.val, n.val) → liveBank t c m = liveBank s c m) ∧
      (s.regF (rMon b n 0x78) 31 0 ≤ v.toNat ∧ v.toNat ≤ s.regF (rMon b n 0x78) 63 32 → t = { s with mons := t.mons }) ∧
      (v.toNat < s.regF (rMon b n 0x78) 31 0 ∨ s.regF (rMon b n 0x78) 63 32 < v.toNat →
        errRaised s t 0x0606 (if b.val < 8 then 1 else 5) (if b.val < 8 then b else b - 8)
          (BitVec.ofNat 64 (v.toNat * 2 ^ 32 + n * 2 ^ 24 + s.regF (rMon b n 0) 55 48 * 2 ^ 16 + s.regF (rMon b n 0) 38 30)) ∧
        t = { s with mons := t.mons, errFlight := t.errFlight })) ∧
  (∀ (s : State) (b : MonIx) (n : Fin 128) (v : W32),
    s.bit (rMon b n 0) 63 = false ∨ s.regF (rMon b n 0) 55 48 = 0 ∨ ¬ blockSampled s b →
    exec (.monitorSample b n v) s = .next s) ∧
  -- WINDOW_CLOSE, MON_CLOSE
  (∀ (s : State) (b : MonIx) (n : Fin 128), blockOn s b →
    (s.regF (rMon b n 0) 19 0 ≠ 0 → ∃ t, exec (.windowClose b n) s = .next t ∧ closed s t b n) ∧
    (s.regF (rMon b n 0) 19 0 = 0 → exec (.windowClose b n) s = .next s) ∧
    ∃ t, exec (.monClose b n) s = .next t ∧ closed s t b n) ∧
  -- POWER_CONTROL, with the input at its nominal voltage
  (∀ (s : State) (sample vin x : Nat) (avg : BitVec 16) (ms tenMs : Bool), blockSampled s 8 → 4000 < vin →
    x = nextPwr (s.regF (therm 0) 39 36) sample avg.toNat (100 * s.regF 0x150000 47 32) (100 * s.regF 0x150000 31 16) ms tenMs →
    ∃ t, exec (.powerControl sample avg vin ms tenMs) s = .next t ∧ (∀ d, d < 8 → t.regF (therm d) 39 36 = x % 16) ∧
      t.regF 0x150000 15 0 = avg.toNat ∧ (∀ d, d < 8 → dieOn s d → stretchIs t d) ∧
      (∀ d, d < 8 → ¬ dieOn s d → t.regF 0x10118 (4 * d + 3) (4 * d) = s.regF 0x10118 (4 * d + 3) (4 * d)) ∧
      (x = 12 ∧ 100 * s.regF 0x150000 31 16 < 100 * avg.toNat ∧
          ¬ (s.regF (therm 0) 39 36 = 12 ∧ s.regF 0x150000 31 16 < s.regF 0x150000 15 0) →
        errRaised s t 0x0603 0 0 (BitVec.ofNat 64 avg.toNat)) ∧
      (∀ a, a ≠ 0x150000 → a ≠ 0x10118 → (∀ d, d < 8 → a ≠ therm d) → t.reg a = s.reg a) ∧
      t = { s with regs := t.regs, errFlight := t.errFlight }) ∧
  (∀ (s : State) (sample vin : Nat) (avg : BitVec 16) (ms tenMs : Bool), ¬ blockSampled s 8 →
    exec (.powerControl sample avg vin ms tenMs) s = .next s) ∧
  -- THERMAL_TRIP
  (∀ (s : State) (d : Fin 10) (sensor : Fin 32) (temp : BitVec 12), 1680 ≤ temp.toNat →
    (d.val < 8 → smGet false s.lostDies d = false → ∃ t, exec (.thermalTrip d sensor temp) s = .next t ∧
      smGet false t.lostDies d = true ∧ t.bit 0x18 (8 + d) = false ∧ (∃ e ∈ t.errFlight, e.code = 0x0602 ∧ e.scope = 1 ∧ e.index = d.val)) ∧
    (d = 8 → ∃ t, exec (.thermalTrip d sensor temp) s = .next t ∧ t.fatal = true ∧ t.units = [] ∧ t.chanBytes = [] ∧ t.reg 0x18 = 0#64) ∧
    (d = 9 → s.hub1Lost = false → ∃ t, exec (.thermalTrip d sensor temp) s = .next t ∧ t.hub1Lost = true ∧ t.hjob = none ∧
      t.regF 0x18 4 3 = 0 ∧ t.regF 0x18 55 44 = 0 ∧ t.chanBytes = s.chanBytes ∧
      (∃ e ∈ t.errFlight, e.code = 0x0602 ∧ e.scope = 5 ∧ e.index = 1 ∧ e.cls = 5))) ∧
  ∀ (s : State) (d : Fin 10) (sensor : Fin 32) (temp : BitVec 12), temp.toNat < 1680 →
    exec (.thermalTrip d sensor temp) s = .next s

open Sys2Proof.Claims in
/-- R554, with what R553, R556 and R558 add. -/
def Obligations.ThermalControllerFollowsItsTable : Prop :=
  (∀ (s : State) (d : DieIx) (tj : BitVec 12) (hot : Fin 32) (aged : Bool), dieOn s d →
    ∃ t, exec (.thermalControl d tj hot aged) s = .next t ∧
      (16 * s.regF (therm d) 31 24 ≤ tj.toNat → t.regF (therm d) 43 40 = min (s.regF (therm d) 43 40 + 1) 12) ∧
      (tj.toNat + 3 * 16 < 16 * s.regF (therm d) 31 24 → aged = true →
        t.regF (therm d) 43 40 = s.regF (therm d) 43 40 - 1) ∧
      (tj.toNat < 16 * s.regF (therm d) 31 24 → 16 * s.regF (therm d) 31 24 ≤ tj.toNat + 3 * 16 ∨ aged = false →
        t.regF (therm d) 43 40 = s.regF (therm d) 43 40)) ∧
  (∀ (s : State) (d : DieIx) (tj : BitVec 12) (hot : Fin 32) (aged : Bool), dieOn s d →
    tj.toNat < 1680 ∨ nextTh (s.regF (therm d) 43 40) tj.toNat (16 * s.regF (therm d) 31 24) aged ≠ 12 →
    ∃ t, exec (.thermalControl d tj hot aged) s = .next t ∧
      t.regF (therm d) 43 40 = nextTh (s.regF (therm d) 43 40) tj.toNat (16 * s.regF (therm d) 31 24) aged ∧
      t.regF (therm d) 63 52 = tj.toNat ∧ t.regF (therm d) 51 47 = hot ∧ t.regF (therm d) 39 0 = s.regF (therm d) 39 0 ∧
      stretchIs t d ∧ (∀ x, x < 8 → x ≠ d.val → t.regF 0x10118 (4 * x + 3) (4 * x) = s.regF 0x10118 (4 * x + 3) (4 * x)) ∧
      onlyRegs s t [therm d, 0x10118]) ∧
  (∀ (s : State) (d : DieIx) (tj : BitVec 12) (hot : Fin 32) (aged : Bool), dieOn s d →
    1680 ≤ tj.toNat → nextTh (s.regF (therm d) 43 40) tj.toNat (16 * s.regF (therm d) 31 24) aged = 12 →
    ¬ (1680 ≤ s.regF (therm d) 63 52 ∧ s.regF (therm d) 43 40 = 12) →
    ∃ t, exec (.thermalControl d tj hot aged) s = .next t ∧ t.regF (therm d) 43 40 = 12 ∧
      t.regF (therm d) 23 16 = (s.regF (therm d) 23 16 + 1) % 256 ∧
      errRaised s t 0x0601 1 d (BitVec.ofNat 64 (hot * 2 ^ 16 + tj.toNat)) ∧
      -- OP4 is requested for the die
      (s.crossDie = false → vPoint s d ≤ 4 → ¬ slewing s d → ¬ spent s d 4 → fPoint t d = 4)) ∧
  ∀ (s : State) (d : DieIx) (tj : BitVec 12) (hot : Fin 32) (aged : Bool), ¬ dieOn s d →
    exec (.thermalControl d tj hot aged) s = .next s

namespace Sys2Proof.Claims

abbrev jub (d : Nat) : Nat := rDie d 0x40
abbrev margin (d : Nat) : Nat := rDie d 0x38

/-- Offset of a point in steps. -/
abbrev offsetOf (s : State) (d p : Nat) : Nat := s.regF (margin d) (4 * p + 3) (4 * p)

/-- R561: a Jubilee of the die may run. -/
abbrev jubFits (s : State) (d : Nat) : Prop := s.program = none ∧ s.jobAt (1 + d) = false ∧ s.pwrState ≤ 1

/-- No column test of the die runs. -/
abbrev testsOver (s : State) (d : Nat) : Prop :=
  ∀ i, i < 96 → (s.physUnit (96 * d + i)).all (fun pu => !s.bit (rUnit pu 8) 1) = true

/-- The faults of a finished test as a unit shows them. -/
abbrev faultsShown (s t : State) (pu : Nat) (f : List (BitVec 66)) : Prop :=
  (∀ a, a < 6 → t.reg (rUnit pu (0x10 + 8 * a)) = (f.getD a 0#66).setWidth 64 ∧
    t.regF (rUnit pu 8) (2 * a + 9) (2 * a + 8) = (f.getD a 0#66).toNat / 2 ^ 64) ∧
  t.regF (rUnit pu 8) 39 32 = (s.regF (rUnit pu 8) 39 32 + 1) % 256 ∧ t.bit (rUnit pu 8) 1 = false

end Sys2Proof.Claims

open Sys2Proof.Claims in
/-- R61 to R63, R65, R66, R561 to R564, R566. -/
def Obligations.JubileesRaiseMarginsAndTestColumns : Prop :=
  -- JUBILEE_DUE
  (∀ (s : State) (d : DieIx), s.bit (jub d) 1 = false → s.bit 0x18 (8 + d) = true →
    ((s.regF 0x40000 47 16 + 2 ^ 32 - s.regF (jub d) 47 16) % 2 ^ 32 < 3600000 → exec (.jubileeDue d) s = .next s) ∧
    (3600000 ≤ (s.regF 0x40000 47 16 + 2 ^ 32 - s.regF (jub d) 47 16) % 2 ^ 32 → ∃ t, exec (.jubileeDue d) s = .next t ∧
      t.bit (jub d) 2 = true ∧ onlyRegs s t [jub d])) ∧
  -- JUBILEE_START
  (∀ (s : State) (d : DieIx) (v : W64), s.bit 0x18 (8 + d) = true →
    (fld v 15 8 = 0 ∨ 40 < fld v 15 8 → exec (.jubileeStart d v) s = .next s) ∧
    (1 ≤ fld v 15 8 → fld v 15 8 ≤ 40 → fld v 0 0 = 1 → fld v 3 3 = 0 → s.bit (jub d) 1 = false → ∃ t,
      exec (.jubileeStart d v) s = .next t ∧ t.regF (jub d) 15 8 = fld v 15 8 ∧
      (jubFits s d → t.bit (jub d) 2 = true ∧ t.bit (jub d) 3 = s.bit (jub d) 3) ∧
      (¬ jubFits s d → t.bit (jub d) 3 = true ∧ t.bit (jub d) 2 = s.bit (jub d) 2) ∧ onlyRegs s t [jub d])) ∧
  -- JUBILEE_RUN
  (∀ (s : State) (d : DieIx), s.bit (jub d) 2 = true → s.bit (jub d) 1 = false → jubFits s d → s.staged = none →
    s.bit 0x18 (8 + d) = true → ∃ t, exec (.jubileeRun d) s = .next t ∧ t.bit (jub d) 1 = true ∧ t.bit (jub d) 2 = false ∧ t.bit 0x18 (8 + d) = false ∧
      (∀ i, i < 96 → (s.physUnit (96 * d + i)).all (fun pu => t.bit (rUnit pu 8) 1) = true) ∧
      t = { s with regs := t.regs, pwr := t.pwr, evtFlight := t.evtFlight }) ∧
  (∀ (s : State) (d : DieIx), s.bit (jub d) 2 = false ∨ ¬ jubFits s d ∨ s.staged ≠ none → exec (.jubileeRun d) s = .next s) ∧
  -- JUBILEE_COMPLETE
  (∀ (s : State) (d : DieIx) (runs : List MarginRun), s.bit (jub d) 1 = true → testsOver s d →
    (∀ p, p < 5 → offsetOf s d p ≤ 10) →
    ∃ t, exec (.jubileeComplete d runs) s = .next t ∧ t.bit (jub d) 1 = false ∧
      t.regF (jub d) 63 48 = (s.regF (jub d) 63 48 + 1) % 65536 ∧ t.regF (jub d) 47 16 = s.regF 0x40000 47 16 ∧
      t.bit 0x18 (8 + d) = true ∧
      (∀ p, p < 5 → offsetOf s d p ≤ offsetOf t d p ∧ offsetOf t d p ≤ 10 ∧
        -- the first measurement meets the target
        ((runs.getD p []).head?.any (fun m => decide ((s.regF (jub d) 15 8 : Int) ≤ m)) = true →
          offsetOf t d p = offsetOf s d p ∧ (spent t d p ↔ spent s d p)) ∧
        -- none of the eleven does
        ((∀ m ∈ (runs.getD p []).take (11 - offsetOf s d p), m < (s.regF (jub d) 15 8 : Int)) →
          offsetOf t d p = 10 ∧ spent t d p)) ∧
      smGet 0#64 t.mmc.margin d = t.reg (margin d) ∧ t.chanBytes = s.chanBytes ∧ t.program = s.program) ∧
  -- COLUMN_TEST
  (∀ (s : State) (u : UnitIx) (pu : Nat), trusted s → s.physUnit u = some pu →
    (s.program = none → s.staged = none → ∃ t, exec (.columnTest true (some u)) s = .next t ∧ t.bit (rUnit pu 8) 1 = true ∧
      t.out = .mgmt 0 [] :: s.out ∧ onlyRegs { s with out := t.out } t [rUnit pu 8]) ∧
    (s.program ≠ none ∨ s.staged ≠ none → ∃ t, exec (.columnTest true (some u)) s = .next t ∧ t = s.emit (.mgmt mgmtRefused []))) ∧
  -- COLUMN_TEST_DONE with the widths unchanged
  (∀ (s : State) (u : UnitIx) (pu : Nat) (f : List (BitVec 66)), s.physUnit u = some pu → s.bit (rUnit pu 8) 1 = true →
    s.widths pu = widthsOf f →
    ∃ t, exec (.columnTestDone u f) s = .next t ∧ faultsShown s t pu f ∧
      onlyRegs s t [rUnit pu 8, rUnit pu 0x10, rUnit pu 0x18, rUnit pu 0x20, rUnit pu 0x28, rUnit pu 0x30, rUnit pu 0x38]) ∧
  -- with narrower widths and a full-width spare
  (∀ (s : State) (u : UnitIx) (pu sp : Nat) (f : List (BitVec 66)), s.physUnit u = some pu → s.bit (rUnit pu 8) 1 = true →
    (∃ a, a < 6 ∧ arrayWidth (f.getD a 0#66) < (s.widths pu).getD a 0) → s.regF (rRgn (u / 24) 0) 27 25 = sp → sp < 7 →
    (∀ i, i < 4 → s.widths (4 * (7 * (u / 24) + sp) + i) = [64, 64, 64, 64, 64, 64]) → pu / 4 ≠ 7 * (u / 24) + sp →
    ∃ t, exec (.columnTestDone u f) s = .next t ∧ faultsShown s t pu f ∧
      t.physClu (u / 4) = some (7 * (u / 24) + sp) ∧ t.rgnGen (u / 4) = (s.rgnGen (u / 4) + 1) % 256 ∧
      smGet false t.deadClus (pu / 4) = true ∧ (∃ e ∈ t.errFlight, e.code = 0x0201 ∧ e.index = u / 4)) ∧
  -- with narrower widths of at least 56 columns and no spare
  ∀ (s : State) (u : UnitIx) (pu : Nat) (f : List (BitVec 66)), s.physUnit u = some pu → s.bit (rUnit pu 8) 1 = true →
    s.widths pu ≠ widthsOf f → (∀ a, a < 6 → 56 ≤ arrayWidth (f.getD a 0#66)) → s.regF (rRgn (u / 24) 0) 27 25 = 7 →
    ∃ t, exec (.columnTestDone u f) s = .next t ∧ faultsShown s t pu f ∧ t.bit (rUnit pu 8) 2 = true ∧
      t.widths pu = widthsOf f ∧ t.bit (rUnit pu 0) 47 = (widthsOf f).any (fun w => decide (w < 64)) ∧
      (∃ e ∈ t.errFlight, e.code = 0x0103 ∧ e.index = u.val) ∧ t.physUnit u = some pu ∧ t.units = s.units

namespace Sys2Proof.Claims

/-- PKG_TXN_STAT of a requester. -/
abbrev txnStat (w : Who) : Nat := rTxn w 0x98
abbrev isOpen (s : State) (w : Who) : Prop := s.regF (txnStat w) 63 60 = 1

/-- The requester reaches BAR0: the host through a ready host interface, the management port through the MMC. -/
abbrev mayAsk (s : State) (w : Who) : Prop :=
  s.pwr.off = false ∧ s.bit 0x18 (match w with | .host => 1 | .mgmt => 0) = true

/-- The requester's transaction closes with a result, and nothing else changes. -/
abbrev txnClosed (s t : State) (w : Who) (result cause first : Nat) : Prop :=
  t.regF (txnStat w) 63 60 = 0 ∧ t.regF (txnStat w) 59 56 = result ∧ t.regF (txnStat w) 55 48 = cause ∧
  t.regF (txnStat w) 47 28 = s.regF (txnStat w) 47 28 ∧ t.regF (txnStat w) 27 0 = first ∧ t.txn w = {} ∧
  t.txn (State.otherWho w) = s.txn (State.otherWho w) ∧
  onlyRegs { s with txnHost := t.txnHost, txnMgmt := t.txnMgmt } t [txnStat w]

/-- The staged registers, in ascending offset. -/
abbrev stagedRising (s : State) (w : Who) : Prop := (s.txn w).staged.Pairwise fun x y => x.1 < y.1

end Sys2Proof.Claims

open Sys2Proof.Claims in
/-- R597 to R601, with the rules that refuse a commit. -/
def Obligations.TransactionsCommitWholeOrNotAtAll : Prop :=
  -- PKG_TXN_BEGIN
  (∀ (s : State) (w : Who) (v : W64), isOpen s w → mayAsk s w → exec (.pkgTxnBegin w v) s = .next s) ∧
  -- a requester that does not reach BAR0
  (∀ (s : State) (w : Who) (v : W64), ¬ mayAsk s w → exec (.pkgTxnBegin w v) s = .next s ∧
    exec (.pkgTxnCommit w v) s = .next s ∧ exec (.pkgTxnRollback w v) s = .next s) ∧
  (∀ (s : State) (w : Who) (v : W64), mayAsk s w → ¬ isOpen s w → ∃ t, exec (.pkgTxnBegin w v) s = .next t ∧ isOpen t w ∧
    t.regF (txnStat w) 47 39 = 0 ∧ t.txn w = {} ∧ t.txn (State.otherWho w) = s.txn (State.otherWho w) ∧
    t.regF (txnStat w) 59 48 = s.regF (txnStat w) 59 48 ∧
    onlyRegs { s with txnHost := t.txnHost, txnMgmt := t.txnMgmt } t [txnStat w]) ∧
  -- PKG_TXN_COMMIT without GO or without a transaction
  (∀ (s : State) (w : Who) (v : W64), mayAsk s w → fld v 0 0 = 0 ∨ ¬ isOpen s w → exec (.pkgTxnCommit w v) s = .next s) ∧
  -- refused: OVERFLOW
  (∀ (s : State) (w : Who) (v : W64) (k : Nat), fld v 0 0 = 1 → mayAsk s w → isOpen s w → (s.txn w).ovf = some k → k < 2 ^ 28 →
    ∃ t, exec (.pkgTxnCommit w v) s = .next t ∧ txnClosed s t w 4 5 k) ∧
  -- refused: NOT_READY, with the first such register
  (∀ (s : State) (w : Who) (v : W64) (e : Nat × W64), fld v 0 0 = 1 → mayAsk s w → isOpen s w → (s.txn w).ovf = none →
    ((s.txn w).staged.find? fun x => !s.regReady x.1 || s.regLost x.1) = some e → e.1 < 2 ^ 28 →
    ∃ t, exec (.pkgTxnCommit w v) s = .next t ∧ txnClosed s t w 4 4 e.1) ∧
  -- refused: CONFLICT
  (∀ (s : State) (w : Who) (v : W64) (e : Nat × W64), fld v 0 0 = 1 → mayAsk s w → isOpen s w → (s.txn w).ovf = none →
    (∀ x ∈ (s.txn w).staged, s.regReady x.1 = true ∧ s.regLost x.1 = false) →
    ((s.txn w).staged.find? fun x => (s.txn w).conflict.contains x.1) = some e → e.1 < 2 ^ 28 →
    ∃ t, exec (.pkgTxnCommit w v) s = .next t ∧ txnClosed s t w 4 3 e.1) ∧
  -- refused: RANGE of a DIE_BW_DIV whose three shares do not sum to 16, or of which one is 0
  (∀ (s : State) (w : Who) (v x : W64) (d : DieIx), fld v 0 0 = 1 → mayAsk s w → isOpen s w → (s.txn w).ovf = none → (s.txn w).conflict = [] →
    (s.txn w).staged = [(rDie d 0x10, x)] → s.bit 0x18 (8 + d) = true → smGet false s.lostDies d = false →
    fld x 11 8 + fld x 7 4 + fld x 3 0 ≠ 16 ∨ fld x 11 8 = 0 ∨ fld x 7 4 = 0 ∨ fld x 3 0 = 0 →
    ∃ t, exec (.pkgTxnCommit w v) s = .next t ∧ txnClosed s t w 4 1 (rDie d 0x10)) ∧
  -- refused: CONDITION of a change of PKG_IVL_MODE under a program
  (∀ (s : State) (w : Who) (v x : W64), fld v 0 0 = 1 → mayAsk s w → isOpen s w → (s.txn w).ovf = none → (s.txn w).conflict = [] →
    (s.txn w).staged = [(0x30, x)] → s.program ≠ none → x ≠ s.reg 0x30 → s.regF 0x28 63 56 ≠ 0xE0 →
    ∃ t, exec (.pkgTxnCommit w v) s = .next t ∧ txnClosed s t w 4 2 0x30) ∧
  -- any check that fails leaves every other register as it was
  (∀ (s : State) (w : Who) (v : W64) (c k : Nat), fld v 0 0 = 1 → mayAsk s w → isOpen s w → s.commitFault (s.txn w) = some (c, k) → k < 2 ^ 28 →
    ∃ t, exec (.pkgTxnCommit w v) s = .next t ∧ txnClosed s t w 4 c k) ∧
  -- committed
  (∀ (s : State) (w : Who) (v : W64), fld v 0 0 = 1 → mayAsk s w → isOpen s w → s.commitFault (s.txn w) = none → stagedRising s w →
    ∃ t, exec (.pkgTxnCommit w v) s = .next t ∧ t.regF (txnStat w) 63 60 = 0 ∧ t.regF (txnStat w) 59 56 = 1 ∧
      t.regF (txnStat w) 55 48 = 0 ∧ t.txn w = {} ∧
      (∀ e ∈ (s.txn w).staged, ∀ f ∈ fieldsAt e.1, f.acc = .rwt → t.regF e.1 f.hi f.lo = fld e.2 f.hi f.lo) ∧
      ((∀ e ∈ (s.txn w).staged, e.1 ≠ rSnap 0) → ∀ a, a ≠ txnStat w → (∀ e ∈ (s.txn w).staged, a ≠ e.1) → t.reg a = s.reg a) ∧
      (t.txn (State.otherWho w)).staged = (s.txn (State.otherWho w)).staged) ∧
  -- PKG_TXN_ROLLBACK
  (∀ (s : State) (w : Who) (v : W64), fld v 0 0 = 1 → mayAsk s w → isOpen s w →
    ∃ t, exec (.pkgTxnRollback w v) s = .next t ∧ txnClosed s t w 2 0 (s.regF (txnStat w) 27 0)) ∧
  (∀ (s : State) (w : Who) (v : W64), mayAsk s w → fld v 0 0 = 0 ∨ s.regF (txnStat w) 63 60 = 0 → exec (.pkgTxnRollback w v) s = .next s) ∧
  -- TXN_TIMEOUT
  ∀ (s : State) (w : Who), (isOpen s w → ∃ t, exec (.txnTimeout w) s = .next t ∧
      txnClosed s t w 3 0 (s.regF (txnStat w) 27 0)) ∧
    (s.regF (txnStat w) 63 60 = 0 → exec (.txnTimeout w) s = .next s)

namespace Sys2Proof.Claims

/-- BAR0 offset of a unit's block (R603). -/
abbrev unitWindow (u o : Nat) : Nat :=
  0x1000000 * (u / 96 + 1) + 0x400000 * (u / 24 % 4) + 0x80000 * (u / 4 % 6) + 0x10000 * (u % 4) + o

/-- The requester reaches BAR0 at this offset, and its function is ready. -/
abbrev reachable (s : State) (w : Who) (a : Nat) : Prop :=
  mayAsk s w ∧ ¬ (0x60000 ≤ a ∧ a < 0x100000) ∧ s.regReady a = true ∧ s.regLost a = false

/-- Registers outside the cluster windows whose writes act on nothing but their own fields. -/
abbrev plainReg (a : Nat) : Prop :=
  a % 8 = 0 ∧ (a ∈ [0x30, 0x38, 0x10110, 0x20020, 0x40010, 0x300000, 0x300008, 0x300010, 0x300018, 0x300020, rSnap 0x8, rSnap 0x10,
    rSnap 0x18, rSnap 0x48, 0x150000] ∨ (∃ d, d < 8 ∧ (a = rDie d 0x10 ∨ a = rDie d 0x30)) ∨ (0x20800 ≤ a ∧ a < 0x21000) ∨
    (0x41000 ≤ a ∧ a < 0x42000))

/-- Shadow and active block of a slot. -/
abbrev shadowAt (pu sl o : Nat) : Nat := rUnit pu (0x1000 + 0x400 * sl + o)
abbrev activeAt (pu sl o : Nat) : Nat := rUnit pu (0x2000 + 0x400 * sl + o)

/-- Bank and byte of the program-store window (R606). -/
abbrev pstoreByte (s : State) (pc o : Nat) : Nat :=
  s.regF (rClu pc 0x30) 1 1 * 262144 + 131072 * s.regF (rClu pc 0x30) 0 0 + o

end Sys2Proof.Claims

open Sys2Proof.Claims in
/-- R206, R234, R237, R238, R303, R405, R494, R592 to R594, R598, R603, R605, R606. -/
def Obligations.RegisterAccessFollowsItsFields : Prop :=
  -- REGISTER_WRITE of a size or alignment that R592 does not accept, and by a host that is not served yet
  (∀ (s : State) (w : Who) (off : BitVec 28) (size : Nat) (v : W64), ¬ ((size = 4 ∨ size = 8) ∧ off.toNat % size = 0) →
    exec (.registerWrite w off size v) s = .next s) ∧
  (∀ (s : State) (off : BitVec 28) (size : Nat) (v : W64), s.bit 0x18 1 = false →
    exec (.registerWrite .host off size v) s = .next s) ∧
  -- of a function that is not ready, or lost
  (∀ (s : State) (w : Who) (off : BitVec 28) (v : W64), off.toNat % 8 = 0 → mayAsk s w →
    ¬ (0x60000 ≤ off.toNat ∧ off.toNat < 0x100000) → s.regReady off.toNat = false ∨ s.regLost off.toNat = true →
    ∃ t, exec (.registerWrite w off 8 v) s = .next t ∧ t.regF 0x28 15 0 = (s.regF 0x28 15 0 + 1) % 65536 ∧
      t.regF 0x28 63 16 = s.regF 0x28 63 16 ∧ onlyRegs s t [0x28]) ∧
  -- of a plain register, whole
  (∀ (s : State) (w : Who) (off : BitVec 28) (v : W64), plainReg off.toNat → reachable s w off.toNat → s.discards off.toNat v = false →
    ∃ t, exec (.registerWrite w off 8 v) s = .next t ∧
      (∀ f ∈ fieldsAt off.toNat,
        (f.acc = .rw → t.regF off.toNat f.hi f.lo = fld v f.hi f.lo) ∧
        (f.acc = .w1c → t.regF off.toNat f.hi f.lo = if fld v f.hi f.lo = 1 then 0 else s.regF off.toNat f.hi f.lo) ∧
        (f.acc = .rwt → t.regF off.toNat f.hi f.lo = s.regF off.toNat f.hi f.lo)) ∧
      (∀ b, b < 64 → (∀ f ∈ fieldsAt off.toNat, ¬ (f.lo ≤ b ∧ b ≤ f.hi)) → t.bit off.toNat b = s.bit off.toNat b) ∧
      ((∃ f ∈ fieldsAt off.toNat, f.acc = .rwt) → isOpen s w → (s.txn w).staged.length < 256 → stagedRising s w →
        ∃ e ∈ (t.txn w).staged, e.1 = off.toNat ∧ ∀ f ∈ fieldsAt off.toNat, f.acc = .rwt → fld e.2 f.hi f.lo = fld v f.hi f.lo) ∧
      ((∃ f ∈ fieldsAt off.toNat, f.acc = .rwt) → ¬ isOpen s w → t.txn w = s.txn w ∧
        t.regF (txnStat w) 38 28 = (s.regF (txnStat w) 38 28 + 1) % 2048) ∧
      (∀ a, a ≠ off.toNat → a ≠ txnStat w → t.reg a = s.reg a) ∧
      t = { s with regs := t.regs, txnHost := t.txnHost, txnMgmt := t.txnMgmt }) ∧
  -- of a register that rows of the table name
  (∀ (s : State) (w : Who) (v : W64), (∀ a ∈ [0x48, 0x80, 0x88, 0x90, 0x10118], reachable s w a) →
    exec (.registerWrite w 0x48 8 v) s = exec (.pkgErrInj v) s ∧
    exec (.registerWrite w 0x80 8 v) s = exec (.pkgTxnBegin w v) s ∧
    exec (.registerWrite w 0x88 8 v) s = exec (.pkgTxnCommit w v) s ∧
    exec (.registerWrite w 0x90 8 v) s = exec (.pkgTxnRollback w v) s ∧
    exec (.registerWrite w 0x10118 8 v) s = exec (.pwrStretchWrite v) s) ∧
  (∀ (s : State) (w : Who) (v : W64) (d : DieIx), reachable s w (opReg d) →
    exec (.registerWrite w (BitVec.ofNat 28 (opReg d)) 8 v) s =
      exec (if fld v 3 3 = 1 then .pwrOpTWr d v else if fld v 7 7 = 1 then .pwrOpFWr d v else .pwrOpVWr d v) s) ∧
  (∀ (s : State) (w : Who) (u : UnitIx) (sl : Slot) (o : Fin 128) (v : W64) (pu : Nat), s.physUnit u = some pu →
    reachable s w (unitWindow u (0x1000 + 0x400 * slotIx sl + 8 * o)) →
    exec (.registerWrite w (BitVec.ofNat 28 (unitWindow u (0x1000 + 0x400 * slotIx sl + 8 * o))) 8 v) s =
      exec (.shadowBlockWrite u sl (Fin.ofNat 1024 (8 * o)) 8 v) s) ∧
  -- REG_READ
  (∀ (s : State) (off : BitVec 28), mmcServes s → ¬ (0x60000 ≤ off.toNat ∧ off.toNat < 0x100000) → off.toNat % 8 = 0 →
    (off.toNat < 0x40000 → off.toNat ≠ 0x98 → s.regReady off.toNat = true → s.regLost off.toNat = false →
      ∃ t, exec (.regRead off 8) s = .next t ∧ t.out = .mgmt 0 (leBytes 8 (s.reg off.toNat).toNat) :: s.out ∧
        t = { s with out := t.out, ctr := t.ctr }) ∧
    (s.regReady off.toNat = false → s.regLost off.toNat = false → off.toNat < 0x40000 →
      ∃ t, exec (.regRead off 8) s = .next t ∧ t.out = .mgmt 0 (leBytes 8 (regReset off.toNat).toNat) :: s.out ∧
        t = { s with out := t.out, ctr := t.ctr })) ∧
  (∀ (s : State) (off : BitVec 28) (size : Nat), mmcServes s → ¬ ((size = 4 ∨ size = 8) ∧ off.toNat % size = 0) →
    ∃ t, exec (.regRead off size) s = .next t ∧ t.out = .mgmt 0 (leBytes size 0) :: s.out ∧ t = { s with out := t.out, ctr := t.ctr }) ∧
  (∀ (s : State) (off : BitVec 28), mmcServes s → off.toNat % 8 = 0 → 0x1000000 ≤ off.toNat → off.toNat < 0x9000000 →
    smGet false s.lostDies (off.toNat / 0x1000000 - 1) = true → off.toNat / 0x80000 % 8 = 7 →
    ∃ t, exec (.regRead off 8) s = .next t ∧ t.out = .mgmt 0 (leBytes 8 (2 ^ 64 - 1)) :: s.out) ∧
  -- SHADOW_BLOCK_WRITE
  (∀ (s : State) (u : UnitIx) (sl : Slot) (off : Fin 1024) (v : W64) (pu : Nat), s.physUnit u = some pu →
    s.bit 0x18 (8 + u / 96) = true →
    (off.val % 8 = 0 → ∃ t, exec (.shadowBlockWrite u sl off 8 v) s = .next t ∧ t.reg (shadowAt pu (slotIx sl) off) = v ∧
      smGet false (t.unit pu).hostmod (slotIx sl) = true ∧
      t.reg (activeAt pu (slotIx sl) 208) = (if off.val = 208 then setFld (s.reg (activeAt pu (slotIx sl) 208)) 2 0 (fld v 2 0)
        else s.reg (activeAt pu (slotIx sl) 208)) ∧
      (∀ a, a ≠ shadowAt pu (slotIx sl) off → a ≠ activeAt pu (slotIx sl) 208 → t.reg a = s.reg a) ∧
      t = { s with regs := t.regs, units := t.units }) ∧
    (off.val % 8 = 4 → ∃ t, exec (.shadowBlockWrite u sl off 4 v) s = .next t ∧
      t.reg (shadowAt pu (slotIx sl) (off - 4)) = setFld (s.reg (shadowAt pu (slotIx sl) (off - 4))) 63 32 (fld v 31 0) ∧
      (∀ a, a ≠ shadowAt pu (slotIx sl) (off - 4) → t.reg a = s.reg a))) ∧
  -- ACTIVE_BLOCK_LIVE_WRITE
  (∀ (s : State) (u : UnitIx) (sl : Slot) (off : Fin 1024) (v : W64) (pu : Nat), s.physUnit u = some pu →
    s.bit 0x18 (8 + u / 96) = true → off.val % 8 = 0 →
    (off.val = 208 → ∃ t, exec (.activeBlockLiveWrite u sl off 8 v) s = .next t ∧
      t.reg (activeAt pu (slotIx sl) 208) = setFld (s.reg (activeAt pu (slotIx sl) 208)) 2 0 (fld v 2 0) ∧
      onlyRegs s t [activeAt pu (slotIx sl) 208]) ∧
    (off.val ≠ 208 → exec (.activeBlockLiveWrite u sl off 8 v) s = .next s)) ∧
  -- PSTORE_WINDOW_WRITE
  (∀ (s : State) (c : CluIx) (off : Fin 131072) (v : W64) (pc : Nat), s.physClu c = some pc → s.bit 0x18 (8 + c / 24) = true →
    off.val % 8 = 0 →
    (¬ (s.fetching pc = true ∧ s.ccBank pc = s.regF (rClu pc 0x30) 1 1) → ∃ t, exec (.pstoreWindowWrite c off 8 v) s = .next t ∧
      (∀ i, i < 8 → smGet 0#8 (t.clu pc).store (pstoreByte s pc off + i) = BitVec.ofNat 8 (v.toNat / 256 ^ i)) ∧
      (∀ b, b < pstoreByte s pc off ∨ pstoreByte s pc off + 8 ≤ b → smGet 0#8 (t.clu pc).store b = smGet 0#8 (s.clu pc).store b) ∧
      t = { s with clus := t.clus }) ∧
    (s.fetching pc = true → s.ccBank pc = s.regF (rClu pc 0x30) 1 1 → ∃ t, exec (.pstoreWindowWrite c off 8 v) s = .next t ∧
      t.bit (rClu pc 0x10) 1 = true ∧ t.regF (rClu pc 0x10) 63 48 = (s.regF (rClu pc 0x10) 63 48 + 1) % 65536 ∧
      onlyRegs s t [rClu pc 0x10])) ∧
  -- DIE_LINK_RELOCK
  (∀ (s : State) (d : Fin 7) (longer : Bool), ∃ t, exec (.dieLinkRelock d longer) s = .next t ∧
    smGet 0 t.relock d = (if longer then 1 else 2) ∧ (∀ x, x ≠ d.val → smGet 0 t.relock x = smGet 0 s.relock x) ∧
    t = { s with relock := t.relock }) ∧
  -- HBM_PHY_LOCK_LOSS
  ∀ (s : State) (ch : ChanIx), smGet false s.lostDies (ch / 64) = false →
    (1 ≤ s.chState ch ∧ s.chState ch ≤ 3 → ∃ t, exec (.hbmPhyLockLoss ch) s = .next t ∧ t.chState ch = 3 ∧
      (t.chan ch).failing = true ∧ onlyRegs { s with chans := t.chans } t [rChan ch 0]) ∧
    (s.chState ch = 0 ∨ 3 < s.chState ch → exec (.hbmPhyLockLoss ch) s = .next s)

namespace Sys2Proof.Claims

/-- The command completes with a code and no bytes. -/
abbrev answers (s t : State) (code : Nat) : Prop := t.out.head? = some (.mgmt code []) ∧ s.mmc.sessions = t.mmc.sessions

/-- The command completes with bytes that the manual does not state. -/
abbrev answersData (t : State) : Prop := (match t.out.head? with | some (.mgmt c _) => c == 0 | _ => false) = true

/-- Every cluster of the module has stopped, and every engine's job has ended with FENCED. -/
abbrev fencedNow (s t : State) : Prop :=
  t.fenced = true ∧ t.hjob = none ∧ t.regF State.rHv 63 60 = 6 ∧
  (∀ x ∈ s.present, t.fetching x.2 = false ∧ ∀ u, u < 4 → t.unitHalted (x.2 * 4 + u) = true) ∧
  (∀ k j, 1 ≤ k → k < 15 → (s.tgt k).job = some j → j.sqn ≠ 262144 → j.stage < 4 →
    (t.tgt k).job.map (fun i => (i.stage, i.status)) = some (4, 0x0E)) ∧ t.tgt 0 = s.tgt 0

/-- The commands marked "session", without a session that counts. -/
abbrev sessionless (off : BitVec 28) (size : Nat) (v : W64) (b : BootVerdict) (m : BitVec 4) (r : Fin 8) (g : BitVec 16) (c : ChanIx)
    (p : Bool) (k : Fin 6) (u : Option UnitIx) (d : BitVec 384) : List Instr :=
  [.regWrite false off size v, .coldReset false b m, .warmReset false b, .powerState false r, .admitModule false g,
   .retireNotice false g, .channelRetire false c, .channelTest false c, .channelTrain false c p k, .columnTest false u,
   .clearAlmanac false, .activate false, .testAccess false, .setAnchor false d]

end Sys2Proof.Claims

open Sys2Proof.Claims in
/-- R304, R312, R433, R467 to R469, R491, R504, R506, R586, R587, R590. -/
def Obligations.WilvodomCommandsNeedTheirSession : Prop :=
  -- no session
  (∀ (s : State) (off : BitVec 28) (size : Nat) (v : W64) (b : BootVerdict) (m : BitVec 4) (r : Fin 8) (g : BitVec 16) (c : ChanIx)
      (p : Bool) (k : Fin 6) (u : Option UnitIx) (d : BitVec 384), mmcServes s →
    ∀ i ∈ sessionless off size v b m r g c p k u d, exec i s = .next (s.emit (.mgmt mgmtNotAuthorised []))) ∧
  -- a session that is not authenticated, under an anchor
  (∀ (s : State) (d : BitVec 384), mmcServes s → s.mmc.anchor ≠ none → (∀ x ∈ s.mmc.sessions, x.2 = false) →
    exec (.setAnchor true d) s = .next (s.emit (.mgmt mgmtNotAuthorised []))) ∧
  -- REG_WRITE
  (∀ (s : State) (off : BitVec 28) (size : Nat) (v : W64), trusted s →
    ∃ t, exec (.regWrite true off size v) s = .next (t.emit (.mgmt 0 [])) ∧ exec (.registerWrite .mgmt off size v) s = .next t) ∧
  -- POWER_STATE
  (∀ (s : State), trusted s → s.bit 0x18 1 = true →
    (∃ t, exec (.powerState true 1) s = .next (t.emit (.mgmt 0 [])) ∧ exec .reqIdle s = .next t) ∧
    (∃ t, exec (.powerState true 2) s = .next (t.emit (.mgmt 0 [])) ∧ exec .reqDormant s = .next t) ∧
    (∃ t, exec (.powerState true 3) s = .next (t.emit (.mgmt 0 [])) ∧ exec .reqSolstice s = .next t)) ∧
  (∀ (s : State) (r : Fin 8), trusted s → 4 ≤ r.val → ∃ t, exec (.powerState true r) s = .next t ∧ answers s t 0 ∧
    t.regF pwrStat 56 54 = 6 ∧ t.regF pwrStat 63 57 = s.regF pwrStat 63 57 ∧ onlyRegs { s with out := t.out } t [pwrStat]) ∧
  (∀ s : State, trusted s → 1 ≤ s.pwrState → s.pwrState ≤ 3 → ∃ t, exec (.powerState true 0) s = .next t ∧ answers s t 0 ∧
    wakes s t 2 s.pwrState) ∧
  -- WAKE
  (∀ s : State, mmcServes s → 1 ≤ s.pwrState → s.pwrState ≤ 3 → ∃ t, exec .wake s = .next t ∧ answers s t 0 ∧ wakes s t 2 s.pwrState) ∧
  -- ADMIT
  (∀ (s : State) (g : BitVec 16), trusted s →
    (s.fenced = false → ∃ t, exec (.admitModule true g) s = .next t ∧ answers s t 0 ∧ t.regF (rFab 0) 47 32 = g.toNat ∧
      onlyRegs { s with out := t.out } t [rFab 0]) ∧
    (s.fenced = true → ∃ t, exec (.admitModule true g) s = .next t ∧ answers s t 0 ∧ t.regF (rFab 0) 47 32 = g.toNat ∧
      t.fenced = false ∧ t.regF State.rHv 63 60 = 0 ∧ (∀ x ∈ s.present, t.fetching x.2 = false ∧ t.reg (rClu x.2 0) = 0#64) ∧
      t.chanBytes = s.chanBytes)) ∧
  -- RETIRE_NOTICE
  (∀ (s : State) (g : BitVec 16), trusted s →
    (g.toNat = s.regF (rFab 0) 47 32 → ∃ t, exec (.retireNotice true g) s = .next t ∧ answers s t 0 ∧ fencedNow s t) ∧
    (g.toNat ≠ s.regF (rFab 0) 47 32 → exec (.retireNotice true g) s = .next (s.emit (.mgmt 0 [])))) ∧
  -- CHANNEL_RETIRE: of a channel in TEST it is refused, for the only way out of TEST is training (R312)
  (∀ (s : State) (c : ChanIx), trusted s → smGet false s.lostDies (c / 64) = false →
    (2 ≤ s.chState c ∧ s.chState c ≤ 3 → ∃ t, exec (.channelRetire true c) s = .next t ∧ answers s t 0 ∧ t.chState c = 4 ∧
      (∃ e ∈ t.errFlight, e.code = 0x0403 ∧ e.index = c.val) ∧
      (s.regF (State.rMig (c / 64)) 63 60 = 0 → t.regF (State.rMig (c / 64)) 63 60 = 1 ∧ t.regF (State.rMig (c / 64)) 57 52 = c.val % 64) ∧
      (s.regF (State.rMig (c / 64)) 63 60 ≠ 0 → ∃ e ∈ t.errFlight, e.code = 0x0404 ∧ e.index = c.val)) ∧
    (s.chState c < 2 ∨ 3 < s.chState c → exec (.channelRetire true c) s = .next (s.emit (.mgmt mgmtRefused [])))) ∧
  -- CHANNEL_TEST
  (∀ (s : State) (c : ChanIx), trusted s → smGet false s.lostDies (c / 64) = false → (s.slice (sliceOf c)).lines = [] →
    (s.program = none → s.chState c = 2 → ∃ t, exec (.channelTest true c) s = .next t ∧ answers s t 0 ∧ t.chState c = 1 ∧
      onlyRegs { s with out := t.out } t [rChan c 0]) ∧
    (s.program ≠ none ∨ s.chState c ≠ 2 → exec (.channelTest true c) s = .next (s.emit (.mgmt mgmtRefused [])))) ∧
  -- CHANNEL_TRAIN
  (∀ (s : State) (c : ChanIx) (k : Fin 6), trusted s → smGet false s.lostDies (c / 64) = false →
    (s.chState c = 1 → s.regF (State.rTg c 0x10) 63 62 ≠ 1 → s.heldOf c = [] →
      (∃ t, exec (.channelTrain true c true k) s = .next t ∧ answers s t 0 ∧ t.chState c = 2 ∧ t.regF (rChan c 0) 59 56 = k) ∧
      (∃ t, exec (.channelTrain true c false k) s = .next t ∧ answers s t 0 ∧ t.chState c = 5)) ∧
    (s.chState c ≠ 1 → exec (.channelTrain true c true k) s = .next (s.emit (.mgmt mgmtRefused [])))) ∧
  -- READ_BRINGUP
  (∀ (s : State) (n : Nat), mmcServes s →
    (s.bit 0x18 4 = true → n < s.flash.bringup.length → ∃ t, exec (.readBringup n) s = .next t ∧
      answersData t ∧ t.out.tail = s.out ∧
      t = { s with out := t.out, ctr := t.ctr }) ∧
    (s.flash.bringup.length ≤ n → exec (.readBringup n) s = .next (s.emit (.mgmt mgmtRefused [])))) ∧
  -- ACTIVATE, TEST_ACCESS, SET_ANCHOR
  ∀ (s : State) (d : BitVec 384), trusted s →
    (∃ t, exec (.activate true) s = .next t ∧ answers s t 0 ∧ t.mmc = { s.mmc with fuse := max s.mmc.fuse (min 64 (s.regF 0x28 47 32)) } ∧
      t.regF 0x28 31 16 = max s.mmc.fuse (min 64 (s.regF 0x28 47 32)) % 65536 ∧ onlyRegs { s with out := t.out, mmc := t.mmc } t [0x28]) ∧
    (∃ t, exec (.testAccess true) s = .next t ∧ answers s t 0 ∧
      t = { s.emit (.mgmt 0 []) with mmc := { s.mmc with testAccess := true } }) ∧
    (∃ t, exec (.setAnchor true d) s = .next t ∧ answers s t 0 ∧
      t = { s.emit (.mgmt 0 []) with mmc := { s.mmc with anchor := some d } })

namespace Sys2Proof.Claims

/-- R577 for one cause. -/
abbrev losesInput (c : InputLoss → Instr) (cause : Nat) : Prop :=
  (∀ (s : State) (m : InputLoss), s.pwr.off = true → exec (c m) s = .next s) ∧
  ∀ (s : State) (m : InputLoss), s.pwr.off = false → ∃ t, exec (c m) s = .next t ∧ t.pwr.off = true ∧ t.fatal = true ∧
    t.healthyLow = false ∧ t.reg 0x18 = 0#64 ∧ t.units = [] ∧ t.clus = [] ∧ t.program = none ∧ t.chanBytes = [] ∧ t.pages = [] ∧
    t.evtFlight = [] ∧ t.mmc.savedTime = setFld (s.reg 0x40000) 15 0 0 ∧ t.mmc.fuse = s.mmc.fuse ∧ t.mmc.anchor = s.mmc.anchor ∧
    recordedNext s t 2 5 0 0 0
      (errWord2 (mkErr 0x0508 0 0 0#64) 4 1 false)
      (BitVec.ofNat 64 (m.vmin.toNat * 2 ^ 48 + s.regF 0x150000 15 0 * 2 ^ 32 + m.vhold.toNat * 2 ^ 16 + cause * 2 +
        if (∃ g ∈ s.flash.gens, g.run = true) then 1 else 0)) ∧
    (flashUp s → ¬ restoring s → almCount s < 65535 → (newerCopy t.flash).sound = m.flushed ∧
      olderCopy t.flash = newerCopy s.flash ∧ (newerCopy t.flash).recs.length = almCount s + 1 ∧
      (newerCopy t.flash).recs.getLast? = some (smGet [] t.almanac (almCount s)))

/-- The MMC serves PLDM and SPDM. -/
abbrev sensorOf (id : Nat) : Nat := rMon ((id - 0x1000) / 128) ((id - 0x1000) % 128) 0
abbrev sensorMax (id : Nat) : Nat := rMon ((id - 0x1000) / 128) ((id - 0x1000) % 128) 0x68

end Sys2Proof.Claims

open Sys2Proof.Claims in
/-- R29, R517, R572, R576 to R578, R581, R583 to R585, R589, R590. -/
def Obligations.ManagementProtocolsAndInputLoss : Prop :=
  -- INPUT_UNDERVOLTAGE, INPUT_OVERVOLTAGE, INPUT_CURRENT_LIMIT
  losesInput .inputUndervoltage 0 ∧ losesInput .inputOvervoltage 1 ∧ losesInput .inputCurrentLimit 2 ∧
  -- PLDM_FIRMWARE_UPDATE
  (∀ (s : State) (image : Nat) (svn : BitVec 16) (act : Bool), mmcServes s →
    ∃ t, exec (.pldmFirmwareUpdate image svn act) s = .next t ∧
      (s.bit 0x28 55 = true → t.mmc.imgA = image ∧ t.mmc.svnA = svn.toNat ∧ t.mmc.imgB = s.mmc.imgB ∧ t.mmc.svnB = s.mmc.svnB) ∧
      (s.bit 0x28 55 = false → t.mmc.imgB = image ∧ t.mmc.svnB = svn.toNat ∧ t.mmc.imgA = s.mmc.imgA ∧ t.mmc.svnA = s.mmc.svnA) ∧
      t.mmc.sel = (if act then !s.bit 0x28 55 else s.mmc.sel) ∧ t.mmc.fuse = s.mmc.fuse ∧ t = { s with mmc := t.mmc }) ∧
  -- PLDM_SENSOR_READ
  (∀ (s : State) (id : BitVec 16), mmcServes s →
    (id.toNat < 0x1000 ∨ 0x1500 ≤ id.toNat → exec (.pldmSensorRead id) s = .next (s.emit (.mgmt 0x80 []))) ∧
    (0x1000 ≤ id.toNat → id.toNat < 0x1500 → s.regReady (sensorOf id.toNat) = true → s.regLost (sensorOf id.toNat) = false →
      (s.bit (sensorOf id.toNat) 63 = true → exec (.pldmSensorRead id) s =
        .next (s.emit (.mgmt 0 (0#8 :: leBytes 4 (s.regF (sensorMax id.toNat) 63 32))))) ∧
      (s.bit (sensorOf id.toNat) 63 = false → exec (.pldmSensorRead id) s = .next (s.emit (.mgmt 0 [2#8]))))) ∧
  -- PLDM_EVENT_RETRIEVAL
  (∀ s : State, mmcServes s →
    (∀ e es, s.mmc.events = e :: es → ∃ t, exec .pldmEventRetrieval s = .next t ∧
      t = { s.emit (.pldmEvent e) with mmc := { s.mmc with events := es } }) ∧
    (s.mmc.events = [] → exec .pldmEventRetrieval s = .next s)) ∧
  -- SPDM_REQUEST
  (∀ (s : State) (chained : Bool), mmcServes s →
    ∃ t, exec (.spdmRequest (.keyExchange chained)) s = .next t ∧ t.out.tail = s.out ∧
      (s.mmc.sessions.length < 4 → ∃ n ∈ [0, 1, 2, 3], t.mmc.sessions = s.mmc.sessions ++ [(n, chained)] ∧
        ∀ x ∈ s.mmc.sessions, x.1 ≠ n) ∧
      (4 ≤ s.mmc.sessions.length → t.mmc.sessions = s.mmc.sessions) ∧
      t = { s with out := t.out, ctr := t.ctr, mmc := { s.mmc with sessions := t.mmc.sessions } }) ∧
  (∀ (s : State) (n : Nat), mmcServes s → ∃ t, exec (.spdmRequest (.endSession n)) s = .next t ∧ t.out.tail = s.out ∧
    (∀ x, x ∈ t.mmc.sessions ↔ x ∈ s.mmc.sessions ∧ x.1 ≠ n) ∧
    t = { s with out := t.out, ctr := t.ctr, mmc := { s.mmc with sessions := t.mmc.sessions } }) ∧
  (∀ (s : State) (i nonce : Nat), mmcServes s → ∀ r ∈ ([.getCertificate, .challenge nonce, .getMeasurements i nonce] : List SpdmReq),
    ∃ t, exec (.spdmRequest r) s = .next t ∧ t.out.tail = s.out ∧ t = { s with out := t.out, ctr := t.ctr }) ∧
  -- I3C_ADDRESS_ASSIGN
  (∀ (s : State) (a : BitVec 7), s.pwr.off = false → s.bit 0x18 0 = true →
    (∃ t, exec (.i3cAddressAssign (.setdasa a)) s = .next t ∧ t = { s with mmc := { s.mmc with i3c := some a.toNat } } ∧ t.alertLow = false) ∧
    (∃ t, exec (.i3cAddressAssign (.entdaa a)) s = .next t ∧ t = { s with mmc := { s.mmc with i3c := some a.toNat } }) ∧
    (∃ t, exec (.i3cAddressAssign .rstdaa) s = .next t ∧ t = { s with mmc := { s.mmc with i3c := none } })) ∧
  -- XMODEM_BUNDLE
  (∀ (s : State) (image : Nat) (svn : BitVec 16), s.pwr.off = false →
    (s.regF 0x28 63 56 = 0xE0 → ∃ t, exec (.xmodemBundle image svn) s = .next t ∧
      (if s.mmc.sel then t.mmc = { s.mmc with imgB := image, svnB := svn.toNat }
        else t.mmc = { s.mmc with imgA := image, svnA := svn.toNat }) ∧ t = { s with mmc := t.mmc }) ∧
    (s.regF 0x28 63 56 ≠ 0xE0 → exec (.xmodemBundle image svn) s = .next s)) ∧
  -- TAP_INTRUSIVE_INSTRUCTION, TRST
  (∀ (s : State) (i : TapInstr), s.pwr.off = false →
    (i = .bypass ∨ i = .idcode ∨ i = .sample ∨ s.mmc.testAccess = false → exec (.tapIntrusiveInstruction i) s = .next s) ∧
    (i = .extest ∨ i = .intest ∨ i = .clamp ∨ i = .highz → s.mmc.testAccess = true → s.mmc.tapUsed = false →
      ∃ t, exec (.tapIntrusiveInstruction i) s = .next t ∧ t.reg 0x18 = s.reg 0x18 &&& 3#64 ∧
        t.mmc = { s.mmc with tapUsed := true } ∧ onlyRegs { s with mmc := t.mmc, evtFlight := t.evtFlight } t [0x18])) ∧
  ∀ s : State, exec .trst s = .next s

open Sys2Proof.Claims in
/-- Whole-machine rule of R491, R584, R586, R587, R589, R590. -/
def Obligations.SecurityStateFollowsItsCommands : Prop :=
  ∀ (s t : State) (c : Instr) (cs : List Instr), s.pending = c :: cs → step s = .next t →
    s.mmc.fuse ≤ t.mmc.fuse ∧
    (t.mmc.fuse ≠ s.mmc.fuse → c = .activate true ∧ trusted s) ∧
    (t.mmc.anchor ≠ s.mmc.anchor → ∃ d, c = .setAnchor true d ∧ trusted s ∧ t.mmc.anchor = some d) ∧
    (t.mmc.testAccess = true → s.mmc.testAccess = true ∨ (c = .testAccess true ∧ trusted s)) ∧
    (t.mmc.imgA ≠ s.mmc.imgA ∨ t.mmc.imgB ≠ s.mmc.imgB ∨ t.mmc.svnA ≠ s.mmc.svnA ∨ t.mmc.svnB ≠ s.mmc.svnB →
      ∃ i v, (∃ a, c = .pldmFirmwareUpdate i v a) ∨ c = .xmodemBundle i v)

namespace Sys2Proof.Claims

/-- The depths of the bounded queues. -/
abbrev Depths (s : State) : Prop :=
  (∀ x ∈ s.handlers, x.2.q.length ≤ 4) ∧
  (∀ x ∈ s.units, x.2.squeue.length ≤ 16 ∧ ∀ q ∈ x.2.queues, q.2.length ≤ 16) ∧
  s.txnHost.staged.length ≤ 256 ∧ s.txnMgmt.staged.length ≤ 256 ∧
  s.almStage.flatten.length ≤ 256 ∧ s.mmc.sessions.length ≤ 4 ∧
  (∀ x ∈ s.mons, x.2.bins.length = 16)

end Sys2Proof.Claims

open Sys2Proof.Claims in
/-- R191, R519, R543, R548, R585, R598. -/
def Obligations.QueuesKeepTheirDepths : Prop :=
  ∀ s t : State, Depths s → step s = .next t → Depths t

open Sys2Proof.Claims in
/-- The invariant of the depths holds at reset. -/
def Obligations.ResetKeepsTheDepths : Prop := Depths State.reset

/-- Whole-machine rule of R14, R15, R29 to R31, R480, R481, R485, R510, R572. -/
def Obligations.LossesLastUntilAReset : Prop :=
  ∀ (s t : State) (c : Instr) (cs : List Instr), s.pending = c :: cs → step s = .next t →
    (∀ b m, c ≠ .powerOnColdReset b m) → (∀ a b m, c ≠ .coldReset a b m) →
    (s.fatal = true → t.fatal = true) ∧
    (t.fatal = false →
      (c ≠ .wakeComplete (false, false) → ∀ p, smGet false s.deadClus p = true → smGet false t.deadClus p = true) ∧
      ((∀ a b, c ≠ .warmReset a b) → (∀ b, c ≠ .perstAssert b) →
        (∀ d, smGet false s.lostDies d = true → smGet false t.lostDies d = true) ∧
        (s.hub1Lost = true → t.hub1Lost = true)))

open Sys2Proof.Claims in
/-- R600, for whichever check fails. -/
def Obligations.RefusedCommitChangesNothing : Prop :=
  ∀ (s : State) (w : Who) (v : W64), mayAsk s w → fld v 0 0 = 1 → isOpen s w →
    ∃ t, exec (.pkgTxnCommit w v) s = .next t ∧ (t.regF (txnStat w) 59 56 = 4 →
      t.regF (txnStat w) 63 60 = 0 ∧ t.txn w = {} ∧
      (∃ c k, s.commitFault (s.txn w) = some (c, k) ∧ c ∈ [1, 2, 3, 4, 5] ∧ t.regF (txnStat w) 55 48 = c ∧
        t.regF (txnStat w) 27 0 = k % 2 ^ 28) ∧
      (∀ a, a ≠ txnStat w → t.reg a = s.reg a) ∧
      t.evtFlight = s.evtFlight ∧ t.errFlight = s.errFlight ∧ t.almanac = s.almanac ∧ t.almStage = s.almStage)

open Sys2Proof.Claims in
/-- R563. -/
def Obligations.ExhaustedPointsAreRefused : Prop :=
  (∀ (s : State) (d : DieIx) (v : W64), takesWrite s (opReg d) →
    (fld v 11 11 = 1 → spent s d (fld v 10 8) → ∃ t, exec (.pwrOpVWr d v) s = .next t ∧ opRefused s t d) ∧
    (fld v 7 7 = 1 → (∃ x, x < 8 ∧ reaches s d x ∧ spent s x (fld v 6 4)) →
      ∃ t, exec (.pwrOpFWr d v) s = .next t ∧ opRefused s t d) ∧
    (fld v 3 3 = 1 → (∃ x, x < 8 ∧ reaches s d x ∧ spent s x (fld v 2 0)) →
      ∃ t, exec (.pwrOpTWr d v) s = .next t ∧ opRefused s t d)) ∧
  (∀ (s : State) (d : DieIx) (runs : List MarginRun), s.bit (jub d) 1 = true → testsOver s d → smGet 0 s.pwr.jubOp d ≤ 4 →
    ∃ t, exec (.jubileeComplete d runs) s = .next t ∧
      (¬ spent t d (smGet 0 s.pwr.jubOp d) →
        fPoint t d = smGet 0 s.pwr.jubOp d ∧ vPoint t d = smGet 0 s.pwr.jubOp d) ∧
      (spent t d (smGet 0 s.pwr.jubOp d) → ∀ p, p ≤ 4 → ¬ spent t d p → (∀ q, q < p → spent t d q) →
        fPoint t d = p ∧ vPoint t d = p))

open Sys2Proof.Claims in
/-- R541. -/
def Obligations.AFullAlmanacRecordsNoMore : Prop :=
  (∀ (s : State) (type cls reason scope index : Nat) (w2 w3 : W64), s.bit 0x40008 62 = false → s.regF 0x40008 60 44 = 65535 →
    let t := s.record type cls reason scope index w2 w3
    t.regF 0x40008 60 44 = 65536 ∧ t.bit 0x40008 63 = true ∧ t.regF 0x40008 26 11 = s.regF 0x40008 26 11 ∧
    ∀ i, i ≠ 65535 → smGet [] t.almanac i = smGet [] s.almanac i) ∧
  (∀ (s : State) (type cls reason scope index : Nat) (w2 w3 : W64), s.bit 0x40008 62 = false → 65536 ≤ s.regF 0x40008 60 44 →
    let t := s.record type cls reason scope index w2 w3
    t.almanac = s.almanac ∧ t.regF 0x40008 60 44 = s.regF 0x40008 60 44 ∧ t.bit 0x40008 63 = s.bit 0x40008 63 ∧
    (∃ n, (n = 1 ∨ n = 2) ∧ t.regF 0x40008 26 11 = (s.regF 0x40008 26 11 + n) % 65536)) ∧
  (∀ (s : State) (l : Fin 5) (x a : Nat) (e : Err), handles s l x a e → plainErr e → s.bit 0x40008 62 = false →
    65536 ≤ s.regF 0x40008 60 44 →
    ∃ t, exec (.errorHandlingEnd l x) s = .next t ∧ t.almanac = s.almanac ∧ t.regF 0x40008 60 44 = s.regF 0x40008 60 44 ∧
      (∃ v ∈ t.evtFlight, v.alm = 0xFFFFFFFF ∧ v.type = 2 ∧ v.cls = 2 ∧ v.scope = e.scope ∧ v.index = e.index ∧ v.w3 = e.detail) ∧
      nextTaken s t l x a ∧ classCounted s t 2 ∧ handlingOnly s t a)



open Sys2Proof.Claims in
/-- R181, R183, R193: the four commands of the way from a CFG to a started descriptor complete. -/
def Obligations.DescriptorsAreCheckedAdmittedPreparedAndStarted : Prop :=
  -- DCRC_CHECK
  (∀ (s : State) (u : UnitIx) (pu : Nat) (sl : Slot) (src addr : Nat) (p : Prov) (st : Stage) (rest : List QEnt),
    s.physUnit u.val = some pu → (s.unit pu).queue (slotIx sl) = { cmd := .cfg src addr, prov := p, stage := st } :: rest →
    p.spec = false → ((fresh s).cfgSource (pu / 4) p.bank src addr).2.2 = false →
    ((fresh s).cfgSource (pu / 4) p.bank src addr).1.waited = false →
    State.dcrcOk (State.words 128 ((fresh s).cfgSource (pu / 4) p.bank src addr).2.1) = true →
    ∃ t, exec (.dcrcCheck u sl) s = .next t ∧ (t.unit pu).queue (slotIx sl) = rest ∧
      ∀ i < 128, t.reg (rUnit pu (0x1000 + 0x400 * slotIx sl + 8 * i)) =
        wordAt (State.words 128 ((fresh s).cfgSource (pu / 4) p.bank src addr).2.1) i) ∧
  -- GO_ADMIT
  (∀ (s : State) (u : UnitIx) (pu : Nat) (sl : Slot) (ph : Nat) (p : Prov) (rest : List QEnt),
    goHead s u pu sl ph p .queued rest → admissible s u pu sl p →
    ∃ t, exec (.goAdmit u sl) s = .next t ∧
      (t.unit pu).queue (slotIx sl) = { cmd := .go ph, prov := p, stage := .admitted } :: rest) ∧
  -- GO_PREPARE
  (∀ (s : State) (u : UnitIx) (pu : Nat) (sl : Slot) (t0 n ph : Nat) (p : Prov) (rest : List QEnt) (run : RunSt),
    goHead s u pu sl ph p .admitted rest →
    (copied (fresh s) pu sl).prepCheck pu u.val (slotIx sl) ph (s.shadow pu (slotIx sl)) (entryOf s pu p) = none →
    ((copied (fresh s) pu sl).prepRead pu u.val (slotIx sl) (s.shadow pu (slotIx sl)) p).2 = .inr run →
    ((copied (fresh s) pu sl).prepRead pu u.val (slotIx sl) (s.shadow pu (slotIx sl)) p).1.waited = false →
    ∃ t, exec (.goPrepare u sl ⟨t0, n⟩) s = .next t ∧
      (t.unit pu).queue (slotIx sl) = { cmd := .go ph, prov := p, stage := .prepared } :: rest ∧
      ∀ i < 128, t.reg (rUnit pu (0x2000 + 0x400 * slotIx sl + 8 * i)) =
        s.reg (rUnit pu (0x1000 + 0x400 * slotIx sl + 8 * i))) ∧
  -- GO_START
  ∀ (s : State) (u : UnitIx) (pu : Nat) (sl : Slot) (ph : Nat) (p : Prov) (rest : List QEnt) (r : RunSt),
    goHead s u pu sl ph p .prepared rest → sl ≠ .rru →
    ((s.unit pu).runs.find? fun r => r.prov.ticket == p.ticket) = some r →
    ∃ t, exec (.goStart u sl) s = .next t ∧ (t.unit pu).queue (slotIx sl) = rest ∧
      ∃ q ∈ (t.unit pu).runs, q.prov.ticket = p.ticket ∧ q.started = true

open Sys2Proof.Claims in
/-- R39, R40, R184, R244: an engine's work runs to its end. -/
def Obligations.PassesDrainsAndDescriptorsRunToTheirEnd : Prop :=
  -- PASS_START
  (∀ (s : State) (u : UnitIx) (pu : Nat) (e : Eng) (r : RunSt),
    s.physUnit u.val = some pu → s.nextPass pu (engIx e) = some r → s.unitHalted pu = false →
    (∀ p ∈ (s.eng pu (engIx e)).hist.drop 1, p.d.isSome = true) →
    (s.feed pu u.val (engIx e) r (startOf s pu e r).1).2 = none →
    ∃ t, exec (.passStart u e) s = .next t ∧ (t.eng pu (engIx e)).count = (s.eng pu (engIx e)).count + 1 ∧
      ∃ p ∈ (t.eng pu (engIx e)).hist.head?, p.ticket = r.prov.ticket ∧ p.s = (startOf s pu e r).1) ∧
  -- DRAIN_START
  (∀ (s : State) (u : UnitIx) (pu : Nat) (e : Eng) (p : PassRec) (r : RunSt),
    s.physUnit u.val = some pu →
    ((s.eng pu (engIx e)).hist.filter fun p => p.d.isNone).getLast? = some p → p.s ≤ p.fin →
    ((s.unit pu).runs.find? fun r => r.prov.ticket == p.ticket) = some r → s.unitHalted pu = false →
    r.dead = false → r.prov.spec = false → (s.serialHold pu u.val r p).1 = true →
    (s.drainPass pu u.val (engIx e) p r (drainOf s pu u e p r) []).2 = none →
    ∃ t, exec (.drainStart u e []) s = .next t ∧
      ∃ q ∈ (t.unit pu).runs, q.prov.ticket = p.ticket ∧ q.drained = r.drained + 1) ∧
  -- DESCRIPTOR_COMPLETE
  (∀ (s : State) (u : UnitIx) (pu : Nat) (sl : Slot) (r : RunSt),
    s.physUnit u.val = some pu → ((s.unit pu).runs.find? fun r => r.slot == slotIx sl) = some r →
    State.runLanded r u.val = true → r.prov.spec = false →
    ∃ t, exec (.descriptorComplete u sl) s = .next t ∧
      ∀ q ∈ (t.unit pu).runs, q ∈ (s.unit pu).runs ∧ q.prov.ticket ≠ r.prov.ticket) ∧
  -- WATCHDOG
  ∀ (s : State) (u : UnitIx) (pu : Nat) (h : HaltInfo), s.physUnit u.val = some pu → s.unitHalted pu = false →
    s.regF (rUnit pu 0x70) 15 0 ≠ 0 → State.watchdogName (s.unit pu) = some h →
    ∃ t, exec (.watchdog u) s = .next t ∧ t.unitHalted pu = true ∧ t.regF (rUnit pu 0x100) 63 56 = 0x0D

open Sys2Proof.Claims in
/-- R133, R137, R152, R153. -/
def Obligations.ChainRowsLandAbortsHaltAndRecordsTakeReports : Prop :=
  -- CHAIN_ROW_ARRIVE
  (∀ (s : State) (u : UnitIx) (pu : Nat) (x : ChainRow) (rest : List ChainRow),
    rowComes s u pu x rest → s.unitHalted pu = false →
    (∀ i < x.vals.length, x.vals.getD i [] ≠ [] →
      owned s u.val (0x2000 + arrBase x.eng + i) (ownerOf x.task 0x016) x.cyc ∧
      ∀ y ∈ (s.unit pu).slips, ¬ (y.port = 0x2000 + arrBase x.eng + i ∧ y.cyc = x.cyc)) →
    (∀ y ∈ (s.unit pu).chain.own, y.eng ≠ x.eng) →
    ∃ t, exec (.chainRowArrive u) s = .next t ∧ (t.unit pu).chain.link = rest ∧
      (t.unit pu).chain.buf = (s.unit pu).chain.buf ++ [x]) ∧
  -- CHAIN_ABORT
  (∀ (s : State) (u : UnitIx) (pu : Nat) (r : RunSt),
    s.physUnit u.val = some pu → chainRun s u pu = some r → s.unitHalted pu = false →
    (abortCame s u pu ∨ s.linkDead pu u.val = true) → r.prov.spec = false →
    ∃ t, exec (.chainAbort u) s = .next t ∧ t.unitHalted pu = true ∧ t.bit (rUnit pu 0x58) 1 = true) ∧
  -- SCALE_REPORT
  (∀ (s : State) (i : Nat) (x : ScaleUpd) (p : Report), s.scaleQ[i]? = some x → x.report = some p → x.close = false →
    goesOn (·.fxScaleReport i) s →
    ∃ t, exec (.scaleReport i) s = .next t ∧ t.scaleQ = s.scaleQ.eraseIdx i) ∧
  -- SCALE_CLOSE
  ∀ (s : State) (i : Nat) (x : ScaleUpd), s.scaleQ[i]? = some x → x.report = none → x.close = true →
    goesOn (·.fxScaleClose i) s →
    ∃ t, exec (.scaleClose i) s = .next t ∧ t.scaleQ = s.scaleQ.eraseIdx i

open Sys2Proof.Claims in
/-- R255, R256, R258, R266. -/
def Obligations.StreamCommandsTakeEffect : Prop :=
  -- STREAM_START
  (∀ (s : State) (u : UnitIx) (pu : Nat) (e : SEnt) (rest : List SEnt),
    startable s u pu e rest → e.prov.spec = false → s.serialise = false → (program s u pu e).2.2.2 = none →
    (program s u pu e).1.waited = false →
    ((program s u pu e).1.unit pu).admits e.prov.ticket = true →
    State.baseBad (params (program s u pu e).1 pu) (program s u pu e).2.2.1 = false →
    ∃ t, exec (.streamStart u) s = .next t ∧ (t.unit pu).squeue = rest ∧
      (t.stream pu e.gen e.task).map (·.next) = some 0) ∧
  -- STREAM_ISSUE
  (∀ (s : State) (u : UnitIx) (pu : Nat) (g : GenIx) (k : Nat) (fresh : Bool) (st : StreamSt),
    s.physUnit u.val = some pu → s.pickStream pu g.val = some (k, fresh) → s.stream pu g.val k = some st → st.xlat = false →
    (iOp (st.instr st.next) = 2 ∨ iOp (st.instr st.next) < 2 ∧ issuable s pu g st) →
    ∃ t, exec (.streamIssue u g) s = .next t ∧ (t.stream pu g.val k).map (·.next) = some (st.next + 1)) ∧
  -- ELEMENT_DELIVERY
  ∀ (s : State) (u : UnitIx) (pu cyc : Nat) (g : GenIx) (k : TaskIx) (st0 st : StreamSt) (p : State.Path),
    s.physUnit u.val = some pu → s.stream pu g.val k.val = some st0 → st0.halted = false → st0.dlv < st0.next →
    (s.doHost pu u.val g.val k.val st0.dlv).settleInvals.stream pu g.val k.val = some st → st.dlv = st0.dlv → st.prov.spec = false →
    deliverable s u pu g k cyc st p → iOp (st.instr st.dlv) < 3 →
    ∃ t, exec (.elementDelivery u g k cyc) s = .next t ∧
      t.regF (rUnit pu (0x120 + 8 * g.val)) 31 0 = (s.regF (rUnit pu (0x120 + 8 * g.val)) 31 0 + 1) % 2 ^ 32

open Sys2Proof.Claims in
/-- R269, R273, R434, R435. -/
def Obligations.HostAnswersAndFaultTimeoutsTakeEffect : Prop :=
  -- FAULT_TIMEOUT
  (∀ (s : State) (u : UnitIx) (pu : Nat) (g : GenIx) (k : TaskIx) (st : StreamSt),
    streamAt s u pu g k st → st.blocked = true → s.regF (rUnit pu 0x78) 15 0 ≠ 0 → s.unitHalted pu = false →
    st.prov.spec = false →
    ∃ t, exec (.faultTimeout u g k) s = .next t ∧ t.unitHalted pu = true ∧ t.regF (rUnit pu 0x100) 63 56 = 0x0B) ∧
  -- ATS_TRANSLATION_RESPONSE
  (∀ (s : State) (u : UnitIx) (pu : Nat) (g : GenIx) (k : TaskIx) (st : StreamSt) (w : Bool) (n : Nat)
      (x : Nat × Nat × Bool),
    streamAt s u pu g k st → st.xlat = true → 12 ≤ n → n ≤ 30 → missing st x → (st.stores st.next = true → w = true) →
    ∃ t, exec (.atsTranslationResponse u g k true w n) s = .next t ∧
      (t.stream pu g.val k.val).map (fun x => (x.xlat, x.next, x.blocked)) = some (false, st.next, st.blocked)) ∧
  -- PAGE_REQUEST_RESPONSE
  (∀ (s : State) (u : UnitIx) (pu : Nat) (g : GenIx) (k : TaskIx) (st : StreamSt),
    s.physUnit u.val = some pu → s.stream pu g.val k.val = some st → st.prg = true →
    ∃ t, exec (.pageRequestResponse u g k .success) s = .next t ∧
      t.stream pu g.val k.val = some { st with prg := false, blocked := false, retry := true }) ∧
  -- ATS_INVALIDATION
  (∀ (s : State) (addr : BitVec 48) (n : Nat), ∃ t, exec (.atsInvalidation addr n) s = .next t ∧
    ∀ e ∈ t.atc, addr.toNat % 2 ^ 47 + n ≤ e.base ∨ e.base + 2 ^ e.size ≤ addr.toNat % 2 ^ 47) ∧
  -- PRI_ENABLE_CLEAR
  ∀ s : State, ∃ t, exec .priEnableClear s = .next t ∧ t.pri = false

open Sys2Proof.Claims in
/-- R281, R290, R293 to R295. -/
def Obligations.SliceCommandsTakeEffect : Prop :=
  -- SLICE_REQUEST
  (∀ (s : State) (a : BitVec 48) (d : List Byte) (h : Fin 3) (w : Wait) (l : Line),
    inHbm a.toNat d.length → onePiece s (.write a d h) a.toNat d.length w → lineOf s w = some l → fullLine l →
    s.chState w.ch ≠ 5 →
    ∃ t, exec (.sliceRequest (.write a d h)) s = .next t ∧ ∀ k, k < d.length → (t.peekByte (a.toNat + k)).1 = d.getD k 0#8) ∧
  -- LINE_FILL
  (∀ (s : State) (ch : ChanIx) (line : Nat) (a : BitVec 48) (n : Nat) (w : Wait),
    ((s.slice (sliceOf ch.val)).fills.filter fun w => w.ch == ch.val && w.line == line) = [w] →
    w.req = .read a n 0 → lineOf s w = none → (at_ s w).lost = false → ((at_ s w).ways ch.val line).length < 16 →
    ∃ t, exec (.lineFill ch line []) s = .next t ∧ lineOf t w = some (s.fetchLine ch.val line) ∧ w ∉ (at_ t w).fills) ∧
  -- PATROL_READ
  (∀ (s : State) (ch : ChanIx) (i : Nat), (s.chState ch.val = 2 ∨ s.chState ch.val = 4) → 32 * i < cch →
    s.chLost ch.val = false → s.home ch.val (32 * i) = (ch.val, 32 * i) → (s.getSector ch.val (32 * i)).2 = false →
    ∃ t, exec (.patrolRead ch i .corrected) s = .next t ∧
      t.regF (rChan ch.val 0) 23 0 = (s.regF (rChan ch.val 0) 23 0 + 1) % 2 ^ 24) ∧
  -- MSC_FLUSH
  (∀ (s : State) (r : RgnIx), s.bit 0x18 (8 + r.val / 4) = true → (s.slice r.val).lost = false →
    s.bit (rMsc r.val 8) 2 = false → ∃ t, exec (.mscFlush r) s = .next t ∧ t.bit (rMsc r.val 8) 2 = true) ∧
  -- MSC_FLUSH_DONE
  (∀ (s : State) (r : RgnIx), s.bit (rMsc r.val 8) 2 = true →
    (∀ x ∈ (s.slice r.val).flush, x.1 < 2048 ∧ x.2 < 2 ^ 24 ∧ s.retired x.1 = false ∧ s.chHeld x.1 = false) →
    ∃ t, exec (.mscFlushDone r) s = .next t ∧ t.bit (rMsc r.val 8) 2 = false ∧ (t.slice r.val).flush = []) ∧
  -- UNPIN_ALL
  ∀ (s : State) (r : RgnIx), s.bit 0x18 (8 + r.val / 4) = true →
    ∃ t, exec (.unpinAll r) s = .next t ∧ ∀ l ∈ (t.slice r.val).lines, l.pinned = false

open Sys2Proof.Claims in
/-- R301, R303 to R306, R313 to R315. -/
def Obligations.ChannelCommandsTakeEffect : Prop :=
  -- RETRAIN_WINDOW_OPEN
  (∀ (s : State) (ch : ChanIx), s.chState ch.val = 2 →
    (∀ i < 64, s.chState (64 * (ch.val / 64) + i) ≠ 3) → s.migRuns (ch.val / 64) = false →
    s.regF 0x10108 63 60 ≤ 1 → s.chLost ch.val = false →
    ∃ t, exec (.retrainWindowOpen ch) s = .next t ∧ t.chState ch.val = 3) ∧
  -- RETRAIN_REOPEN
  (∀ (s : State) (ch : ChanIx) (x : Fin 6), s.chState ch.val = 3 → (s.chan ch.val).failing = false →
    ∃ t, exec (.retrainReopen ch x) s = .next t ∧ t.chState ch.val = 2) ∧
  -- RETRAIN_TIMEOUT
  (∀ (s : State) (ch : ChanIx), s.chState ch.val = 3 → (s.chan ch.val).failing = false →
    (s.chan ch.val).badWindows = 0 →
    ∃ t, exec (.retrainTimeout ch ⟨true, false⟩) s = .next t ∧ t.chState ch.val = 2 ∧ (t.chan ch.val).badWindows = 1) ∧
  -- FALLBACK_TRAINING_DONE
  (∀ (s : State) (ch : ChanIx) (x : Fin 6) (ok : Bool), (s.chan ch.val).failing = true →
    s.regF (State.rMig (ch.val / 64)) 63 60 = 0 →
    ∃ t, exec (.fallbackTrainingDone ch ⟨x, ok⟩) s = .next t ∧ t.chState ch.val = (if ok then 4 else 5)) ∧
  -- MIGRATION_UNIT_MOVE
  (∀ (s : State) (d : DieIx) (ch x : Nat), s.migRuns d.val = true →
    ch = 64 * d.val + s.regF (State.rMig d.val) 57 52 → x = s.regF (State.rMig d.val) 20 0 →
    s.retired ch = true → s.unitMoved ch x = false → s.retired (migTarget ch x).1 = false →
    ∃ t, exec (.migrationUnitMove ⟨d, []⟩) s = .next t ∧ t.regF (State.rMig d.val) 20 0 = x + 1) ∧
  -- TG_START
  (∀ (s : State) (ch : ChanIx) (v : W64), tgStarts s ch.val v → (tgWritten s ch.val v).tgBad ch.val = false →
    ∃ t, exec (.tgStart ch v) s = .next t ∧ t.regF (rChan ch.val 0x10) 63 62 = 1) ∧
  -- TG_PROGRAM_END
  (∀ (s : State) (ch : ChanIx) (w : W64), oneStep s ch.val w → fld w 63 61 = 2 →
    (∀ sec, inTgRange s ch.val sec → s.getSector ch.val (32 * sec) = (patternOf w sec, false)) →
    ∃ t, exec (.tgProgramEnd ch []) s = .next t ∧ t.regF (rChan ch.val 0x10) 63 62 = 2) ∧
  -- TG_STOP
  ∀ (s : State) (ch : ChanIx) (v : W64) (bad : List (Nat × W64)), s.bit 0x18 (16 + ch.val / 32) = true →
    bitAt v.toNat 1 = true → s.chState ch.val = 1 → s.regF (rChan ch.val 0x10) 63 62 = 1 →
    ∃ t, exec (.tgStop ch ⟨v, bad⟩) s = .next t ∧ t.regF (rChan ch.val 0x10) 63 62 = 3
end

