-- ==== Sys2Proof/Laws/Tables.lean ====
section
/-!
SUPPORT. The laws of sparse tables: a read after a write, the canonical form, and that equal reads make
equal tables.
-/

namespace Sys2Proof.Machine

variable {α : Type}

/-! ### Reads after writes -/

theorem smGet_smErase_same (d : α) (m : List (Nat × α)) (k : Nat) : smGet d (smErase m k) k = d := by
  induction m with
  | nil => rfl
  | cons e m ih =>
    by_cases h : e.1 = k
    · simpa [smErase, h] using ih
    · simp [smErase, smGet, h, ih]

theorem smGet_smErase_ne (d : α) (m : List (Nat × α)) {j k : Nat} (h : j ≠ k) :
    smGet d (smErase m k) j = smGet d m j := by
  induction m with
  | nil => rfl
  | cons e m ih =>
    by_cases hk : e.1 = k
    · have : e.1 ≠ j := fun hj => h (hj.symm.trans hk)
      simp [smErase, smGet, hk, ih, hk ▸ this]
    · rw [smErase, if_neg hk]
      by_cases hj : e.1 = j <;> simp [smGet, hj, ih]

theorem smGet_smInsert_ne (d : α) (m : List (Nat × α)) {j k : Nat} (v : α) (h : j ≠ k) :
    smGet d (smInsert m k v) j = smGet d m j := by
  induction m with
  | nil => simp [smInsert, smGet, h.symm]
  | cons e m ih =>
    by_cases hk : k < e.1
    · simp [smInsert, smGet, hk, h.symm]
    · rw [smInsert, if_neg hk]
      by_cases hj : e.1 = j <;> simp [smGet, hj, ih]

theorem smGet_smInsert_erased (d : α) (m : List (Nat × α)) (k : Nat) (v : α) :
    smGet d (smInsert (smErase m k) k v) k = v := by
  induction m with
  | nil => simp [smErase, smInsert, smGet]
  | cons e m ih =>
    by_cases h : e.1 = k
    · simpa [smErase, h] using ih
    · by_cases hk : k < e.1
      · simp [smErase, h, smInsert, smGet, hk]
      · simp [smErase, h, smInsert, smGet, hk, ih]

/-- A read after a write gives the value written. -/
@[simp] theorem smGet_smSet_same [DecidableEq α] (d : α) (m : List (Nat × α)) (k : Nat) (v : α) :
    smGet d (smSet d m k v) k = v := by
  by_cases h : v = d
  · simp [smSet, h, smGet_smErase_same]
  · simp [smSet, h, smGet_smInsert_erased]

/-- A write leaves every other key alone. -/
theorem smGet_smSet_ne [DecidableEq α] (d d' : α) (m : List (Nat × α)) {j k : Nat} (v : α) (h : j ≠ k) :
    smGet d (smSet d' m k v) j = smGet d m j := by
  by_cases hv : v = d'
  · simp [smSet, hv, smGet_smErase_ne d m h]
  · simp [smSet, hv, smGet_smInsert_ne d _ v h, smGet_smErase_ne d m h]

theorem smGet_smSet [DecidableEq α] (d : α) (m : List (Nat × α)) (j k : Nat) (v : α) :
    smGet d (smSet d m k v) j = if j = k then v else smGet d m j := by
  by_cases h : j = k
  · subst h; simp
  · simp [h, smGet_smSet_ne d d m v h]

theorem smGet_smSetL [DecidableEq α] (d : α) (vs : List α) (m : List (Nat × α)) (j k : Nat) :
    smGet d (smSetL d m k vs) j = if k ≤ j ∧ j < k + vs.length then vs.getD (j - k) d else smGet d m j := by
  induction vs generalizing m k with
  | nil => simp [smSetL]
  | cons v vs ih =>
    rw [smSetL, ih, smGet_smSet]
    by_cases h1 : k + 1 ≤ j ∧ j < k + 1 + vs.length
    · have h2 : k ≤ j ∧ j < k + (v :: vs).length := by simp; omega
      have h3 : j - k = j - (k + 1) + 1 := by omega
      rw [if_pos h1, if_pos h2, h3, List.getD_cons_succ]
    · rw [if_neg h1]
      by_cases h4 : j = k
      · subst h4; simp
      · rw [if_neg h4, if_neg (by simp; omega)]

/-! ### The canonical form -/

theorem smWf_cons [DecidableEq α] (d : α) (k : Nat) (v : α) (m : List (Nat × α)) :
    smWf d ((k, v) :: m) = true ↔ v ≠ d ∧ (∀ e ∈ m, k < e.1) ∧ smWf d m = true := by
  simp [smWf, and_assoc]

theorem mem_smErase {m : List (Nat × α)} {k : Nat} {e : Nat × α} (h : e ∈ smErase m k) : e ∈ m ∧ e.1 ≠ k := by
  induction m with
  | nil => simp [smErase] at h
  | cons x m ih =>
    by_cases hk : x.1 = k
    · rw [smErase, if_pos hk] at h
      exact ⟨List.mem_cons_of_mem _ (ih h).1, (ih h).2⟩
    · rw [smErase, if_neg hk] at h
      rcases List.mem_cons.1 h with rfl | h
      · exact ⟨List.mem_cons_self, hk⟩
      · exact ⟨List.mem_cons_of_mem _ (ih h).1, (ih h).2⟩

theorem mem_smInsert {m : List (Nat × α)} {k : Nat} {v : α} {e : Nat × α} (h : e ∈ smInsert m k v) :
    e = (k, v) ∨ e ∈ m := by
  induction m with
  | nil => simpa [smInsert] using h
  | cons x m ih =>
    by_cases hk : k < x.1
    · rw [smInsert, if_pos hk] at h
      simpa using h
    · rw [smInsert, if_neg hk] at h
      rcases List.mem_cons.1 h with rfl | h
      · simp
      · rcases ih h with h | h <;> simp [h]

theorem smWf_smErase [DecidableEq α] (d : α) {m : List (Nat × α)} (k : Nat) (h : smWf d m = true) :
    smWf d (smErase m k) = true := by
  induction m with
  | nil => rfl
  | cons e m ih =>
    obtain ⟨k', v⟩ := e
    obtain ⟨h1, h2, h3⟩ := (smWf_cons d k' v m).1 h
    by_cases hk : k' = k
    · simpa [smErase, hk] using ih h3
    · rw [smErase, if_neg hk, smWf_cons]
      exact ⟨h1, fun e he => h2 e (mem_smErase he).1, ih h3⟩

theorem smWf_smInsert [DecidableEq α] (d : α) {m : List (Nat × α)} (k : Nat) {v : α} (hv : v ≠ d)
    (h : smWf d m = true) (hk : ∀ e ∈ m, e.1 ≠ k) : smWf d (smInsert m k v) = true := by
  induction m with
  | nil => simp [smInsert, smWf, hv]
  | cons e m ih =>
    obtain ⟨k', v'⟩ := e
    obtain ⟨h1, h2, h3⟩ := (smWf_cons d k' v' m).1 h
    have hne : k' ≠ k := hk (k', v') List.mem_cons_self
    by_cases hlt : k < k'
    · rw [smInsert, if_pos hlt, smWf_cons]
      refine ⟨hv, fun e he => ?_, h⟩
      rcases List.mem_cons.1 he with rfl | he
      · exact hlt
      · exact Nat.lt_trans hlt (h2 e he)
    · rw [smInsert, if_neg hlt, smWf_cons]
      refine ⟨h1, fun e he => ?_, ih h3 fun e he => hk e (List.mem_cons_of_mem _ he)⟩
      rcases mem_smInsert he with rfl | he
      · show k' < k
        omega
      · exact h2 e he

/-- A write keeps the canonical form. -/
theorem smWf_smSet [DecidableEq α] (d : α) {m : List (Nat × α)} (k : Nat) (v : α) (h : smWf d m = true) :
    smWf d (smSet d m k v) = true := by
  by_cases hv : v = d
  · simpa [smSet, hv] using smWf_smErase d k h
  · simpa [smSet, hv] using smWf_smInsert d k hv (smWf_smErase d k h) fun e he => (mem_smErase he).2

theorem smWf_smSetL [DecidableEq α] (d : α) (vs : List α) {m : List (Nat × α)} (k : Nat) (h : smWf d m = true) :
    smWf d (smSetL d m k vs) = true := by
  induction vs generalizing m k with
  | nil => exact h
  | cons v vs ih => exact ih (k + 1) (smWf_smSet d k v h)

theorem smWf_filter [DecidableEq α] (d : α) (p : Nat × α → Bool) {m : List (Nat × α)} (h : smWf d m = true) :
    smWf d (m.filter p) = true := by
  induction m with
  | nil => rfl
  | cons e m ih =>
    obtain ⟨k, v⟩ := e
    obtain ⟨h1, h2, h3⟩ := (smWf_cons d k v m).1 h
    by_cases hp : p (k, v)
    · rw [List.filter_cons_of_pos hp, smWf_cons]
      exact ⟨h1, fun e he => h2 e (List.mem_of_mem_filter he), ih h3⟩
    · rw [List.filter_cons_of_neg hp]
      exact ih h3

/-- What a table in canonical form reads below its first key. -/
theorem smGet_below [DecidableEq α] (d : α) {m : List (Nat × α)} {k : Nat} (h : ∀ e ∈ m, k < e.1) :
    smGet d m k = d := by
  induction m with
  | nil => rfl
  | cons e m ih =>
    have h1 : e.1 ≠ k := by have := h e List.mem_cons_self; omega
    simpa [smGet, h1] using ih fun x hx => h x (List.mem_cons_of_mem _ hx)

/-- Tables in canonical form that read alike are equal. -/
theorem smWf_ext [DecidableEq α] (d : α) {m n : List (Nat × α)} (hm : smWf d m = true) (hn : smWf d n = true)
    (h : ∀ k, smGet d m k = smGet d n k) : m = n := by
  induction m generalizing n with
  | nil =>
    cases n with
    | nil => rfl
    | cons e n =>
      have := (smWf_cons d e.1 e.2 n).1 hn
      have h1 := h e.1
      simp [smGet] at h1
      exact absurd h1.symm this.1
  | cons e m ih =>
    obtain ⟨k, v⟩ := e
    obtain ⟨a1, a2, a3⟩ := (smWf_cons d k v m).1 hm
    cases n with
    | nil =>
      have h1 := h k
      simp [smGet] at h1
      exact absurd h1 a1
    | cons f n =>
      obtain ⟨k', v'⟩ := f
      obtain ⟨b1, b2, b3⟩ := (smWf_cons d k' v' n).1 hn
      have hk : k = k' := by
        rcases Nat.lt_trichotomy k k' with hlt | heq | hgt
        · have h1 := h k
          have h2 : smGet d n k = d := smGet_below d fun e he => Nat.lt_trans hlt (b2 e he)
          simp [smGet, h2, Nat.ne_of_gt hlt] at h1
          exact absurd h1 a1
        · exact heq
        · have h1 := h k'
          have h2 : smGet d m k' = d := smGet_below d fun e he => Nat.lt_trans hgt (a2 e he)
          simp [smGet, h2, Nat.ne_of_gt hgt] at h1
          exact absurd h1.symm b1
      subst hk
      have hv : v = v' := by simpa [smGet] using h k
      subst hv
      congr 1
      refine ih a3 b3 fun j => ?_
      by_cases hj : k = j
      · subst hj
        rw [smGet_below d a2, smGet_below d b2]
      · simpa [smGet, hj] using h j

/-! ### The register table -/

theorem Registers.wf_cons (k : Nat) (v : W64) (m : SMap W64) :
    Registers.wf ((k, v) :: m) = true ↔ v ≠ regReset k ∧ (∀ e ∈ m, k < e.1) ∧ Registers.wf m = true := by
  simp [Registers.wf, and_assoc]

theorem Registers.wf_smErase {m : SMap W64} (k : Nat) (h : Registers.wf m = true) :
    Registers.wf (smErase m k) = true := by
  induction m with
  | nil => rfl
  | cons e m ih =>
    obtain ⟨k', v⟩ := e
    obtain ⟨h1, h2, h3⟩ := (Registers.wf_cons k' v m).1 h
    by_cases hk : k' = k
    · simpa [smErase, hk] using ih h3
    · rw [smErase, if_neg hk, Registers.wf_cons]
      exact ⟨h1, fun e he => h2 e (mem_smErase he).1, ih h3⟩

theorem Registers.wf_smInsert {m : SMap W64} (k : Nat) {v : W64} (hv : v ≠ regReset k)
    (h : Registers.wf m = true) (hk : ∀ e ∈ m, e.1 ≠ k) : Registers.wf (smInsert m k v) = true := by
  induction m with
  | nil => simp [smInsert, Registers.wf, hv]
  | cons e m ih =>
    obtain ⟨k', v'⟩ := e
    obtain ⟨h1, h2, h3⟩ := (Registers.wf_cons k' v' m).1 h
    have hne : k' ≠ k := hk (k', v') List.mem_cons_self
    by_cases hlt : k < k'
    · rw [smInsert, if_pos hlt, Registers.wf_cons]
      refine ⟨hv, fun e he => ?_, h⟩
      rcases List.mem_cons.1 he with rfl | he
      · exact hlt
      · exact Nat.lt_trans hlt (h2 e he)
    · rw [smInsert, if_neg hlt, Registers.wf_cons]
      refine ⟨h1, fun e he => ?_, ih h3 fun e he => hk e (List.mem_cons_of_mem _ he)⟩
      rcases mem_smInsert he with rfl | he
      · show k' < k
        omega
      · exact h2 e he

theorem Registers.wf_filter (p : Nat × W64 → Bool) {m : SMap W64} (h : Registers.wf m = true) :
    Registers.wf (m.filter p) = true := by
  induction m with
  | nil => rfl
  | cons e m ih =>
    obtain ⟨k, v⟩ := e
    obtain ⟨h1, h2, h3⟩ := (Registers.wf_cons k v m).1 h
    by_cases hp : p (k, v)
    · rw [List.filter_cons_of_pos hp, Registers.wf_cons]
      exact ⟨h1, fun e he => h2 e (List.mem_of_mem_filter he), ih h3⟩
    · rw [List.filter_cons_of_neg hp]
      exact ih h3

/-- Setting a register keeps the canonical form of the register table. -/
theorem Registers.wf_setReg {s : State} (a : Nat) (v : W64) (h : Registers.wf s.regs = true) :
    Registers.wf (s.setReg a v).regs = true := by
  show Registers.wf (smSet (regReset a) s.regs a v) = true
  by_cases hv : v = regReset a
  · simpa [smSet, hv] using Registers.wf_smErase a h
  · simpa [smSet, hv] using Registers.wf_smInsert a hv (Registers.wf_smErase a h) fun e he => (mem_smErase he).2

end Sys2Proof.Machine
end

