-- ==== Sys2Proof/Laws/Registers.lean ====
section
/-!
SUPPORT. The laws of registers and their fields: a read after a write of a register, of a field, and what
the counts and bits of Flags.lean leave in theirs.
-/

namespace Sys2Proof.Machine

/-! ### Fields of words -/

theorem testBit_bitsOf (v hi lo i : Nat) :
    (bitsOf v hi lo).testBit i = (decide (i < hi + 1 - lo) && v.testBit (lo + i)) := by
  rw [bitsOf, Nat.testBit_mod_two_pow, Nat.testBit_div_two_pow, Nat.add_comm lo i]

theorem bitsOf_lt (v hi lo : Nat) : bitsOf v hi lo < 2 ^ (hi + 1 - lo) := Nat.mod_lt _ (Nat.two_pow_pos _)

theorem fld_lt (w : W64) (hi lo : Nat) : fld w hi lo < 2 ^ (hi + 1 - lo) := bitsOf_lt _ _ _

/-- The bits of a word with a field replaced. -/
theorem testBit_setFld (w : W64) (hi lo v j : Nat) (h : lo ≤ hi) (hj : j < 64) :
    (setFld w hi lo v).toNat.testBit j =
      if lo ≤ j ∧ j ≤ hi then v.testBit (j - lo) else w.toNat.testBit j := by
  have e : w.toNat % 2 ^ lo + v % 2 ^ (hi + 1 - lo) * 2 ^ lo + w.toNat / 2 ^ (hi + 1) * 2 ^ (hi + 1) =
      2 ^ (hi + 1) * (w.toNat / 2 ^ (hi + 1)) + (2 ^ lo * (v % 2 ^ (hi + 1 - lo)) + w.toNat % 2 ^ lo) := by
    ring
  have b1 : w.toNat % 2 ^ lo < 2 ^ lo := Nat.mod_lt _ (Nat.two_pow_pos _)
  have b2 : 2 ^ lo * (v % 2 ^ (hi + 1 - lo)) + w.toNat % 2 ^ lo < 2 ^ (hi + 1) := by
    have h1 : v % 2 ^ (hi + 1 - lo) < 2 ^ (hi + 1 - lo) := Nat.mod_lt _ (Nat.two_pow_pos _)
    have h2 : 2 ^ (hi + 1) = 2 ^ lo * 2 ^ (hi + 1 - lo) := by
      rw [← Nat.pow_add]; congr 1; omega
    calc 2 ^ lo * (v % 2 ^ (hi + 1 - lo)) + w.toNat % 2 ^ lo
        < 2 ^ lo * (v % 2 ^ (hi + 1 - lo)) + 2 ^ lo := by omega
      _ = 2 ^ lo * (v % 2 ^ (hi + 1 - lo) + 1) := by ring
      _ ≤ 2 ^ lo * 2 ^ (hi + 1 - lo) := Nat.mul_le_mul_left _ h1
      _ = 2 ^ (hi + 1) := h2.symm
  rw [setFld, BitVec.toNat_ofNat, Nat.testBit_mod_two_pow, e, Nat.testBit_two_pow_mul_add _ b2]
  by_cases hlo : j < lo
  · rw [if_pos (by omega), if_neg (by omega), Nat.testBit_two_pow_mul_add _ b1, if_pos hlo,
      Nat.testBit_mod_two_pow]
    simp [hj, hlo]
  · by_cases hhi : j ≤ hi
    · rw [if_pos (by omega), if_pos (by omega), Nat.testBit_two_pow_mul_add _ b1, if_neg hlo,
        Nat.testBit_mod_two_pow]
      simp [hj]
      omega
    · rw [if_neg (by omega), if_neg (by omega), Nat.testBit_div_two_pow]
      simp [hj]
      congr 1; omega

theorem testBit_fld (w : W64) (hi lo i : Nat) :
    (fld w hi lo).testBit i = (decide (i < hi + 1 - lo) && w.toNat.testBit (lo + i)) := testBit_bitsOf _ _ _ _

/-- A field reads as it was written. -/
theorem fld_setFld (w : W64) (hi lo v : Nat) (h : lo ≤ hi) (h64 : hi < 64) :
    fld (setFld w hi lo v) hi lo = v % 2 ^ (hi + 1 - lo) := by
  apply Nat.eq_of_testBit_eq
  intro i
  rw [testBit_fld, Nat.testBit_mod_two_pow]
  by_cases hi' : i < hi + 1 - lo
  · rw [testBit_setFld w hi lo v _ h (by omega), if_pos (by omega)]
    simp
  · simp [hi']

/-- A field within a field that was written. -/
theorem fld_setFld_sub (w : W64) (hi lo v hi' lo' : Nat) (h : lo ≤ hi) (h64 : hi < 64) (h1 : lo ≤ lo')
    (h2 : hi' ≤ hi) (h3 : lo' ≤ hi') : fld (setFld w hi lo v) hi' lo' = bitsOf v (hi' - lo) (lo' - lo) := by
  apply Nat.eq_of_testBit_eq
  intro i
  rw [testBit_fld, testBit_bitsOf]
  by_cases hlt : i < hi' + 1 - lo'
  · rw [testBit_setFld w hi lo v _ h (by omega), if_pos (by omega)]
    have : lo' + i - lo = lo' - lo + i := by omega
    have h4 : i < hi' - lo + 1 - (lo' - lo) := by omega
    rw [this, decide_eq_true hlt, decide_eq_true h4]
  · have h4 : ¬ i < hi' - lo + 1 - (lo' - lo) := by omega
    simp [hlt, h4]

/-- Writing a field leaves every other field alone. -/
theorem fld_setFld_ne (w : W64) (hi lo v hi' lo' : Nat) (h : lo ≤ hi) (h64 : hi' < 64)
    (hd : hi' < lo ∨ hi < lo') : fld (setFld w hi lo v) hi' lo' = fld w hi' lo' := by
  apply Nat.eq_of_testBit_eq
  intro i
  rw [testBit_fld, testBit_fld]
  by_cases hi'' : i < hi' + 1 - lo'
  · rw [testBit_setFld w hi lo v _ h (by omega), if_neg (by omega)]
  · simp [hi'']

namespace State

/-! ### Registers -/

@[simp] theorem reg_setReg (s : State) (a : Nat) (v : W64) : (s.setReg a v).reg a = v := by
  simp [reg, setReg]

theorem reg_setReg_ne (s : State) {a b : Nat} (v : W64) (h : b ≠ a) : (s.setReg a v).reg b = s.reg b := by
  simp [reg, setReg, smGet_smSet_ne _ _ _ _ h]

theorem reg_setReg_ite (s : State) (a b : Nat) (v : W64) :
    (s.setReg a v).reg b = if b = a then v else s.reg b := by
  by_cases h : b = a
  · subst h; simp
  · simp [h, reg_setReg_ne]

@[simp] theorem reg_setRegF (s : State) (a hi lo v : Nat) :
    (s.setRegF a hi lo v).reg a = setFld (s.reg a) hi lo v := by simp [setRegF]

theorem reg_setRegF_ne (s : State) {a b : Nat} (hi lo v : Nat) (h : b ≠ a) :
    (s.setRegF a hi lo v).reg b = s.reg b := reg_setReg_ne s _ h

/-! ### Fields of registers -/

theorem regF_lt (s : State) (a hi lo : Nat) : s.regF a hi lo < 2 ^ (hi + 1 - lo) := fld_lt _ _ _

theorem regF_setRegF (s : State) (a hi lo v : Nat) (h : lo ≤ hi) (h64 : hi < 64) :
    (s.setRegF a hi lo v).regF a hi lo = v % 2 ^ (hi + 1 - lo) := by
  simp [regF, fld_setFld _ _ _ _ h h64]

theorem regF_setRegF_other (s : State) (a hi lo v hi' lo' : Nat) (h : lo ≤ hi) (h64 : hi' < 64)
    (hd : hi' < lo ∨ hi < lo') : (s.setRegF a hi lo v).regF a hi' lo' = s.regF a hi' lo' := by
  simp [regF, fld_setFld_ne _ _ _ _ _ _ h h64 hd]

theorem regF_setReg_ne (s : State) {a b : Nat} (v : W64) (hi lo : Nat) (h : b ≠ a) :
    (s.setReg a v).regF b hi lo = s.regF b hi lo := by
  simp [regF, reg_setReg_ne s v h]

theorem regF_setRegF_ne (s : State) {a b : Nat} (hi lo v hi' lo' : Nat) (h : b ≠ a) :
    (s.setRegF a hi lo v).regF b hi' lo' = s.regF b hi' lo' := regF_setReg_ne s _ _ _ h

/-! ### Counts and bits -/

/-- A count advanced, modulo its width. -/
theorem regF_bump (s : State) (a hi lo n : Nat) (h : lo ≤ hi) (h64 : hi < 64) :
    (s.bump a hi lo n).regF a hi lo = (s.regF a hi lo + n) % 2 ^ (hi + 1 - lo) :=
  regF_setRegF s a hi lo _ h h64

/-- A saturating count advanced. -/
theorem regF_bumpSat (s : State) (a hi lo n : Nat) (h : lo ≤ hi) (h64 : hi < 64) :
    (s.bumpSat a hi lo n).regF a hi lo = min (s.regF a hi lo + n) (2 ^ (hi + 1 - lo) - 1) := by
  rw [bumpSat, regF_setRegF s a hi lo _ h h64]
  exact Nat.mod_eq_of_lt (lt_of_le_of_lt (Nat.min_le_right _ _) (Nat.sub_lt (Nat.two_pow_pos _) Nat.one_pos))

theorem bit_setBit (s : State) (a i : Nat) (h : i < 64) : (s.setBit a i).bit a i = true := by
  simp [bit, setBit, regF_setRegF s a i i 1 (Nat.le_refl _) h]

theorem bit_clrBit (s : State) (a i : Nat) (h : i < 64) : (s.clrBit a i).bit a i = false := by
  simp [bit, clrBit, regF_setRegF s a i i 0 (Nat.le_refl _) h]

theorem reg_bump_ne (s : State) {a b : Nat} (hi lo n : Nat) (h : b ≠ a) :
    (s.bump a hi lo n).reg b = s.reg b := reg_setRegF_ne s _ _ _ h

theorem reg_bumpSat_ne (s : State) {a b : Nat} (hi lo n : Nat) (h : b ≠ a) :
    (s.bumpSat a hi lo n).reg b = s.reg b := reg_setRegF_ne s _ _ _ h

theorem reg_setBit_ne (s : State) {a b : Nat} (i : Nat) (h : b ≠ a) :
    (s.setBit a i).reg b = s.reg b := reg_setRegF_ne s _ _ _ h

theorem reg_clrBit_ne (s : State) {a b : Nat} (i : Nat) (h : b ≠ a) :
    (s.clrBit a i).reg b = s.reg b := reg_setRegF_ne s _ _ _ h

theorem reg_maxF_ne (s : State) {a b : Nat} (hi lo v : Nat) (h : b ≠ a) :
    (s.maxF a hi lo v).reg b = s.reg b := reg_setRegF_ne s _ _ _ h

/-! ### The gate of a register's function (R483) -/

theorem gate_ready (s : State) (b : Nat) (f : State → State) (h : s.bit 0x18 b = true) : s.gate b f = f s := by
  simp [gate, h]

theorem gate_not_ready (s : State) (b : Nat) (f : State → State) (h : s.bit 0x18 b = false) :
    s.gate b f = s.bump 0x28 15 0 1 := by
  simp [gate, h]

end State

end Sys2Proof.Machine
end

