-- ==== Sys2Proof/Laws/State.lean ====
section
/-!
SUPPORT. What each named update of the state leaves alone: one lemma per field or accessor and update, each true
by definition.
-/

namespace Sys2Proof.Machine.State

variable (s : State)

/-! ### setReg -/

@[simp] theorem setReg_pending (a : Nat) (v : W64) : (s.setReg a v).pending = s.pending := rfl
@[simp] theorem setReg_ctr (a : Nat) (v : W64) : (s.setReg a v).ctr = s.ctr := rfl
@[simp] theorem setReg_out (a : Nat) (v : W64) : (s.setReg a v).out = s.out := rfl
@[simp] theorem setReg_units (a : Nat) (v : W64) : (s.setReg a v).units = s.units := rfl
@[simp] theorem setReg_clus (a : Nat) (v : W64) : (s.setReg a v).clus = s.clus := rfl
@[simp] theorem setReg_tokens (a : Nat) (v : W64) : (s.setReg a v).tokens = s.tokens := rfl
@[simp] theorem setReg_scaleQ (a : Nat) (v : W64) : (s.setReg a v).scaleQ = s.scaleQ := rfl
@[simp] theorem setReg_slotMap (a : Nat) (v : W64) : (s.setReg a v).slotMap = s.slotMap := rfl
@[simp] theorem setReg_staged (a : Nat) (v : W64) : (s.setReg a v).staged = s.staged := rfl
@[simp] theorem setReg_program (a : Nat) (v : W64) : (s.setReg a v).program = s.program := rfl
@[simp] theorem setReg_running (a : Nat) (v : W64) : (s.setReg a v).running = s.running := rfl
@[simp] theorem setReg_frame0 (a : Nat) (v : W64) : (s.setReg a v).frame0 = s.frame0 := rfl
@[simp] theorem setReg_relock (a : Nat) (v : W64) : (s.setReg a v).relock = s.relock := rfl
@[simp] theorem setReg_slices (a : Nat) (v : W64) : (s.setReg a v).slices = s.slices := rfl
@[simp] theorem setReg_chans (a : Nat) (v : W64) : (s.setReg a v).chans = s.chans := rfl
@[simp] theorem setReg_chanBytes (a : Nat) (v : W64) : (s.setReg a v).chanBytes = s.chanBytes := rfl
@[simp] theorem setReg_chanPoison (a : Nat) (v : W64) : (s.setReg a v).chanPoison = s.chanPoison := rfl
@[simp] theorem setReg_chanUnseen (a : Nat) (v : W64) : (s.setReg a v).chanUnseen = s.chanUnseen := rfl
@[simp] theorem setReg_lostDies (a : Nat) (v : W64) : (s.setReg a v).lostDies = s.lostDies := rfl
@[simp] theorem setReg_pages (a : Nat) (v : W64) : (s.setReg a v).pages = s.pages := rfl
@[simp] theorem setReg_targets (a : Nat) (v : W64) : (s.setReg a v).targets = s.targets := rfl
@[simp] theorem setReg_queues (a : Nat) (v : W64) : (s.setReg a v).queues = s.queues := rfl
@[simp] theorem setReg_faults (a : Nat) (v : W64) : (s.setReg a v).faults = s.faults := rfl
@[simp] theorem setReg_reqSeq (a : Nat) (v : W64) : (s.setReg a v).reqSeq = s.reqSeq := rfl
@[simp] theorem setReg_atc (a : Nat) (v : W64) : (s.setReg a v).atc = s.atc := rfl
@[simp] theorem setReg_invals (a : Nat) (v : W64) : (s.setReg a v).invals = s.invals := rfl
@[simp] theorem setReg_ats (a : Nat) (v : W64) : (s.setReg a v).ats = s.ats := rfl
@[simp] theorem setReg_pri (a : Nat) (v : W64) : (s.setReg a v).pri = s.pri := rfl
@[simp] theorem setReg_priStop (a : Nat) (v : W64) : (s.setReg a v).priStop = s.priStop := rfl
@[simp] theorem setReg_flashDue (a : Nat) (v : W64) : (s.setReg a v).flashDue = s.flashDue := rfl
@[simp] theorem setReg_msixEn (a : Nat) (v : W64) : (s.setReg a v).msixEn = s.msixEn := rfl
@[simp] theorem setReg_msixMask (a : Nat) (v : W64) : (s.setReg a v).msixMask = s.msixMask := rfl
@[simp] theorem setReg_hostMem (a : Nat) (v : W64) : (s.setReg a v).hostMem = s.hostMem := rfl
@[simp] theorem setReg_errFlight (a : Nat) (v : W64) : (s.setReg a v).errFlight = s.errFlight := rfl
@[simp] theorem setReg_evtFlight (a : Nat) (v : W64) : (s.setReg a v).evtFlight = s.evtFlight := rfl
@[simp] theorem setReg_almanac (a : Nat) (v : W64) : (s.setReg a v).almanac = s.almanac := rfl
@[simp] theorem setReg_almStage (a : Nat) (v : W64) : (s.setReg a v).almStage = s.almStage := rfl
@[simp] theorem setReg_ports (a : Nat) (v : W64) : (s.setReg a v).ports = s.ports := rfl
@[simp] theorem setReg_fab (a : Nat) (v : W64) : (s.setReg a v).fab = s.fab := rfl
@[simp] theorem setReg_cles (a : Nat) (v : W64) : (s.setReg a v).cles = s.cles := rfl
@[simp] theorem setReg_hjob (a : Nat) (v : W64) : (s.setReg a v).hjob = s.hjob := rfl
@[simp] theorem setReg_flash (a : Nat) (v : W64) : (s.setReg a v).flash = s.flash := rfl
@[simp] theorem setReg_mmc (a : Nat) (v : W64) : (s.setReg a v).mmc = s.mmc := rfl
@[simp] theorem setReg_pwr (a : Nat) (v : W64) : (s.setReg a v).pwr = s.pwr := rfl
@[simp] theorem setReg_handlers (a : Nat) (v : W64) : (s.setReg a v).handlers = s.handlers := rfl
@[simp] theorem setReg_rates (a : Nat) (v : W64) : (s.setReg a v).rates = s.rates := rfl
@[simp] theorem setReg_mons (a : Nat) (v : W64) : (s.setReg a v).mons = s.mons := rfl
@[simp] theorem setReg_txnHost (a : Nat) (v : W64) : (s.setReg a v).txnHost = s.txnHost := rfl
@[simp] theorem setReg_txnMgmt (a : Nat) (v : W64) : (s.setReg a v).txnMgmt = s.txnMgmt := rfl
@[simp] theorem setReg_hostQ (a : Nat) (v : W64) : (s.setReg a v).hostQ = s.hostQ := rfl
@[simp] theorem setReg_waited (a : Nat) (v : W64) : (s.setReg a v).waited = s.waited := rfl
@[simp] theorem setReg_evtBuf (a : Nat) (v : W64) : (s.setReg a v).evtBuf = s.evtBuf := rfl
@[simp] theorem setReg_evtLost (a : Nat) (v : W64) : (s.setReg a v).evtLost = s.evtLost := rfl
@[simp] theorem setReg_evtSeq (a : Nat) (v : W64) : (s.setReg a v).evtSeq = s.evtSeq := rfl
@[simp] theorem setReg_hub1Lost (a : Nat) (v : W64) : (s.setReg a v).hub1Lost = s.hub1Lost := rfl
@[simp] theorem setReg_fatal (a : Nat) (v : W64) : (s.setReg a v).fatal = s.fatal := rfl
@[simp] theorem setReg_modLost (a : Nat) (v : W64) : (s.setReg a v).modLost = s.modLost := rfl
@[simp] theorem setReg_lostRegions (a : Nat) (v : W64) : (s.setReg a v).lostRegions = s.lostRegions := rfl
@[simp] theorem setReg_deadClus (a : Nat) (v : W64) : (s.setReg a v).deadClus = s.deadClus := rfl
@[simp] theorem setReg_gwDrops (a : Nat) (v : W64) : (s.setReg a v).gwDrops = s.gwDrops := rfl
@[simp] theorem setReg_fabDrops (a : Nat) (v : W64) : (s.setReg a v).fabDrops = s.fabDrops := rfl
@[simp] theorem setReg_acc_unit (a : Nat) (v : W64) (j : Nat) :
    (s.setReg a v).unit j = s.unit j := rfl
@[simp] theorem setReg_acc_clu (a : Nat) (v : W64) (j : Nat) :
    (s.setReg a v).clu j = s.clu j := rfl
@[simp] theorem setReg_acc_slice (a : Nat) (v : W64) (j : Nat) :
    (s.setReg a v).slice j = s.slice j := rfl
@[simp] theorem setReg_acc_chan (a : Nat) (v : W64) (j : Nat) :
    (s.setReg a v).chan j = s.chan j := rfl
@[simp] theorem setReg_acc_tgt (a : Nat) (v : W64) (j : Nat) :
    (s.setReg a v).tgt j = s.tgt j := rfl
@[simp] theorem setReg_acc_port (a : Nat) (v : W64) (j : Nat) :
    (s.setReg a v).port j = s.port j := rfl
@[simp] theorem setReg_acc_cle (a : Nat) (v : W64) (j : Nat) :
    (s.setReg a v).cle j = s.cle j := rfl
@[simp] theorem setReg_acc_queueSt (a : Nat) (v : W64) (j : Nat) :
    (s.setReg a v).queueSt j = s.queueSt j := rfl

/-! ### setRegF -/

@[simp] theorem setRegF_pending (a hi lo v : Nat) : (s.setRegF a hi lo v).pending = s.pending := rfl
@[simp] theorem setRegF_ctr (a hi lo v : Nat) : (s.setRegF a hi lo v).ctr = s.ctr := rfl
@[simp] theorem setRegF_out (a hi lo v : Nat) : (s.setRegF a hi lo v).out = s.out := rfl
@[simp] theorem setRegF_units (a hi lo v : Nat) : (s.setRegF a hi lo v).units = s.units := rfl
@[simp] theorem setRegF_clus (a hi lo v : Nat) : (s.setRegF a hi lo v).clus = s.clus := rfl
@[simp] theorem setRegF_tokens (a hi lo v : Nat) : (s.setRegF a hi lo v).tokens = s.tokens := rfl
@[simp] theorem setRegF_scaleQ (a hi lo v : Nat) : (s.setRegF a hi lo v).scaleQ = s.scaleQ := rfl
@[simp] theorem setRegF_slotMap (a hi lo v : Nat) : (s.setRegF a hi lo v).slotMap = s.slotMap := rfl
@[simp] theorem setRegF_staged (a hi lo v : Nat) : (s.setRegF a hi lo v).staged = s.staged := rfl
@[simp] theorem setRegF_program (a hi lo v : Nat) : (s.setRegF a hi lo v).program = s.program := rfl
@[simp] theorem setRegF_running (a hi lo v : Nat) : (s.setRegF a hi lo v).running = s.running := rfl
@[simp] theorem setRegF_frame0 (a hi lo v : Nat) : (s.setRegF a hi lo v).frame0 = s.frame0 := rfl
@[simp] theorem setRegF_relock (a hi lo v : Nat) : (s.setRegF a hi lo v).relock = s.relock := rfl
@[simp] theorem setRegF_slices (a hi lo v : Nat) : (s.setRegF a hi lo v).slices = s.slices := rfl
@[simp] theorem setRegF_chans (a hi lo v : Nat) : (s.setRegF a hi lo v).chans = s.chans := rfl
@[simp] theorem setRegF_chanBytes (a hi lo v : Nat) : (s.setRegF a hi lo v).chanBytes = s.chanBytes := rfl
@[simp] theorem setRegF_chanPoison (a hi lo v : Nat) : (s.setRegF a hi lo v).chanPoison = s.chanPoison := rfl
@[simp] theorem setRegF_chanUnseen (a hi lo v : Nat) : (s.setRegF a hi lo v).chanUnseen = s.chanUnseen := rfl
@[simp] theorem setRegF_lostDies (a hi lo v : Nat) : (s.setRegF a hi lo v).lostDies = s.lostDies := rfl
@[simp] theorem setRegF_pages (a hi lo v : Nat) : (s.setRegF a hi lo v).pages = s.pages := rfl
@[simp] theorem setRegF_targets (a hi lo v : Nat) : (s.setRegF a hi lo v).targets = s.targets := rfl
@[simp] theorem setRegF_queues (a hi lo v : Nat) : (s.setRegF a hi lo v).queues = s.queues := rfl
@[simp] theorem setRegF_faults (a hi lo v : Nat) : (s.setRegF a hi lo v).faults = s.faults := rfl
@[simp] theorem setRegF_reqSeq (a hi lo v : Nat) : (s.setRegF a hi lo v).reqSeq = s.reqSeq := rfl
@[simp] theorem setRegF_atc (a hi lo v : Nat) : (s.setRegF a hi lo v).atc = s.atc := rfl
@[simp] theorem setRegF_invals (a hi lo v : Nat) : (s.setRegF a hi lo v).invals = s.invals := rfl
@[simp] theorem setRegF_ats (a hi lo v : Nat) : (s.setRegF a hi lo v).ats = s.ats := rfl
@[simp] theorem setRegF_pri (a hi lo v : Nat) : (s.setRegF a hi lo v).pri = s.pri := rfl
@[simp] theorem setRegF_priStop (a hi lo v : Nat) : (s.setRegF a hi lo v).priStop = s.priStop := rfl
@[simp] theorem setRegF_flashDue (a hi lo v : Nat) : (s.setRegF a hi lo v).flashDue = s.flashDue := rfl
@[simp] theorem setRegF_msixEn (a hi lo v : Nat) : (s.setRegF a hi lo v).msixEn = s.msixEn := rfl
@[simp] theorem setRegF_msixMask (a hi lo v : Nat) : (s.setRegF a hi lo v).msixMask = s.msixMask := rfl
@[simp] theorem setRegF_hostMem (a hi lo v : Nat) : (s.setRegF a hi lo v).hostMem = s.hostMem := rfl
@[simp] theorem setRegF_errFlight (a hi lo v : Nat) : (s.setRegF a hi lo v).errFlight = s.errFlight := rfl
@[simp] theorem setRegF_evtFlight (a hi lo v : Nat) : (s.setRegF a hi lo v).evtFlight = s.evtFlight := rfl
@[simp] theorem setRegF_almanac (a hi lo v : Nat) : (s.setRegF a hi lo v).almanac = s.almanac := rfl
@[simp] theorem setRegF_almStage (a hi lo v : Nat) : (s.setRegF a hi lo v).almStage = s.almStage := rfl
@[simp] theorem setRegF_ports (a hi lo v : Nat) : (s.setRegF a hi lo v).ports = s.ports := rfl
@[simp] theorem setRegF_fab (a hi lo v : Nat) : (s.setRegF a hi lo v).fab = s.fab := rfl
@[simp] theorem setRegF_cles (a hi lo v : Nat) : (s.setRegF a hi lo v).cles = s.cles := rfl
@[simp] theorem setRegF_hjob (a hi lo v : Nat) : (s.setRegF a hi lo v).hjob = s.hjob := rfl
@[simp] theorem setRegF_flash (a hi lo v : Nat) : (s.setRegF a hi lo v).flash = s.flash := rfl
@[simp] theorem setRegF_mmc (a hi lo v : Nat) : (s.setRegF a hi lo v).mmc = s.mmc := rfl
@[simp] theorem setRegF_pwr (a hi lo v : Nat) : (s.setRegF a hi lo v).pwr = s.pwr := rfl
@[simp] theorem setRegF_handlers (a hi lo v : Nat) : (s.setRegF a hi lo v).handlers = s.handlers := rfl
@[simp] theorem setRegF_rates (a hi lo v : Nat) : (s.setRegF a hi lo v).rates = s.rates := rfl
@[simp] theorem setRegF_mons (a hi lo v : Nat) : (s.setRegF a hi lo v).mons = s.mons := rfl
@[simp] theorem setRegF_txnHost (a hi lo v : Nat) : (s.setRegF a hi lo v).txnHost = s.txnHost := rfl
@[simp] theorem setRegF_txnMgmt (a hi lo v : Nat) : (s.setRegF a hi lo v).txnMgmt = s.txnMgmt := rfl
@[simp] theorem setRegF_hostQ (a hi lo v : Nat) : (s.setRegF a hi lo v).hostQ = s.hostQ := rfl
@[simp] theorem setRegF_waited (a hi lo v : Nat) : (s.setRegF a hi lo v).waited = s.waited := rfl
@[simp] theorem setRegF_evtBuf (a hi lo v : Nat) : (s.setRegF a hi lo v).evtBuf = s.evtBuf := rfl
@[simp] theorem setRegF_evtLost (a hi lo v : Nat) : (s.setRegF a hi lo v).evtLost = s.evtLost := rfl
@[simp] theorem setRegF_evtSeq (a hi lo v : Nat) : (s.setRegF a hi lo v).evtSeq = s.evtSeq := rfl
@[simp] theorem setRegF_hub1Lost (a hi lo v : Nat) : (s.setRegF a hi lo v).hub1Lost = s.hub1Lost := rfl
@[simp] theorem setRegF_fatal (a hi lo v : Nat) : (s.setRegF a hi lo v).fatal = s.fatal := rfl
@[simp] theorem setRegF_modLost (a hi lo v : Nat) : (s.setRegF a hi lo v).modLost = s.modLost := rfl
@[simp] theorem setRegF_lostRegions (a hi lo v : Nat) : (s.setRegF a hi lo v).lostRegions = s.lostRegions := rfl
@[simp] theorem setRegF_deadClus (a hi lo v : Nat) : (s.setRegF a hi lo v).deadClus = s.deadClus := rfl
@[simp] theorem setRegF_gwDrops (a hi lo v : Nat) : (s.setRegF a hi lo v).gwDrops = s.gwDrops := rfl
@[simp] theorem setRegF_fabDrops (a hi lo v : Nat) : (s.setRegF a hi lo v).fabDrops = s.fabDrops := rfl
@[simp] theorem setRegF_acc_unit (a hi lo v : Nat) (j : Nat) :
    (s.setRegF a hi lo v).unit j = s.unit j := rfl
@[simp] theorem setRegF_acc_clu (a hi lo v : Nat) (j : Nat) :
    (s.setRegF a hi lo v).clu j = s.clu j := rfl
@[simp] theorem setRegF_acc_slice (a hi lo v : Nat) (j : Nat) :
    (s.setRegF a hi lo v).slice j = s.slice j := rfl
@[simp] theorem setRegF_acc_chan (a hi lo v : Nat) (j : Nat) :
    (s.setRegF a hi lo v).chan j = s.chan j := rfl
@[simp] theorem setRegF_acc_tgt (a hi lo v : Nat) (j : Nat) :
    (s.setRegF a hi lo v).tgt j = s.tgt j := rfl
@[simp] theorem setRegF_acc_port (a hi lo v : Nat) (j : Nat) :
    (s.setRegF a hi lo v).port j = s.port j := rfl
@[simp] theorem setRegF_acc_cle (a hi lo v : Nat) (j : Nat) :
    (s.setRegF a hi lo v).cle j = s.cle j := rfl
@[simp] theorem setRegF_acc_queueSt (a hi lo v : Nat) (j : Nat) :
    (s.setRegF a hi lo v).queueSt j = s.queueSt j := rfl

/-! ### bump -/

@[simp] theorem bump_pending (a hi lo n : Nat) : (s.bump a hi lo n).pending = s.pending := rfl
@[simp] theorem bump_ctr (a hi lo n : Nat) : (s.bump a hi lo n).ctr = s.ctr := rfl
@[simp] theorem bump_out (a hi lo n : Nat) : (s.bump a hi lo n).out = s.out := rfl
@[simp] theorem bump_units (a hi lo n : Nat) : (s.bump a hi lo n).units = s.units := rfl
@[simp] theorem bump_clus (a hi lo n : Nat) : (s.bump a hi lo n).clus = s.clus := rfl
@[simp] theorem bump_tokens (a hi lo n : Nat) : (s.bump a hi lo n).tokens = s.tokens := rfl
@[simp] theorem bump_scaleQ (a hi lo n : Nat) : (s.bump a hi lo n).scaleQ = s.scaleQ := rfl
@[simp] theorem bump_slotMap (a hi lo n : Nat) : (s.bump a hi lo n).slotMap = s.slotMap := rfl
@[simp] theorem bump_staged (a hi lo n : Nat) : (s.bump a hi lo n).staged = s.staged := rfl
@[simp] theorem bump_program (a hi lo n : Nat) : (s.bump a hi lo n).program = s.program := rfl
@[simp] theorem bump_running (a hi lo n : Nat) : (s.bump a hi lo n).running = s.running := rfl
@[simp] theorem bump_frame0 (a hi lo n : Nat) : (s.bump a hi lo n).frame0 = s.frame0 := rfl
@[simp] theorem bump_relock (a hi lo n : Nat) : (s.bump a hi lo n).relock = s.relock := rfl
@[simp] theorem bump_slices (a hi lo n : Nat) : (s.bump a hi lo n).slices = s.slices := rfl
@[simp] theorem bump_chans (a hi lo n : Nat) : (s.bump a hi lo n).chans = s.chans := rfl
@[simp] theorem bump_chanBytes (a hi lo n : Nat) : (s.bump a hi lo n).chanBytes = s.chanBytes := rfl
@[simp] theorem bump_chanPoison (a hi lo n : Nat) : (s.bump a hi lo n).chanPoison = s.chanPoison := rfl
@[simp] theorem bump_chanUnseen (a hi lo n : Nat) : (s.bump a hi lo n).chanUnseen = s.chanUnseen := rfl
@[simp] theorem bump_lostDies (a hi lo n : Nat) : (s.bump a hi lo n).lostDies = s.lostDies := rfl
@[simp] theorem bump_pages (a hi lo n : Nat) : (s.bump a hi lo n).pages = s.pages := rfl
@[simp] theorem bump_targets (a hi lo n : Nat) : (s.bump a hi lo n).targets = s.targets := rfl
@[simp] theorem bump_queues (a hi lo n : Nat) : (s.bump a hi lo n).queues = s.queues := rfl
@[simp] theorem bump_faults (a hi lo n : Nat) : (s.bump a hi lo n).faults = s.faults := rfl
@[simp] theorem bump_reqSeq (a hi lo n : Nat) : (s.bump a hi lo n).reqSeq = s.reqSeq := rfl
@[simp] theorem bump_atc (a hi lo n : Nat) : (s.bump a hi lo n).atc = s.atc := rfl
@[simp] theorem bump_invals (a hi lo n : Nat) : (s.bump a hi lo n).invals = s.invals := rfl
@[simp] theorem bump_ats (a hi lo n : Nat) : (s.bump a hi lo n).ats = s.ats := rfl
@[simp] theorem bump_pri (a hi lo n : Nat) : (s.bump a hi lo n).pri = s.pri := rfl
@[simp] theorem bump_priStop (a hi lo n : Nat) : (s.bump a hi lo n).priStop = s.priStop := rfl
@[simp] theorem bump_flashDue (a hi lo n : Nat) : (s.bump a hi lo n).flashDue = s.flashDue := rfl
@[simp] theorem bump_msixEn (a hi lo n : Nat) : (s.bump a hi lo n).msixEn = s.msixEn := rfl
@[simp] theorem bump_msixMask (a hi lo n : Nat) : (s.bump a hi lo n).msixMask = s.msixMask := rfl
@[simp] theorem bump_hostMem (a hi lo n : Nat) : (s.bump a hi lo n).hostMem = s.hostMem := rfl
@[simp] theorem bump_errFlight (a hi lo n : Nat) : (s.bump a hi lo n).errFlight = s.errFlight := rfl
@[simp] theorem bump_evtFlight (a hi lo n : Nat) : (s.bump a hi lo n).evtFlight = s.evtFlight := rfl
@[simp] theorem bump_almanac (a hi lo n : Nat) : (s.bump a hi lo n).almanac = s.almanac := rfl
@[simp] theorem bump_almStage (a hi lo n : Nat) : (s.bump a hi lo n).almStage = s.almStage := rfl
@[simp] theorem bump_ports (a hi lo n : Nat) : (s.bump a hi lo n).ports = s.ports := rfl
@[simp] theorem bump_fab (a hi lo n : Nat) : (s.bump a hi lo n).fab = s.fab := rfl
@[simp] theorem bump_cles (a hi lo n : Nat) : (s.bump a hi lo n).cles = s.cles := rfl
@[simp] theorem bump_hjob (a hi lo n : Nat) : (s.bump a hi lo n).hjob = s.hjob := rfl
@[simp] theorem bump_flash (a hi lo n : Nat) : (s.bump a hi lo n).flash = s.flash := rfl
@[simp] theorem bump_mmc (a hi lo n : Nat) : (s.bump a hi lo n).mmc = s.mmc := rfl
@[simp] theorem bump_pwr (a hi lo n : Nat) : (s.bump a hi lo n).pwr = s.pwr := rfl
@[simp] theorem bump_handlers (a hi lo n : Nat) : (s.bump a hi lo n).handlers = s.handlers := rfl
@[simp] theorem bump_rates (a hi lo n : Nat) : (s.bump a hi lo n).rates = s.rates := rfl
@[simp] theorem bump_mons (a hi lo n : Nat) : (s.bump a hi lo n).mons = s.mons := rfl
@[simp] theorem bump_txnHost (a hi lo n : Nat) : (s.bump a hi lo n).txnHost = s.txnHost := rfl
@[simp] theorem bump_txnMgmt (a hi lo n : Nat) : (s.bump a hi lo n).txnMgmt = s.txnMgmt := rfl
@[simp] theorem bump_hostQ (a hi lo n : Nat) : (s.bump a hi lo n).hostQ = s.hostQ := rfl
@[simp] theorem bump_waited (a hi lo n : Nat) : (s.bump a hi lo n).waited = s.waited := rfl
@[simp] theorem bump_evtBuf (a hi lo n : Nat) : (s.bump a hi lo n).evtBuf = s.evtBuf := rfl
@[simp] theorem bump_evtLost (a hi lo n : Nat) : (s.bump a hi lo n).evtLost = s.evtLost := rfl
@[simp] theorem bump_evtSeq (a hi lo n : Nat) : (s.bump a hi lo n).evtSeq = s.evtSeq := rfl
@[simp] theorem bump_hub1Lost (a hi lo n : Nat) : (s.bump a hi lo n).hub1Lost = s.hub1Lost := rfl
@[simp] theorem bump_fatal (a hi lo n : Nat) : (s.bump a hi lo n).fatal = s.fatal := rfl
@[simp] theorem bump_modLost (a hi lo n : Nat) : (s.bump a hi lo n).modLost = s.modLost := rfl
@[simp] theorem bump_lostRegions (a hi lo n : Nat) : (s.bump a hi lo n).lostRegions = s.lostRegions := rfl
@[simp] theorem bump_deadClus (a hi lo n : Nat) : (s.bump a hi lo n).deadClus = s.deadClus := rfl
@[simp] theorem bump_gwDrops (a hi lo n : Nat) : (s.bump a hi lo n).gwDrops = s.gwDrops := rfl
@[simp] theorem bump_fabDrops (a hi lo n : Nat) : (s.bump a hi lo n).fabDrops = s.fabDrops := rfl
@[simp] theorem bump_acc_unit (a hi lo n : Nat) (j : Nat) :
    (s.bump a hi lo n).unit j = s.unit j := rfl
@[simp] theorem bump_acc_clu (a hi lo n : Nat) (j : Nat) :
    (s.bump a hi lo n).clu j = s.clu j := rfl
@[simp] theorem bump_acc_slice (a hi lo n : Nat) (j : Nat) :
    (s.bump a hi lo n).slice j = s.slice j := rfl
@[simp] theorem bump_acc_chan (a hi lo n : Nat) (j : Nat) :
    (s.bump a hi lo n).chan j = s.chan j := rfl
@[simp] theorem bump_acc_tgt (a hi lo n : Nat) (j : Nat) :
    (s.bump a hi lo n).tgt j = s.tgt j := rfl
@[simp] theorem bump_acc_port (a hi lo n : Nat) (j : Nat) :
    (s.bump a hi lo n).port j = s.port j := rfl
@[simp] theorem bump_acc_cle (a hi lo n : Nat) (j : Nat) :
    (s.bump a hi lo n).cle j = s.cle j := rfl
@[simp] theorem bump_acc_queueSt (a hi lo n : Nat) (j : Nat) :
    (s.bump a hi lo n).queueSt j = s.queueSt j := rfl

/-! ### bumpSat -/

@[simp] theorem bumpSat_pending (a hi lo n : Nat) : (s.bumpSat a hi lo n).pending = s.pending := rfl
@[simp] theorem bumpSat_ctr (a hi lo n : Nat) : (s.bumpSat a hi lo n).ctr = s.ctr := rfl
@[simp] theorem bumpSat_out (a hi lo n : Nat) : (s.bumpSat a hi lo n).out = s.out := rfl
@[simp] theorem bumpSat_units (a hi lo n : Nat) : (s.bumpSat a hi lo n).units = s.units := rfl
@[simp] theorem bumpSat_clus (a hi lo n : Nat) : (s.bumpSat a hi lo n).clus = s.clus := rfl
@[simp] theorem bumpSat_tokens (a hi lo n : Nat) : (s.bumpSat a hi lo n).tokens = s.tokens := rfl
@[simp] theorem bumpSat_scaleQ (a hi lo n : Nat) : (s.bumpSat a hi lo n).scaleQ = s.scaleQ := rfl
@[simp] theorem bumpSat_slotMap (a hi lo n : Nat) : (s.bumpSat a hi lo n).slotMap = s.slotMap := rfl
@[simp] theorem bumpSat_staged (a hi lo n : Nat) : (s.bumpSat a hi lo n).staged = s.staged := rfl
@[simp] theorem bumpSat_program (a hi lo n : Nat) : (s.bumpSat a hi lo n).program = s.program := rfl
@[simp] theorem bumpSat_running (a hi lo n : Nat) : (s.bumpSat a hi lo n).running = s.running := rfl
@[simp] theorem bumpSat_frame0 (a hi lo n : Nat) : (s.bumpSat a hi lo n).frame0 = s.frame0 := rfl
@[simp] theorem bumpSat_relock (a hi lo n : Nat) : (s.bumpSat a hi lo n).relock = s.relock := rfl
@[simp] theorem bumpSat_slices (a hi lo n : Nat) : (s.bumpSat a hi lo n).slices = s.slices := rfl
@[simp] theorem bumpSat_chans (a hi lo n : Nat) : (s.bumpSat a hi lo n).chans = s.chans := rfl
@[simp] theorem bumpSat_chanBytes (a hi lo n : Nat) : (s.bumpSat a hi lo n).chanBytes = s.chanBytes := rfl
@[simp] theorem bumpSat_chanPoison (a hi lo n : Nat) : (s.bumpSat a hi lo n).chanPoison = s.chanPoison := rfl
@[simp] theorem bumpSat_chanUnseen (a hi lo n : Nat) : (s.bumpSat a hi lo n).chanUnseen = s.chanUnseen := rfl
@[simp] theorem bumpSat_lostDies (a hi lo n : Nat) : (s.bumpSat a hi lo n).lostDies = s.lostDies := rfl
@[simp] theorem bumpSat_pages (a hi lo n : Nat) : (s.bumpSat a hi lo n).pages = s.pages := rfl
@[simp] theorem bumpSat_targets (a hi lo n : Nat) : (s.bumpSat a hi lo n).targets = s.targets := rfl
@[simp] theorem bumpSat_queues (a hi lo n : Nat) : (s.bumpSat a hi lo n).queues = s.queues := rfl
@[simp] theorem bumpSat_faults (a hi lo n : Nat) : (s.bumpSat a hi lo n).faults = s.faults := rfl
@[simp] theorem bumpSat_reqSeq (a hi lo n : Nat) : (s.bumpSat a hi lo n).reqSeq = s.reqSeq := rfl
@[simp] theorem bumpSat_atc (a hi lo n : Nat) : (s.bumpSat a hi lo n).atc = s.atc := rfl
@[simp] theorem bumpSat_invals (a hi lo n : Nat) : (s.bumpSat a hi lo n).invals = s.invals := rfl
@[simp] theorem bumpSat_ats (a hi lo n : Nat) : (s.bumpSat a hi lo n).ats = s.ats := rfl
@[simp] theorem bumpSat_pri (a hi lo n : Nat) : (s.bumpSat a hi lo n).pri = s.pri := rfl
@[simp] theorem bumpSat_priStop (a hi lo n : Nat) : (s.bumpSat a hi lo n).priStop = s.priStop := rfl
@[simp] theorem bumpSat_flashDue (a hi lo n : Nat) : (s.bumpSat a hi lo n).flashDue = s.flashDue := rfl
@[simp] theorem bumpSat_msixEn (a hi lo n : Nat) : (s.bumpSat a hi lo n).msixEn = s.msixEn := rfl
@[simp] theorem bumpSat_msixMask (a hi lo n : Nat) : (s.bumpSat a hi lo n).msixMask = s.msixMask := rfl
@[simp] theorem bumpSat_hostMem (a hi lo n : Nat) : (s.bumpSat a hi lo n).hostMem = s.hostMem := rfl
@[simp] theorem bumpSat_errFlight (a hi lo n : Nat) : (s.bumpSat a hi lo n).errFlight = s.errFlight := rfl
@[simp] theorem bumpSat_evtFlight (a hi lo n : Nat) : (s.bumpSat a hi lo n).evtFlight = s.evtFlight := rfl
@[simp] theorem bumpSat_almanac (a hi lo n : Nat) : (s.bumpSat a hi lo n).almanac = s.almanac := rfl
@[simp] theorem bumpSat_almStage (a hi lo n : Nat) : (s.bumpSat a hi lo n).almStage = s.almStage := rfl
@[simp] theorem bumpSat_ports (a hi lo n : Nat) : (s.bumpSat a hi lo n).ports = s.ports := rfl
@[simp] theorem bumpSat_fab (a hi lo n : Nat) : (s.bumpSat a hi lo n).fab = s.fab := rfl
@[simp] theorem bumpSat_cles (a hi lo n : Nat) : (s.bumpSat a hi lo n).cles = s.cles := rfl
@[simp] theorem bumpSat_hjob (a hi lo n : Nat) : (s.bumpSat a hi lo n).hjob = s.hjob := rfl
@[simp] theorem bumpSat_flash (a hi lo n : Nat) : (s.bumpSat a hi lo n).flash = s.flash := rfl
@[simp] theorem bumpSat_mmc (a hi lo n : Nat) : (s.bumpSat a hi lo n).mmc = s.mmc := rfl
@[simp] theorem bumpSat_pwr (a hi lo n : Nat) : (s.bumpSat a hi lo n).pwr = s.pwr := rfl
@[simp] theorem bumpSat_handlers (a hi lo n : Nat) : (s.bumpSat a hi lo n).handlers = s.handlers := rfl
@[simp] theorem bumpSat_rates (a hi lo n : Nat) : (s.bumpSat a hi lo n).rates = s.rates := rfl
@[simp] theorem bumpSat_mons (a hi lo n : Nat) : (s.bumpSat a hi lo n).mons = s.mons := rfl
@[simp] theorem bumpSat_txnHost (a hi lo n : Nat) : (s.bumpSat a hi lo n).txnHost = s.txnHost := rfl
@[simp] theorem bumpSat_txnMgmt (a hi lo n : Nat) : (s.bumpSat a hi lo n).txnMgmt = s.txnMgmt := rfl
@[simp] theorem bumpSat_hostQ (a hi lo n : Nat) : (s.bumpSat a hi lo n).hostQ = s.hostQ := rfl
@[simp] theorem bumpSat_waited (a hi lo n : Nat) : (s.bumpSat a hi lo n).waited = s.waited := rfl
@[simp] theorem bumpSat_evtBuf (a hi lo n : Nat) : (s.bumpSat a hi lo n).evtBuf = s.evtBuf := rfl
@[simp] theorem bumpSat_evtLost (a hi lo n : Nat) : (s.bumpSat a hi lo n).evtLost = s.evtLost := rfl
@[simp] theorem bumpSat_evtSeq (a hi lo n : Nat) : (s.bumpSat a hi lo n).evtSeq = s.evtSeq := rfl
@[simp] theorem bumpSat_hub1Lost (a hi lo n : Nat) : (s.bumpSat a hi lo n).hub1Lost = s.hub1Lost := rfl
@[simp] theorem bumpSat_fatal (a hi lo n : Nat) : (s.bumpSat a hi lo n).fatal = s.fatal := rfl
@[simp] theorem bumpSat_modLost (a hi lo n : Nat) : (s.bumpSat a hi lo n).modLost = s.modLost := rfl
@[simp] theorem bumpSat_lostRegions (a hi lo n : Nat) : (s.bumpSat a hi lo n).lostRegions = s.lostRegions := rfl
@[simp] theorem bumpSat_deadClus (a hi lo n : Nat) : (s.bumpSat a hi lo n).deadClus = s.deadClus := rfl
@[simp] theorem bumpSat_gwDrops (a hi lo n : Nat) : (s.bumpSat a hi lo n).gwDrops = s.gwDrops := rfl
@[simp] theorem bumpSat_fabDrops (a hi lo n : Nat) : (s.bumpSat a hi lo n).fabDrops = s.fabDrops := rfl
@[simp] theorem bumpSat_acc_unit (a hi lo n : Nat) (j : Nat) :
    (s.bumpSat a hi lo n).unit j = s.unit j := rfl
@[simp] theorem bumpSat_acc_clu (a hi lo n : Nat) (j : Nat) :
    (s.bumpSat a hi lo n).clu j = s.clu j := rfl
@[simp] theorem bumpSat_acc_slice (a hi lo n : Nat) (j : Nat) :
    (s.bumpSat a hi lo n).slice j = s.slice j := rfl
@[simp] theorem bumpSat_acc_chan (a hi lo n : Nat) (j : Nat) :
    (s.bumpSat a hi lo n).chan j = s.chan j := rfl
@[simp] theorem bumpSat_acc_tgt (a hi lo n : Nat) (j : Nat) :
    (s.bumpSat a hi lo n).tgt j = s.tgt j := rfl
@[simp] theorem bumpSat_acc_port (a hi lo n : Nat) (j : Nat) :
    (s.bumpSat a hi lo n).port j = s.port j := rfl
@[simp] theorem bumpSat_acc_cle (a hi lo n : Nat) (j : Nat) :
    (s.bumpSat a hi lo n).cle j = s.cle j := rfl
@[simp] theorem bumpSat_acc_queueSt (a hi lo n : Nat) (j : Nat) :
    (s.bumpSat a hi lo n).queueSt j = s.queueSt j := rfl

/-! ### setBit -/

@[simp] theorem setBit_pending (a i : Nat) : (s.setBit a i).pending = s.pending := rfl
@[simp] theorem setBit_ctr (a i : Nat) : (s.setBit a i).ctr = s.ctr := rfl
@[simp] theorem setBit_out (a i : Nat) : (s.setBit a i).out = s.out := rfl
@[simp] theorem setBit_units (a i : Nat) : (s.setBit a i).units = s.units := rfl
@[simp] theorem setBit_clus (a i : Nat) : (s.setBit a i).clus = s.clus := rfl
@[simp] theorem setBit_tokens (a i : Nat) : (s.setBit a i).tokens = s.tokens := rfl
@[simp] theorem setBit_scaleQ (a i : Nat) : (s.setBit a i).scaleQ = s.scaleQ := rfl
@[simp] theorem setBit_slotMap (a i : Nat) : (s.setBit a i).slotMap = s.slotMap := rfl
@[simp] theorem setBit_staged (a i : Nat) : (s.setBit a i).staged = s.staged := rfl
@[simp] theorem setBit_program (a i : Nat) : (s.setBit a i).program = s.program := rfl
@[simp] theorem setBit_running (a i : Nat) : (s.setBit a i).running = s.running := rfl
@[simp] theorem setBit_frame0 (a i : Nat) : (s.setBit a i).frame0 = s.frame0 := rfl
@[simp] theorem setBit_relock (a i : Nat) : (s.setBit a i).relock = s.relock := rfl
@[simp] theorem setBit_slices (a i : Nat) : (s.setBit a i).slices = s.slices := rfl
@[simp] theorem setBit_chans (a i : Nat) : (s.setBit a i).chans = s.chans := rfl
@[simp] theorem setBit_chanBytes (a i : Nat) : (s.setBit a i).chanBytes = s.chanBytes := rfl
@[simp] theorem setBit_chanPoison (a i : Nat) : (s.setBit a i).chanPoison = s.chanPoison := rfl
@[simp] theorem setBit_chanUnseen (a i : Nat) : (s.setBit a i).chanUnseen = s.chanUnseen := rfl
@[simp] theorem setBit_lostDies (a i : Nat) : (s.setBit a i).lostDies = s.lostDies := rfl
@[simp] theorem setBit_pages (a i : Nat) : (s.setBit a i).pages = s.pages := rfl
@[simp] theorem setBit_targets (a i : Nat) : (s.setBit a i).targets = s.targets := rfl
@[simp] theorem setBit_queues (a i : Nat) : (s.setBit a i).queues = s.queues := rfl
@[simp] theorem setBit_faults (a i : Nat) : (s.setBit a i).faults = s.faults := rfl
@[simp] theorem setBit_reqSeq (a i : Nat) : (s.setBit a i).reqSeq = s.reqSeq := rfl
@[simp] theorem setBit_atc (a i : Nat) : (s.setBit a i).atc = s.atc := rfl
@[simp] theorem setBit_invals (a i : Nat) : (s.setBit a i).invals = s.invals := rfl
@[simp] theorem setBit_ats (a i : Nat) : (s.setBit a i).ats = s.ats := rfl
@[simp] theorem setBit_pri (a i : Nat) : (s.setBit a i).pri = s.pri := rfl
@[simp] theorem setBit_priStop (a i : Nat) : (s.setBit a i).priStop = s.priStop := rfl
@[simp] theorem setBit_flashDue (a i : Nat) : (s.setBit a i).flashDue = s.flashDue := rfl
@[simp] theorem setBit_msixEn (a i : Nat) : (s.setBit a i).msixEn = s.msixEn := rfl
@[simp] theorem setBit_msixMask (a i : Nat) : (s.setBit a i).msixMask = s.msixMask := rfl
@[simp] theorem setBit_hostMem (a i : Nat) : (s.setBit a i).hostMem = s.hostMem := rfl
@[simp] theorem setBit_errFlight (a i : Nat) : (s.setBit a i).errFlight = s.errFlight := rfl
@[simp] theorem setBit_evtFlight (a i : Nat) : (s.setBit a i).evtFlight = s.evtFlight := rfl
@[simp] theorem setBit_almanac (a i : Nat) : (s.setBit a i).almanac = s.almanac := rfl
@[simp] theorem setBit_almStage (a i : Nat) : (s.setBit a i).almStage = s.almStage := rfl
@[simp] theorem setBit_ports (a i : Nat) : (s.setBit a i).ports = s.ports := rfl
@[simp] theorem setBit_fab (a i : Nat) : (s.setBit a i).fab = s.fab := rfl
@[simp] theorem setBit_cles (a i : Nat) : (s.setBit a i).cles = s.cles := rfl
@[simp] theorem setBit_hjob (a i : Nat) : (s.setBit a i).hjob = s.hjob := rfl
@[simp] theorem setBit_flash (a i : Nat) : (s.setBit a i).flash = s.flash := rfl
@[simp] theorem setBit_mmc (a i : Nat) : (s.setBit a i).mmc = s.mmc := rfl
@[simp] theorem setBit_pwr (a i : Nat) : (s.setBit a i).pwr = s.pwr := rfl
@[simp] theorem setBit_handlers (a i : Nat) : (s.setBit a i).handlers = s.handlers := rfl
@[simp] theorem setBit_rates (a i : Nat) : (s.setBit a i).rates = s.rates := rfl
@[simp] theorem setBit_mons (a i : Nat) : (s.setBit a i).mons = s.mons := rfl
@[simp] theorem setBit_txnHost (a i : Nat) : (s.setBit a i).txnHost = s.txnHost := rfl
@[simp] theorem setBit_txnMgmt (a i : Nat) : (s.setBit a i).txnMgmt = s.txnMgmt := rfl
@[simp] theorem setBit_hostQ (a i : Nat) : (s.setBit a i).hostQ = s.hostQ := rfl
@[simp] theorem setBit_waited (a i : Nat) : (s.setBit a i).waited = s.waited := rfl
@[simp] theorem setBit_evtBuf (a i : Nat) : (s.setBit a i).evtBuf = s.evtBuf := rfl
@[simp] theorem setBit_evtLost (a i : Nat) : (s.setBit a i).evtLost = s.evtLost := rfl
@[simp] theorem setBit_evtSeq (a i : Nat) : (s.setBit a i).evtSeq = s.evtSeq := rfl
@[simp] theorem setBit_hub1Lost (a i : Nat) : (s.setBit a i).hub1Lost = s.hub1Lost := rfl
@[simp] theorem setBit_fatal (a i : Nat) : (s.setBit a i).fatal = s.fatal := rfl
@[simp] theorem setBit_modLost (a i : Nat) : (s.setBit a i).modLost = s.modLost := rfl
@[simp] theorem setBit_lostRegions (a i : Nat) : (s.setBit a i).lostRegions = s.lostRegions := rfl
@[simp] theorem setBit_deadClus (a i : Nat) : (s.setBit a i).deadClus = s.deadClus := rfl
@[simp] theorem setBit_gwDrops (a i : Nat) : (s.setBit a i).gwDrops = s.gwDrops := rfl
@[simp] theorem setBit_fabDrops (a i : Nat) : (s.setBit a i).fabDrops = s.fabDrops := rfl
@[simp] theorem setBit_acc_unit (a i : Nat) (j : Nat) :
    (s.setBit a i).unit j = s.unit j := rfl
@[simp] theorem setBit_acc_clu (a i : Nat) (j : Nat) :
    (s.setBit a i).clu j = s.clu j := rfl
@[simp] theorem setBit_acc_slice (a i : Nat) (j : Nat) :
    (s.setBit a i).slice j = s.slice j := rfl
@[simp] theorem setBit_acc_chan (a i : Nat) (j : Nat) :
    (s.setBit a i).chan j = s.chan j := rfl
@[simp] theorem setBit_acc_tgt (a i : Nat) (j : Nat) :
    (s.setBit a i).tgt j = s.tgt j := rfl
@[simp] theorem setBit_acc_port (a i : Nat) (j : Nat) :
    (s.setBit a i).port j = s.port j := rfl
@[simp] theorem setBit_acc_cle (a i : Nat) (j : Nat) :
    (s.setBit a i).cle j = s.cle j := rfl
@[simp] theorem setBit_acc_queueSt (a i : Nat) (j : Nat) :
    (s.setBit a i).queueSt j = s.queueSt j := rfl

/-! ### clrBit -/

@[simp] theorem clrBit_pending (a i : Nat) : (s.clrBit a i).pending = s.pending := rfl
@[simp] theorem clrBit_ctr (a i : Nat) : (s.clrBit a i).ctr = s.ctr := rfl
@[simp] theorem clrBit_out (a i : Nat) : (s.clrBit a i).out = s.out := rfl
@[simp] theorem clrBit_units (a i : Nat) : (s.clrBit a i).units = s.units := rfl
@[simp] theorem clrBit_clus (a i : Nat) : (s.clrBit a i).clus = s.clus := rfl
@[simp] theorem clrBit_tokens (a i : Nat) : (s.clrBit a i).tokens = s.tokens := rfl
@[simp] theorem clrBit_scaleQ (a i : Nat) : (s.clrBit a i).scaleQ = s.scaleQ := rfl
@[simp] theorem clrBit_slotMap (a i : Nat) : (s.clrBit a i).slotMap = s.slotMap := rfl
@[simp] theorem clrBit_staged (a i : Nat) : (s.clrBit a i).staged = s.staged := rfl
@[simp] theorem clrBit_program (a i : Nat) : (s.clrBit a i).program = s.program := rfl
@[simp] theorem clrBit_running (a i : Nat) : (s.clrBit a i).running = s.running := rfl
@[simp] theorem clrBit_frame0 (a i : Nat) : (s.clrBit a i).frame0 = s.frame0 := rfl
@[simp] theorem clrBit_relock (a i : Nat) : (s.clrBit a i).relock = s.relock := rfl
@[simp] theorem clrBit_slices (a i : Nat) : (s.clrBit a i).slices = s.slices := rfl
@[simp] theorem clrBit_chans (a i : Nat) : (s.clrBit a i).chans = s.chans := rfl
@[simp] theorem clrBit_chanBytes (a i : Nat) : (s.clrBit a i).chanBytes = s.chanBytes := rfl
@[simp] theorem clrBit_chanPoison (a i : Nat) : (s.clrBit a i).chanPoison = s.chanPoison := rfl
@[simp] theorem clrBit_chanUnseen (a i : Nat) : (s.clrBit a i).chanUnseen = s.chanUnseen := rfl
@[simp] theorem clrBit_lostDies (a i : Nat) : (s.clrBit a i).lostDies = s.lostDies := rfl
@[simp] theorem clrBit_pages (a i : Nat) : (s.clrBit a i).pages = s.pages := rfl
@[simp] theorem clrBit_targets (a i : Nat) : (s.clrBit a i).targets = s.targets := rfl
@[simp] theorem clrBit_queues (a i : Nat) : (s.clrBit a i).queues = s.queues := rfl
@[simp] theorem clrBit_faults (a i : Nat) : (s.clrBit a i).faults = s.faults := rfl
@[simp] theorem clrBit_reqSeq (a i : Nat) : (s.clrBit a i).reqSeq = s.reqSeq := rfl
@[simp] theorem clrBit_atc (a i : Nat) : (s.clrBit a i).atc = s.atc := rfl
@[simp] theorem clrBit_invals (a i : Nat) : (s.clrBit a i).invals = s.invals := rfl
@[simp] theorem clrBit_ats (a i : Nat) : (s.clrBit a i).ats = s.ats := rfl
@[simp] theorem clrBit_pri (a i : Nat) : (s.clrBit a i).pri = s.pri := rfl
@[simp] theorem clrBit_priStop (a i : Nat) : (s.clrBit a i).priStop = s.priStop := rfl
@[simp] theorem clrBit_flashDue (a i : Nat) : (s.clrBit a i).flashDue = s.flashDue := rfl
@[simp] theorem clrBit_msixEn (a i : Nat) : (s.clrBit a i).msixEn = s.msixEn := rfl
@[simp] theorem clrBit_msixMask (a i : Nat) : (s.clrBit a i).msixMask = s.msixMask := rfl
@[simp] theorem clrBit_hostMem (a i : Nat) : (s.clrBit a i).hostMem = s.hostMem := rfl
@[simp] theorem clrBit_errFlight (a i : Nat) : (s.clrBit a i).errFlight = s.errFlight := rfl
@[simp] theorem clrBit_evtFlight (a i : Nat) : (s.clrBit a i).evtFlight = s.evtFlight := rfl
@[simp] theorem clrBit_almanac (a i : Nat) : (s.clrBit a i).almanac = s.almanac := rfl
@[simp] theorem clrBit_almStage (a i : Nat) : (s.clrBit a i).almStage = s.almStage := rfl
@[simp] theorem clrBit_ports (a i : Nat) : (s.clrBit a i).ports = s.ports := rfl
@[simp] theorem clrBit_fab (a i : Nat) : (s.clrBit a i).fab = s.fab := rfl
@[simp] theorem clrBit_cles (a i : Nat) : (s.clrBit a i).cles = s.cles := rfl
@[simp] theorem clrBit_hjob (a i : Nat) : (s.clrBit a i).hjob = s.hjob := rfl
@[simp] theorem clrBit_flash (a i : Nat) : (s.clrBit a i).flash = s.flash := rfl
@[simp] theorem clrBit_mmc (a i : Nat) : (s.clrBit a i).mmc = s.mmc := rfl
@[simp] theorem clrBit_pwr (a i : Nat) : (s.clrBit a i).pwr = s.pwr := rfl
@[simp] theorem clrBit_handlers (a i : Nat) : (s.clrBit a i).handlers = s.handlers := rfl
@[simp] theorem clrBit_rates (a i : Nat) : (s.clrBit a i).rates = s.rates := rfl
@[simp] theorem clrBit_mons (a i : Nat) : (s.clrBit a i).mons = s.mons := rfl
@[simp] theorem clrBit_txnHost (a i : Nat) : (s.clrBit a i).txnHost = s.txnHost := rfl
@[simp] theorem clrBit_txnMgmt (a i : Nat) : (s.clrBit a i).txnMgmt = s.txnMgmt := rfl
@[simp] theorem clrBit_hostQ (a i : Nat) : (s.clrBit a i).hostQ = s.hostQ := rfl
@[simp] theorem clrBit_waited (a i : Nat) : (s.clrBit a i).waited = s.waited := rfl
@[simp] theorem clrBit_evtBuf (a i : Nat) : (s.clrBit a i).evtBuf = s.evtBuf := rfl
@[simp] theorem clrBit_evtLost (a i : Nat) : (s.clrBit a i).evtLost = s.evtLost := rfl
@[simp] theorem clrBit_evtSeq (a i : Nat) : (s.clrBit a i).evtSeq = s.evtSeq := rfl
@[simp] theorem clrBit_hub1Lost (a i : Nat) : (s.clrBit a i).hub1Lost = s.hub1Lost := rfl
@[simp] theorem clrBit_fatal (a i : Nat) : (s.clrBit a i).fatal = s.fatal := rfl
@[simp] theorem clrBit_modLost (a i : Nat) : (s.clrBit a i).modLost = s.modLost := rfl
@[simp] theorem clrBit_lostRegions (a i : Nat) : (s.clrBit a i).lostRegions = s.lostRegions := rfl
@[simp] theorem clrBit_deadClus (a i : Nat) : (s.clrBit a i).deadClus = s.deadClus := rfl
@[simp] theorem clrBit_gwDrops (a i : Nat) : (s.clrBit a i).gwDrops = s.gwDrops := rfl
@[simp] theorem clrBit_fabDrops (a i : Nat) : (s.clrBit a i).fabDrops = s.fabDrops := rfl
@[simp] theorem clrBit_acc_unit (a i : Nat) (j : Nat) :
    (s.clrBit a i).unit j = s.unit j := rfl
@[simp] theorem clrBit_acc_clu (a i : Nat) (j : Nat) :
    (s.clrBit a i).clu j = s.clu j := rfl
@[simp] theorem clrBit_acc_slice (a i : Nat) (j : Nat) :
    (s.clrBit a i).slice j = s.slice j := rfl
@[simp] theorem clrBit_acc_chan (a i : Nat) (j : Nat) :
    (s.clrBit a i).chan j = s.chan j := rfl
@[simp] theorem clrBit_acc_tgt (a i : Nat) (j : Nat) :
    (s.clrBit a i).tgt j = s.tgt j := rfl
@[simp] theorem clrBit_acc_port (a i : Nat) (j : Nat) :
    (s.clrBit a i).port j = s.port j := rfl
@[simp] theorem clrBit_acc_cle (a i : Nat) (j : Nat) :
    (s.clrBit a i).cle j = s.cle j := rfl
@[simp] theorem clrBit_acc_queueSt (a i : Nat) (j : Nat) :
    (s.clrBit a i).queueSt j = s.queueSt j := rfl

/-! ### maxF -/

@[simp] theorem maxF_pending (a hi lo v : Nat) : (s.maxF a hi lo v).pending = s.pending := rfl
@[simp] theorem maxF_ctr (a hi lo v : Nat) : (s.maxF a hi lo v).ctr = s.ctr := rfl
@[simp] theorem maxF_out (a hi lo v : Nat) : (s.maxF a hi lo v).out = s.out := rfl
@[simp] theorem maxF_units (a hi lo v : Nat) : (s.maxF a hi lo v).units = s.units := rfl
@[simp] theorem maxF_clus (a hi lo v : Nat) : (s.maxF a hi lo v).clus = s.clus := rfl
@[simp] theorem maxF_tokens (a hi lo v : Nat) : (s.maxF a hi lo v).tokens = s.tokens := rfl
@[simp] theorem maxF_scaleQ (a hi lo v : Nat) : (s.maxF a hi lo v).scaleQ = s.scaleQ := rfl
@[simp] theorem maxF_slotMap (a hi lo v : Nat) : (s.maxF a hi lo v).slotMap = s.slotMap := rfl
@[simp] theorem maxF_staged (a hi lo v : Nat) : (s.maxF a hi lo v).staged = s.staged := rfl
@[simp] theorem maxF_program (a hi lo v : Nat) : (s.maxF a hi lo v).program = s.program := rfl
@[simp] theorem maxF_running (a hi lo v : Nat) : (s.maxF a hi lo v).running = s.running := rfl
@[simp] theorem maxF_frame0 (a hi lo v : Nat) : (s.maxF a hi lo v).frame0 = s.frame0 := rfl
@[simp] theorem maxF_relock (a hi lo v : Nat) : (s.maxF a hi lo v).relock = s.relock := rfl
@[simp] theorem maxF_slices (a hi lo v : Nat) : (s.maxF a hi lo v).slices = s.slices := rfl
@[simp] theorem maxF_chans (a hi lo v : Nat) : (s.maxF a hi lo v).chans = s.chans := rfl
@[simp] theorem maxF_chanBytes (a hi lo v : Nat) : (s.maxF a hi lo v).chanBytes = s.chanBytes := rfl
@[simp] theorem maxF_chanPoison (a hi lo v : Nat) : (s.maxF a hi lo v).chanPoison = s.chanPoison := rfl
@[simp] theorem maxF_chanUnseen (a hi lo v : Nat) : (s.maxF a hi lo v).chanUnseen = s.chanUnseen := rfl
@[simp] theorem maxF_lostDies (a hi lo v : Nat) : (s.maxF a hi lo v).lostDies = s.lostDies := rfl
@[simp] theorem maxF_pages (a hi lo v : Nat) : (s.maxF a hi lo v).pages = s.pages := rfl
@[simp] theorem maxF_targets (a hi lo v : Nat) : (s.maxF a hi lo v).targets = s.targets := rfl
@[simp] theorem maxF_queues (a hi lo v : Nat) : (s.maxF a hi lo v).queues = s.queues := rfl
@[simp] theorem maxF_faults (a hi lo v : Nat) : (s.maxF a hi lo v).faults = s.faults := rfl
@[simp] theorem maxF_reqSeq (a hi lo v : Nat) : (s.maxF a hi lo v).reqSeq = s.reqSeq := rfl
@[simp] theorem maxF_atc (a hi lo v : Nat) : (s.maxF a hi lo v).atc = s.atc := rfl
@[simp] theorem maxF_invals (a hi lo v : Nat) : (s.maxF a hi lo v).invals = s.invals := rfl
@[simp] theorem maxF_ats (a hi lo v : Nat) : (s.maxF a hi lo v).ats = s.ats := rfl
@[simp] theorem maxF_pri (a hi lo v : Nat) : (s.maxF a hi lo v).pri = s.pri := rfl
@[simp] theorem maxF_priStop (a hi lo v : Nat) : (s.maxF a hi lo v).priStop = s.priStop := rfl
@[simp] theorem maxF_flashDue (a hi lo v : Nat) : (s.maxF a hi lo v).flashDue = s.flashDue := rfl
@[simp] theorem maxF_msixEn (a hi lo v : Nat) : (s.maxF a hi lo v).msixEn = s.msixEn := rfl
@[simp] theorem maxF_msixMask (a hi lo v : Nat) : (s.maxF a hi lo v).msixMask = s.msixMask := rfl
@[simp] theorem maxF_hostMem (a hi lo v : Nat) : (s.maxF a hi lo v).hostMem = s.hostMem := rfl
@[simp] theorem maxF_errFlight (a hi lo v : Nat) : (s.maxF a hi lo v).errFlight = s.errFlight := rfl
@[simp] theorem maxF_evtFlight (a hi lo v : Nat) : (s.maxF a hi lo v).evtFlight = s.evtFlight := rfl
@[simp] theorem maxF_almanac (a hi lo v : Nat) : (s.maxF a hi lo v).almanac = s.almanac := rfl
@[simp] theorem maxF_almStage (a hi lo v : Nat) : (s.maxF a hi lo v).almStage = s.almStage := rfl
@[simp] theorem maxF_ports (a hi lo v : Nat) : (s.maxF a hi lo v).ports = s.ports := rfl
@[simp] theorem maxF_fab (a hi lo v : Nat) : (s.maxF a hi lo v).fab = s.fab := rfl
@[simp] theorem maxF_cles (a hi lo v : Nat) : (s.maxF a hi lo v).cles = s.cles := rfl
@[simp] theorem maxF_hjob (a hi lo v : Nat) : (s.maxF a hi lo v).hjob = s.hjob := rfl
@[simp] theorem maxF_flash (a hi lo v : Nat) : (s.maxF a hi lo v).flash = s.flash := rfl
@[simp] theorem maxF_mmc (a hi lo v : Nat) : (s.maxF a hi lo v).mmc = s.mmc := rfl
@[simp] theorem maxF_pwr (a hi lo v : Nat) : (s.maxF a hi lo v).pwr = s.pwr := rfl
@[simp] theorem maxF_handlers (a hi lo v : Nat) : (s.maxF a hi lo v).handlers = s.handlers := rfl
@[simp] theorem maxF_rates (a hi lo v : Nat) : (s.maxF a hi lo v).rates = s.rates := rfl
@[simp] theorem maxF_mons (a hi lo v : Nat) : (s.maxF a hi lo v).mons = s.mons := rfl
@[simp] theorem maxF_txnHost (a hi lo v : Nat) : (s.maxF a hi lo v).txnHost = s.txnHost := rfl
@[simp] theorem maxF_txnMgmt (a hi lo v : Nat) : (s.maxF a hi lo v).txnMgmt = s.txnMgmt := rfl
@[simp] theorem maxF_hostQ (a hi lo v : Nat) : (s.maxF a hi lo v).hostQ = s.hostQ := rfl
@[simp] theorem maxF_waited (a hi lo v : Nat) : (s.maxF a hi lo v).waited = s.waited := rfl
@[simp] theorem maxF_evtBuf (a hi lo v : Nat) : (s.maxF a hi lo v).evtBuf = s.evtBuf := rfl
@[simp] theorem maxF_evtLost (a hi lo v : Nat) : (s.maxF a hi lo v).evtLost = s.evtLost := rfl
@[simp] theorem maxF_evtSeq (a hi lo v : Nat) : (s.maxF a hi lo v).evtSeq = s.evtSeq := rfl
@[simp] theorem maxF_hub1Lost (a hi lo v : Nat) : (s.maxF a hi lo v).hub1Lost = s.hub1Lost := rfl
@[simp] theorem maxF_fatal (a hi lo v : Nat) : (s.maxF a hi lo v).fatal = s.fatal := rfl
@[simp] theorem maxF_modLost (a hi lo v : Nat) : (s.maxF a hi lo v).modLost = s.modLost := rfl
@[simp] theorem maxF_lostRegions (a hi lo v : Nat) : (s.maxF a hi lo v).lostRegions = s.lostRegions := rfl
@[simp] theorem maxF_deadClus (a hi lo v : Nat) : (s.maxF a hi lo v).deadClus = s.deadClus := rfl
@[simp] theorem maxF_gwDrops (a hi lo v : Nat) : (s.maxF a hi lo v).gwDrops = s.gwDrops := rfl
@[simp] theorem maxF_fabDrops (a hi lo v : Nat) : (s.maxF a hi lo v).fabDrops = s.fabDrops := rfl
@[simp] theorem maxF_acc_unit (a hi lo v : Nat) (j : Nat) :
    (s.maxF a hi lo v).unit j = s.unit j := rfl
@[simp] theorem maxF_acc_clu (a hi lo v : Nat) (j : Nat) :
    (s.maxF a hi lo v).clu j = s.clu j := rfl
@[simp] theorem maxF_acc_slice (a hi lo v : Nat) (j : Nat) :
    (s.maxF a hi lo v).slice j = s.slice j := rfl
@[simp] theorem maxF_acc_chan (a hi lo v : Nat) (j : Nat) :
    (s.maxF a hi lo v).chan j = s.chan j := rfl
@[simp] theorem maxF_acc_tgt (a hi lo v : Nat) (j : Nat) :
    (s.maxF a hi lo v).tgt j = s.tgt j := rfl
@[simp] theorem maxF_acc_port (a hi lo v : Nat) (j : Nat) :
    (s.maxF a hi lo v).port j = s.port j := rfl
@[simp] theorem maxF_acc_cle (a hi lo v : Nat) (j : Nat) :
    (s.maxF a hi lo v).cle j = s.cle j := rfl
@[simp] theorem maxF_acc_queueSt (a hi lo v : Nat) (j : Nat) :
    (s.maxF a hi lo v).queueSt j = s.queueSt j := rfl

/-! ### setUnit -/

@[simp] theorem setUnit_pending (k : Nat) (x : UnitSt) : (s.setUnit k x).pending = s.pending := rfl
@[simp] theorem setUnit_regs (k : Nat) (x : UnitSt) : (s.setUnit k x).regs = s.regs := rfl
@[simp] theorem setUnit_ctr (k : Nat) (x : UnitSt) : (s.setUnit k x).ctr = s.ctr := rfl
@[simp] theorem setUnit_out (k : Nat) (x : UnitSt) : (s.setUnit k x).out = s.out := rfl
@[simp] theorem setUnit_clus (k : Nat) (x : UnitSt) : (s.setUnit k x).clus = s.clus := rfl
@[simp] theorem setUnit_tokens (k : Nat) (x : UnitSt) : (s.setUnit k x).tokens = s.tokens := rfl
@[simp] theorem setUnit_scaleQ (k : Nat) (x : UnitSt) : (s.setUnit k x).scaleQ = s.scaleQ := rfl
@[simp] theorem setUnit_slotMap (k : Nat) (x : UnitSt) : (s.setUnit k x).slotMap = s.slotMap := rfl
@[simp] theorem setUnit_staged (k : Nat) (x : UnitSt) : (s.setUnit k x).staged = s.staged := rfl
@[simp] theorem setUnit_program (k : Nat) (x : UnitSt) : (s.setUnit k x).program = s.program := rfl
@[simp] theorem setUnit_running (k : Nat) (x : UnitSt) : (s.setUnit k x).running = s.running := rfl
@[simp] theorem setUnit_frame0 (k : Nat) (x : UnitSt) : (s.setUnit k x).frame0 = s.frame0 := rfl
@[simp] theorem setUnit_relock (k : Nat) (x : UnitSt) : (s.setUnit k x).relock = s.relock := rfl
@[simp] theorem setUnit_slices (k : Nat) (x : UnitSt) : (s.setUnit k x).slices = s.slices := rfl
@[simp] theorem setUnit_chans (k : Nat) (x : UnitSt) : (s.setUnit k x).chans = s.chans := rfl
@[simp] theorem setUnit_chanBytes (k : Nat) (x : UnitSt) : (s.setUnit k x).chanBytes = s.chanBytes := rfl
@[simp] theorem setUnit_chanPoison (k : Nat) (x : UnitSt) : (s.setUnit k x).chanPoison = s.chanPoison := rfl
@[simp] theorem setUnit_chanUnseen (k : Nat) (x : UnitSt) : (s.setUnit k x).chanUnseen = s.chanUnseen := rfl
@[simp] theorem setUnit_lostDies (k : Nat) (x : UnitSt) : (s.setUnit k x).lostDies = s.lostDies := rfl
@[simp] theorem setUnit_pages (k : Nat) (x : UnitSt) : (s.setUnit k x).pages = s.pages := rfl
@[simp] theorem setUnit_targets (k : Nat) (x : UnitSt) : (s.setUnit k x).targets = s.targets := rfl
@[simp] theorem setUnit_queues (k : Nat) (x : UnitSt) : (s.setUnit k x).queues = s.queues := rfl
@[simp] theorem setUnit_faults (k : Nat) (x : UnitSt) : (s.setUnit k x).faults = s.faults := rfl
@[simp] theorem setUnit_reqSeq (k : Nat) (x : UnitSt) : (s.setUnit k x).reqSeq = s.reqSeq := rfl
@[simp] theorem setUnit_atc (k : Nat) (x : UnitSt) : (s.setUnit k x).atc = s.atc := rfl
@[simp] theorem setUnit_invals (k : Nat) (x : UnitSt) : (s.setUnit k x).invals = s.invals := rfl
@[simp] theorem setUnit_ats (k : Nat) (x : UnitSt) : (s.setUnit k x).ats = s.ats := rfl
@[simp] theorem setUnit_pri (k : Nat) (x : UnitSt) : (s.setUnit k x).pri = s.pri := rfl
@[simp] theorem setUnit_priStop (k : Nat) (x : UnitSt) : (s.setUnit k x).priStop = s.priStop := rfl
@[simp] theorem setUnit_flashDue (k : Nat) (x : UnitSt) : (s.setUnit k x).flashDue = s.flashDue := rfl
@[simp] theorem setUnit_msixEn (k : Nat) (x : UnitSt) : (s.setUnit k x).msixEn = s.msixEn := rfl
@[simp] theorem setUnit_msixMask (k : Nat) (x : UnitSt) : (s.setUnit k x).msixMask = s.msixMask := rfl
@[simp] theorem setUnit_hostMem (k : Nat) (x : UnitSt) : (s.setUnit k x).hostMem = s.hostMem := rfl
@[simp] theorem setUnit_errFlight (k : Nat) (x : UnitSt) : (s.setUnit k x).errFlight = s.errFlight := rfl
@[simp] theorem setUnit_evtFlight (k : Nat) (x : UnitSt) : (s.setUnit k x).evtFlight = s.evtFlight := rfl
@[simp] theorem setUnit_almanac (k : Nat) (x : UnitSt) : (s.setUnit k x).almanac = s.almanac := rfl
@[simp] theorem setUnit_almStage (k : Nat) (x : UnitSt) : (s.setUnit k x).almStage = s.almStage := rfl
@[simp] theorem setUnit_ports (k : Nat) (x : UnitSt) : (s.setUnit k x).ports = s.ports := rfl
@[simp] theorem setUnit_fab (k : Nat) (x : UnitSt) : (s.setUnit k x).fab = s.fab := rfl
@[simp] theorem setUnit_cles (k : Nat) (x : UnitSt) : (s.setUnit k x).cles = s.cles := rfl
@[simp] theorem setUnit_hjob (k : Nat) (x : UnitSt) : (s.setUnit k x).hjob = s.hjob := rfl
@[simp] theorem setUnit_flash (k : Nat) (x : UnitSt) : (s.setUnit k x).flash = s.flash := rfl
@[simp] theorem setUnit_mmc (k : Nat) (x : UnitSt) : (s.setUnit k x).mmc = s.mmc := rfl
@[simp] theorem setUnit_pwr (k : Nat) (x : UnitSt) : (s.setUnit k x).pwr = s.pwr := rfl
@[simp] theorem setUnit_handlers (k : Nat) (x : UnitSt) : (s.setUnit k x).handlers = s.handlers := rfl
@[simp] theorem setUnit_rates (k : Nat) (x : UnitSt) : (s.setUnit k x).rates = s.rates := rfl
@[simp] theorem setUnit_mons (k : Nat) (x : UnitSt) : (s.setUnit k x).mons = s.mons := rfl
@[simp] theorem setUnit_txnHost (k : Nat) (x : UnitSt) : (s.setUnit k x).txnHost = s.txnHost := rfl
@[simp] theorem setUnit_txnMgmt (k : Nat) (x : UnitSt) : (s.setUnit k x).txnMgmt = s.txnMgmt := rfl
@[simp] theorem setUnit_hostQ (k : Nat) (x : UnitSt) : (s.setUnit k x).hostQ = s.hostQ := rfl
@[simp] theorem setUnit_waited (k : Nat) (x : UnitSt) : (s.setUnit k x).waited = s.waited := rfl
@[simp] theorem setUnit_evtBuf (k : Nat) (x : UnitSt) : (s.setUnit k x).evtBuf = s.evtBuf := rfl
@[simp] theorem setUnit_evtLost (k : Nat) (x : UnitSt) : (s.setUnit k x).evtLost = s.evtLost := rfl
@[simp] theorem setUnit_evtSeq (k : Nat) (x : UnitSt) : (s.setUnit k x).evtSeq = s.evtSeq := rfl
@[simp] theorem setUnit_hub1Lost (k : Nat) (x : UnitSt) : (s.setUnit k x).hub1Lost = s.hub1Lost := rfl
@[simp] theorem setUnit_fatal (k : Nat) (x : UnitSt) : (s.setUnit k x).fatal = s.fatal := rfl
@[simp] theorem setUnit_modLost (k : Nat) (x : UnitSt) : (s.setUnit k x).modLost = s.modLost := rfl
@[simp] theorem setUnit_lostRegions (k : Nat) (x : UnitSt) : (s.setUnit k x).lostRegions = s.lostRegions := rfl
@[simp] theorem setUnit_deadClus (k : Nat) (x : UnitSt) : (s.setUnit k x).deadClus = s.deadClus := rfl
@[simp] theorem setUnit_gwDrops (k : Nat) (x : UnitSt) : (s.setUnit k x).gwDrops = s.gwDrops := rfl
@[simp] theorem setUnit_fabDrops (k : Nat) (x : UnitSt) : (s.setUnit k x).fabDrops = s.fabDrops := rfl
@[simp] theorem setUnit_acc_reg (k : Nat) (x : UnitSt) (b : Nat) :
    (s.setUnit k x).reg b = s.reg b := rfl
@[simp] theorem setUnit_acc_regF (k : Nat) (x : UnitSt) (b hi' lo' : Nat) :
    (s.setUnit k x).regF b hi' lo' = s.regF b hi' lo' := rfl
@[simp] theorem setUnit_acc_bit (k : Nat) (x : UnitSt) (b j : Nat) :
    (s.setUnit k x).bit b j = s.bit b j := rfl
@[simp] theorem setUnit_acc_physClu (k : Nat) (x : UnitSt) (c : Nat) :
    (s.setUnit k x).physClu c = s.physClu c := rfl
@[simp] theorem setUnit_acc_physUnit (k : Nat) (x : UnitSt) (u : Nat) :
    (s.setUnit k x).physUnit u = s.physUnit u := rfl
@[simp] theorem setUnit_acc_ccState (k : Nat) (x : UnitSt) (c : Nat) :
    (s.setUnit k x).ccState c = s.ccState c := rfl
@[simp] theorem setUnit_acc_ccBank (k : Nat) (x : UnitSt) (c : Nat) :
    (s.setUnit k x).ccBank c = s.ccBank c := rfl
@[simp] theorem setUnit_acc_unitHalted (k : Nat) (x : UnitSt) (u : Nat) :
    (s.setUnit k x).unitHalted u = s.unitHalted u := rfl
@[simp] theorem setUnit_acc_chState (k : Nat) (x : UnitSt) (c : Nat) :
    (s.setUnit k x).chState c = s.chState c := rfl
@[simp] theorem setUnit_acc_logClu (k : Nat) (x : UnitSt) (c : Nat) :
    (s.setUnit k x).logClu c = s.logClu c := rfl
@[simp] theorem setUnit_acc_logUnit (k : Nat) (x : UnitSt) (c : Nat) :
    (s.setUnit k x).logUnit c = s.logUnit c := rfl
@[simp] theorem setUnit_acc_clu (k : Nat) (x : UnitSt) (j : Nat) :
    (s.setUnit k x).clu j = s.clu j := rfl
@[simp] theorem setUnit_acc_slice (k : Nat) (x : UnitSt) (j : Nat) :
    (s.setUnit k x).slice j = s.slice j := rfl
@[simp] theorem setUnit_acc_chan (k : Nat) (x : UnitSt) (j : Nat) :
    (s.setUnit k x).chan j = s.chan j := rfl
@[simp] theorem setUnit_acc_tgt (k : Nat) (x : UnitSt) (j : Nat) :
    (s.setUnit k x).tgt j = s.tgt j := rfl
@[simp] theorem setUnit_acc_port (k : Nat) (x : UnitSt) (j : Nat) :
    (s.setUnit k x).port j = s.port j := rfl
@[simp] theorem setUnit_acc_cle (k : Nat) (x : UnitSt) (j : Nat) :
    (s.setUnit k x).cle j = s.cle j := rfl
@[simp] theorem setUnit_acc_queueSt (k : Nat) (x : UnitSt) (j : Nat) :
    (s.setUnit k x).queueSt j = s.queueSt j := rfl

/-! ### updUnit -/

@[simp] theorem updUnit_pending (k : Nat) (f : UnitSt → UnitSt) : (s.updUnit k f).pending = s.pending := rfl
@[simp] theorem updUnit_regs (k : Nat) (f : UnitSt → UnitSt) : (s.updUnit k f).regs = s.regs := rfl
@[simp] theorem updUnit_ctr (k : Nat) (f : UnitSt → UnitSt) : (s.updUnit k f).ctr = s.ctr := rfl
@[simp] theorem updUnit_out (k : Nat) (f : UnitSt → UnitSt) : (s.updUnit k f).out = s.out := rfl
@[simp] theorem updUnit_clus (k : Nat) (f : UnitSt → UnitSt) : (s.updUnit k f).clus = s.clus := rfl
@[simp] theorem updUnit_tokens (k : Nat) (f : UnitSt → UnitSt) : (s.updUnit k f).tokens = s.tokens := rfl
@[simp] theorem updUnit_scaleQ (k : Nat) (f : UnitSt → UnitSt) : (s.updUnit k f).scaleQ = s.scaleQ := rfl
@[simp] theorem updUnit_slotMap (k : Nat) (f : UnitSt → UnitSt) : (s.updUnit k f).slotMap = s.slotMap := rfl
@[simp] theorem updUnit_staged (k : Nat) (f : UnitSt → UnitSt) : (s.updUnit k f).staged = s.staged := rfl
@[simp] theorem updUnit_program (k : Nat) (f : UnitSt → UnitSt) : (s.updUnit k f).program = s.program := rfl
@[simp] theorem updUnit_running (k : Nat) (f : UnitSt → UnitSt) : (s.updUnit k f).running = s.running := rfl
@[simp] theorem updUnit_frame0 (k : Nat) (f : UnitSt → UnitSt) : (s.updUnit k f).frame0 = s.frame0 := rfl
@[simp] theorem updUnit_relock (k : Nat) (f : UnitSt → UnitSt) : (s.updUnit k f).relock = s.relock := rfl
@[simp] theorem updUnit_slices (k : Nat) (f : UnitSt → UnitSt) : (s.updUnit k f).slices = s.slices := rfl
@[simp] theorem updUnit_chans (k : Nat) (f : UnitSt → UnitSt) : (s.updUnit k f).chans = s.chans := rfl
@[simp] theorem updUnit_chanBytes (k : Nat) (f : UnitSt → UnitSt) : (s.updUnit k f).chanBytes = s.chanBytes := rfl
@[simp] theorem updUnit_chanPoison (k : Nat) (f : UnitSt → UnitSt) : (s.updUnit k f).chanPoison = s.chanPoison := rfl
@[simp] theorem updUnit_chanUnseen (k : Nat) (f : UnitSt → UnitSt) : (s.updUnit k f).chanUnseen = s.chanUnseen := rfl
@[simp] theorem updUnit_lostDies (k : Nat) (f : UnitSt → UnitSt) : (s.updUnit k f).lostDies = s.lostDies := rfl
@[simp] theorem updUnit_pages (k : Nat) (f : UnitSt → UnitSt) : (s.updUnit k f).pages = s.pages := rfl
@[simp] theorem updUnit_targets (k : Nat) (f : UnitSt → UnitSt) : (s.updUnit k f).targets = s.targets := rfl
@[simp] theorem updUnit_queues (k : Nat) (f : UnitSt → UnitSt) : (s.updUnit k f).queues = s.queues := rfl
@[simp] theorem updUnit_faults (k : Nat) (f : UnitSt → UnitSt) : (s.updUnit k f).faults = s.faults := rfl
@[simp] theorem updUnit_reqSeq (k : Nat) (f : UnitSt → UnitSt) : (s.updUnit k f).reqSeq = s.reqSeq := rfl
@[simp] theorem updUnit_atc (k : Nat) (f : UnitSt → UnitSt) : (s.updUnit k f).atc = s.atc := rfl
@[simp] theorem updUnit_invals (k : Nat) (f : UnitSt → UnitSt) : (s.updUnit k f).invals = s.invals := rfl
@[simp] theorem updUnit_ats (k : Nat) (f : UnitSt → UnitSt) : (s.updUnit k f).ats = s.ats := rfl
@[simp] theorem updUnit_pri (k : Nat) (f : UnitSt → UnitSt) : (s.updUnit k f).pri = s.pri := rfl
@[simp] theorem updUnit_priStop (k : Nat) (f : UnitSt → UnitSt) : (s.updUnit k f).priStop = s.priStop := rfl
@[simp] theorem updUnit_flashDue (k : Nat) (f : UnitSt → UnitSt) : (s.updUnit k f).flashDue = s.flashDue := rfl
@[simp] theorem updUnit_msixEn (k : Nat) (f : UnitSt → UnitSt) : (s.updUnit k f).msixEn = s.msixEn := rfl
@[simp] theorem updUnit_msixMask (k : Nat) (f : UnitSt → UnitSt) : (s.updUnit k f).msixMask = s.msixMask := rfl
@[simp] theorem updUnit_hostMem (k : Nat) (f : UnitSt → UnitSt) : (s.updUnit k f).hostMem = s.hostMem := rfl
@[simp] theorem updUnit_errFlight (k : Nat) (f : UnitSt → UnitSt) : (s.updUnit k f).errFlight = s.errFlight := rfl
@[simp] theorem updUnit_evtFlight (k : Nat) (f : UnitSt → UnitSt) : (s.updUnit k f).evtFlight = s.evtFlight := rfl
@[simp] theorem updUnit_almanac (k : Nat) (f : UnitSt → UnitSt) : (s.updUnit k f).almanac = s.almanac := rfl
@[simp] theorem updUnit_almStage (k : Nat) (f : UnitSt → UnitSt) : (s.updUnit k f).almStage = s.almStage := rfl
@[simp] theorem updUnit_ports (k : Nat) (f : UnitSt → UnitSt) : (s.updUnit k f).ports = s.ports := rfl
@[simp] theorem updUnit_fab (k : Nat) (f : UnitSt → UnitSt) : (s.updUnit k f).fab = s.fab := rfl
@[simp] theorem updUnit_cles (k : Nat) (f : UnitSt → UnitSt) : (s.updUnit k f).cles = s.cles := rfl
@[simp] theorem updUnit_hjob (k : Nat) (f : UnitSt → UnitSt) : (s.updUnit k f).hjob = s.hjob := rfl
@[simp] theorem updUnit_flash (k : Nat) (f : UnitSt → UnitSt) : (s.updUnit k f).flash = s.flash := rfl
@[simp] theorem updUnit_mmc (k : Nat) (f : UnitSt → UnitSt) : (s.updUnit k f).mmc = s.mmc := rfl
@[simp] theorem updUnit_pwr (k : Nat) (f : UnitSt → UnitSt) : (s.updUnit k f).pwr = s.pwr := rfl
@[simp] theorem updUnit_handlers (k : Nat) (f : UnitSt → UnitSt) : (s.updUnit k f).handlers = s.handlers := rfl
@[simp] theorem updUnit_rates (k : Nat) (f : UnitSt → UnitSt) : (s.updUnit k f).rates = s.rates := rfl
@[simp] theorem updUnit_mons (k : Nat) (f : UnitSt → UnitSt) : (s.updUnit k f).mons = s.mons := rfl
@[simp] theorem updUnit_txnHost (k : Nat) (f : UnitSt → UnitSt) : (s.updUnit k f).txnHost = s.txnHost := rfl
@[simp] theorem updUnit_txnMgmt (k : Nat) (f : UnitSt → UnitSt) : (s.updUnit k f).txnMgmt = s.txnMgmt := rfl
@[simp] theorem updUnit_hostQ (k : Nat) (f : UnitSt → UnitSt) : (s.updUnit k f).hostQ = s.hostQ := rfl
@[simp] theorem updUnit_waited (k : Nat) (f : UnitSt → UnitSt) : (s.updUnit k f).waited = s.waited := rfl
@[simp] theorem updUnit_evtBuf (k : Nat) (f : UnitSt → UnitSt) : (s.updUnit k f).evtBuf = s.evtBuf := rfl
@[simp] theorem updUnit_evtLost (k : Nat) (f : UnitSt → UnitSt) : (s.updUnit k f).evtLost = s.evtLost := rfl
@[simp] theorem updUnit_evtSeq (k : Nat) (f : UnitSt → UnitSt) : (s.updUnit k f).evtSeq = s.evtSeq := rfl
@[simp] theorem updUnit_hub1Lost (k : Nat) (f : UnitSt → UnitSt) : (s.updUnit k f).hub1Lost = s.hub1Lost := rfl
@[simp] theorem updUnit_fatal (k : Nat) (f : UnitSt → UnitSt) : (s.updUnit k f).fatal = s.fatal := rfl
@[simp] theorem updUnit_modLost (k : Nat) (f : UnitSt → UnitSt) : (s.updUnit k f).modLost = s.modLost := rfl
@[simp] theorem updUnit_lostRegions (k : Nat) (f : UnitSt → UnitSt) : (s.updUnit k f).lostRegions = s.lostRegions := rfl
@[simp] theorem updUnit_deadClus (k : Nat) (f : UnitSt → UnitSt) : (s.updUnit k f).deadClus = s.deadClus := rfl
@[simp] theorem updUnit_gwDrops (k : Nat) (f : UnitSt → UnitSt) : (s.updUnit k f).gwDrops = s.gwDrops := rfl
@[simp] theorem updUnit_fabDrops (k : Nat) (f : UnitSt → UnitSt) : (s.updUnit k f).fabDrops = s.fabDrops := rfl
@[simp] theorem updUnit_acc_reg (k : Nat) (f : UnitSt → UnitSt) (b : Nat) :
    (s.updUnit k f).reg b = s.reg b := rfl
@[simp] theorem updUnit_acc_regF (k : Nat) (f : UnitSt → UnitSt) (b hi' lo' : Nat) :
    (s.updUnit k f).regF b hi' lo' = s.regF b hi' lo' := rfl
@[simp] theorem updUnit_acc_bit (k : Nat) (f : UnitSt → UnitSt) (b j : Nat) :
    (s.updUnit k f).bit b j = s.bit b j := rfl
@[simp] theorem updUnit_acc_physClu (k : Nat) (f : UnitSt → UnitSt) (c : Nat) :
    (s.updUnit k f).physClu c = s.physClu c := rfl
@[simp] theorem updUnit_acc_physUnit (k : Nat) (f : UnitSt → UnitSt) (u : Nat) :
    (s.updUnit k f).physUnit u = s.physUnit u := rfl
@[simp] theorem updUnit_acc_ccState (k : Nat) (f : UnitSt → UnitSt) (c : Nat) :
    (s.updUnit k f).ccState c = s.ccState c := rfl
@[simp] theorem updUnit_acc_ccBank (k : Nat) (f : UnitSt → UnitSt) (c : Nat) :
    (s.updUnit k f).ccBank c = s.ccBank c := rfl
@[simp] theorem updUnit_acc_unitHalted (k : Nat) (f : UnitSt → UnitSt) (u : Nat) :
    (s.updUnit k f).unitHalted u = s.unitHalted u := rfl
@[simp] theorem updUnit_acc_chState (k : Nat) (f : UnitSt → UnitSt) (c : Nat) :
    (s.updUnit k f).chState c = s.chState c := rfl
@[simp] theorem updUnit_acc_logClu (k : Nat) (f : UnitSt → UnitSt) (c : Nat) :
    (s.updUnit k f).logClu c = s.logClu c := rfl
@[simp] theorem updUnit_acc_logUnit (k : Nat) (f : UnitSt → UnitSt) (c : Nat) :
    (s.updUnit k f).logUnit c = s.logUnit c := rfl
@[simp] theorem updUnit_acc_clu (k : Nat) (f : UnitSt → UnitSt) (j : Nat) :
    (s.updUnit k f).clu j = s.clu j := rfl
@[simp] theorem updUnit_acc_slice (k : Nat) (f : UnitSt → UnitSt) (j : Nat) :
    (s.updUnit k f).slice j = s.slice j := rfl
@[simp] theorem updUnit_acc_chan (k : Nat) (f : UnitSt → UnitSt) (j : Nat) :
    (s.updUnit k f).chan j = s.chan j := rfl
@[simp] theorem updUnit_acc_tgt (k : Nat) (f : UnitSt → UnitSt) (j : Nat) :
    (s.updUnit k f).tgt j = s.tgt j := rfl
@[simp] theorem updUnit_acc_port (k : Nat) (f : UnitSt → UnitSt) (j : Nat) :
    (s.updUnit k f).port j = s.port j := rfl
@[simp] theorem updUnit_acc_cle (k : Nat) (f : UnitSt → UnitSt) (j : Nat) :
    (s.updUnit k f).cle j = s.cle j := rfl
@[simp] theorem updUnit_acc_queueSt (k : Nat) (f : UnitSt → UnitSt) (j : Nat) :
    (s.updUnit k f).queueSt j = s.queueSt j := rfl

/-! ### setClu -/

@[simp] theorem setClu_pending (k : Nat) (x : CluSt) : (s.setClu k x).pending = s.pending := rfl
@[simp] theorem setClu_regs (k : Nat) (x : CluSt) : (s.setClu k x).regs = s.regs := rfl
@[simp] theorem setClu_ctr (k : Nat) (x : CluSt) : (s.setClu k x).ctr = s.ctr := rfl
@[simp] theorem setClu_out (k : Nat) (x : CluSt) : (s.setClu k x).out = s.out := rfl
@[simp] theorem setClu_units (k : Nat) (x : CluSt) : (s.setClu k x).units = s.units := rfl
@[simp] theorem setClu_tokens (k : Nat) (x : CluSt) : (s.setClu k x).tokens = s.tokens := rfl
@[simp] theorem setClu_scaleQ (k : Nat) (x : CluSt) : (s.setClu k x).scaleQ = s.scaleQ := rfl
@[simp] theorem setClu_slotMap (k : Nat) (x : CluSt) : (s.setClu k x).slotMap = s.slotMap := rfl
@[simp] theorem setClu_staged (k : Nat) (x : CluSt) : (s.setClu k x).staged = s.staged := rfl
@[simp] theorem setClu_program (k : Nat) (x : CluSt) : (s.setClu k x).program = s.program := rfl
@[simp] theorem setClu_running (k : Nat) (x : CluSt) : (s.setClu k x).running = s.running := rfl
@[simp] theorem setClu_frame0 (k : Nat) (x : CluSt) : (s.setClu k x).frame0 = s.frame0 := rfl
@[simp] theorem setClu_relock (k : Nat) (x : CluSt) : (s.setClu k x).relock = s.relock := rfl
@[simp] theorem setClu_slices (k : Nat) (x : CluSt) : (s.setClu k x).slices = s.slices := rfl
@[simp] theorem setClu_chans (k : Nat) (x : CluSt) : (s.setClu k x).chans = s.chans := rfl
@[simp] theorem setClu_chanBytes (k : Nat) (x : CluSt) : (s.setClu k x).chanBytes = s.chanBytes := rfl
@[simp] theorem setClu_chanPoison (k : Nat) (x : CluSt) : (s.setClu k x).chanPoison = s.chanPoison := rfl
@[simp] theorem setClu_chanUnseen (k : Nat) (x : CluSt) : (s.setClu k x).chanUnseen = s.chanUnseen := rfl
@[simp] theorem setClu_lostDies (k : Nat) (x : CluSt) : (s.setClu k x).lostDies = s.lostDies := rfl
@[simp] theorem setClu_pages (k : Nat) (x : CluSt) : (s.setClu k x).pages = s.pages := rfl
@[simp] theorem setClu_targets (k : Nat) (x : CluSt) : (s.setClu k x).targets = s.targets := rfl
@[simp] theorem setClu_queues (k : Nat) (x : CluSt) : (s.setClu k x).queues = s.queues := rfl
@[simp] theorem setClu_faults (k : Nat) (x : CluSt) : (s.setClu k x).faults = s.faults := rfl
@[simp] theorem setClu_reqSeq (k : Nat) (x : CluSt) : (s.setClu k x).reqSeq = s.reqSeq := rfl
@[simp] theorem setClu_atc (k : Nat) (x : CluSt) : (s.setClu k x).atc = s.atc := rfl
@[simp] theorem setClu_invals (k : Nat) (x : CluSt) : (s.setClu k x).invals = s.invals := rfl
@[simp] theorem setClu_ats (k : Nat) (x : CluSt) : (s.setClu k x).ats = s.ats := rfl
@[simp] theorem setClu_pri (k : Nat) (x : CluSt) : (s.setClu k x).pri = s.pri := rfl
@[simp] theorem setClu_priStop (k : Nat) (x : CluSt) : (s.setClu k x).priStop = s.priStop := rfl
@[simp] theorem setClu_flashDue (k : Nat) (x : CluSt) : (s.setClu k x).flashDue = s.flashDue := rfl
@[simp] theorem setClu_msixEn (k : Nat) (x : CluSt) : (s.setClu k x).msixEn = s.msixEn := rfl
@[simp] theorem setClu_msixMask (k : Nat) (x : CluSt) : (s.setClu k x).msixMask = s.msixMask := rfl
@[simp] theorem setClu_hostMem (k : Nat) (x : CluSt) : (s.setClu k x).hostMem = s.hostMem := rfl
@[simp] theorem setClu_errFlight (k : Nat) (x : CluSt) : (s.setClu k x).errFlight = s.errFlight := rfl
@[simp] theorem setClu_evtFlight (k : Nat) (x : CluSt) : (s.setClu k x).evtFlight = s.evtFlight := rfl
@[simp] theorem setClu_almanac (k : Nat) (x : CluSt) : (s.setClu k x).almanac = s.almanac := rfl
@[simp] theorem setClu_almStage (k : Nat) (x : CluSt) : (s.setClu k x).almStage = s.almStage := rfl
@[simp] theorem setClu_ports (k : Nat) (x : CluSt) : (s.setClu k x).ports = s.ports := rfl
@[simp] theorem setClu_fab (k : Nat) (x : CluSt) : (s.setClu k x).fab = s.fab := rfl
@[simp] theorem setClu_cles (k : Nat) (x : CluSt) : (s.setClu k x).cles = s.cles := rfl
@[simp] theorem setClu_hjob (k : Nat) (x : CluSt) : (s.setClu k x).hjob = s.hjob := rfl
@[simp] theorem setClu_flash (k : Nat) (x : CluSt) : (s.setClu k x).flash = s.flash := rfl
@[simp] theorem setClu_mmc (k : Nat) (x : CluSt) : (s.setClu k x).mmc = s.mmc := rfl
@[simp] theorem setClu_pwr (k : Nat) (x : CluSt) : (s.setClu k x).pwr = s.pwr := rfl
@[simp] theorem setClu_handlers (k : Nat) (x : CluSt) : (s.setClu k x).handlers = s.handlers := rfl
@[simp] theorem setClu_rates (k : Nat) (x : CluSt) : (s.setClu k x).rates = s.rates := rfl
@[simp] theorem setClu_mons (k : Nat) (x : CluSt) : (s.setClu k x).mons = s.mons := rfl
@[simp] theorem setClu_txnHost (k : Nat) (x : CluSt) : (s.setClu k x).txnHost = s.txnHost := rfl
@[simp] theorem setClu_txnMgmt (k : Nat) (x : CluSt) : (s.setClu k x).txnMgmt = s.txnMgmt := rfl
@[simp] theorem setClu_hostQ (k : Nat) (x : CluSt) : (s.setClu k x).hostQ = s.hostQ := rfl
@[simp] theorem setClu_waited (k : Nat) (x : CluSt) : (s.setClu k x).waited = s.waited := rfl
@[simp] theorem setClu_evtBuf (k : Nat) (x : CluSt) : (s.setClu k x).evtBuf = s.evtBuf := rfl
@[simp] theorem setClu_evtLost (k : Nat) (x : CluSt) : (s.setClu k x).evtLost = s.evtLost := rfl
@[simp] theorem setClu_evtSeq (k : Nat) (x : CluSt) : (s.setClu k x).evtSeq = s.evtSeq := rfl
@[simp] theorem setClu_hub1Lost (k : Nat) (x : CluSt) : (s.setClu k x).hub1Lost = s.hub1Lost := rfl
@[simp] theorem setClu_fatal (k : Nat) (x : CluSt) : (s.setClu k x).fatal = s.fatal := rfl
@[simp] theorem setClu_modLost (k : Nat) (x : CluSt) : (s.setClu k x).modLost = s.modLost := rfl
@[simp] theorem setClu_lostRegions (k : Nat) (x : CluSt) : (s.setClu k x).lostRegions = s.lostRegions := rfl
@[simp] theorem setClu_deadClus (k : Nat) (x : CluSt) : (s.setClu k x).deadClus = s.deadClus := rfl
@[simp] theorem setClu_gwDrops (k : Nat) (x : CluSt) : (s.setClu k x).gwDrops = s.gwDrops := rfl
@[simp] theorem setClu_fabDrops (k : Nat) (x : CluSt) : (s.setClu k x).fabDrops = s.fabDrops := rfl
@[simp] theorem setClu_acc_reg (k : Nat) (x : CluSt) (b : Nat) :
    (s.setClu k x).reg b = s.reg b := rfl
@[simp] theorem setClu_acc_regF (k : Nat) (x : CluSt) (b hi' lo' : Nat) :
    (s.setClu k x).regF b hi' lo' = s.regF b hi' lo' := rfl
@[simp] theorem setClu_acc_bit (k : Nat) (x : CluSt) (b j : Nat) :
    (s.setClu k x).bit b j = s.bit b j := rfl
@[simp] theorem setClu_acc_physClu (k : Nat) (x : CluSt) (c : Nat) :
    (s.setClu k x).physClu c = s.physClu c := rfl
@[simp] theorem setClu_acc_physUnit (k : Nat) (x : CluSt) (u : Nat) :
    (s.setClu k x).physUnit u = s.physUnit u := rfl
@[simp] theorem setClu_acc_ccState (k : Nat) (x : CluSt) (c : Nat) :
    (s.setClu k x).ccState c = s.ccState c := rfl
@[simp] theorem setClu_acc_ccBank (k : Nat) (x : CluSt) (c : Nat) :
    (s.setClu k x).ccBank c = s.ccBank c := rfl
@[simp] theorem setClu_acc_unitHalted (k : Nat) (x : CluSt) (u : Nat) :
    (s.setClu k x).unitHalted u = s.unitHalted u := rfl
@[simp] theorem setClu_acc_chState (k : Nat) (x : CluSt) (c : Nat) :
    (s.setClu k x).chState c = s.chState c := rfl
@[simp] theorem setClu_acc_logClu (k : Nat) (x : CluSt) (c : Nat) :
    (s.setClu k x).logClu c = s.logClu c := rfl
@[simp] theorem setClu_acc_logUnit (k : Nat) (x : CluSt) (c : Nat) :
    (s.setClu k x).logUnit c = s.logUnit c := rfl
@[simp] theorem setClu_acc_unit (k : Nat) (x : CluSt) (j : Nat) :
    (s.setClu k x).unit j = s.unit j := rfl
@[simp] theorem setClu_acc_slice (k : Nat) (x : CluSt) (j : Nat) :
    (s.setClu k x).slice j = s.slice j := rfl
@[simp] theorem setClu_acc_chan (k : Nat) (x : CluSt) (j : Nat) :
    (s.setClu k x).chan j = s.chan j := rfl
@[simp] theorem setClu_acc_tgt (k : Nat) (x : CluSt) (j : Nat) :
    (s.setClu k x).tgt j = s.tgt j := rfl
@[simp] theorem setClu_acc_port (k : Nat) (x : CluSt) (j : Nat) :
    (s.setClu k x).port j = s.port j := rfl
@[simp] theorem setClu_acc_cle (k : Nat) (x : CluSt) (j : Nat) :
    (s.setClu k x).cle j = s.cle j := rfl
@[simp] theorem setClu_acc_queueSt (k : Nat) (x : CluSt) (j : Nat) :
    (s.setClu k x).queueSt j = s.queueSt j := rfl

/-! ### updClu -/

@[simp] theorem updClu_pending (k : Nat) (f : CluSt → CluSt) : (s.updClu k f).pending = s.pending := rfl
@[simp] theorem updClu_regs (k : Nat) (f : CluSt → CluSt) : (s.updClu k f).regs = s.regs := rfl
@[simp] theorem updClu_ctr (k : Nat) (f : CluSt → CluSt) : (s.updClu k f).ctr = s.ctr := rfl
@[simp] theorem updClu_out (k : Nat) (f : CluSt → CluSt) : (s.updClu k f).out = s.out := rfl
@[simp] theorem updClu_units (k : Nat) (f : CluSt → CluSt) : (s.updClu k f).units = s.units := rfl
@[simp] theorem updClu_tokens (k : Nat) (f : CluSt → CluSt) : (s.updClu k f).tokens = s.tokens := rfl
@[simp] theorem updClu_scaleQ (k : Nat) (f : CluSt → CluSt) : (s.updClu k f).scaleQ = s.scaleQ := rfl
@[simp] theorem updClu_slotMap (k : Nat) (f : CluSt → CluSt) : (s.updClu k f).slotMap = s.slotMap := rfl
@[simp] theorem updClu_staged (k : Nat) (f : CluSt → CluSt) : (s.updClu k f).staged = s.staged := rfl
@[simp] theorem updClu_program (k : Nat) (f : CluSt → CluSt) : (s.updClu k f).program = s.program := rfl
@[simp] theorem updClu_running (k : Nat) (f : CluSt → CluSt) : (s.updClu k f).running = s.running := rfl
@[simp] theorem updClu_frame0 (k : Nat) (f : CluSt → CluSt) : (s.updClu k f).frame0 = s.frame0 := rfl
@[simp] theorem updClu_relock (k : Nat) (f : CluSt → CluSt) : (s.updClu k f).relock = s.relock := rfl
@[simp] theorem updClu_slices (k : Nat) (f : CluSt → CluSt) : (s.updClu k f).slices = s.slices := rfl
@[simp] theorem updClu_chans (k : Nat) (f : CluSt → CluSt) : (s.updClu k f).chans = s.chans := rfl
@[simp] theorem updClu_chanBytes (k : Nat) (f : CluSt → CluSt) : (s.updClu k f).chanBytes = s.chanBytes := rfl
@[simp] theorem updClu_chanPoison (k : Nat) (f : CluSt → CluSt) : (s.updClu k f).chanPoison = s.chanPoison := rfl
@[simp] theorem updClu_chanUnseen (k : Nat) (f : CluSt → CluSt) : (s.updClu k f).chanUnseen = s.chanUnseen := rfl
@[simp] theorem updClu_lostDies (k : Nat) (f : CluSt → CluSt) : (s.updClu k f).lostDies = s.lostDies := rfl
@[simp] theorem updClu_pages (k : Nat) (f : CluSt → CluSt) : (s.updClu k f).pages = s.pages := rfl
@[simp] theorem updClu_targets (k : Nat) (f : CluSt → CluSt) : (s.updClu k f).targets = s.targets := rfl
@[simp] theorem updClu_queues (k : Nat) (f : CluSt → CluSt) : (s.updClu k f).queues = s.queues := rfl
@[simp] theorem updClu_faults (k : Nat) (f : CluSt → CluSt) : (s.updClu k f).faults = s.faults := rfl
@[simp] theorem updClu_reqSeq (k : Nat) (f : CluSt → CluSt) : (s.updClu k f).reqSeq = s.reqSeq := rfl
@[simp] theorem updClu_atc (k : Nat) (f : CluSt → CluSt) : (s.updClu k f).atc = s.atc := rfl
@[simp] theorem updClu_invals (k : Nat) (f : CluSt → CluSt) : (s.updClu k f).invals = s.invals := rfl
@[simp] theorem updClu_ats (k : Nat) (f : CluSt → CluSt) : (s.updClu k f).ats = s.ats := rfl
@[simp] theorem updClu_pri (k : Nat) (f : CluSt → CluSt) : (s.updClu k f).pri = s.pri := rfl
@[simp] theorem updClu_priStop (k : Nat) (f : CluSt → CluSt) : (s.updClu k f).priStop = s.priStop := rfl
@[simp] theorem updClu_flashDue (k : Nat) (f : CluSt → CluSt) : (s.updClu k f).flashDue = s.flashDue := rfl
@[simp] theorem updClu_msixEn (k : Nat) (f : CluSt → CluSt) : (s.updClu k f).msixEn = s.msixEn := rfl
@[simp] theorem updClu_msixMask (k : Nat) (f : CluSt → CluSt) : (s.updClu k f).msixMask = s.msixMask := rfl
@[simp] theorem updClu_hostMem (k : Nat) (f : CluSt → CluSt) : (s.updClu k f).hostMem = s.hostMem := rfl
@[simp] theorem updClu_errFlight (k : Nat) (f : CluSt → CluSt) : (s.updClu k f).errFlight = s.errFlight := rfl
@[simp] theorem updClu_evtFlight (k : Nat) (f : CluSt → CluSt) : (s.updClu k f).evtFlight = s.evtFlight := rfl
@[simp] theorem updClu_almanac (k : Nat) (f : CluSt → CluSt) : (s.updClu k f).almanac = s.almanac := rfl
@[simp] theorem updClu_almStage (k : Nat) (f : CluSt → CluSt) : (s.updClu k f).almStage = s.almStage := rfl
@[simp] theorem updClu_ports (k : Nat) (f : CluSt → CluSt) : (s.updClu k f).ports = s.ports := rfl
@[simp] theorem updClu_fab (k : Nat) (f : CluSt → CluSt) : (s.updClu k f).fab = s.fab := rfl
@[simp] theorem updClu_cles (k : Nat) (f : CluSt → CluSt) : (s.updClu k f).cles = s.cles := rfl
@[simp] theorem updClu_hjob (k : Nat) (f : CluSt → CluSt) : (s.updClu k f).hjob = s.hjob := rfl
@[simp] theorem updClu_flash (k : Nat) (f : CluSt → CluSt) : (s.updClu k f).flash = s.flash := rfl
@[simp] theorem updClu_mmc (k : Nat) (f : CluSt → CluSt) : (s.updClu k f).mmc = s.mmc := rfl
@[simp] theorem updClu_pwr (k : Nat) (f : CluSt → CluSt) : (s.updClu k f).pwr = s.pwr := rfl
@[simp] theorem updClu_handlers (k : Nat) (f : CluSt → CluSt) : (s.updClu k f).handlers = s.handlers := rfl
@[simp] theorem updClu_rates (k : Nat) (f : CluSt → CluSt) : (s.updClu k f).rates = s.rates := rfl
@[simp] theorem updClu_mons (k : Nat) (f : CluSt → CluSt) : (s.updClu k f).mons = s.mons := rfl
@[simp] theorem updClu_txnHost (k : Nat) (f : CluSt → CluSt) : (s.updClu k f).txnHost = s.txnHost := rfl
@[simp] theorem updClu_txnMgmt (k : Nat) (f : CluSt → CluSt) : (s.updClu k f).txnMgmt = s.txnMgmt := rfl
@[simp] theorem updClu_hostQ (k : Nat) (f : CluSt → CluSt) : (s.updClu k f).hostQ = s.hostQ := rfl
@[simp] theorem updClu_waited (k : Nat) (f : CluSt → CluSt) : (s.updClu k f).waited = s.waited := rfl
@[simp] theorem updClu_evtBuf (k : Nat) (f : CluSt → CluSt) : (s.updClu k f).evtBuf = s.evtBuf := rfl
@[simp] theorem updClu_evtLost (k : Nat) (f : CluSt → CluSt) : (s.updClu k f).evtLost = s.evtLost := rfl
@[simp] theorem updClu_evtSeq (k : Nat) (f : CluSt → CluSt) : (s.updClu k f).evtSeq = s.evtSeq := rfl
@[simp] theorem updClu_hub1Lost (k : Nat) (f : CluSt → CluSt) : (s.updClu k f).hub1Lost = s.hub1Lost := rfl
@[simp] theorem updClu_fatal (k : Nat) (f : CluSt → CluSt) : (s.updClu k f).fatal = s.fatal := rfl
@[simp] theorem updClu_modLost (k : Nat) (f : CluSt → CluSt) : (s.updClu k f).modLost = s.modLost := rfl
@[simp] theorem updClu_lostRegions (k : Nat) (f : CluSt → CluSt) : (s.updClu k f).lostRegions = s.lostRegions := rfl
@[simp] theorem updClu_deadClus (k : Nat) (f : CluSt → CluSt) : (s.updClu k f).deadClus = s.deadClus := rfl
@[simp] theorem updClu_gwDrops (k : Nat) (f : CluSt → CluSt) : (s.updClu k f).gwDrops = s.gwDrops := rfl
@[simp] theorem updClu_fabDrops (k : Nat) (f : CluSt → CluSt) : (s.updClu k f).fabDrops = s.fabDrops := rfl
@[simp] theorem updClu_acc_reg (k : Nat) (f : CluSt → CluSt) (b : Nat) :
    (s.updClu k f).reg b = s.reg b := rfl
@[simp] theorem updClu_acc_regF (k : Nat) (f : CluSt → CluSt) (b hi' lo' : Nat) :
    (s.updClu k f).regF b hi' lo' = s.regF b hi' lo' := rfl
@[simp] theorem updClu_acc_bit (k : Nat) (f : CluSt → CluSt) (b j : Nat) :
    (s.updClu k f).bit b j = s.bit b j := rfl
@[simp] theorem updClu_acc_physClu (k : Nat) (f : CluSt → CluSt) (c : Nat) :
    (s.updClu k f).physClu c = s.physClu c := rfl
@[simp] theorem updClu_acc_physUnit (k : Nat) (f : CluSt → CluSt) (u : Nat) :
    (s.updClu k f).physUnit u = s.physUnit u := rfl
@[simp] theorem updClu_acc_ccState (k : Nat) (f : CluSt → CluSt) (c : Nat) :
    (s.updClu k f).ccState c = s.ccState c := rfl
@[simp] theorem updClu_acc_ccBank (k : Nat) (f : CluSt → CluSt) (c : Nat) :
    (s.updClu k f).ccBank c = s.ccBank c := rfl
@[simp] theorem updClu_acc_unitHalted (k : Nat) (f : CluSt → CluSt) (u : Nat) :
    (s.updClu k f).unitHalted u = s.unitHalted u := rfl
@[simp] theorem updClu_acc_chState (k : Nat) (f : CluSt → CluSt) (c : Nat) :
    (s.updClu k f).chState c = s.chState c := rfl
@[simp] theorem updClu_acc_logClu (k : Nat) (f : CluSt → CluSt) (c : Nat) :
    (s.updClu k f).logClu c = s.logClu c := rfl
@[simp] theorem updClu_acc_logUnit (k : Nat) (f : CluSt → CluSt) (c : Nat) :
    (s.updClu k f).logUnit c = s.logUnit c := rfl
@[simp] theorem updClu_acc_unit (k : Nat) (f : CluSt → CluSt) (j : Nat) :
    (s.updClu k f).unit j = s.unit j := rfl
@[simp] theorem updClu_acc_slice (k : Nat) (f : CluSt → CluSt) (j : Nat) :
    (s.updClu k f).slice j = s.slice j := rfl
@[simp] theorem updClu_acc_chan (k : Nat) (f : CluSt → CluSt) (j : Nat) :
    (s.updClu k f).chan j = s.chan j := rfl
@[simp] theorem updClu_acc_tgt (k : Nat) (f : CluSt → CluSt) (j : Nat) :
    (s.updClu k f).tgt j = s.tgt j := rfl
@[simp] theorem updClu_acc_port (k : Nat) (f : CluSt → CluSt) (j : Nat) :
    (s.updClu k f).port j = s.port j := rfl
@[simp] theorem updClu_acc_cle (k : Nat) (f : CluSt → CluSt) (j : Nat) :
    (s.updClu k f).cle j = s.cle j := rfl
@[simp] theorem updClu_acc_queueSt (k : Nat) (f : CluSt → CluSt) (j : Nat) :
    (s.updClu k f).queueSt j = s.queueSt j := rfl

/-! ### setSlice -/

@[simp] theorem setSlice_pending (k : Nat) (x : SliceSt) : (s.setSlice k x).pending = s.pending := rfl
@[simp] theorem setSlice_regs (k : Nat) (x : SliceSt) : (s.setSlice k x).regs = s.regs := rfl
@[simp] theorem setSlice_ctr (k : Nat) (x : SliceSt) : (s.setSlice k x).ctr = s.ctr := rfl
@[simp] theorem setSlice_out (k : Nat) (x : SliceSt) : (s.setSlice k x).out = s.out := rfl
@[simp] theorem setSlice_units (k : Nat) (x : SliceSt) : (s.setSlice k x).units = s.units := rfl
@[simp] theorem setSlice_clus (k : Nat) (x : SliceSt) : (s.setSlice k x).clus = s.clus := rfl
@[simp] theorem setSlice_tokens (k : Nat) (x : SliceSt) : (s.setSlice k x).tokens = s.tokens := rfl
@[simp] theorem setSlice_scaleQ (k : Nat) (x : SliceSt) : (s.setSlice k x).scaleQ = s.scaleQ := rfl
@[simp] theorem setSlice_slotMap (k : Nat) (x : SliceSt) : (s.setSlice k x).slotMap = s.slotMap := rfl
@[simp] theorem setSlice_staged (k : Nat) (x : SliceSt) : (s.setSlice k x).staged = s.staged := rfl
@[simp] theorem setSlice_program (k : Nat) (x : SliceSt) : (s.setSlice k x).program = s.program := rfl
@[simp] theorem setSlice_running (k : Nat) (x : SliceSt) : (s.setSlice k x).running = s.running := rfl
@[simp] theorem setSlice_frame0 (k : Nat) (x : SliceSt) : (s.setSlice k x).frame0 = s.frame0 := rfl
@[simp] theorem setSlice_relock (k : Nat) (x : SliceSt) : (s.setSlice k x).relock = s.relock := rfl
@[simp] theorem setSlice_chans (k : Nat) (x : SliceSt) : (s.setSlice k x).chans = s.chans := rfl
@[simp] theorem setSlice_chanBytes (k : Nat) (x : SliceSt) : (s.setSlice k x).chanBytes = s.chanBytes := rfl
@[simp] theorem setSlice_chanPoison (k : Nat) (x : SliceSt) : (s.setSlice k x).chanPoison = s.chanPoison := rfl
@[simp] theorem setSlice_chanUnseen (k : Nat) (x : SliceSt) : (s.setSlice k x).chanUnseen = s.chanUnseen := rfl
@[simp] theorem setSlice_lostDies (k : Nat) (x : SliceSt) : (s.setSlice k x).lostDies = s.lostDies := rfl
@[simp] theorem setSlice_pages (k : Nat) (x : SliceSt) : (s.setSlice k x).pages = s.pages := rfl
@[simp] theorem setSlice_targets (k : Nat) (x : SliceSt) : (s.setSlice k x).targets = s.targets := rfl
@[simp] theorem setSlice_queues (k : Nat) (x : SliceSt) : (s.setSlice k x).queues = s.queues := rfl
@[simp] theorem setSlice_faults (k : Nat) (x : SliceSt) : (s.setSlice k x).faults = s.faults := rfl
@[simp] theorem setSlice_reqSeq (k : Nat) (x : SliceSt) : (s.setSlice k x).reqSeq = s.reqSeq := rfl
@[simp] theorem setSlice_atc (k : Nat) (x : SliceSt) : (s.setSlice k x).atc = s.atc := rfl
@[simp] theorem setSlice_invals (k : Nat) (x : SliceSt) : (s.setSlice k x).invals = s.invals := rfl
@[simp] theorem setSlice_ats (k : Nat) (x : SliceSt) : (s.setSlice k x).ats = s.ats := rfl
@[simp] theorem setSlice_pri (k : Nat) (x : SliceSt) : (s.setSlice k x).pri = s.pri := rfl
@[simp] theorem setSlice_priStop (k : Nat) (x : SliceSt) : (s.setSlice k x).priStop = s.priStop := rfl
@[simp] theorem setSlice_flashDue (k : Nat) (x : SliceSt) : (s.setSlice k x).flashDue = s.flashDue := rfl
@[simp] theorem setSlice_msixEn (k : Nat) (x : SliceSt) : (s.setSlice k x).msixEn = s.msixEn := rfl
@[simp] theorem setSlice_msixMask (k : Nat) (x : SliceSt) : (s.setSlice k x).msixMask = s.msixMask := rfl
@[simp] theorem setSlice_hostMem (k : Nat) (x : SliceSt) : (s.setSlice k x).hostMem = s.hostMem := rfl
@[simp] theorem setSlice_errFlight (k : Nat) (x : SliceSt) : (s.setSlice k x).errFlight = s.errFlight := rfl
@[simp] theorem setSlice_evtFlight (k : Nat) (x : SliceSt) : (s.setSlice k x).evtFlight = s.evtFlight := rfl
@[simp] theorem setSlice_almanac (k : Nat) (x : SliceSt) : (s.setSlice k x).almanac = s.almanac := rfl
@[simp] theorem setSlice_almStage (k : Nat) (x : SliceSt) : (s.setSlice k x).almStage = s.almStage := rfl
@[simp] theorem setSlice_ports (k : Nat) (x : SliceSt) : (s.setSlice k x).ports = s.ports := rfl
@[simp] theorem setSlice_fab (k : Nat) (x : SliceSt) : (s.setSlice k x).fab = s.fab := rfl
@[simp] theorem setSlice_cles (k : Nat) (x : SliceSt) : (s.setSlice k x).cles = s.cles := rfl
@[simp] theorem setSlice_hjob (k : Nat) (x : SliceSt) : (s.setSlice k x).hjob = s.hjob := rfl
@[simp] theorem setSlice_flash (k : Nat) (x : SliceSt) : (s.setSlice k x).flash = s.flash := rfl
@[simp] theorem setSlice_mmc (k : Nat) (x : SliceSt) : (s.setSlice k x).mmc = s.mmc := rfl
@[simp] theorem setSlice_pwr (k : Nat) (x : SliceSt) : (s.setSlice k x).pwr = s.pwr := rfl
@[simp] theorem setSlice_handlers (k : Nat) (x : SliceSt) : (s.setSlice k x).handlers = s.handlers := rfl
@[simp] theorem setSlice_rates (k : Nat) (x : SliceSt) : (s.setSlice k x).rates = s.rates := rfl
@[simp] theorem setSlice_mons (k : Nat) (x : SliceSt) : (s.setSlice k x).mons = s.mons := rfl
@[simp] theorem setSlice_txnHost (k : Nat) (x : SliceSt) : (s.setSlice k x).txnHost = s.txnHost := rfl
@[simp] theorem setSlice_txnMgmt (k : Nat) (x : SliceSt) : (s.setSlice k x).txnMgmt = s.txnMgmt := rfl
@[simp] theorem setSlice_hostQ (k : Nat) (x : SliceSt) : (s.setSlice k x).hostQ = s.hostQ := rfl
@[simp] theorem setSlice_waited (k : Nat) (x : SliceSt) : (s.setSlice k x).waited = s.waited := rfl
@[simp] theorem setSlice_evtBuf (k : Nat) (x : SliceSt) : (s.setSlice k x).evtBuf = s.evtBuf := rfl
@[simp] theorem setSlice_evtLost (k : Nat) (x : SliceSt) : (s.setSlice k x).evtLost = s.evtLost := rfl
@[simp] theorem setSlice_evtSeq (k : Nat) (x : SliceSt) : (s.setSlice k x).evtSeq = s.evtSeq := rfl
@[simp] theorem setSlice_hub1Lost (k : Nat) (x : SliceSt) : (s.setSlice k x).hub1Lost = s.hub1Lost := rfl
@[simp] theorem setSlice_fatal (k : Nat) (x : SliceSt) : (s.setSlice k x).fatal = s.fatal := rfl
@[simp] theorem setSlice_modLost (k : Nat) (x : SliceSt) : (s.setSlice k x).modLost = s.modLost := rfl
@[simp] theorem setSlice_lostRegions (k : Nat) (x : SliceSt) : (s.setSlice k x).lostRegions = s.lostRegions := rfl
@[simp] theorem setSlice_deadClus (k : Nat) (x : SliceSt) : (s.setSlice k x).deadClus = s.deadClus := rfl
@[simp] theorem setSlice_gwDrops (k : Nat) (x : SliceSt) : (s.setSlice k x).gwDrops = s.gwDrops := rfl
@[simp] theorem setSlice_fabDrops (k : Nat) (x : SliceSt) : (s.setSlice k x).fabDrops = s.fabDrops := rfl
@[simp] theorem setSlice_acc_reg (k : Nat) (x : SliceSt) (b : Nat) :
    (s.setSlice k x).reg b = s.reg b := rfl
@[simp] theorem setSlice_acc_regF (k : Nat) (x : SliceSt) (b hi' lo' : Nat) :
    (s.setSlice k x).regF b hi' lo' = s.regF b hi' lo' := rfl
@[simp] theorem setSlice_acc_bit (k : Nat) (x : SliceSt) (b j : Nat) :
    (s.setSlice k x).bit b j = s.bit b j := rfl
@[simp] theorem setSlice_acc_physClu (k : Nat) (x : SliceSt) (c : Nat) :
    (s.setSlice k x).physClu c = s.physClu c := rfl
@[simp] theorem setSlice_acc_physUnit (k : Nat) (x : SliceSt) (u : Nat) :
    (s.setSlice k x).physUnit u = s.physUnit u := rfl
@[simp] theorem setSlice_acc_ccState (k : Nat) (x : SliceSt) (c : Nat) :
    (s.setSlice k x).ccState c = s.ccState c := rfl
@[simp] theorem setSlice_acc_ccBank (k : Nat) (x : SliceSt) (c : Nat) :
    (s.setSlice k x).ccBank c = s.ccBank c := rfl
@[simp] theorem setSlice_acc_unitHalted (k : Nat) (x : SliceSt) (u : Nat) :
    (s.setSlice k x).unitHalted u = s.unitHalted u := rfl
@[simp] theorem setSlice_acc_chState (k : Nat) (x : SliceSt) (c : Nat) :
    (s.setSlice k x).chState c = s.chState c := rfl
@[simp] theorem setSlice_acc_logClu (k : Nat) (x : SliceSt) (c : Nat) :
    (s.setSlice k x).logClu c = s.logClu c := rfl
@[simp] theorem setSlice_acc_logUnit (k : Nat) (x : SliceSt) (c : Nat) :
    (s.setSlice k x).logUnit c = s.logUnit c := rfl
@[simp] theorem setSlice_acc_unit (k : Nat) (x : SliceSt) (j : Nat) :
    (s.setSlice k x).unit j = s.unit j := rfl
@[simp] theorem setSlice_acc_clu (k : Nat) (x : SliceSt) (j : Nat) :
    (s.setSlice k x).clu j = s.clu j := rfl
@[simp] theorem setSlice_acc_chan (k : Nat) (x : SliceSt) (j : Nat) :
    (s.setSlice k x).chan j = s.chan j := rfl
@[simp] theorem setSlice_acc_tgt (k : Nat) (x : SliceSt) (j : Nat) :
    (s.setSlice k x).tgt j = s.tgt j := rfl
@[simp] theorem setSlice_acc_port (k : Nat) (x : SliceSt) (j : Nat) :
    (s.setSlice k x).port j = s.port j := rfl
@[simp] theorem setSlice_acc_cle (k : Nat) (x : SliceSt) (j : Nat) :
    (s.setSlice k x).cle j = s.cle j := rfl
@[simp] theorem setSlice_acc_queueSt (k : Nat) (x : SliceSt) (j : Nat) :
    (s.setSlice k x).queueSt j = s.queueSt j := rfl

/-! ### setChan -/

@[simp] theorem setChan_pending (k : Nat) (x : ChanSt) : (s.setChan k x).pending = s.pending := rfl
@[simp] theorem setChan_regs (k : Nat) (x : ChanSt) : (s.setChan k x).regs = s.regs := rfl
@[simp] theorem setChan_ctr (k : Nat) (x : ChanSt) : (s.setChan k x).ctr = s.ctr := rfl
@[simp] theorem setChan_out (k : Nat) (x : ChanSt) : (s.setChan k x).out = s.out := rfl
@[simp] theorem setChan_units (k : Nat) (x : ChanSt) : (s.setChan k x).units = s.units := rfl
@[simp] theorem setChan_clus (k : Nat) (x : ChanSt) : (s.setChan k x).clus = s.clus := rfl
@[simp] theorem setChan_tokens (k : Nat) (x : ChanSt) : (s.setChan k x).tokens = s.tokens := rfl
@[simp] theorem setChan_scaleQ (k : Nat) (x : ChanSt) : (s.setChan k x).scaleQ = s.scaleQ := rfl
@[simp] theorem setChan_slotMap (k : Nat) (x : ChanSt) : (s.setChan k x).slotMap = s.slotMap := rfl
@[simp] theorem setChan_staged (k : Nat) (x : ChanSt) : (s.setChan k x).staged = s.staged := rfl
@[simp] theorem setChan_program (k : Nat) (x : ChanSt) : (s.setChan k x).program = s.program := rfl
@[simp] theorem setChan_running (k : Nat) (x : ChanSt) : (s.setChan k x).running = s.running := rfl
@[simp] theorem setChan_frame0 (k : Nat) (x : ChanSt) : (s.setChan k x).frame0 = s.frame0 := rfl
@[simp] theorem setChan_relock (k : Nat) (x : ChanSt) : (s.setChan k x).relock = s.relock := rfl
@[simp] theorem setChan_slices (k : Nat) (x : ChanSt) : (s.setChan k x).slices = s.slices := rfl
@[simp] theorem setChan_chanBytes (k : Nat) (x : ChanSt) : (s.setChan k x).chanBytes = s.chanBytes := rfl
@[simp] theorem setChan_chanPoison (k : Nat) (x : ChanSt) : (s.setChan k x).chanPoison = s.chanPoison := rfl
@[simp] theorem setChan_chanUnseen (k : Nat) (x : ChanSt) : (s.setChan k x).chanUnseen = s.chanUnseen := rfl
@[simp] theorem setChan_lostDies (k : Nat) (x : ChanSt) : (s.setChan k x).lostDies = s.lostDies := rfl
@[simp] theorem setChan_pages (k : Nat) (x : ChanSt) : (s.setChan k x).pages = s.pages := rfl
@[simp] theorem setChan_targets (k : Nat) (x : ChanSt) : (s.setChan k x).targets = s.targets := rfl
@[simp] theorem setChan_queues (k : Nat) (x : ChanSt) : (s.setChan k x).queues = s.queues := rfl
@[simp] theorem setChan_faults (k : Nat) (x : ChanSt) : (s.setChan k x).faults = s.faults := rfl
@[simp] theorem setChan_reqSeq (k : Nat) (x : ChanSt) : (s.setChan k x).reqSeq = s.reqSeq := rfl
@[simp] theorem setChan_atc (k : Nat) (x : ChanSt) : (s.setChan k x).atc = s.atc := rfl
@[simp] theorem setChan_invals (k : Nat) (x : ChanSt) : (s.setChan k x).invals = s.invals := rfl
@[simp] theorem setChan_ats (k : Nat) (x : ChanSt) : (s.setChan k x).ats = s.ats := rfl
@[simp] theorem setChan_pri (k : Nat) (x : ChanSt) : (s.setChan k x).pri = s.pri := rfl
@[simp] theorem setChan_priStop (k : Nat) (x : ChanSt) : (s.setChan k x).priStop = s.priStop := rfl
@[simp] theorem setChan_flashDue (k : Nat) (x : ChanSt) : (s.setChan k x).flashDue = s.flashDue := rfl
@[simp] theorem setChan_msixEn (k : Nat) (x : ChanSt) : (s.setChan k x).msixEn = s.msixEn := rfl
@[simp] theorem setChan_msixMask (k : Nat) (x : ChanSt) : (s.setChan k x).msixMask = s.msixMask := rfl
@[simp] theorem setChan_hostMem (k : Nat) (x : ChanSt) : (s.setChan k x).hostMem = s.hostMem := rfl
@[simp] theorem setChan_errFlight (k : Nat) (x : ChanSt) : (s.setChan k x).errFlight = s.errFlight := rfl
@[simp] theorem setChan_evtFlight (k : Nat) (x : ChanSt) : (s.setChan k x).evtFlight = s.evtFlight := rfl
@[simp] theorem setChan_almanac (k : Nat) (x : ChanSt) : (s.setChan k x).almanac = s.almanac := rfl
@[simp] theorem setChan_almStage (k : Nat) (x : ChanSt) : (s.setChan k x).almStage = s.almStage := rfl
@[simp] theorem setChan_ports (k : Nat) (x : ChanSt) : (s.setChan k x).ports = s.ports := rfl
@[simp] theorem setChan_fab (k : Nat) (x : ChanSt) : (s.setChan k x).fab = s.fab := rfl
@[simp] theorem setChan_cles (k : Nat) (x : ChanSt) : (s.setChan k x).cles = s.cles := rfl
@[simp] theorem setChan_hjob (k : Nat) (x : ChanSt) : (s.setChan k x).hjob = s.hjob := rfl
@[simp] theorem setChan_flash (k : Nat) (x : ChanSt) : (s.setChan k x).flash = s.flash := rfl
@[simp] theorem setChan_mmc (k : Nat) (x : ChanSt) : (s.setChan k x).mmc = s.mmc := rfl
@[simp] theorem setChan_pwr (k : Nat) (x : ChanSt) : (s.setChan k x).pwr = s.pwr := rfl
@[simp] theorem setChan_handlers (k : Nat) (x : ChanSt) : (s.setChan k x).handlers = s.handlers := rfl
@[simp] theorem setChan_rates (k : Nat) (x : ChanSt) : (s.setChan k x).rates = s.rates := rfl
@[simp] theorem setChan_mons (k : Nat) (x : ChanSt) : (s.setChan k x).mons = s.mons := rfl
@[simp] theorem setChan_txnHost (k : Nat) (x : ChanSt) : (s.setChan k x).txnHost = s.txnHost := rfl
@[simp] theorem setChan_txnMgmt (k : Nat) (x : ChanSt) : (s.setChan k x).txnMgmt = s.txnMgmt := rfl
@[simp] theorem setChan_hostQ (k : Nat) (x : ChanSt) : (s.setChan k x).hostQ = s.hostQ := rfl
@[simp] theorem setChan_waited (k : Nat) (x : ChanSt) : (s.setChan k x).waited = s.waited := rfl
@[simp] theorem setChan_evtBuf (k : Nat) (x : ChanSt) : (s.setChan k x).evtBuf = s.evtBuf := rfl
@[simp] theorem setChan_evtLost (k : Nat) (x : ChanSt) : (s.setChan k x).evtLost = s.evtLost := rfl
@[simp] theorem setChan_evtSeq (k : Nat) (x : ChanSt) : (s.setChan k x).evtSeq = s.evtSeq := rfl
@[simp] theorem setChan_hub1Lost (k : Nat) (x : ChanSt) : (s.setChan k x).hub1Lost = s.hub1Lost := rfl
@[simp] theorem setChan_fatal (k : Nat) (x : ChanSt) : (s.setChan k x).fatal = s.fatal := rfl
@[simp] theorem setChan_modLost (k : Nat) (x : ChanSt) : (s.setChan k x).modLost = s.modLost := rfl
@[simp] theorem setChan_lostRegions (k : Nat) (x : ChanSt) : (s.setChan k x).lostRegions = s.lostRegions := rfl
@[simp] theorem setChan_deadClus (k : Nat) (x : ChanSt) : (s.setChan k x).deadClus = s.deadClus := rfl
@[simp] theorem setChan_gwDrops (k : Nat) (x : ChanSt) : (s.setChan k x).gwDrops = s.gwDrops := rfl
@[simp] theorem setChan_fabDrops (k : Nat) (x : ChanSt) : (s.setChan k x).fabDrops = s.fabDrops := rfl
@[simp] theorem setChan_acc_reg (k : Nat) (x : ChanSt) (b : Nat) :
    (s.setChan k x).reg b = s.reg b := rfl
@[simp] theorem setChan_acc_regF (k : Nat) (x : ChanSt) (b hi' lo' : Nat) :
    (s.setChan k x).regF b hi' lo' = s.regF b hi' lo' := rfl
@[simp] theorem setChan_acc_bit (k : Nat) (x : ChanSt) (b j : Nat) :
    (s.setChan k x).bit b j = s.bit b j := rfl
@[simp] theorem setChan_acc_physClu (k : Nat) (x : ChanSt) (c : Nat) :
    (s.setChan k x).physClu c = s.physClu c := rfl
@[simp] theorem setChan_acc_physUnit (k : Nat) (x : ChanSt) (u : Nat) :
    (s.setChan k x).physUnit u = s.physUnit u := rfl
@[simp] theorem setChan_acc_ccState (k : Nat) (x : ChanSt) (c : Nat) :
    (s.setChan k x).ccState c = s.ccState c := rfl
@[simp] theorem setChan_acc_ccBank (k : Nat) (x : ChanSt) (c : Nat) :
    (s.setChan k x).ccBank c = s.ccBank c := rfl
@[simp] theorem setChan_acc_unitHalted (k : Nat) (x : ChanSt) (u : Nat) :
    (s.setChan k x).unitHalted u = s.unitHalted u := rfl
@[simp] theorem setChan_acc_chState (k : Nat) (x : ChanSt) (c : Nat) :
    (s.setChan k x).chState c = s.chState c := rfl
@[simp] theorem setChan_acc_logClu (k : Nat) (x : ChanSt) (c : Nat) :
    (s.setChan k x).logClu c = s.logClu c := rfl
@[simp] theorem setChan_acc_logUnit (k : Nat) (x : ChanSt) (c : Nat) :
    (s.setChan k x).logUnit c = s.logUnit c := rfl
@[simp] theorem setChan_acc_unit (k : Nat) (x : ChanSt) (j : Nat) :
    (s.setChan k x).unit j = s.unit j := rfl
@[simp] theorem setChan_acc_clu (k : Nat) (x : ChanSt) (j : Nat) :
    (s.setChan k x).clu j = s.clu j := rfl
@[simp] theorem setChan_acc_slice (k : Nat) (x : ChanSt) (j : Nat) :
    (s.setChan k x).slice j = s.slice j := rfl
@[simp] theorem setChan_acc_tgt (k : Nat) (x : ChanSt) (j : Nat) :
    (s.setChan k x).tgt j = s.tgt j := rfl
@[simp] theorem setChan_acc_port (k : Nat) (x : ChanSt) (j : Nat) :
    (s.setChan k x).port j = s.port j := rfl
@[simp] theorem setChan_acc_cle (k : Nat) (x : ChanSt) (j : Nat) :
    (s.setChan k x).cle j = s.cle j := rfl
@[simp] theorem setChan_acc_queueSt (k : Nat) (x : ChanSt) (j : Nat) :
    (s.setChan k x).queueSt j = s.queueSt j := rfl

/-! ### updChan -/

@[simp] theorem updChan_pending (k : Nat) (f : ChanSt → ChanSt) : (s.updChan k f).pending = s.pending := rfl
@[simp] theorem updChan_regs (k : Nat) (f : ChanSt → ChanSt) : (s.updChan k f).regs = s.regs := rfl
@[simp] theorem updChan_ctr (k : Nat) (f : ChanSt → ChanSt) : (s.updChan k f).ctr = s.ctr := rfl
@[simp] theorem updChan_out (k : Nat) (f : ChanSt → ChanSt) : (s.updChan k f).out = s.out := rfl
@[simp] theorem updChan_units (k : Nat) (f : ChanSt → ChanSt) : (s.updChan k f).units = s.units := rfl
@[simp] theorem updChan_clus (k : Nat) (f : ChanSt → ChanSt) : (s.updChan k f).clus = s.clus := rfl
@[simp] theorem updChan_tokens (k : Nat) (f : ChanSt → ChanSt) : (s.updChan k f).tokens = s.tokens := rfl
@[simp] theorem updChan_scaleQ (k : Nat) (f : ChanSt → ChanSt) : (s.updChan k f).scaleQ = s.scaleQ := rfl
@[simp] theorem updChan_slotMap (k : Nat) (f : ChanSt → ChanSt) : (s.updChan k f).slotMap = s.slotMap := rfl
@[simp] theorem updChan_staged (k : Nat) (f : ChanSt → ChanSt) : (s.updChan k f).staged = s.staged := rfl
@[simp] theorem updChan_program (k : Nat) (f : ChanSt → ChanSt) : (s.updChan k f).program = s.program := rfl
@[simp] theorem updChan_running (k : Nat) (f : ChanSt → ChanSt) : (s.updChan k f).running = s.running := rfl
@[simp] theorem updChan_frame0 (k : Nat) (f : ChanSt → ChanSt) : (s.updChan k f).frame0 = s.frame0 := rfl
@[simp] theorem updChan_relock (k : Nat) (f : ChanSt → ChanSt) : (s.updChan k f).relock = s.relock := rfl
@[simp] theorem updChan_slices (k : Nat) (f : ChanSt → ChanSt) : (s.updChan k f).slices = s.slices := rfl
@[simp] theorem updChan_chanBytes (k : Nat) (f : ChanSt → ChanSt) : (s.updChan k f).chanBytes = s.chanBytes := rfl
@[simp] theorem updChan_chanPoison (k : Nat) (f : ChanSt → ChanSt) : (s.updChan k f).chanPoison = s.chanPoison := rfl
@[simp] theorem updChan_chanUnseen (k : Nat) (f : ChanSt → ChanSt) : (s.updChan k f).chanUnseen = s.chanUnseen := rfl
@[simp] theorem updChan_lostDies (k : Nat) (f : ChanSt → ChanSt) : (s.updChan k f).lostDies = s.lostDies := rfl
@[simp] theorem updChan_pages (k : Nat) (f : ChanSt → ChanSt) : (s.updChan k f).pages = s.pages := rfl
@[simp] theorem updChan_targets (k : Nat) (f : ChanSt → ChanSt) : (s.updChan k f).targets = s.targets := rfl
@[simp] theorem updChan_queues (k : Nat) (f : ChanSt → ChanSt) : (s.updChan k f).queues = s.queues := rfl
@[simp] theorem updChan_faults (k : Nat) (f : ChanSt → ChanSt) : (s.updChan k f).faults = s.faults := rfl
@[simp] theorem updChan_reqSeq (k : Nat) (f : ChanSt → ChanSt) : (s.updChan k f).reqSeq = s.reqSeq := rfl
@[simp] theorem updChan_atc (k : Nat) (f : ChanSt → ChanSt) : (s.updChan k f).atc = s.atc := rfl
@[simp] theorem updChan_invals (k : Nat) (f : ChanSt → ChanSt) : (s.updChan k f).invals = s.invals := rfl
@[simp] theorem updChan_ats (k : Nat) (f : ChanSt → ChanSt) : (s.updChan k f).ats = s.ats := rfl
@[simp] theorem updChan_pri (k : Nat) (f : ChanSt → ChanSt) : (s.updChan k f).pri = s.pri := rfl
@[simp] theorem updChan_priStop (k : Nat) (f : ChanSt → ChanSt) : (s.updChan k f).priStop = s.priStop := rfl
@[simp] theorem updChan_flashDue (k : Nat) (f : ChanSt → ChanSt) : (s.updChan k f).flashDue = s.flashDue := rfl
@[simp] theorem updChan_msixEn (k : Nat) (f : ChanSt → ChanSt) : (s.updChan k f).msixEn = s.msixEn := rfl
@[simp] theorem updChan_msixMask (k : Nat) (f : ChanSt → ChanSt) : (s.updChan k f).msixMask = s.msixMask := rfl
@[simp] theorem updChan_hostMem (k : Nat) (f : ChanSt → ChanSt) : (s.updChan k f).hostMem = s.hostMem := rfl
@[simp] theorem updChan_errFlight (k : Nat) (f : ChanSt → ChanSt) : (s.updChan k f).errFlight = s.errFlight := rfl
@[simp] theorem updChan_evtFlight (k : Nat) (f : ChanSt → ChanSt) : (s.updChan k f).evtFlight = s.evtFlight := rfl
@[simp] theorem updChan_almanac (k : Nat) (f : ChanSt → ChanSt) : (s.updChan k f).almanac = s.almanac := rfl
@[simp] theorem updChan_almStage (k : Nat) (f : ChanSt → ChanSt) : (s.updChan k f).almStage = s.almStage := rfl
@[simp] theorem updChan_ports (k : Nat) (f : ChanSt → ChanSt) : (s.updChan k f).ports = s.ports := rfl
@[simp] theorem updChan_fab (k : Nat) (f : ChanSt → ChanSt) : (s.updChan k f).fab = s.fab := rfl
@[simp] theorem updChan_cles (k : Nat) (f : ChanSt → ChanSt) : (s.updChan k f).cles = s.cles := rfl
@[simp] theorem updChan_hjob (k : Nat) (f : ChanSt → ChanSt) : (s.updChan k f).hjob = s.hjob := rfl
@[simp] theorem updChan_flash (k : Nat) (f : ChanSt → ChanSt) : (s.updChan k f).flash = s.flash := rfl
@[simp] theorem updChan_mmc (k : Nat) (f : ChanSt → ChanSt) : (s.updChan k f).mmc = s.mmc := rfl
@[simp] theorem updChan_pwr (k : Nat) (f : ChanSt → ChanSt) : (s.updChan k f).pwr = s.pwr := rfl
@[simp] theorem updChan_handlers (k : Nat) (f : ChanSt → ChanSt) : (s.updChan k f).handlers = s.handlers := rfl
@[simp] theorem updChan_rates (k : Nat) (f : ChanSt → ChanSt) : (s.updChan k f).rates = s.rates := rfl
@[simp] theorem updChan_mons (k : Nat) (f : ChanSt → ChanSt) : (s.updChan k f).mons = s.mons := rfl
@[simp] theorem updChan_txnHost (k : Nat) (f : ChanSt → ChanSt) : (s.updChan k f).txnHost = s.txnHost := rfl
@[simp] theorem updChan_txnMgmt (k : Nat) (f : ChanSt → ChanSt) : (s.updChan k f).txnMgmt = s.txnMgmt := rfl
@[simp] theorem updChan_hostQ (k : Nat) (f : ChanSt → ChanSt) : (s.updChan k f).hostQ = s.hostQ := rfl
@[simp] theorem updChan_waited (k : Nat) (f : ChanSt → ChanSt) : (s.updChan k f).waited = s.waited := rfl
@[simp] theorem updChan_evtBuf (k : Nat) (f : ChanSt → ChanSt) : (s.updChan k f).evtBuf = s.evtBuf := rfl
@[simp] theorem updChan_evtLost (k : Nat) (f : ChanSt → ChanSt) : (s.updChan k f).evtLost = s.evtLost := rfl
@[simp] theorem updChan_evtSeq (k : Nat) (f : ChanSt → ChanSt) : (s.updChan k f).evtSeq = s.evtSeq := rfl
@[simp] theorem updChan_hub1Lost (k : Nat) (f : ChanSt → ChanSt) : (s.updChan k f).hub1Lost = s.hub1Lost := rfl
@[simp] theorem updChan_fatal (k : Nat) (f : ChanSt → ChanSt) : (s.updChan k f).fatal = s.fatal := rfl
@[simp] theorem updChan_modLost (k : Nat) (f : ChanSt → ChanSt) : (s.updChan k f).modLost = s.modLost := rfl
@[simp] theorem updChan_lostRegions (k : Nat) (f : ChanSt → ChanSt) : (s.updChan k f).lostRegions = s.lostRegions := rfl
@[simp] theorem updChan_deadClus (k : Nat) (f : ChanSt → ChanSt) : (s.updChan k f).deadClus = s.deadClus := rfl
@[simp] theorem updChan_gwDrops (k : Nat) (f : ChanSt → ChanSt) : (s.updChan k f).gwDrops = s.gwDrops := rfl
@[simp] theorem updChan_fabDrops (k : Nat) (f : ChanSt → ChanSt) : (s.updChan k f).fabDrops = s.fabDrops := rfl
@[simp] theorem updChan_acc_reg (k : Nat) (f : ChanSt → ChanSt) (b : Nat) :
    (s.updChan k f).reg b = s.reg b := rfl
@[simp] theorem updChan_acc_regF (k : Nat) (f : ChanSt → ChanSt) (b hi' lo' : Nat) :
    (s.updChan k f).regF b hi' lo' = s.regF b hi' lo' := rfl
@[simp] theorem updChan_acc_bit (k : Nat) (f : ChanSt → ChanSt) (b j : Nat) :
    (s.updChan k f).bit b j = s.bit b j := rfl
@[simp] theorem updChan_acc_physClu (k : Nat) (f : ChanSt → ChanSt) (c : Nat) :
    (s.updChan k f).physClu c = s.physClu c := rfl
@[simp] theorem updChan_acc_physUnit (k : Nat) (f : ChanSt → ChanSt) (u : Nat) :
    (s.updChan k f).physUnit u = s.physUnit u := rfl
@[simp] theorem updChan_acc_ccState (k : Nat) (f : ChanSt → ChanSt) (c : Nat) :
    (s.updChan k f).ccState c = s.ccState c := rfl
@[simp] theorem updChan_acc_ccBank (k : Nat) (f : ChanSt → ChanSt) (c : Nat) :
    (s.updChan k f).ccBank c = s.ccBank c := rfl
@[simp] theorem updChan_acc_unitHalted (k : Nat) (f : ChanSt → ChanSt) (u : Nat) :
    (s.updChan k f).unitHalted u = s.unitHalted u := rfl
@[simp] theorem updChan_acc_chState (k : Nat) (f : ChanSt → ChanSt) (c : Nat) :
    (s.updChan k f).chState c = s.chState c := rfl
@[simp] theorem updChan_acc_logClu (k : Nat) (f : ChanSt → ChanSt) (c : Nat) :
    (s.updChan k f).logClu c = s.logClu c := rfl
@[simp] theorem updChan_acc_logUnit (k : Nat) (f : ChanSt → ChanSt) (c : Nat) :
    (s.updChan k f).logUnit c = s.logUnit c := rfl
@[simp] theorem updChan_acc_unit (k : Nat) (f : ChanSt → ChanSt) (j : Nat) :
    (s.updChan k f).unit j = s.unit j := rfl
@[simp] theorem updChan_acc_clu (k : Nat) (f : ChanSt → ChanSt) (j : Nat) :
    (s.updChan k f).clu j = s.clu j := rfl
@[simp] theorem updChan_acc_slice (k : Nat) (f : ChanSt → ChanSt) (j : Nat) :
    (s.updChan k f).slice j = s.slice j := rfl
@[simp] theorem updChan_acc_tgt (k : Nat) (f : ChanSt → ChanSt) (j : Nat) :
    (s.updChan k f).tgt j = s.tgt j := rfl
@[simp] theorem updChan_acc_port (k : Nat) (f : ChanSt → ChanSt) (j : Nat) :
    (s.updChan k f).port j = s.port j := rfl
@[simp] theorem updChan_acc_cle (k : Nat) (f : ChanSt → ChanSt) (j : Nat) :
    (s.updChan k f).cle j = s.cle j := rfl
@[simp] theorem updChan_acc_queueSt (k : Nat) (f : ChanSt → ChanSt) (j : Nat) :
    (s.updChan k f).queueSt j = s.queueSt j := rfl

/-! ### setTgt -/

@[simp] theorem setTgt_pending (k : Nat) (x : TgtSt) : (s.setTgt k x).pending = s.pending := rfl
@[simp] theorem setTgt_regs (k : Nat) (x : TgtSt) : (s.setTgt k x).regs = s.regs := rfl
@[simp] theorem setTgt_ctr (k : Nat) (x : TgtSt) : (s.setTgt k x).ctr = s.ctr := rfl
@[simp] theorem setTgt_out (k : Nat) (x : TgtSt) : (s.setTgt k x).out = s.out := rfl
@[simp] theorem setTgt_units (k : Nat) (x : TgtSt) : (s.setTgt k x).units = s.units := rfl
@[simp] theorem setTgt_clus (k : Nat) (x : TgtSt) : (s.setTgt k x).clus = s.clus := rfl
@[simp] theorem setTgt_tokens (k : Nat) (x : TgtSt) : (s.setTgt k x).tokens = s.tokens := rfl
@[simp] theorem setTgt_scaleQ (k : Nat) (x : TgtSt) : (s.setTgt k x).scaleQ = s.scaleQ := rfl
@[simp] theorem setTgt_slotMap (k : Nat) (x : TgtSt) : (s.setTgt k x).slotMap = s.slotMap := rfl
@[simp] theorem setTgt_staged (k : Nat) (x : TgtSt) : (s.setTgt k x).staged = s.staged := rfl
@[simp] theorem setTgt_program (k : Nat) (x : TgtSt) : (s.setTgt k x).program = s.program := rfl
@[simp] theorem setTgt_running (k : Nat) (x : TgtSt) : (s.setTgt k x).running = s.running := rfl
@[simp] theorem setTgt_frame0 (k : Nat) (x : TgtSt) : (s.setTgt k x).frame0 = s.frame0 := rfl
@[simp] theorem setTgt_relock (k : Nat) (x : TgtSt) : (s.setTgt k x).relock = s.relock := rfl
@[simp] theorem setTgt_slices (k : Nat) (x : TgtSt) : (s.setTgt k x).slices = s.slices := rfl
@[simp] theorem setTgt_chans (k : Nat) (x : TgtSt) : (s.setTgt k x).chans = s.chans := rfl
@[simp] theorem setTgt_chanBytes (k : Nat) (x : TgtSt) : (s.setTgt k x).chanBytes = s.chanBytes := rfl
@[simp] theorem setTgt_chanPoison (k : Nat) (x : TgtSt) : (s.setTgt k x).chanPoison = s.chanPoison := rfl
@[simp] theorem setTgt_chanUnseen (k : Nat) (x : TgtSt) : (s.setTgt k x).chanUnseen = s.chanUnseen := rfl
@[simp] theorem setTgt_lostDies (k : Nat) (x : TgtSt) : (s.setTgt k x).lostDies = s.lostDies := rfl
@[simp] theorem setTgt_pages (k : Nat) (x : TgtSt) : (s.setTgt k x).pages = s.pages := rfl
@[simp] theorem setTgt_queues (k : Nat) (x : TgtSt) : (s.setTgt k x).queues = s.queues := rfl
@[simp] theorem setTgt_faults (k : Nat) (x : TgtSt) : (s.setTgt k x).faults = s.faults := rfl
@[simp] theorem setTgt_reqSeq (k : Nat) (x : TgtSt) : (s.setTgt k x).reqSeq = s.reqSeq := rfl
@[simp] theorem setTgt_atc (k : Nat) (x : TgtSt) : (s.setTgt k x).atc = s.atc := rfl
@[simp] theorem setTgt_invals (k : Nat) (x : TgtSt) : (s.setTgt k x).invals = s.invals := rfl
@[simp] theorem setTgt_ats (k : Nat) (x : TgtSt) : (s.setTgt k x).ats = s.ats := rfl
@[simp] theorem setTgt_pri (k : Nat) (x : TgtSt) : (s.setTgt k x).pri = s.pri := rfl
@[simp] theorem setTgt_priStop (k : Nat) (x : TgtSt) : (s.setTgt k x).priStop = s.priStop := rfl
@[simp] theorem setTgt_flashDue (k : Nat) (x : TgtSt) : (s.setTgt k x).flashDue = s.flashDue := rfl
@[simp] theorem setTgt_msixEn (k : Nat) (x : TgtSt) : (s.setTgt k x).msixEn = s.msixEn := rfl
@[simp] theorem setTgt_msixMask (k : Nat) (x : TgtSt) : (s.setTgt k x).msixMask = s.msixMask := rfl
@[simp] theorem setTgt_hostMem (k : Nat) (x : TgtSt) : (s.setTgt k x).hostMem = s.hostMem := rfl
@[simp] theorem setTgt_errFlight (k : Nat) (x : TgtSt) : (s.setTgt k x).errFlight = s.errFlight := rfl
@[simp] theorem setTgt_evtFlight (k : Nat) (x : TgtSt) : (s.setTgt k x).evtFlight = s.evtFlight := rfl
@[simp] theorem setTgt_almanac (k : Nat) (x : TgtSt) : (s.setTgt k x).almanac = s.almanac := rfl
@[simp] theorem setTgt_almStage (k : Nat) (x : TgtSt) : (s.setTgt k x).almStage = s.almStage := rfl
@[simp] theorem setTgt_ports (k : Nat) (x : TgtSt) : (s.setTgt k x).ports = s.ports := rfl
@[simp] theorem setTgt_fab (k : Nat) (x : TgtSt) : (s.setTgt k x).fab = s.fab := rfl
@[simp] theorem setTgt_cles (k : Nat) (x : TgtSt) : (s.setTgt k x).cles = s.cles := rfl
@[simp] theorem setTgt_hjob (k : Nat) (x : TgtSt) : (s.setTgt k x).hjob = s.hjob := rfl
@[simp] theorem setTgt_flash (k : Nat) (x : TgtSt) : (s.setTgt k x).flash = s.flash := rfl
@[simp] theorem setTgt_mmc (k : Nat) (x : TgtSt) : (s.setTgt k x).mmc = s.mmc := rfl
@[simp] theorem setTgt_pwr (k : Nat) (x : TgtSt) : (s.setTgt k x).pwr = s.pwr := rfl
@[simp] theorem setTgt_handlers (k : Nat) (x : TgtSt) : (s.setTgt k x).handlers = s.handlers := rfl
@[simp] theorem setTgt_rates (k : Nat) (x : TgtSt) : (s.setTgt k x).rates = s.rates := rfl
@[simp] theorem setTgt_mons (k : Nat) (x : TgtSt) : (s.setTgt k x).mons = s.mons := rfl
@[simp] theorem setTgt_txnHost (k : Nat) (x : TgtSt) : (s.setTgt k x).txnHost = s.txnHost := rfl
@[simp] theorem setTgt_txnMgmt (k : Nat) (x : TgtSt) : (s.setTgt k x).txnMgmt = s.txnMgmt := rfl
@[simp] theorem setTgt_hostQ (k : Nat) (x : TgtSt) : (s.setTgt k x).hostQ = s.hostQ := rfl
@[simp] theorem setTgt_waited (k : Nat) (x : TgtSt) : (s.setTgt k x).waited = s.waited := rfl
@[simp] theorem setTgt_evtBuf (k : Nat) (x : TgtSt) : (s.setTgt k x).evtBuf = s.evtBuf := rfl
@[simp] theorem setTgt_evtLost (k : Nat) (x : TgtSt) : (s.setTgt k x).evtLost = s.evtLost := rfl
@[simp] theorem setTgt_evtSeq (k : Nat) (x : TgtSt) : (s.setTgt k x).evtSeq = s.evtSeq := rfl
@[simp] theorem setTgt_hub1Lost (k : Nat) (x : TgtSt) : (s.setTgt k x).hub1Lost = s.hub1Lost := rfl
@[simp] theorem setTgt_fatal (k : Nat) (x : TgtSt) : (s.setTgt k x).fatal = s.fatal := rfl
@[simp] theorem setTgt_modLost (k : Nat) (x : TgtSt) : (s.setTgt k x).modLost = s.modLost := rfl
@[simp] theorem setTgt_lostRegions (k : Nat) (x : TgtSt) : (s.setTgt k x).lostRegions = s.lostRegions := rfl
@[simp] theorem setTgt_deadClus (k : Nat) (x : TgtSt) : (s.setTgt k x).deadClus = s.deadClus := rfl
@[simp] theorem setTgt_gwDrops (k : Nat) (x : TgtSt) : (s.setTgt k x).gwDrops = s.gwDrops := rfl
@[simp] theorem setTgt_fabDrops (k : Nat) (x : TgtSt) : (s.setTgt k x).fabDrops = s.fabDrops := rfl
@[simp] theorem setTgt_acc_reg (k : Nat) (x : TgtSt) (b : Nat) :
    (s.setTgt k x).reg b = s.reg b := rfl
@[simp] theorem setTgt_acc_regF (k : Nat) (x : TgtSt) (b hi' lo' : Nat) :
    (s.setTgt k x).regF b hi' lo' = s.regF b hi' lo' := rfl
@[simp] theorem setTgt_acc_bit (k : Nat) (x : TgtSt) (b j : Nat) :
    (s.setTgt k x).bit b j = s.bit b j := rfl
@[simp] theorem setTgt_acc_physClu (k : Nat) (x : TgtSt) (c : Nat) :
    (s.setTgt k x).physClu c = s.physClu c := rfl
@[simp] theorem setTgt_acc_physUnit (k : Nat) (x : TgtSt) (u : Nat) :
    (s.setTgt k x).physUnit u = s.physUnit u := rfl
@[simp] theorem setTgt_acc_ccState (k : Nat) (x : TgtSt) (c : Nat) :
    (s.setTgt k x).ccState c = s.ccState c := rfl
@[simp] theorem setTgt_acc_ccBank (k : Nat) (x : TgtSt) (c : Nat) :
    (s.setTgt k x).ccBank c = s.ccBank c := rfl
@[simp] theorem setTgt_acc_unitHalted (k : Nat) (x : TgtSt) (u : Nat) :
    (s.setTgt k x).unitHalted u = s.unitHalted u := rfl
@[simp] theorem setTgt_acc_chState (k : Nat) (x : TgtSt) (c : Nat) :
    (s.setTgt k x).chState c = s.chState c := rfl
@[simp] theorem setTgt_acc_logClu (k : Nat) (x : TgtSt) (c : Nat) :
    (s.setTgt k x).logClu c = s.logClu c := rfl
@[simp] theorem setTgt_acc_logUnit (k : Nat) (x : TgtSt) (c : Nat) :
    (s.setTgt k x).logUnit c = s.logUnit c := rfl
@[simp] theorem setTgt_acc_unit (k : Nat) (x : TgtSt) (j : Nat) :
    (s.setTgt k x).unit j = s.unit j := rfl
@[simp] theorem setTgt_acc_clu (k : Nat) (x : TgtSt) (j : Nat) :
    (s.setTgt k x).clu j = s.clu j := rfl
@[simp] theorem setTgt_acc_slice (k : Nat) (x : TgtSt) (j : Nat) :
    (s.setTgt k x).slice j = s.slice j := rfl
@[simp] theorem setTgt_acc_chan (k : Nat) (x : TgtSt) (j : Nat) :
    (s.setTgt k x).chan j = s.chan j := rfl
@[simp] theorem setTgt_acc_port (k : Nat) (x : TgtSt) (j : Nat) :
    (s.setTgt k x).port j = s.port j := rfl
@[simp] theorem setTgt_acc_cle (k : Nat) (x : TgtSt) (j : Nat) :
    (s.setTgt k x).cle j = s.cle j := rfl
@[simp] theorem setTgt_acc_queueSt (k : Nat) (x : TgtSt) (j : Nat) :
    (s.setTgt k x).queueSt j = s.queueSt j := rfl

/-! ### setPort -/

@[simp] theorem setPort_pending (k : Nat) (x : PortSt) : (s.setPort k x).pending = s.pending := rfl
@[simp] theorem setPort_regs (k : Nat) (x : PortSt) : (s.setPort k x).regs = s.regs := rfl
@[simp] theorem setPort_ctr (k : Nat) (x : PortSt) : (s.setPort k x).ctr = s.ctr := rfl
@[simp] theorem setPort_out (k : Nat) (x : PortSt) : (s.setPort k x).out = s.out := rfl
@[simp] theorem setPort_units (k : Nat) (x : PortSt) : (s.setPort k x).units = s.units := rfl
@[simp] theorem setPort_clus (k : Nat) (x : PortSt) : (s.setPort k x).clus = s.clus := rfl
@[simp] theorem setPort_tokens (k : Nat) (x : PortSt) : (s.setPort k x).tokens = s.tokens := rfl
@[simp] theorem setPort_scaleQ (k : Nat) (x : PortSt) : (s.setPort k x).scaleQ = s.scaleQ := rfl
@[simp] theorem setPort_slotMap (k : Nat) (x : PortSt) : (s.setPort k x).slotMap = s.slotMap := rfl
@[simp] theorem setPort_staged (k : Nat) (x : PortSt) : (s.setPort k x).staged = s.staged := rfl
@[simp] theorem setPort_program (k : Nat) (x : PortSt) : (s.setPort k x).program = s.program := rfl
@[simp] theorem setPort_running (k : Nat) (x : PortSt) : (s.setPort k x).running = s.running := rfl
@[simp] theorem setPort_frame0 (k : Nat) (x : PortSt) : (s.setPort k x).frame0 = s.frame0 := rfl
@[simp] theorem setPort_relock (k : Nat) (x : PortSt) : (s.setPort k x).relock = s.relock := rfl
@[simp] theorem setPort_slices (k : Nat) (x : PortSt) : (s.setPort k x).slices = s.slices := rfl
@[simp] theorem setPort_chans (k : Nat) (x : PortSt) : (s.setPort k x).chans = s.chans := rfl
@[simp] theorem setPort_chanBytes (k : Nat) (x : PortSt) : (s.setPort k x).chanBytes = s.chanBytes := rfl
@[simp] theorem setPort_chanPoison (k : Nat) (x : PortSt) : (s.setPort k x).chanPoison = s.chanPoison := rfl
@[simp] theorem setPort_chanUnseen (k : Nat) (x : PortSt) : (s.setPort k x).chanUnseen = s.chanUnseen := rfl
@[simp] theorem setPort_lostDies (k : Nat) (x : PortSt) : (s.setPort k x).lostDies = s.lostDies := rfl
@[simp] theorem setPort_pages (k : Nat) (x : PortSt) : (s.setPort k x).pages = s.pages := rfl
@[simp] theorem setPort_targets (k : Nat) (x : PortSt) : (s.setPort k x).targets = s.targets := rfl
@[simp] theorem setPort_queues (k : Nat) (x : PortSt) : (s.setPort k x).queues = s.queues := rfl
@[simp] theorem setPort_faults (k : Nat) (x : PortSt) : (s.setPort k x).faults = s.faults := rfl
@[simp] theorem setPort_reqSeq (k : Nat) (x : PortSt) : (s.setPort k x).reqSeq = s.reqSeq := rfl
@[simp] theorem setPort_atc (k : Nat) (x : PortSt) : (s.setPort k x).atc = s.atc := rfl
@[simp] theorem setPort_invals (k : Nat) (x : PortSt) : (s.setPort k x).invals = s.invals := rfl
@[simp] theorem setPort_ats (k : Nat) (x : PortSt) : (s.setPort k x).ats = s.ats := rfl
@[simp] theorem setPort_pri (k : Nat) (x : PortSt) : (s.setPort k x).pri = s.pri := rfl
@[simp] theorem setPort_priStop (k : Nat) (x : PortSt) : (s.setPort k x).priStop = s.priStop := rfl
@[simp] theorem setPort_flashDue (k : Nat) (x : PortSt) : (s.setPort k x).flashDue = s.flashDue := rfl
@[simp] theorem setPort_msixEn (k : Nat) (x : PortSt) : (s.setPort k x).msixEn = s.msixEn := rfl
@[simp] theorem setPort_msixMask (k : Nat) (x : PortSt) : (s.setPort k x).msixMask = s.msixMask := rfl
@[simp] theorem setPort_hostMem (k : Nat) (x : PortSt) : (s.setPort k x).hostMem = s.hostMem := rfl
@[simp] theorem setPort_errFlight (k : Nat) (x : PortSt) : (s.setPort k x).errFlight = s.errFlight := rfl
@[simp] theorem setPort_evtFlight (k : Nat) (x : PortSt) : (s.setPort k x).evtFlight = s.evtFlight := rfl
@[simp] theorem setPort_almanac (k : Nat) (x : PortSt) : (s.setPort k x).almanac = s.almanac := rfl
@[simp] theorem setPort_almStage (k : Nat) (x : PortSt) : (s.setPort k x).almStage = s.almStage := rfl
@[simp] theorem setPort_fab (k : Nat) (x : PortSt) : (s.setPort k x).fab = s.fab := rfl
@[simp] theorem setPort_cles (k : Nat) (x : PortSt) : (s.setPort k x).cles = s.cles := rfl
@[simp] theorem setPort_hjob (k : Nat) (x : PortSt) : (s.setPort k x).hjob = s.hjob := rfl
@[simp] theorem setPort_flash (k : Nat) (x : PortSt) : (s.setPort k x).flash = s.flash := rfl
@[simp] theorem setPort_mmc (k : Nat) (x : PortSt) : (s.setPort k x).mmc = s.mmc := rfl
@[simp] theorem setPort_pwr (k : Nat) (x : PortSt) : (s.setPort k x).pwr = s.pwr := rfl
@[simp] theorem setPort_handlers (k : Nat) (x : PortSt) : (s.setPort k x).handlers = s.handlers := rfl
@[simp] theorem setPort_rates (k : Nat) (x : PortSt) : (s.setPort k x).rates = s.rates := rfl
@[simp] theorem setPort_mons (k : Nat) (x : PortSt) : (s.setPort k x).mons = s.mons := rfl
@[simp] theorem setPort_txnHost (k : Nat) (x : PortSt) : (s.setPort k x).txnHost = s.txnHost := rfl
@[simp] theorem setPort_txnMgmt (k : Nat) (x : PortSt) : (s.setPort k x).txnMgmt = s.txnMgmt := rfl
@[simp] theorem setPort_hostQ (k : Nat) (x : PortSt) : (s.setPort k x).hostQ = s.hostQ := rfl
@[simp] theorem setPort_waited (k : Nat) (x : PortSt) : (s.setPort k x).waited = s.waited := rfl
@[simp] theorem setPort_evtBuf (k : Nat) (x : PortSt) : (s.setPort k x).evtBuf = s.evtBuf := rfl
@[simp] theorem setPort_evtLost (k : Nat) (x : PortSt) : (s.setPort k x).evtLost = s.evtLost := rfl
@[simp] theorem setPort_evtSeq (k : Nat) (x : PortSt) : (s.setPort k x).evtSeq = s.evtSeq := rfl
@[simp] theorem setPort_hub1Lost (k : Nat) (x : PortSt) : (s.setPort k x).hub1Lost = s.hub1Lost := rfl
@[simp] theorem setPort_fatal (k : Nat) (x : PortSt) : (s.setPort k x).fatal = s.fatal := rfl
@[simp] theorem setPort_modLost (k : Nat) (x : PortSt) : (s.setPort k x).modLost = s.modLost := rfl
@[simp] theorem setPort_lostRegions (k : Nat) (x : PortSt) : (s.setPort k x).lostRegions = s.lostRegions := rfl
@[simp] theorem setPort_deadClus (k : Nat) (x : PortSt) : (s.setPort k x).deadClus = s.deadClus := rfl
@[simp] theorem setPort_gwDrops (k : Nat) (x : PortSt) : (s.setPort k x).gwDrops = s.gwDrops := rfl
@[simp] theorem setPort_fabDrops (k : Nat) (x : PortSt) : (s.setPort k x).fabDrops = s.fabDrops := rfl
@[simp] theorem setPort_acc_reg (k : Nat) (x : PortSt) (b : Nat) :
    (s.setPort k x).reg b = s.reg b := rfl
@[simp] theorem setPort_acc_regF (k : Nat) (x : PortSt) (b hi' lo' : Nat) :
    (s.setPort k x).regF b hi' lo' = s.regF b hi' lo' := rfl
@[simp] theorem setPort_acc_bit (k : Nat) (x : PortSt) (b j : Nat) :
    (s.setPort k x).bit b j = s.bit b j := rfl
@[simp] theorem setPort_acc_physClu (k : Nat) (x : PortSt) (c : Nat) :
    (s.setPort k x).physClu c = s.physClu c := rfl
@[simp] theorem setPort_acc_physUnit (k : Nat) (x : PortSt) (u : Nat) :
    (s.setPort k x).physUnit u = s.physUnit u := rfl
@[simp] theorem setPort_acc_ccState (k : Nat) (x : PortSt) (c : Nat) :
    (s.setPort k x).ccState c = s.ccState c := rfl
@[simp] theorem setPort_acc_ccBank (k : Nat) (x : PortSt) (c : Nat) :
    (s.setPort k x).ccBank c = s.ccBank c := rfl
@[simp] theorem setPort_acc_unitHalted (k : Nat) (x : PortSt) (u : Nat) :
    (s.setPort k x).unitHalted u = s.unitHalted u := rfl
@[simp] theorem setPort_acc_chState (k : Nat) (x : PortSt) (c : Nat) :
    (s.setPort k x).chState c = s.chState c := rfl
@[simp] theorem setPort_acc_logClu (k : Nat) (x : PortSt) (c : Nat) :
    (s.setPort k x).logClu c = s.logClu c := rfl
@[simp] theorem setPort_acc_logUnit (k : Nat) (x : PortSt) (c : Nat) :
    (s.setPort k x).logUnit c = s.logUnit c := rfl
@[simp] theorem setPort_acc_unit (k : Nat) (x : PortSt) (j : Nat) :
    (s.setPort k x).unit j = s.unit j := rfl
@[simp] theorem setPort_acc_clu (k : Nat) (x : PortSt) (j : Nat) :
    (s.setPort k x).clu j = s.clu j := rfl
@[simp] theorem setPort_acc_slice (k : Nat) (x : PortSt) (j : Nat) :
    (s.setPort k x).slice j = s.slice j := rfl
@[simp] theorem setPort_acc_chan (k : Nat) (x : PortSt) (j : Nat) :
    (s.setPort k x).chan j = s.chan j := rfl
@[simp] theorem setPort_acc_tgt (k : Nat) (x : PortSt) (j : Nat) :
    (s.setPort k x).tgt j = s.tgt j := rfl
@[simp] theorem setPort_acc_cle (k : Nat) (x : PortSt) (j : Nat) :
    (s.setPort k x).cle j = s.cle j := rfl
@[simp] theorem setPort_acc_queueSt (k : Nat) (x : PortSt) (j : Nat) :
    (s.setPort k x).queueSt j = s.queueSt j := rfl

/-! ### updPort -/

@[simp] theorem updPort_pending (k : Nat) (f : PortSt → PortSt) : (s.updPort k f).pending = s.pending := rfl
@[simp] theorem updPort_regs (k : Nat) (f : PortSt → PortSt) : (s.updPort k f).regs = s.regs := rfl
@[simp] theorem updPort_ctr (k : Nat) (f : PortSt → PortSt) : (s.updPort k f).ctr = s.ctr := rfl
@[simp] theorem updPort_out (k : Nat) (f : PortSt → PortSt) : (s.updPort k f).out = s.out := rfl
@[simp] theorem updPort_units (k : Nat) (f : PortSt → PortSt) : (s.updPort k f).units = s.units := rfl
@[simp] theorem updPort_clus (k : Nat) (f : PortSt → PortSt) : (s.updPort k f).clus = s.clus := rfl
@[simp] theorem updPort_tokens (k : Nat) (f : PortSt → PortSt) : (s.updPort k f).tokens = s.tokens := rfl
@[simp] theorem updPort_scaleQ (k : Nat) (f : PortSt → PortSt) : (s.updPort k f).scaleQ = s.scaleQ := rfl
@[simp] theorem updPort_slotMap (k : Nat) (f : PortSt → PortSt) : (s.updPort k f).slotMap = s.slotMap := rfl
@[simp] theorem updPort_staged (k : Nat) (f : PortSt → PortSt) : (s.updPort k f).staged = s.staged := rfl
@[simp] theorem updPort_program (k : Nat) (f : PortSt → PortSt) : (s.updPort k f).program = s.program := rfl
@[simp] theorem updPort_running (k : Nat) (f : PortSt → PortSt) : (s.updPort k f).running = s.running := rfl
@[simp] theorem updPort_frame0 (k : Nat) (f : PortSt → PortSt) : (s.updPort k f).frame0 = s.frame0 := rfl
@[simp] theorem updPort_relock (k : Nat) (f : PortSt → PortSt) : (s.updPort k f).relock = s.relock := rfl
@[simp] theorem updPort_slices (k : Nat) (f : PortSt → PortSt) : (s.updPort k f).slices = s.slices := rfl
@[simp] theorem updPort_chans (k : Nat) (f : PortSt → PortSt) : (s.updPort k f).chans = s.chans := rfl
@[simp] theorem updPort_chanBytes (k : Nat) (f : PortSt → PortSt) : (s.updPort k f).chanBytes = s.chanBytes := rfl
@[simp] theorem updPort_chanPoison (k : Nat) (f : PortSt → PortSt) : (s.updPort k f).chanPoison = s.chanPoison := rfl
@[simp] theorem updPort_chanUnseen (k : Nat) (f : PortSt → PortSt) : (s.updPort k f).chanUnseen = s.chanUnseen := rfl
@[simp] theorem updPort_lostDies (k : Nat) (f : PortSt → PortSt) : (s.updPort k f).lostDies = s.lostDies := rfl
@[simp] theorem updPort_pages (k : Nat) (f : PortSt → PortSt) : (s.updPort k f).pages = s.pages := rfl
@[simp] theorem updPort_targets (k : Nat) (f : PortSt → PortSt) : (s.updPort k f).targets = s.targets := rfl
@[simp] theorem updPort_queues (k : Nat) (f : PortSt → PortSt) : (s.updPort k f).queues = s.queues := rfl
@[simp] theorem updPort_faults (k : Nat) (f : PortSt → PortSt) : (s.updPort k f).faults = s.faults := rfl
@[simp] theorem updPort_reqSeq (k : Nat) (f : PortSt → PortSt) : (s.updPort k f).reqSeq = s.reqSeq := rfl
@[simp] theorem updPort_atc (k : Nat) (f : PortSt → PortSt) : (s.updPort k f).atc = s.atc := rfl
@[simp] theorem updPort_invals (k : Nat) (f : PortSt → PortSt) : (s.updPort k f).invals = s.invals := rfl
@[simp] theorem updPort_ats (k : Nat) (f : PortSt → PortSt) : (s.updPort k f).ats = s.ats := rfl
@[simp] theorem updPort_pri (k : Nat) (f : PortSt → PortSt) : (s.updPort k f).pri = s.pri := rfl
@[simp] theorem updPort_priStop (k : Nat) (f : PortSt → PortSt) : (s.updPort k f).priStop = s.priStop := rfl
@[simp] theorem updPort_flashDue (k : Nat) (f : PortSt → PortSt) : (s.updPort k f).flashDue = s.flashDue := rfl
@[simp] theorem updPort_msixEn (k : Nat) (f : PortSt → PortSt) : (s.updPort k f).msixEn = s.msixEn := rfl
@[simp] theorem updPort_msixMask (k : Nat) (f : PortSt → PortSt) : (s.updPort k f).msixMask = s.msixMask := rfl
@[simp] theorem updPort_hostMem (k : Nat) (f : PortSt → PortSt) : (s.updPort k f).hostMem = s.hostMem := rfl
@[simp] theorem updPort_errFlight (k : Nat) (f : PortSt → PortSt) : (s.updPort k f).errFlight = s.errFlight := rfl
@[simp] theorem updPort_evtFlight (k : Nat) (f : PortSt → PortSt) : (s.updPort k f).evtFlight = s.evtFlight := rfl
@[simp] theorem updPort_almanac (k : Nat) (f : PortSt → PortSt) : (s.updPort k f).almanac = s.almanac := rfl
@[simp] theorem updPort_almStage (k : Nat) (f : PortSt → PortSt) : (s.updPort k f).almStage = s.almStage := rfl
@[simp] theorem updPort_fab (k : Nat) (f : PortSt → PortSt) : (s.updPort k f).fab = s.fab := rfl
@[simp] theorem updPort_cles (k : Nat) (f : PortSt → PortSt) : (s.updPort k f).cles = s.cles := rfl
@[simp] theorem updPort_hjob (k : Nat) (f : PortSt → PortSt) : (s.updPort k f).hjob = s.hjob := rfl
@[simp] theorem updPort_flash (k : Nat) (f : PortSt → PortSt) : (s.updPort k f).flash = s.flash := rfl
@[simp] theorem updPort_mmc (k : Nat) (f : PortSt → PortSt) : (s.updPort k f).mmc = s.mmc := rfl
@[simp] theorem updPort_pwr (k : Nat) (f : PortSt → PortSt) : (s.updPort k f).pwr = s.pwr := rfl
@[simp] theorem updPort_handlers (k : Nat) (f : PortSt → PortSt) : (s.updPort k f).handlers = s.handlers := rfl
@[simp] theorem updPort_rates (k : Nat) (f : PortSt → PortSt) : (s.updPort k f).rates = s.rates := rfl
@[simp] theorem updPort_mons (k : Nat) (f : PortSt → PortSt) : (s.updPort k f).mons = s.mons := rfl
@[simp] theorem updPort_txnHost (k : Nat) (f : PortSt → PortSt) : (s.updPort k f).txnHost = s.txnHost := rfl
@[simp] theorem updPort_txnMgmt (k : Nat) (f : PortSt → PortSt) : (s.updPort k f).txnMgmt = s.txnMgmt := rfl
@[simp] theorem updPort_hostQ (k : Nat) (f : PortSt → PortSt) : (s.updPort k f).hostQ = s.hostQ := rfl
@[simp] theorem updPort_waited (k : Nat) (f : PortSt → PortSt) : (s.updPort k f).waited = s.waited := rfl
@[simp] theorem updPort_evtBuf (k : Nat) (f : PortSt → PortSt) : (s.updPort k f).evtBuf = s.evtBuf := rfl
@[simp] theorem updPort_evtLost (k : Nat) (f : PortSt → PortSt) : (s.updPort k f).evtLost = s.evtLost := rfl
@[simp] theorem updPort_evtSeq (k : Nat) (f : PortSt → PortSt) : (s.updPort k f).evtSeq = s.evtSeq := rfl
@[simp] theorem updPort_hub1Lost (k : Nat) (f : PortSt → PortSt) : (s.updPort k f).hub1Lost = s.hub1Lost := rfl
@[simp] theorem updPort_fatal (k : Nat) (f : PortSt → PortSt) : (s.updPort k f).fatal = s.fatal := rfl
@[simp] theorem updPort_modLost (k : Nat) (f : PortSt → PortSt) : (s.updPort k f).modLost = s.modLost := rfl
@[simp] theorem updPort_lostRegions (k : Nat) (f : PortSt → PortSt) : (s.updPort k f).lostRegions = s.lostRegions := rfl
@[simp] theorem updPort_deadClus (k : Nat) (f : PortSt → PortSt) : (s.updPort k f).deadClus = s.deadClus := rfl
@[simp] theorem updPort_gwDrops (k : Nat) (f : PortSt → PortSt) : (s.updPort k f).gwDrops = s.gwDrops := rfl
@[simp] theorem updPort_fabDrops (k : Nat) (f : PortSt → PortSt) : (s.updPort k f).fabDrops = s.fabDrops := rfl
@[simp] theorem updPort_acc_reg (k : Nat) (f : PortSt → PortSt) (b : Nat) :
    (s.updPort k f).reg b = s.reg b := rfl
@[simp] theorem updPort_acc_regF (k : Nat) (f : PortSt → PortSt) (b hi' lo' : Nat) :
    (s.updPort k f).regF b hi' lo' = s.regF b hi' lo' := rfl
@[simp] theorem updPort_acc_bit (k : Nat) (f : PortSt → PortSt) (b j : Nat) :
    (s.updPort k f).bit b j = s.bit b j := rfl
@[simp] theorem updPort_acc_physClu (k : Nat) (f : PortSt → PortSt) (c : Nat) :
    (s.updPort k f).physClu c = s.physClu c := rfl
@[simp] theorem updPort_acc_physUnit (k : Nat) (f : PortSt → PortSt) (u : Nat) :
    (s.updPort k f).physUnit u = s.physUnit u := rfl
@[simp] theorem updPort_acc_ccState (k : Nat) (f : PortSt → PortSt) (c : Nat) :
    (s.updPort k f).ccState c = s.ccState c := rfl
@[simp] theorem updPort_acc_ccBank (k : Nat) (f : PortSt → PortSt) (c : Nat) :
    (s.updPort k f).ccBank c = s.ccBank c := rfl
@[simp] theorem updPort_acc_unitHalted (k : Nat) (f : PortSt → PortSt) (u : Nat) :
    (s.updPort k f).unitHalted u = s.unitHalted u := rfl
@[simp] theorem updPort_acc_chState (k : Nat) (f : PortSt → PortSt) (c : Nat) :
    (s.updPort k f).chState c = s.chState c := rfl
@[simp] theorem updPort_acc_logClu (k : Nat) (f : PortSt → PortSt) (c : Nat) :
    (s.updPort k f).logClu c = s.logClu c := rfl
@[simp] theorem updPort_acc_logUnit (k : Nat) (f : PortSt → PortSt) (c : Nat) :
    (s.updPort k f).logUnit c = s.logUnit c := rfl
@[simp] theorem updPort_acc_unit (k : Nat) (f : PortSt → PortSt) (j : Nat) :
    (s.updPort k f).unit j = s.unit j := rfl
@[simp] theorem updPort_acc_clu (k : Nat) (f : PortSt → PortSt) (j : Nat) :
    (s.updPort k f).clu j = s.clu j := rfl
@[simp] theorem updPort_acc_slice (k : Nat) (f : PortSt → PortSt) (j : Nat) :
    (s.updPort k f).slice j = s.slice j := rfl
@[simp] theorem updPort_acc_chan (k : Nat) (f : PortSt → PortSt) (j : Nat) :
    (s.updPort k f).chan j = s.chan j := rfl
@[simp] theorem updPort_acc_tgt (k : Nat) (f : PortSt → PortSt) (j : Nat) :
    (s.updPort k f).tgt j = s.tgt j := rfl
@[simp] theorem updPort_acc_cle (k : Nat) (f : PortSt → PortSt) (j : Nat) :
    (s.updPort k f).cle j = s.cle j := rfl
@[simp] theorem updPort_acc_queueSt (k : Nat) (f : PortSt → PortSt) (j : Nat) :
    (s.updPort k f).queueSt j = s.queueSt j := rfl

/-! ### setCle -/

@[simp] theorem setCle_pending (k : Nat) (x : CleSt) : (s.setCle k x).pending = s.pending := rfl
@[simp] theorem setCle_regs (k : Nat) (x : CleSt) : (s.setCle k x).regs = s.regs := rfl
@[simp] theorem setCle_ctr (k : Nat) (x : CleSt) : (s.setCle k x).ctr = s.ctr := rfl
@[simp] theorem setCle_out (k : Nat) (x : CleSt) : (s.setCle k x).out = s.out := rfl
@[simp] theorem setCle_units (k : Nat) (x : CleSt) : (s.setCle k x).units = s.units := rfl
@[simp] theorem setCle_clus (k : Nat) (x : CleSt) : (s.setCle k x).clus = s.clus := rfl
@[simp] theorem setCle_tokens (k : Nat) (x : CleSt) : (s.setCle k x).tokens = s.tokens := rfl
@[simp] theorem setCle_scaleQ (k : Nat) (x : CleSt) : (s.setCle k x).scaleQ = s.scaleQ := rfl
@[simp] theorem setCle_slotMap (k : Nat) (x : CleSt) : (s.setCle k x).slotMap = s.slotMap := rfl
@[simp] theorem setCle_staged (k : Nat) (x : CleSt) : (s.setCle k x).staged = s.staged := rfl
@[simp] theorem setCle_program (k : Nat) (x : CleSt) : (s.setCle k x).program = s.program := rfl
@[simp] theorem setCle_running (k : Nat) (x : CleSt) : (s.setCle k x).running = s.running := rfl
@[simp] theorem setCle_frame0 (k : Nat) (x : CleSt) : (s.setCle k x).frame0 = s.frame0 := rfl
@[simp] theorem setCle_relock (k : Nat) (x : CleSt) : (s.setCle k x).relock = s.relock := rfl
@[simp] theorem setCle_slices (k : Nat) (x : CleSt) : (s.setCle k x).slices = s.slices := rfl
@[simp] theorem setCle_chans (k : Nat) (x : CleSt) : (s.setCle k x).chans = s.chans := rfl
@[simp] theorem setCle_chanBytes (k : Nat) (x : CleSt) : (s.setCle k x).chanBytes = s.chanBytes := rfl
@[simp] theorem setCle_chanPoison (k : Nat) (x : CleSt) : (s.setCle k x).chanPoison = s.chanPoison := rfl
@[simp] theorem setCle_chanUnseen (k : Nat) (x : CleSt) : (s.setCle k x).chanUnseen = s.chanUnseen := rfl
@[simp] theorem setCle_lostDies (k : Nat) (x : CleSt) : (s.setCle k x).lostDies = s.lostDies := rfl
@[simp] theorem setCle_pages (k : Nat) (x : CleSt) : (s.setCle k x).pages = s.pages := rfl
@[simp] theorem setCle_targets (k : Nat) (x : CleSt) : (s.setCle k x).targets = s.targets := rfl
@[simp] theorem setCle_queues (k : Nat) (x : CleSt) : (s.setCle k x).queues = s.queues := rfl
@[simp] theorem setCle_faults (k : Nat) (x : CleSt) : (s.setCle k x).faults = s.faults := rfl
@[simp] theorem setCle_reqSeq (k : Nat) (x : CleSt) : (s.setCle k x).reqSeq = s.reqSeq := rfl
@[simp] theorem setCle_atc (k : Nat) (x : CleSt) : (s.setCle k x).atc = s.atc := rfl
@[simp] theorem setCle_invals (k : Nat) (x : CleSt) : (s.setCle k x).invals = s.invals := rfl
@[simp] theorem setCle_ats (k : Nat) (x : CleSt) : (s.setCle k x).ats = s.ats := rfl
@[simp] theorem setCle_pri (k : Nat) (x : CleSt) : (s.setCle k x).pri = s.pri := rfl
@[simp] theorem setCle_priStop (k : Nat) (x : CleSt) : (s.setCle k x).priStop = s.priStop := rfl
@[simp] theorem setCle_flashDue (k : Nat) (x : CleSt) : (s.setCle k x).flashDue = s.flashDue := rfl
@[simp] theorem setCle_msixEn (k : Nat) (x : CleSt) : (s.setCle k x).msixEn = s.msixEn := rfl
@[simp] theorem setCle_msixMask (k : Nat) (x : CleSt) : (s.setCle k x).msixMask = s.msixMask := rfl
@[simp] theorem setCle_hostMem (k : Nat) (x : CleSt) : (s.setCle k x).hostMem = s.hostMem := rfl
@[simp] theorem setCle_errFlight (k : Nat) (x : CleSt) : (s.setCle k x).errFlight = s.errFlight := rfl
@[simp] theorem setCle_evtFlight (k : Nat) (x : CleSt) : (s.setCle k x).evtFlight = s.evtFlight := rfl
@[simp] theorem setCle_almanac (k : Nat) (x : CleSt) : (s.setCle k x).almanac = s.almanac := rfl
@[simp] theorem setCle_almStage (k : Nat) (x : CleSt) : (s.setCle k x).almStage = s.almStage := rfl
@[simp] theorem setCle_ports (k : Nat) (x : CleSt) : (s.setCle k x).ports = s.ports := rfl
@[simp] theorem setCle_fab (k : Nat) (x : CleSt) : (s.setCle k x).fab = s.fab := rfl
@[simp] theorem setCle_hjob (k : Nat) (x : CleSt) : (s.setCle k x).hjob = s.hjob := rfl
@[simp] theorem setCle_flash (k : Nat) (x : CleSt) : (s.setCle k x).flash = s.flash := rfl
@[simp] theorem setCle_mmc (k : Nat) (x : CleSt) : (s.setCle k x).mmc = s.mmc := rfl
@[simp] theorem setCle_pwr (k : Nat) (x : CleSt) : (s.setCle k x).pwr = s.pwr := rfl
@[simp] theorem setCle_handlers (k : Nat) (x : CleSt) : (s.setCle k x).handlers = s.handlers := rfl
@[simp] theorem setCle_rates (k : Nat) (x : CleSt) : (s.setCle k x).rates = s.rates := rfl
@[simp] theorem setCle_mons (k : Nat) (x : CleSt) : (s.setCle k x).mons = s.mons := rfl
@[simp] theorem setCle_txnHost (k : Nat) (x : CleSt) : (s.setCle k x).txnHost = s.txnHost := rfl
@[simp] theorem setCle_txnMgmt (k : Nat) (x : CleSt) : (s.setCle k x).txnMgmt = s.txnMgmt := rfl
@[simp] theorem setCle_hostQ (k : Nat) (x : CleSt) : (s.setCle k x).hostQ = s.hostQ := rfl
@[simp] theorem setCle_waited (k : Nat) (x : CleSt) : (s.setCle k x).waited = s.waited := rfl
@[simp] theorem setCle_evtBuf (k : Nat) (x : CleSt) : (s.setCle k x).evtBuf = s.evtBuf := rfl
@[simp] theorem setCle_evtLost (k : Nat) (x : CleSt) : (s.setCle k x).evtLost = s.evtLost := rfl
@[simp] theorem setCle_evtSeq (k : Nat) (x : CleSt) : (s.setCle k x).evtSeq = s.evtSeq := rfl
@[simp] theorem setCle_hub1Lost (k : Nat) (x : CleSt) : (s.setCle k x).hub1Lost = s.hub1Lost := rfl
@[simp] theorem setCle_fatal (k : Nat) (x : CleSt) : (s.setCle k x).fatal = s.fatal := rfl
@[simp] theorem setCle_modLost (k : Nat) (x : CleSt) : (s.setCle k x).modLost = s.modLost := rfl
@[simp] theorem setCle_lostRegions (k : Nat) (x : CleSt) : (s.setCle k x).lostRegions = s.lostRegions := rfl
@[simp] theorem setCle_deadClus (k : Nat) (x : CleSt) : (s.setCle k x).deadClus = s.deadClus := rfl
@[simp] theorem setCle_gwDrops (k : Nat) (x : CleSt) : (s.setCle k x).gwDrops = s.gwDrops := rfl
@[simp] theorem setCle_fabDrops (k : Nat) (x : CleSt) : (s.setCle k x).fabDrops = s.fabDrops := rfl
@[simp] theorem setCle_acc_reg (k : Nat) (x : CleSt) (b : Nat) :
    (s.setCle k x).reg b = s.reg b := rfl
@[simp] theorem setCle_acc_regF (k : Nat) (x : CleSt) (b hi' lo' : Nat) :
    (s.setCle k x).regF b hi' lo' = s.regF b hi' lo' := rfl
@[simp] theorem setCle_acc_bit (k : Nat) (x : CleSt) (b j : Nat) :
    (s.setCle k x).bit b j = s.bit b j := rfl
@[simp] theorem setCle_acc_physClu (k : Nat) (x : CleSt) (c : Nat) :
    (s.setCle k x).physClu c = s.physClu c := rfl
@[simp] theorem setCle_acc_physUnit (k : Nat) (x : CleSt) (u : Nat) :
    (s.setCle k x).physUnit u = s.physUnit u := rfl
@[simp] theorem setCle_acc_ccState (k : Nat) (x : CleSt) (c : Nat) :
    (s.setCle k x).ccState c = s.ccState c := rfl
@[simp] theorem setCle_acc_ccBank (k : Nat) (x : CleSt) (c : Nat) :
    (s.setCle k x).ccBank c = s.ccBank c := rfl
@[simp] theorem setCle_acc_unitHalted (k : Nat) (x : CleSt) (u : Nat) :
    (s.setCle k x).unitHalted u = s.unitHalted u := rfl
@[simp] theorem setCle_acc_chState (k : Nat) (x : CleSt) (c : Nat) :
    (s.setCle k x).chState c = s.chState c := rfl
@[simp] theorem setCle_acc_logClu (k : Nat) (x : CleSt) (c : Nat) :
    (s.setCle k x).logClu c = s.logClu c := rfl
@[simp] theorem setCle_acc_logUnit (k : Nat) (x : CleSt) (c : Nat) :
    (s.setCle k x).logUnit c = s.logUnit c := rfl
@[simp] theorem setCle_acc_unit (k : Nat) (x : CleSt) (j : Nat) :
    (s.setCle k x).unit j = s.unit j := rfl
@[simp] theorem setCle_acc_clu (k : Nat) (x : CleSt) (j : Nat) :
    (s.setCle k x).clu j = s.clu j := rfl
@[simp] theorem setCle_acc_slice (k : Nat) (x : CleSt) (j : Nat) :
    (s.setCle k x).slice j = s.slice j := rfl
@[simp] theorem setCle_acc_chan (k : Nat) (x : CleSt) (j : Nat) :
    (s.setCle k x).chan j = s.chan j := rfl
@[simp] theorem setCle_acc_tgt (k : Nat) (x : CleSt) (j : Nat) :
    (s.setCle k x).tgt j = s.tgt j := rfl
@[simp] theorem setCle_acc_port (k : Nat) (x : CleSt) (j : Nat) :
    (s.setCle k x).port j = s.port j := rfl
@[simp] theorem setCle_acc_queueSt (k : Nat) (x : CleSt) (j : Nat) :
    (s.setCle k x).queueSt j = s.queueSt j := rfl

/-! ### setQueueSt -/

@[simp] theorem setQueueSt_pending (k : Nat) (x : QueueSt) : (s.setQueueSt k x).pending = s.pending := rfl
@[simp] theorem setQueueSt_regs (k : Nat) (x : QueueSt) : (s.setQueueSt k x).regs = s.regs := rfl
@[simp] theorem setQueueSt_ctr (k : Nat) (x : QueueSt) : (s.setQueueSt k x).ctr = s.ctr := rfl
@[simp] theorem setQueueSt_out (k : Nat) (x : QueueSt) : (s.setQueueSt k x).out = s.out := rfl
@[simp] theorem setQueueSt_units (k : Nat) (x : QueueSt) : (s.setQueueSt k x).units = s.units := rfl
@[simp] theorem setQueueSt_clus (k : Nat) (x : QueueSt) : (s.setQueueSt k x).clus = s.clus := rfl
@[simp] theorem setQueueSt_tokens (k : Nat) (x : QueueSt) : (s.setQueueSt k x).tokens = s.tokens := rfl
@[simp] theorem setQueueSt_scaleQ (k : Nat) (x : QueueSt) : (s.setQueueSt k x).scaleQ = s.scaleQ := rfl
@[simp] theorem setQueueSt_slotMap (k : Nat) (x : QueueSt) : (s.setQueueSt k x).slotMap = s.slotMap := rfl
@[simp] theorem setQueueSt_staged (k : Nat) (x : QueueSt) : (s.setQueueSt k x).staged = s.staged := rfl
@[simp] theorem setQueueSt_program (k : Nat) (x : QueueSt) : (s.setQueueSt k x).program = s.program := rfl
@[simp] theorem setQueueSt_running (k : Nat) (x : QueueSt) : (s.setQueueSt k x).running = s.running := rfl
@[simp] theorem setQueueSt_frame0 (k : Nat) (x : QueueSt) : (s.setQueueSt k x).frame0 = s.frame0 := rfl
@[simp] theorem setQueueSt_relock (k : Nat) (x : QueueSt) : (s.setQueueSt k x).relock = s.relock := rfl
@[simp] theorem setQueueSt_slices (k : Nat) (x : QueueSt) : (s.setQueueSt k x).slices = s.slices := rfl
@[simp] theorem setQueueSt_chans (k : Nat) (x : QueueSt) : (s.setQueueSt k x).chans = s.chans := rfl
@[simp] theorem setQueueSt_chanBytes (k : Nat) (x : QueueSt) : (s.setQueueSt k x).chanBytes = s.chanBytes := rfl
@[simp] theorem setQueueSt_chanPoison (k : Nat) (x : QueueSt) : (s.setQueueSt k x).chanPoison = s.chanPoison := rfl
@[simp] theorem setQueueSt_chanUnseen (k : Nat) (x : QueueSt) : (s.setQueueSt k x).chanUnseen = s.chanUnseen := rfl
@[simp] theorem setQueueSt_lostDies (k : Nat) (x : QueueSt) : (s.setQueueSt k x).lostDies = s.lostDies := rfl
@[simp] theorem setQueueSt_pages (k : Nat) (x : QueueSt) : (s.setQueueSt k x).pages = s.pages := rfl
@[simp] theorem setQueueSt_targets (k : Nat) (x : QueueSt) : (s.setQueueSt k x).targets = s.targets := rfl
@[simp] theorem setQueueSt_faults (k : Nat) (x : QueueSt) : (s.setQueueSt k x).faults = s.faults := rfl
@[simp] theorem setQueueSt_reqSeq (k : Nat) (x : QueueSt) : (s.setQueueSt k x).reqSeq = s.reqSeq := rfl
@[simp] theorem setQueueSt_atc (k : Nat) (x : QueueSt) : (s.setQueueSt k x).atc = s.atc := rfl
@[simp] theorem setQueueSt_invals (k : Nat) (x : QueueSt) : (s.setQueueSt k x).invals = s.invals := rfl
@[simp] theorem setQueueSt_ats (k : Nat) (x : QueueSt) : (s.setQueueSt k x).ats = s.ats := rfl
@[simp] theorem setQueueSt_pri (k : Nat) (x : QueueSt) : (s.setQueueSt k x).pri = s.pri := rfl
@[simp] theorem setQueueSt_priStop (k : Nat) (x : QueueSt) : (s.setQueueSt k x).priStop = s.priStop := rfl
@[simp] theorem setQueueSt_flashDue (k : Nat) (x : QueueSt) : (s.setQueueSt k x).flashDue = s.flashDue := rfl
@[simp] theorem setQueueSt_msixEn (k : Nat) (x : QueueSt) : (s.setQueueSt k x).msixEn = s.msixEn := rfl
@[simp] theorem setQueueSt_msixMask (k : Nat) (x : QueueSt) : (s.setQueueSt k x).msixMask = s.msixMask := rfl
@[simp] theorem setQueueSt_hostMem (k : Nat) (x : QueueSt) : (s.setQueueSt k x).hostMem = s.hostMem := rfl
@[simp] theorem setQueueSt_errFlight (k : Nat) (x : QueueSt) : (s.setQueueSt k x).errFlight = s.errFlight := rfl
@[simp] theorem setQueueSt_evtFlight (k : Nat) (x : QueueSt) : (s.setQueueSt k x).evtFlight = s.evtFlight := rfl
@[simp] theorem setQueueSt_almanac (k : Nat) (x : QueueSt) : (s.setQueueSt k x).almanac = s.almanac := rfl
@[simp] theorem setQueueSt_almStage (k : Nat) (x : QueueSt) : (s.setQueueSt k x).almStage = s.almStage := rfl
@[simp] theorem setQueueSt_ports (k : Nat) (x : QueueSt) : (s.setQueueSt k x).ports = s.ports := rfl
@[simp] theorem setQueueSt_fab (k : Nat) (x : QueueSt) : (s.setQueueSt k x).fab = s.fab := rfl
@[simp] theorem setQueueSt_cles (k : Nat) (x : QueueSt) : (s.setQueueSt k x).cles = s.cles := rfl
@[simp] theorem setQueueSt_hjob (k : Nat) (x : QueueSt) : (s.setQueueSt k x).hjob = s.hjob := rfl
@[simp] theorem setQueueSt_flash (k : Nat) (x : QueueSt) : (s.setQueueSt k x).flash = s.flash := rfl
@[simp] theorem setQueueSt_mmc (k : Nat) (x : QueueSt) : (s.setQueueSt k x).mmc = s.mmc := rfl
@[simp] theorem setQueueSt_pwr (k : Nat) (x : QueueSt) : (s.setQueueSt k x).pwr = s.pwr := rfl
@[simp] theorem setQueueSt_handlers (k : Nat) (x : QueueSt) : (s.setQueueSt k x).handlers = s.handlers := rfl
@[simp] theorem setQueueSt_rates (k : Nat) (x : QueueSt) : (s.setQueueSt k x).rates = s.rates := rfl
@[simp] theorem setQueueSt_mons (k : Nat) (x : QueueSt) : (s.setQueueSt k x).mons = s.mons := rfl
@[simp] theorem setQueueSt_txnHost (k : Nat) (x : QueueSt) : (s.setQueueSt k x).txnHost = s.txnHost := rfl
@[simp] theorem setQueueSt_txnMgmt (k : Nat) (x : QueueSt) : (s.setQueueSt k x).txnMgmt = s.txnMgmt := rfl
@[simp] theorem setQueueSt_hostQ (k : Nat) (x : QueueSt) : (s.setQueueSt k x).hostQ = s.hostQ := rfl
@[simp] theorem setQueueSt_waited (k : Nat) (x : QueueSt) : (s.setQueueSt k x).waited = s.waited := rfl
@[simp] theorem setQueueSt_evtBuf (k : Nat) (x : QueueSt) : (s.setQueueSt k x).evtBuf = s.evtBuf := rfl
@[simp] theorem setQueueSt_evtLost (k : Nat) (x : QueueSt) : (s.setQueueSt k x).evtLost = s.evtLost := rfl
@[simp] theorem setQueueSt_evtSeq (k : Nat) (x : QueueSt) : (s.setQueueSt k x).evtSeq = s.evtSeq := rfl
@[simp] theorem setQueueSt_hub1Lost (k : Nat) (x : QueueSt) : (s.setQueueSt k x).hub1Lost = s.hub1Lost := rfl
@[simp] theorem setQueueSt_fatal (k : Nat) (x : QueueSt) : (s.setQueueSt k x).fatal = s.fatal := rfl
@[simp] theorem setQueueSt_modLost (k : Nat) (x : QueueSt) : (s.setQueueSt k x).modLost = s.modLost := rfl
@[simp] theorem setQueueSt_lostRegions (k : Nat) (x : QueueSt) : (s.setQueueSt k x).lostRegions = s.lostRegions := rfl
@[simp] theorem setQueueSt_deadClus (k : Nat) (x : QueueSt) : (s.setQueueSt k x).deadClus = s.deadClus := rfl
@[simp] theorem setQueueSt_gwDrops (k : Nat) (x : QueueSt) : (s.setQueueSt k x).gwDrops = s.gwDrops := rfl
@[simp] theorem setQueueSt_fabDrops (k : Nat) (x : QueueSt) : (s.setQueueSt k x).fabDrops = s.fabDrops := rfl
@[simp] theorem setQueueSt_acc_reg (k : Nat) (x : QueueSt) (b : Nat) :
    (s.setQueueSt k x).reg b = s.reg b := rfl
@[simp] theorem setQueueSt_acc_regF (k : Nat) (x : QueueSt) (b hi' lo' : Nat) :
    (s.setQueueSt k x).regF b hi' lo' = s.regF b hi' lo' := rfl
@[simp] theorem setQueueSt_acc_bit (k : Nat) (x : QueueSt) (b j : Nat) :
    (s.setQueueSt k x).bit b j = s.bit b j := rfl
@[simp] theorem setQueueSt_acc_physClu (k : Nat) (x : QueueSt) (c : Nat) :
    (s.setQueueSt k x).physClu c = s.physClu c := rfl
@[simp] theorem setQueueSt_acc_physUnit (k : Nat) (x : QueueSt) (u : Nat) :
    (s.setQueueSt k x).physUnit u = s.physUnit u := rfl
@[simp] theorem setQueueSt_acc_ccState (k : Nat) (x : QueueSt) (c : Nat) :
    (s.setQueueSt k x).ccState c = s.ccState c := rfl
@[simp] theorem setQueueSt_acc_ccBank (k : Nat) (x : QueueSt) (c : Nat) :
    (s.setQueueSt k x).ccBank c = s.ccBank c := rfl
@[simp] theorem setQueueSt_acc_unitHalted (k : Nat) (x : QueueSt) (u : Nat) :
    (s.setQueueSt k x).unitHalted u = s.unitHalted u := rfl
@[simp] theorem setQueueSt_acc_chState (k : Nat) (x : QueueSt) (c : Nat) :
    (s.setQueueSt k x).chState c = s.chState c := rfl
@[simp] theorem setQueueSt_acc_logClu (k : Nat) (x : QueueSt) (c : Nat) :
    (s.setQueueSt k x).logClu c = s.logClu c := rfl
@[simp] theorem setQueueSt_acc_logUnit (k : Nat) (x : QueueSt) (c : Nat) :
    (s.setQueueSt k x).logUnit c = s.logUnit c := rfl
@[simp] theorem setQueueSt_acc_unit (k : Nat) (x : QueueSt) (j : Nat) :
    (s.setQueueSt k x).unit j = s.unit j := rfl
@[simp] theorem setQueueSt_acc_clu (k : Nat) (x : QueueSt) (j : Nat) :
    (s.setQueueSt k x).clu j = s.clu j := rfl
@[simp] theorem setQueueSt_acc_slice (k : Nat) (x : QueueSt) (j : Nat) :
    (s.setQueueSt k x).slice j = s.slice j := rfl
@[simp] theorem setQueueSt_acc_chan (k : Nat) (x : QueueSt) (j : Nat) :
    (s.setQueueSt k x).chan j = s.chan j := rfl
@[simp] theorem setQueueSt_acc_tgt (k : Nat) (x : QueueSt) (j : Nat) :
    (s.setQueueSt k x).tgt j = s.tgt j := rfl
@[simp] theorem setQueueSt_acc_port (k : Nat) (x : QueueSt) (j : Nat) :
    (s.setQueueSt k x).port j = s.port j := rfl
@[simp] theorem setQueueSt_acc_cle (k : Nat) (x : QueueSt) (j : Nat) :
    (s.setQueueSt k x).cle j = s.cle j := rfl

/-! ### updFab -/

@[simp] theorem updFab_pending (f : FabSt → FabSt) : (s.updFab f).pending = s.pending := rfl
@[simp] theorem updFab_regs (f : FabSt → FabSt) : (s.updFab f).regs = s.regs := rfl
@[simp] theorem updFab_ctr (f : FabSt → FabSt) : (s.updFab f).ctr = s.ctr := rfl
@[simp] theorem updFab_out (f : FabSt → FabSt) : (s.updFab f).out = s.out := rfl
@[simp] theorem updFab_units (f : FabSt → FabSt) : (s.updFab f).units = s.units := rfl
@[simp] theorem updFab_clus (f : FabSt → FabSt) : (s.updFab f).clus = s.clus := rfl
@[simp] theorem updFab_tokens (f : FabSt → FabSt) : (s.updFab f).tokens = s.tokens := rfl
@[simp] theorem updFab_scaleQ (f : FabSt → FabSt) : (s.updFab f).scaleQ = s.scaleQ := rfl
@[simp] theorem updFab_slotMap (f : FabSt → FabSt) : (s.updFab f).slotMap = s.slotMap := rfl
@[simp] theorem updFab_staged (f : FabSt → FabSt) : (s.updFab f).staged = s.staged := rfl
@[simp] theorem updFab_program (f : FabSt → FabSt) : (s.updFab f).program = s.program := rfl
@[simp] theorem updFab_running (f : FabSt → FabSt) : (s.updFab f).running = s.running := rfl
@[simp] theorem updFab_frame0 (f : FabSt → FabSt) : (s.updFab f).frame0 = s.frame0 := rfl
@[simp] theorem updFab_relock (f : FabSt → FabSt) : (s.updFab f).relock = s.relock := rfl
@[simp] theorem updFab_slices (f : FabSt → FabSt) : (s.updFab f).slices = s.slices := rfl
@[simp] theorem updFab_chans (f : FabSt → FabSt) : (s.updFab f).chans = s.chans := rfl
@[simp] theorem updFab_chanBytes (f : FabSt → FabSt) : (s.updFab f).chanBytes = s.chanBytes := rfl
@[simp] theorem updFab_chanPoison (f : FabSt → FabSt) : (s.updFab f).chanPoison = s.chanPoison := rfl
@[simp] theorem updFab_chanUnseen (f : FabSt → FabSt) : (s.updFab f).chanUnseen = s.chanUnseen := rfl
@[simp] theorem updFab_lostDies (f : FabSt → FabSt) : (s.updFab f).lostDies = s.lostDies := rfl
@[simp] theorem updFab_pages (f : FabSt → FabSt) : (s.updFab f).pages = s.pages := rfl
@[simp] theorem updFab_targets (f : FabSt → FabSt) : (s.updFab f).targets = s.targets := rfl
@[simp] theorem updFab_queues (f : FabSt → FabSt) : (s.updFab f).queues = s.queues := rfl
@[simp] theorem updFab_faults (f : FabSt → FabSt) : (s.updFab f).faults = s.faults := rfl
@[simp] theorem updFab_reqSeq (f : FabSt → FabSt) : (s.updFab f).reqSeq = s.reqSeq := rfl
@[simp] theorem updFab_atc (f : FabSt → FabSt) : (s.updFab f).atc = s.atc := rfl
@[simp] theorem updFab_invals (f : FabSt → FabSt) : (s.updFab f).invals = s.invals := rfl
@[simp] theorem updFab_ats (f : FabSt → FabSt) : (s.updFab f).ats = s.ats := rfl
@[simp] theorem updFab_pri (f : FabSt → FabSt) : (s.updFab f).pri = s.pri := rfl
@[simp] theorem updFab_priStop (f : FabSt → FabSt) : (s.updFab f).priStop = s.priStop := rfl
@[simp] theorem updFab_flashDue (f : FabSt → FabSt) : (s.updFab f).flashDue = s.flashDue := rfl
@[simp] theorem updFab_msixEn (f : FabSt → FabSt) : (s.updFab f).msixEn = s.msixEn := rfl
@[simp] theorem updFab_msixMask (f : FabSt → FabSt) : (s.updFab f).msixMask = s.msixMask := rfl
@[simp] theorem updFab_hostMem (f : FabSt → FabSt) : (s.updFab f).hostMem = s.hostMem := rfl
@[simp] theorem updFab_errFlight (f : FabSt → FabSt) : (s.updFab f).errFlight = s.errFlight := rfl
@[simp] theorem updFab_evtFlight (f : FabSt → FabSt) : (s.updFab f).evtFlight = s.evtFlight := rfl
@[simp] theorem updFab_almanac (f : FabSt → FabSt) : (s.updFab f).almanac = s.almanac := rfl
@[simp] theorem updFab_almStage (f : FabSt → FabSt) : (s.updFab f).almStage = s.almStage := rfl
@[simp] theorem updFab_ports (f : FabSt → FabSt) : (s.updFab f).ports = s.ports := rfl
@[simp] theorem updFab_cles (f : FabSt → FabSt) : (s.updFab f).cles = s.cles := rfl
@[simp] theorem updFab_hjob (f : FabSt → FabSt) : (s.updFab f).hjob = s.hjob := rfl
@[simp] theorem updFab_flash (f : FabSt → FabSt) : (s.updFab f).flash = s.flash := rfl
@[simp] theorem updFab_mmc (f : FabSt → FabSt) : (s.updFab f).mmc = s.mmc := rfl
@[simp] theorem updFab_pwr (f : FabSt → FabSt) : (s.updFab f).pwr = s.pwr := rfl
@[simp] theorem updFab_handlers (f : FabSt → FabSt) : (s.updFab f).handlers = s.handlers := rfl
@[simp] theorem updFab_rates (f : FabSt → FabSt) : (s.updFab f).rates = s.rates := rfl
@[simp] theorem updFab_mons (f : FabSt → FabSt) : (s.updFab f).mons = s.mons := rfl
@[simp] theorem updFab_txnHost (f : FabSt → FabSt) : (s.updFab f).txnHost = s.txnHost := rfl
@[simp] theorem updFab_txnMgmt (f : FabSt → FabSt) : (s.updFab f).txnMgmt = s.txnMgmt := rfl
@[simp] theorem updFab_hostQ (f : FabSt → FabSt) : (s.updFab f).hostQ = s.hostQ := rfl
@[simp] theorem updFab_waited (f : FabSt → FabSt) : (s.updFab f).waited = s.waited := rfl
@[simp] theorem updFab_evtBuf (f : FabSt → FabSt) : (s.updFab f).evtBuf = s.evtBuf := rfl
@[simp] theorem updFab_evtLost (f : FabSt → FabSt) : (s.updFab f).evtLost = s.evtLost := rfl
@[simp] theorem updFab_evtSeq (f : FabSt → FabSt) : (s.updFab f).evtSeq = s.evtSeq := rfl
@[simp] theorem updFab_hub1Lost (f : FabSt → FabSt) : (s.updFab f).hub1Lost = s.hub1Lost := rfl
@[simp] theorem updFab_fatal (f : FabSt → FabSt) : (s.updFab f).fatal = s.fatal := rfl
@[simp] theorem updFab_modLost (f : FabSt → FabSt) : (s.updFab f).modLost = s.modLost := rfl
@[simp] theorem updFab_lostRegions (f : FabSt → FabSt) : (s.updFab f).lostRegions = s.lostRegions := rfl
@[simp] theorem updFab_deadClus (f : FabSt → FabSt) : (s.updFab f).deadClus = s.deadClus := rfl
@[simp] theorem updFab_gwDrops (f : FabSt → FabSt) : (s.updFab f).gwDrops = s.gwDrops := rfl
@[simp] theorem updFab_fabDrops (f : FabSt → FabSt) : (s.updFab f).fabDrops = s.fabDrops := rfl
@[simp] theorem updFab_acc_reg (f : FabSt → FabSt) (b : Nat) :
    (s.updFab f).reg b = s.reg b := rfl
@[simp] theorem updFab_acc_regF (f : FabSt → FabSt) (b hi' lo' : Nat) :
    (s.updFab f).regF b hi' lo' = s.regF b hi' lo' := rfl
@[simp] theorem updFab_acc_bit (f : FabSt → FabSt) (b j : Nat) :
    (s.updFab f).bit b j = s.bit b j := rfl
@[simp] theorem updFab_acc_physClu (f : FabSt → FabSt) (c : Nat) :
    (s.updFab f).physClu c = s.physClu c := rfl
@[simp] theorem updFab_acc_physUnit (f : FabSt → FabSt) (u : Nat) :
    (s.updFab f).physUnit u = s.physUnit u := rfl
@[simp] theorem updFab_acc_ccState (f : FabSt → FabSt) (c : Nat) :
    (s.updFab f).ccState c = s.ccState c := rfl
@[simp] theorem updFab_acc_ccBank (f : FabSt → FabSt) (c : Nat) :
    (s.updFab f).ccBank c = s.ccBank c := rfl
@[simp] theorem updFab_acc_unitHalted (f : FabSt → FabSt) (u : Nat) :
    (s.updFab f).unitHalted u = s.unitHalted u := rfl
@[simp] theorem updFab_acc_chState (f : FabSt → FabSt) (c : Nat) :
    (s.updFab f).chState c = s.chState c := rfl
@[simp] theorem updFab_acc_logClu (f : FabSt → FabSt) (c : Nat) :
    (s.updFab f).logClu c = s.logClu c := rfl
@[simp] theorem updFab_acc_logUnit (f : FabSt → FabSt) (c : Nat) :
    (s.updFab f).logUnit c = s.logUnit c := rfl
@[simp] theorem updFab_acc_unit (f : FabSt → FabSt) (j : Nat) :
    (s.updFab f).unit j = s.unit j := rfl
@[simp] theorem updFab_acc_clu (f : FabSt → FabSt) (j : Nat) :
    (s.updFab f).clu j = s.clu j := rfl
@[simp] theorem updFab_acc_slice (f : FabSt → FabSt) (j : Nat) :
    (s.updFab f).slice j = s.slice j := rfl
@[simp] theorem updFab_acc_chan (f : FabSt → FabSt) (j : Nat) :
    (s.updFab f).chan j = s.chan j := rfl
@[simp] theorem updFab_acc_tgt (f : FabSt → FabSt) (j : Nat) :
    (s.updFab f).tgt j = s.tgt j := rfl
@[simp] theorem updFab_acc_port (f : FabSt → FabSt) (j : Nat) :
    (s.updFab f).port j = s.port j := rfl
@[simp] theorem updFab_acc_cle (f : FabSt → FabSt) (j : Nat) :
    (s.updFab f).cle j = s.cle j := rfl
@[simp] theorem updFab_acc_queueSt (f : FabSt → FabSt) (j : Nat) :
    (s.updFab f).queueSt j = s.queueSt j := rfl

/-! ### updMmc -/

@[simp] theorem updMmc_pending (f : MmcSt → MmcSt) : (s.updMmc f).pending = s.pending := rfl
@[simp] theorem updMmc_regs (f : MmcSt → MmcSt) : (s.updMmc f).regs = s.regs := rfl
@[simp] theorem updMmc_ctr (f : MmcSt → MmcSt) : (s.updMmc f).ctr = s.ctr := rfl
@[simp] theorem updMmc_out (f : MmcSt → MmcSt) : (s.updMmc f).out = s.out := rfl
@[simp] theorem updMmc_units (f : MmcSt → MmcSt) : (s.updMmc f).units = s.units := rfl
@[simp] theorem updMmc_clus (f : MmcSt → MmcSt) : (s.updMmc f).clus = s.clus := rfl
@[simp] theorem updMmc_tokens (f : MmcSt → MmcSt) : (s.updMmc f).tokens = s.tokens := rfl
@[simp] theorem updMmc_scaleQ (f : MmcSt → MmcSt) : (s.updMmc f).scaleQ = s.scaleQ := rfl
@[simp] theorem updMmc_slotMap (f : MmcSt → MmcSt) : (s.updMmc f).slotMap = s.slotMap := rfl
@[simp] theorem updMmc_staged (f : MmcSt → MmcSt) : (s.updMmc f).staged = s.staged := rfl
@[simp] theorem updMmc_program (f : MmcSt → MmcSt) : (s.updMmc f).program = s.program := rfl
@[simp] theorem updMmc_running (f : MmcSt → MmcSt) : (s.updMmc f).running = s.running := rfl
@[simp] theorem updMmc_frame0 (f : MmcSt → MmcSt) : (s.updMmc f).frame0 = s.frame0 := rfl
@[simp] theorem updMmc_relock (f : MmcSt → MmcSt) : (s.updMmc f).relock = s.relock := rfl
@[simp] theorem updMmc_slices (f : MmcSt → MmcSt) : (s.updMmc f).slices = s.slices := rfl
@[simp] theorem updMmc_chans (f : MmcSt → MmcSt) : (s.updMmc f).chans = s.chans := rfl
@[simp] theorem updMmc_chanBytes (f : MmcSt → MmcSt) : (s.updMmc f).chanBytes = s.chanBytes := rfl
@[simp] theorem updMmc_chanPoison (f : MmcSt → MmcSt) : (s.updMmc f).chanPoison = s.chanPoison := rfl
@[simp] theorem updMmc_chanUnseen (f : MmcSt → MmcSt) : (s.updMmc f).chanUnseen = s.chanUnseen := rfl
@[simp] theorem updMmc_lostDies (f : MmcSt → MmcSt) : (s.updMmc f).lostDies = s.lostDies := rfl
@[simp] theorem updMmc_pages (f : MmcSt → MmcSt) : (s.updMmc f).pages = s.pages := rfl
@[simp] theorem updMmc_targets (f : MmcSt → MmcSt) : (s.updMmc f).targets = s.targets := rfl
@[simp] theorem updMmc_queues (f : MmcSt → MmcSt) : (s.updMmc f).queues = s.queues := rfl
@[simp] theorem updMmc_faults (f : MmcSt → MmcSt) : (s.updMmc f).faults = s.faults := rfl
@[simp] theorem updMmc_reqSeq (f : MmcSt → MmcSt) : (s.updMmc f).reqSeq = s.reqSeq := rfl
@[simp] theorem updMmc_atc (f : MmcSt → MmcSt) : (s.updMmc f).atc = s.atc := rfl
@[simp] theorem updMmc_invals (f : MmcSt → MmcSt) : (s.updMmc f).invals = s.invals := rfl
@[simp] theorem updMmc_ats (f : MmcSt → MmcSt) : (s.updMmc f).ats = s.ats := rfl
@[simp] theorem updMmc_pri (f : MmcSt → MmcSt) : (s.updMmc f).pri = s.pri := rfl
@[simp] theorem updMmc_priStop (f : MmcSt → MmcSt) : (s.updMmc f).priStop = s.priStop := rfl
@[simp] theorem updMmc_flashDue (f : MmcSt → MmcSt) : (s.updMmc f).flashDue = s.flashDue := rfl
@[simp] theorem updMmc_msixEn (f : MmcSt → MmcSt) : (s.updMmc f).msixEn = s.msixEn := rfl
@[simp] theorem updMmc_msixMask (f : MmcSt → MmcSt) : (s.updMmc f).msixMask = s.msixMask := rfl
@[simp] theorem updMmc_hostMem (f : MmcSt → MmcSt) : (s.updMmc f).hostMem = s.hostMem := rfl
@[simp] theorem updMmc_errFlight (f : MmcSt → MmcSt) : (s.updMmc f).errFlight = s.errFlight := rfl
@[simp] theorem updMmc_evtFlight (f : MmcSt → MmcSt) : (s.updMmc f).evtFlight = s.evtFlight := rfl
@[simp] theorem updMmc_almanac (f : MmcSt → MmcSt) : (s.updMmc f).almanac = s.almanac := rfl
@[simp] theorem updMmc_almStage (f : MmcSt → MmcSt) : (s.updMmc f).almStage = s.almStage := rfl
@[simp] theorem updMmc_ports (f : MmcSt → MmcSt) : (s.updMmc f).ports = s.ports := rfl
@[simp] theorem updMmc_fab (f : MmcSt → MmcSt) : (s.updMmc f).fab = s.fab := rfl
@[simp] theorem updMmc_cles (f : MmcSt → MmcSt) : (s.updMmc f).cles = s.cles := rfl
@[simp] theorem updMmc_hjob (f : MmcSt → MmcSt) : (s.updMmc f).hjob = s.hjob := rfl
@[simp] theorem updMmc_flash (f : MmcSt → MmcSt) : (s.updMmc f).flash = s.flash := rfl
@[simp] theorem updMmc_pwr (f : MmcSt → MmcSt) : (s.updMmc f).pwr = s.pwr := rfl
@[simp] theorem updMmc_handlers (f : MmcSt → MmcSt) : (s.updMmc f).handlers = s.handlers := rfl
@[simp] theorem updMmc_rates (f : MmcSt → MmcSt) : (s.updMmc f).rates = s.rates := rfl
@[simp] theorem updMmc_mons (f : MmcSt → MmcSt) : (s.updMmc f).mons = s.mons := rfl
@[simp] theorem updMmc_txnHost (f : MmcSt → MmcSt) : (s.updMmc f).txnHost = s.txnHost := rfl
@[simp] theorem updMmc_txnMgmt (f : MmcSt → MmcSt) : (s.updMmc f).txnMgmt = s.txnMgmt := rfl
@[simp] theorem updMmc_hostQ (f : MmcSt → MmcSt) : (s.updMmc f).hostQ = s.hostQ := rfl
@[simp] theorem updMmc_waited (f : MmcSt → MmcSt) : (s.updMmc f).waited = s.waited := rfl
@[simp] theorem updMmc_evtBuf (f : MmcSt → MmcSt) : (s.updMmc f).evtBuf = s.evtBuf := rfl
@[simp] theorem updMmc_evtLost (f : MmcSt → MmcSt) : (s.updMmc f).evtLost = s.evtLost := rfl
@[simp] theorem updMmc_evtSeq (f : MmcSt → MmcSt) : (s.updMmc f).evtSeq = s.evtSeq := rfl
@[simp] theorem updMmc_hub1Lost (f : MmcSt → MmcSt) : (s.updMmc f).hub1Lost = s.hub1Lost := rfl
@[simp] theorem updMmc_fatal (f : MmcSt → MmcSt) : (s.updMmc f).fatal = s.fatal := rfl
@[simp] theorem updMmc_modLost (f : MmcSt → MmcSt) : (s.updMmc f).modLost = s.modLost := rfl
@[simp] theorem updMmc_lostRegions (f : MmcSt → MmcSt) : (s.updMmc f).lostRegions = s.lostRegions := rfl
@[simp] theorem updMmc_deadClus (f : MmcSt → MmcSt) : (s.updMmc f).deadClus = s.deadClus := rfl
@[simp] theorem updMmc_gwDrops (f : MmcSt → MmcSt) : (s.updMmc f).gwDrops = s.gwDrops := rfl
@[simp] theorem updMmc_fabDrops (f : MmcSt → MmcSt) : (s.updMmc f).fabDrops = s.fabDrops := rfl
@[simp] theorem updMmc_acc_reg (f : MmcSt → MmcSt) (b : Nat) :
    (s.updMmc f).reg b = s.reg b := rfl
@[simp] theorem updMmc_acc_regF (f : MmcSt → MmcSt) (b hi' lo' : Nat) :
    (s.updMmc f).regF b hi' lo' = s.regF b hi' lo' := rfl
@[simp] theorem updMmc_acc_bit (f : MmcSt → MmcSt) (b j : Nat) :
    (s.updMmc f).bit b j = s.bit b j := rfl
@[simp] theorem updMmc_acc_physClu (f : MmcSt → MmcSt) (c : Nat) :
    (s.updMmc f).physClu c = s.physClu c := rfl
@[simp] theorem updMmc_acc_physUnit (f : MmcSt → MmcSt) (u : Nat) :
    (s.updMmc f).physUnit u = s.physUnit u := rfl
@[simp] theorem updMmc_acc_ccState (f : MmcSt → MmcSt) (c : Nat) :
    (s.updMmc f).ccState c = s.ccState c := rfl
@[simp] theorem updMmc_acc_ccBank (f : MmcSt → MmcSt) (c : Nat) :
    (s.updMmc f).ccBank c = s.ccBank c := rfl
@[simp] theorem updMmc_acc_unitHalted (f : MmcSt → MmcSt) (u : Nat) :
    (s.updMmc f).unitHalted u = s.unitHalted u := rfl
@[simp] theorem updMmc_acc_chState (f : MmcSt → MmcSt) (c : Nat) :
    (s.updMmc f).chState c = s.chState c := rfl
@[simp] theorem updMmc_acc_logClu (f : MmcSt → MmcSt) (c : Nat) :
    (s.updMmc f).logClu c = s.logClu c := rfl
@[simp] theorem updMmc_acc_logUnit (f : MmcSt → MmcSt) (c : Nat) :
    (s.updMmc f).logUnit c = s.logUnit c := rfl
@[simp] theorem updMmc_acc_unit (f : MmcSt → MmcSt) (j : Nat) :
    (s.updMmc f).unit j = s.unit j := rfl
@[simp] theorem updMmc_acc_clu (f : MmcSt → MmcSt) (j : Nat) :
    (s.updMmc f).clu j = s.clu j := rfl
@[simp] theorem updMmc_acc_slice (f : MmcSt → MmcSt) (j : Nat) :
    (s.updMmc f).slice j = s.slice j := rfl
@[simp] theorem updMmc_acc_chan (f : MmcSt → MmcSt) (j : Nat) :
    (s.updMmc f).chan j = s.chan j := rfl
@[simp] theorem updMmc_acc_tgt (f : MmcSt → MmcSt) (j : Nat) :
    (s.updMmc f).tgt j = s.tgt j := rfl
@[simp] theorem updMmc_acc_port (f : MmcSt → MmcSt) (j : Nat) :
    (s.updMmc f).port j = s.port j := rfl
@[simp] theorem updMmc_acc_cle (f : MmcSt → MmcSt) (j : Nat) :
    (s.updMmc f).cle j = s.cle j := rfl
@[simp] theorem updMmc_acc_queueSt (f : MmcSt → MmcSt) (j : Nat) :
    (s.updMmc f).queueSt j = s.queueSt j := rfl

/-! ### updPwr -/

@[simp] theorem updPwr_pending (f : PwrSt → PwrSt) : (s.updPwr f).pending = s.pending := rfl
@[simp] theorem updPwr_regs (f : PwrSt → PwrSt) : (s.updPwr f).regs = s.regs := rfl
@[simp] theorem updPwr_ctr (f : PwrSt → PwrSt) : (s.updPwr f).ctr = s.ctr := rfl
@[simp] theorem updPwr_out (f : PwrSt → PwrSt) : (s.updPwr f).out = s.out := rfl
@[simp] theorem updPwr_units (f : PwrSt → PwrSt) : (s.updPwr f).units = s.units := rfl
@[simp] theorem updPwr_clus (f : PwrSt → PwrSt) : (s.updPwr f).clus = s.clus := rfl
@[simp] theorem updPwr_tokens (f : PwrSt → PwrSt) : (s.updPwr f).tokens = s.tokens := rfl
@[simp] theorem updPwr_scaleQ (f : PwrSt → PwrSt) : (s.updPwr f).scaleQ = s.scaleQ := rfl
@[simp] theorem updPwr_slotMap (f : PwrSt → PwrSt) : (s.updPwr f).slotMap = s.slotMap := rfl
@[simp] theorem updPwr_staged (f : PwrSt → PwrSt) : (s.updPwr f).staged = s.staged := rfl
@[simp] theorem updPwr_program (f : PwrSt → PwrSt) : (s.updPwr f).program = s.program := rfl
@[simp] theorem updPwr_running (f : PwrSt → PwrSt) : (s.updPwr f).running = s.running := rfl
@[simp] theorem updPwr_frame0 (f : PwrSt → PwrSt) : (s.updPwr f).frame0 = s.frame0 := rfl
@[simp] theorem updPwr_relock (f : PwrSt → PwrSt) : (s.updPwr f).relock = s.relock := rfl
@[simp] theorem updPwr_slices (f : PwrSt → PwrSt) : (s.updPwr f).slices = s.slices := rfl
@[simp] theorem updPwr_chans (f : PwrSt → PwrSt) : (s.updPwr f).chans = s.chans := rfl
@[simp] theorem updPwr_chanBytes (f : PwrSt → PwrSt) : (s.updPwr f).chanBytes = s.chanBytes := rfl
@[simp] theorem updPwr_chanPoison (f : PwrSt → PwrSt) : (s.updPwr f).chanPoison = s.chanPoison := rfl
@[simp] theorem updPwr_chanUnseen (f : PwrSt → PwrSt) : (s.updPwr f).chanUnseen = s.chanUnseen := rfl
@[simp] theorem updPwr_lostDies (f : PwrSt → PwrSt) : (s.updPwr f).lostDies = s.lostDies := rfl
@[simp] theorem updPwr_pages (f : PwrSt → PwrSt) : (s.updPwr f).pages = s.pages := rfl
@[simp] theorem updPwr_targets (f : PwrSt → PwrSt) : (s.updPwr f).targets = s.targets := rfl
@[simp] theorem updPwr_queues (f : PwrSt → PwrSt) : (s.updPwr f).queues = s.queues := rfl
@[simp] theorem updPwr_faults (f : PwrSt → PwrSt) : (s.updPwr f).faults = s.faults := rfl
@[simp] theorem updPwr_reqSeq (f : PwrSt → PwrSt) : (s.updPwr f).reqSeq = s.reqSeq := rfl
@[simp] theorem updPwr_atc (f : PwrSt → PwrSt) : (s.updPwr f).atc = s.atc := rfl
@[simp] theorem updPwr_invals (f : PwrSt → PwrSt) : (s.updPwr f).invals = s.invals := rfl
@[simp] theorem updPwr_ats (f : PwrSt → PwrSt) : (s.updPwr f).ats = s.ats := rfl
@[simp] theorem updPwr_pri (f : PwrSt → PwrSt) : (s.updPwr f).pri = s.pri := rfl
@[simp] theorem updPwr_priStop (f : PwrSt → PwrSt) : (s.updPwr f).priStop = s.priStop := rfl
@[simp] theorem updPwr_flashDue (f : PwrSt → PwrSt) : (s.updPwr f).flashDue = s.flashDue := rfl
@[simp] theorem updPwr_msixEn (f : PwrSt → PwrSt) : (s.updPwr f).msixEn = s.msixEn := rfl
@[simp] theorem updPwr_msixMask (f : PwrSt → PwrSt) : (s.updPwr f).msixMask = s.msixMask := rfl
@[simp] theorem updPwr_hostMem (f : PwrSt → PwrSt) : (s.updPwr f).hostMem = s.hostMem := rfl
@[simp] theorem updPwr_errFlight (f : PwrSt → PwrSt) : (s.updPwr f).errFlight = s.errFlight := rfl
@[simp] theorem updPwr_evtFlight (f : PwrSt → PwrSt) : (s.updPwr f).evtFlight = s.evtFlight := rfl
@[simp] theorem updPwr_almanac (f : PwrSt → PwrSt) : (s.updPwr f).almanac = s.almanac := rfl
@[simp] theorem updPwr_almStage (f : PwrSt → PwrSt) : (s.updPwr f).almStage = s.almStage := rfl
@[simp] theorem updPwr_ports (f : PwrSt → PwrSt) : (s.updPwr f).ports = s.ports := rfl
@[simp] theorem updPwr_fab (f : PwrSt → PwrSt) : (s.updPwr f).fab = s.fab := rfl
@[simp] theorem updPwr_cles (f : PwrSt → PwrSt) : (s.updPwr f).cles = s.cles := rfl
@[simp] theorem updPwr_hjob (f : PwrSt → PwrSt) : (s.updPwr f).hjob = s.hjob := rfl
@[simp] theorem updPwr_flash (f : PwrSt → PwrSt) : (s.updPwr f).flash = s.flash := rfl
@[simp] theorem updPwr_mmc (f : PwrSt → PwrSt) : (s.updPwr f).mmc = s.mmc := rfl
@[simp] theorem updPwr_handlers (f : PwrSt → PwrSt) : (s.updPwr f).handlers = s.handlers := rfl
@[simp] theorem updPwr_rates (f : PwrSt → PwrSt) : (s.updPwr f).rates = s.rates := rfl
@[simp] theorem updPwr_mons (f : PwrSt → PwrSt) : (s.updPwr f).mons = s.mons := rfl
@[simp] theorem updPwr_txnHost (f : PwrSt → PwrSt) : (s.updPwr f).txnHost = s.txnHost := rfl
@[simp] theorem updPwr_txnMgmt (f : PwrSt → PwrSt) : (s.updPwr f).txnMgmt = s.txnMgmt := rfl
@[simp] theorem updPwr_hostQ (f : PwrSt → PwrSt) : (s.updPwr f).hostQ = s.hostQ := rfl
@[simp] theorem updPwr_waited (f : PwrSt → PwrSt) : (s.updPwr f).waited = s.waited := rfl
@[simp] theorem updPwr_evtBuf (f : PwrSt → PwrSt) : (s.updPwr f).evtBuf = s.evtBuf := rfl
@[simp] theorem updPwr_evtLost (f : PwrSt → PwrSt) : (s.updPwr f).evtLost = s.evtLost := rfl
@[simp] theorem updPwr_evtSeq (f : PwrSt → PwrSt) : (s.updPwr f).evtSeq = s.evtSeq := rfl
@[simp] theorem updPwr_hub1Lost (f : PwrSt → PwrSt) : (s.updPwr f).hub1Lost = s.hub1Lost := rfl
@[simp] theorem updPwr_fatal (f : PwrSt → PwrSt) : (s.updPwr f).fatal = s.fatal := rfl
@[simp] theorem updPwr_modLost (f : PwrSt → PwrSt) : (s.updPwr f).modLost = s.modLost := rfl
@[simp] theorem updPwr_lostRegions (f : PwrSt → PwrSt) : (s.updPwr f).lostRegions = s.lostRegions := rfl
@[simp] theorem updPwr_deadClus (f : PwrSt → PwrSt) : (s.updPwr f).deadClus = s.deadClus := rfl
@[simp] theorem updPwr_gwDrops (f : PwrSt → PwrSt) : (s.updPwr f).gwDrops = s.gwDrops := rfl
@[simp] theorem updPwr_fabDrops (f : PwrSt → PwrSt) : (s.updPwr f).fabDrops = s.fabDrops := rfl
@[simp] theorem updPwr_acc_reg (f : PwrSt → PwrSt) (b : Nat) :
    (s.updPwr f).reg b = s.reg b := rfl
@[simp] theorem updPwr_acc_regF (f : PwrSt → PwrSt) (b hi' lo' : Nat) :
    (s.updPwr f).regF b hi' lo' = s.regF b hi' lo' := rfl
@[simp] theorem updPwr_acc_bit (f : PwrSt → PwrSt) (b j : Nat) :
    (s.updPwr f).bit b j = s.bit b j := rfl
@[simp] theorem updPwr_acc_physClu (f : PwrSt → PwrSt) (c : Nat) :
    (s.updPwr f).physClu c = s.physClu c := rfl
@[simp] theorem updPwr_acc_physUnit (f : PwrSt → PwrSt) (u : Nat) :
    (s.updPwr f).physUnit u = s.physUnit u := rfl
@[simp] theorem updPwr_acc_ccState (f : PwrSt → PwrSt) (c : Nat) :
    (s.updPwr f).ccState c = s.ccState c := rfl
@[simp] theorem updPwr_acc_ccBank (f : PwrSt → PwrSt) (c : Nat) :
    (s.updPwr f).ccBank c = s.ccBank c := rfl
@[simp] theorem updPwr_acc_unitHalted (f : PwrSt → PwrSt) (u : Nat) :
    (s.updPwr f).unitHalted u = s.unitHalted u := rfl
@[simp] theorem updPwr_acc_chState (f : PwrSt → PwrSt) (c : Nat) :
    (s.updPwr f).chState c = s.chState c := rfl
@[simp] theorem updPwr_acc_logClu (f : PwrSt → PwrSt) (c : Nat) :
    (s.updPwr f).logClu c = s.logClu c := rfl
@[simp] theorem updPwr_acc_logUnit (f : PwrSt → PwrSt) (c : Nat) :
    (s.updPwr f).logUnit c = s.logUnit c := rfl
@[simp] theorem updPwr_acc_unit (f : PwrSt → PwrSt) (j : Nat) :
    (s.updPwr f).unit j = s.unit j := rfl
@[simp] theorem updPwr_acc_clu (f : PwrSt → PwrSt) (j : Nat) :
    (s.updPwr f).clu j = s.clu j := rfl
@[simp] theorem updPwr_acc_slice (f : PwrSt → PwrSt) (j : Nat) :
    (s.updPwr f).slice j = s.slice j := rfl
@[simp] theorem updPwr_acc_chan (f : PwrSt → PwrSt) (j : Nat) :
    (s.updPwr f).chan j = s.chan j := rfl
@[simp] theorem updPwr_acc_tgt (f : PwrSt → PwrSt) (j : Nat) :
    (s.updPwr f).tgt j = s.tgt j := rfl
@[simp] theorem updPwr_acc_port (f : PwrSt → PwrSt) (j : Nat) :
    (s.updPwr f).port j = s.port j := rfl
@[simp] theorem updPwr_acc_cle (f : PwrSt → PwrSt) (j : Nat) :
    (s.updPwr f).cle j = s.cle j := rfl
@[simp] theorem updPwr_acc_queueSt (f : PwrSt → PwrSt) (j : Nat) :
    (s.updPwr f).queueSt j = s.queueSt j := rfl

/-! ### emit -/

@[simp] theorem emit_pending (o : Out) : (s.emit o).pending = s.pending := rfl
@[simp] theorem emit_regs (o : Out) : (s.emit o).regs = s.regs := rfl
@[simp] theorem emit_ctr (o : Out) : (s.emit o).ctr = s.ctr := rfl
@[simp] theorem emit_units (o : Out) : (s.emit o).units = s.units := rfl
@[simp] theorem emit_clus (o : Out) : (s.emit o).clus = s.clus := rfl
@[simp] theorem emit_tokens (o : Out) : (s.emit o).tokens = s.tokens := rfl
@[simp] theorem emit_scaleQ (o : Out) : (s.emit o).scaleQ = s.scaleQ := rfl
@[simp] theorem emit_slotMap (o : Out) : (s.emit o).slotMap = s.slotMap := rfl
@[simp] theorem emit_staged (o : Out) : (s.emit o).staged = s.staged := rfl
@[simp] theorem emit_program (o : Out) : (s.emit o).program = s.program := rfl
@[simp] theorem emit_running (o : Out) : (s.emit o).running = s.running := rfl
@[simp] theorem emit_frame0 (o : Out) : (s.emit o).frame0 = s.frame0 := rfl
@[simp] theorem emit_relock (o : Out) : (s.emit o).relock = s.relock := rfl
@[simp] theorem emit_slices (o : Out) : (s.emit o).slices = s.slices := rfl
@[simp] theorem emit_chans (o : Out) : (s.emit o).chans = s.chans := rfl
@[simp] theorem emit_chanBytes (o : Out) : (s.emit o).chanBytes = s.chanBytes := rfl
@[simp] theorem emit_chanPoison (o : Out) : (s.emit o).chanPoison = s.chanPoison := rfl
@[simp] theorem emit_chanUnseen (o : Out) : (s.emit o).chanUnseen = s.chanUnseen := rfl
@[simp] theorem emit_lostDies (o : Out) : (s.emit o).lostDies = s.lostDies := rfl
@[simp] theorem emit_pages (o : Out) : (s.emit o).pages = s.pages := rfl
@[simp] theorem emit_targets (o : Out) : (s.emit o).targets = s.targets := rfl
@[simp] theorem emit_queues (o : Out) : (s.emit o).queues = s.queues := rfl
@[simp] theorem emit_faults (o : Out) : (s.emit o).faults = s.faults := rfl
@[simp] theorem emit_reqSeq (o : Out) : (s.emit o).reqSeq = s.reqSeq := rfl
@[simp] theorem emit_atc (o : Out) : (s.emit o).atc = s.atc := rfl
@[simp] theorem emit_invals (o : Out) : (s.emit o).invals = s.invals := rfl
@[simp] theorem emit_ats (o : Out) : (s.emit o).ats = s.ats := rfl
@[simp] theorem emit_pri (o : Out) : (s.emit o).pri = s.pri := rfl
@[simp] theorem emit_priStop (o : Out) : (s.emit o).priStop = s.priStop := rfl
@[simp] theorem emit_flashDue (o : Out) : (s.emit o).flashDue = s.flashDue := rfl
@[simp] theorem emit_msixEn (o : Out) : (s.emit o).msixEn = s.msixEn := rfl
@[simp] theorem emit_msixMask (o : Out) : (s.emit o).msixMask = s.msixMask := rfl
@[simp] theorem emit_hostMem (o : Out) : (s.emit o).hostMem = s.hostMem := rfl
@[simp] theorem emit_errFlight (o : Out) : (s.emit o).errFlight = s.errFlight := rfl
@[simp] theorem emit_evtFlight (o : Out) : (s.emit o).evtFlight = s.evtFlight := rfl
@[simp] theorem emit_almanac (o : Out) : (s.emit o).almanac = s.almanac := rfl
@[simp] theorem emit_almStage (o : Out) : (s.emit o).almStage = s.almStage := rfl
@[simp] theorem emit_ports (o : Out) : (s.emit o).ports = s.ports := rfl
@[simp] theorem emit_fab (o : Out) : (s.emit o).fab = s.fab := rfl
@[simp] theorem emit_cles (o : Out) : (s.emit o).cles = s.cles := rfl
@[simp] theorem emit_hjob (o : Out) : (s.emit o).hjob = s.hjob := rfl
@[simp] theorem emit_flash (o : Out) : (s.emit o).flash = s.flash := rfl
@[simp] theorem emit_mmc (o : Out) : (s.emit o).mmc = s.mmc := rfl
@[simp] theorem emit_pwr (o : Out) : (s.emit o).pwr = s.pwr := rfl
@[simp] theorem emit_handlers (o : Out) : (s.emit o).handlers = s.handlers := rfl
@[simp] theorem emit_rates (o : Out) : (s.emit o).rates = s.rates := rfl
@[simp] theorem emit_mons (o : Out) : (s.emit o).mons = s.mons := rfl
@[simp] theorem emit_txnHost (o : Out) : (s.emit o).txnHost = s.txnHost := rfl
@[simp] theorem emit_txnMgmt (o : Out) : (s.emit o).txnMgmt = s.txnMgmt := rfl
@[simp] theorem emit_hostQ (o : Out) : (s.emit o).hostQ = s.hostQ := rfl
@[simp] theorem emit_waited (o : Out) : (s.emit o).waited = s.waited := rfl
@[simp] theorem emit_evtBuf (o : Out) : (s.emit o).evtBuf = s.evtBuf := rfl
@[simp] theorem emit_evtLost (o : Out) : (s.emit o).evtLost = s.evtLost := rfl
@[simp] theorem emit_evtSeq (o : Out) : (s.emit o).evtSeq = s.evtSeq := rfl
@[simp] theorem emit_hub1Lost (o : Out) : (s.emit o).hub1Lost = s.hub1Lost := rfl
@[simp] theorem emit_fatal (o : Out) : (s.emit o).fatal = s.fatal := rfl
@[simp] theorem emit_modLost (o : Out) : (s.emit o).modLost = s.modLost := rfl
@[simp] theorem emit_lostRegions (o : Out) : (s.emit o).lostRegions = s.lostRegions := rfl
@[simp] theorem emit_deadClus (o : Out) : (s.emit o).deadClus = s.deadClus := rfl
@[simp] theorem emit_gwDrops (o : Out) : (s.emit o).gwDrops = s.gwDrops := rfl
@[simp] theorem emit_fabDrops (o : Out) : (s.emit o).fabDrops = s.fabDrops := rfl
@[simp] theorem emit_acc_reg (o : Out) (b : Nat) :
    (s.emit o).reg b = s.reg b := rfl
@[simp] theorem emit_acc_regF (o : Out) (b hi' lo' : Nat) :
    (s.emit o).regF b hi' lo' = s.regF b hi' lo' := rfl
@[simp] theorem emit_acc_bit (o : Out) (b j : Nat) :
    (s.emit o).bit b j = s.bit b j := rfl
@[simp] theorem emit_acc_physClu (o : Out) (c : Nat) :
    (s.emit o).physClu c = s.physClu c := rfl
@[simp] theorem emit_acc_physUnit (o : Out) (u : Nat) :
    (s.emit o).physUnit u = s.physUnit u := rfl
@[simp] theorem emit_acc_ccState (o : Out) (c : Nat) :
    (s.emit o).ccState c = s.ccState c := rfl
@[simp] theorem emit_acc_ccBank (o : Out) (c : Nat) :
    (s.emit o).ccBank c = s.ccBank c := rfl
@[simp] theorem emit_acc_unitHalted (o : Out) (u : Nat) :
    (s.emit o).unitHalted u = s.unitHalted u := rfl
@[simp] theorem emit_acc_chState (o : Out) (c : Nat) :
    (s.emit o).chState c = s.chState c := rfl
@[simp] theorem emit_acc_logClu (o : Out) (c : Nat) :
    (s.emit o).logClu c = s.logClu c := rfl
@[simp] theorem emit_acc_logUnit (o : Out) (c : Nat) :
    (s.emit o).logUnit c = s.logUnit c := rfl
@[simp] theorem emit_acc_unit (o : Out) (j : Nat) :
    (s.emit o).unit j = s.unit j := rfl
@[simp] theorem emit_acc_clu (o : Out) (j : Nat) :
    (s.emit o).clu j = s.clu j := rfl
@[simp] theorem emit_acc_slice (o : Out) (j : Nat) :
    (s.emit o).slice j = s.slice j := rfl
@[simp] theorem emit_acc_chan (o : Out) (j : Nat) :
    (s.emit o).chan j = s.chan j := rfl
@[simp] theorem emit_acc_tgt (o : Out) (j : Nat) :
    (s.emit o).tgt j = s.tgt j := rfl
@[simp] theorem emit_acc_port (o : Out) (j : Nat) :
    (s.emit o).port j = s.port j := rfl
@[simp] theorem emit_acc_cle (o : Out) (j : Nat) :
    (s.emit o).cle j = s.cle j := rfl
@[simp] theorem emit_acc_queueSt (o : Out) (j : Nat) :
    (s.emit o).queueSt j = s.queueSt j := rfl

/-! ### raise -/

@[simp] theorem raise_pending (e : Err) : (s.raise e).pending = s.pending := rfl
@[simp] theorem raise_regs (e : Err) : (s.raise e).regs = s.regs := rfl
@[simp] theorem raise_ctr (e : Err) : (s.raise e).ctr = s.ctr := rfl
@[simp] theorem raise_out (e : Err) : (s.raise e).out = s.out := rfl
@[simp] theorem raise_units (e : Err) : (s.raise e).units = s.units := rfl
@[simp] theorem raise_clus (e : Err) : (s.raise e).clus = s.clus := rfl
@[simp] theorem raise_tokens (e : Err) : (s.raise e).tokens = s.tokens := rfl
@[simp] theorem raise_scaleQ (e : Err) : (s.raise e).scaleQ = s.scaleQ := rfl
@[simp] theorem raise_slotMap (e : Err) : (s.raise e).slotMap = s.slotMap := rfl
@[simp] theorem raise_staged (e : Err) : (s.raise e).staged = s.staged := rfl
@[simp] theorem raise_program (e : Err) : (s.raise e).program = s.program := rfl
@[simp] theorem raise_running (e : Err) : (s.raise e).running = s.running := rfl
@[simp] theorem raise_frame0 (e : Err) : (s.raise e).frame0 = s.frame0 := rfl
@[simp] theorem raise_relock (e : Err) : (s.raise e).relock = s.relock := rfl
@[simp] theorem raise_slices (e : Err) : (s.raise e).slices = s.slices := rfl
@[simp] theorem raise_chans (e : Err) : (s.raise e).chans = s.chans := rfl
@[simp] theorem raise_chanBytes (e : Err) : (s.raise e).chanBytes = s.chanBytes := rfl
@[simp] theorem raise_chanPoison (e : Err) : (s.raise e).chanPoison = s.chanPoison := rfl
@[simp] theorem raise_chanUnseen (e : Err) : (s.raise e).chanUnseen = s.chanUnseen := rfl
@[simp] theorem raise_lostDies (e : Err) : (s.raise e).lostDies = s.lostDies := rfl
@[simp] theorem raise_pages (e : Err) : (s.raise e).pages = s.pages := rfl
@[simp] theorem raise_targets (e : Err) : (s.raise e).targets = s.targets := rfl
@[simp] theorem raise_queues (e : Err) : (s.raise e).queues = s.queues := rfl
@[simp] theorem raise_faults (e : Err) : (s.raise e).faults = s.faults := rfl
@[simp] theorem raise_reqSeq (e : Err) : (s.raise e).reqSeq = s.reqSeq := rfl
@[simp] theorem raise_atc (e : Err) : (s.raise e).atc = s.atc := rfl
@[simp] theorem raise_invals (e : Err) : (s.raise e).invals = s.invals := rfl
@[simp] theorem raise_ats (e : Err) : (s.raise e).ats = s.ats := rfl
@[simp] theorem raise_pri (e : Err) : (s.raise e).pri = s.pri := rfl
@[simp] theorem raise_priStop (e : Err) : (s.raise e).priStop = s.priStop := rfl
@[simp] theorem raise_flashDue (e : Err) : (s.raise e).flashDue = s.flashDue := rfl
@[simp] theorem raise_msixEn (e : Err) : (s.raise e).msixEn = s.msixEn := rfl
@[simp] theorem raise_msixMask (e : Err) : (s.raise e).msixMask = s.msixMask := rfl
@[simp] theorem raise_hostMem (e : Err) : (s.raise e).hostMem = s.hostMem := rfl
@[simp] theorem raise_evtFlight (e : Err) : (s.raise e).evtFlight = s.evtFlight := rfl
@[simp] theorem raise_almanac (e : Err) : (s.raise e).almanac = s.almanac := rfl
@[simp] theorem raise_almStage (e : Err) : (s.raise e).almStage = s.almStage := rfl
@[simp] theorem raise_ports (e : Err) : (s.raise e).ports = s.ports := rfl
@[simp] theorem raise_fab (e : Err) : (s.raise e).fab = s.fab := rfl
@[simp] theorem raise_cles (e : Err) : (s.raise e).cles = s.cles := rfl
@[simp] theorem raise_hjob (e : Err) : (s.raise e).hjob = s.hjob := rfl
@[simp] theorem raise_flash (e : Err) : (s.raise e).flash = s.flash := rfl
@[simp] theorem raise_mmc (e : Err) : (s.raise e).mmc = s.mmc := rfl
@[simp] theorem raise_pwr (e : Err) : (s.raise e).pwr = s.pwr := rfl
@[simp] theorem raise_handlers (e : Err) : (s.raise e).handlers = s.handlers := rfl
@[simp] theorem raise_rates (e : Err) : (s.raise e).rates = s.rates := rfl
@[simp] theorem raise_mons (e : Err) : (s.raise e).mons = s.mons := rfl
@[simp] theorem raise_txnHost (e : Err) : (s.raise e).txnHost = s.txnHost := rfl
@[simp] theorem raise_txnMgmt (e : Err) : (s.raise e).txnMgmt = s.txnMgmt := rfl
@[simp] theorem raise_hostQ (e : Err) : (s.raise e).hostQ = s.hostQ := rfl
@[simp] theorem raise_waited (e : Err) : (s.raise e).waited = s.waited := rfl
@[simp] theorem raise_evtBuf (e : Err) : (s.raise e).evtBuf = s.evtBuf := rfl
@[simp] theorem raise_evtLost (e : Err) : (s.raise e).evtLost = s.evtLost := rfl
@[simp] theorem raise_evtSeq (e : Err) : (s.raise e).evtSeq = s.evtSeq := rfl
@[simp] theorem raise_hub1Lost (e : Err) : (s.raise e).hub1Lost = s.hub1Lost := rfl
@[simp] theorem raise_fatal (e : Err) : (s.raise e).fatal = s.fatal := rfl
@[simp] theorem raise_modLost (e : Err) : (s.raise e).modLost = s.modLost := rfl
@[simp] theorem raise_lostRegions (e : Err) : (s.raise e).lostRegions = s.lostRegions := rfl
@[simp] theorem raise_deadClus (e : Err) : (s.raise e).deadClus = s.deadClus := rfl
@[simp] theorem raise_gwDrops (e : Err) : (s.raise e).gwDrops = s.gwDrops := rfl
@[simp] theorem raise_fabDrops (e : Err) : (s.raise e).fabDrops = s.fabDrops := rfl
@[simp] theorem raise_acc_reg (e : Err) (b : Nat) :
    (s.raise e).reg b = s.reg b := rfl
@[simp] theorem raise_acc_regF (e : Err) (b hi' lo' : Nat) :
    (s.raise e).regF b hi' lo' = s.regF b hi' lo' := rfl
@[simp] theorem raise_acc_bit (e : Err) (b j : Nat) :
    (s.raise e).bit b j = s.bit b j := rfl
@[simp] theorem raise_acc_physClu (e : Err) (c : Nat) :
    (s.raise e).physClu c = s.physClu c := rfl
@[simp] theorem raise_acc_physUnit (e : Err) (u : Nat) :
    (s.raise e).physUnit u = s.physUnit u := rfl
@[simp] theorem raise_acc_ccState (e : Err) (c : Nat) :
    (s.raise e).ccState c = s.ccState c := rfl
@[simp] theorem raise_acc_ccBank (e : Err) (c : Nat) :
    (s.raise e).ccBank c = s.ccBank c := rfl
@[simp] theorem raise_acc_unitHalted (e : Err) (u : Nat) :
    (s.raise e).unitHalted u = s.unitHalted u := rfl
@[simp] theorem raise_acc_chState (e : Err) (c : Nat) :
    (s.raise e).chState c = s.chState c := rfl
@[simp] theorem raise_acc_logClu (e : Err) (c : Nat) :
    (s.raise e).logClu c = s.logClu c := rfl
@[simp] theorem raise_acc_logUnit (e : Err) (c : Nat) :
    (s.raise e).logUnit c = s.logUnit c := rfl
@[simp] theorem raise_acc_unit (e : Err) (j : Nat) :
    (s.raise e).unit j = s.unit j := rfl
@[simp] theorem raise_acc_clu (e : Err) (j : Nat) :
    (s.raise e).clu j = s.clu j := rfl
@[simp] theorem raise_acc_slice (e : Err) (j : Nat) :
    (s.raise e).slice j = s.slice j := rfl
@[simp] theorem raise_acc_chan (e : Err) (j : Nat) :
    (s.raise e).chan j = s.chan j := rfl
@[simp] theorem raise_acc_tgt (e : Err) (j : Nat) :
    (s.raise e).tgt j = s.tgt j := rfl
@[simp] theorem raise_acc_port (e : Err) (j : Nat) :
    (s.raise e).port j = s.port j := rfl
@[simp] theorem raise_acc_cle (e : Err) (j : Nat) :
    (s.raise e).cle j = s.cle j := rfl
@[simp] theorem raise_acc_queueSt (e : Err) (j : Nat) :
    (s.raise e).queueSt j = s.queueSt j := rfl

/-! ### withQueue -/

@[simp] theorem withQueue_regs (cs : List Instr) : (s.withQueue cs).regs = s.regs := rfl
@[simp] theorem withQueue_ctr (cs : List Instr) : (s.withQueue cs).ctr = s.ctr := rfl
@[simp] theorem withQueue_out (cs : List Instr) : (s.withQueue cs).out = s.out := rfl
@[simp] theorem withQueue_units (cs : List Instr) : (s.withQueue cs).units = s.units := rfl
@[simp] theorem withQueue_clus (cs : List Instr) : (s.withQueue cs).clus = s.clus := rfl
@[simp] theorem withQueue_tokens (cs : List Instr) : (s.withQueue cs).tokens = s.tokens := rfl
@[simp] theorem withQueue_scaleQ (cs : List Instr) : (s.withQueue cs).scaleQ = s.scaleQ := rfl
@[simp] theorem withQueue_slotMap (cs : List Instr) : (s.withQueue cs).slotMap = s.slotMap := rfl
@[simp] theorem withQueue_staged (cs : List Instr) : (s.withQueue cs).staged = s.staged := rfl
@[simp] theorem withQueue_program (cs : List Instr) : (s.withQueue cs).program = s.program := rfl
@[simp] theorem withQueue_running (cs : List Instr) : (s.withQueue cs).running = s.running := rfl
@[simp] theorem withQueue_frame0 (cs : List Instr) : (s.withQueue cs).frame0 = s.frame0 := rfl
@[simp] theorem withQueue_relock (cs : List Instr) : (s.withQueue cs).relock = s.relock := rfl
@[simp] theorem withQueue_slices (cs : List Instr) : (s.withQueue cs).slices = s.slices := rfl
@[simp] theorem withQueue_chans (cs : List Instr) : (s.withQueue cs).chans = s.chans := rfl
@[simp] theorem withQueue_chanBytes (cs : List Instr) : (s.withQueue cs).chanBytes = s.chanBytes := rfl
@[simp] theorem withQueue_chanPoison (cs : List Instr) : (s.withQueue cs).chanPoison = s.chanPoison := rfl
@[simp] theorem withQueue_chanUnseen (cs : List Instr) : (s.withQueue cs).chanUnseen = s.chanUnseen := rfl
@[simp] theorem withQueue_lostDies (cs : List Instr) : (s.withQueue cs).lostDies = s.lostDies := rfl
@[simp] theorem withQueue_pages (cs : List Instr) : (s.withQueue cs).pages = s.pages := rfl
@[simp] theorem withQueue_targets (cs : List Instr) : (s.withQueue cs).targets = s.targets := rfl
@[simp] theorem withQueue_queues (cs : List Instr) : (s.withQueue cs).queues = s.queues := rfl
@[simp] theorem withQueue_faults (cs : List Instr) : (s.withQueue cs).faults = s.faults := rfl
@[simp] theorem withQueue_reqSeq (cs : List Instr) : (s.withQueue cs).reqSeq = s.reqSeq := rfl
@[simp] theorem withQueue_atc (cs : List Instr) : (s.withQueue cs).atc = s.atc := rfl
@[simp] theorem withQueue_invals (cs : List Instr) : (s.withQueue cs).invals = s.invals := rfl
@[simp] theorem withQueue_ats (cs : List Instr) : (s.withQueue cs).ats = s.ats := rfl
@[simp] theorem withQueue_pri (cs : List Instr) : (s.withQueue cs).pri = s.pri := rfl
@[simp] theorem withQueue_priStop (cs : List Instr) : (s.withQueue cs).priStop = s.priStop := rfl
@[simp] theorem withQueue_flashDue (cs : List Instr) : (s.withQueue cs).flashDue = s.flashDue := rfl
@[simp] theorem withQueue_msixEn (cs : List Instr) : (s.withQueue cs).msixEn = s.msixEn := rfl
@[simp] theorem withQueue_msixMask (cs : List Instr) : (s.withQueue cs).msixMask = s.msixMask := rfl
@[simp] theorem withQueue_hostMem (cs : List Instr) : (s.withQueue cs).hostMem = s.hostMem := rfl
@[simp] theorem withQueue_errFlight (cs : List Instr) : (s.withQueue cs).errFlight = s.errFlight := rfl
@[simp] theorem withQueue_evtFlight (cs : List Instr) : (s.withQueue cs).evtFlight = s.evtFlight := rfl
@[simp] theorem withQueue_almanac (cs : List Instr) : (s.withQueue cs).almanac = s.almanac := rfl
@[simp] theorem withQueue_almStage (cs : List Instr) : (s.withQueue cs).almStage = s.almStage := rfl
@[simp] theorem withQueue_ports (cs : List Instr) : (s.withQueue cs).ports = s.ports := rfl
@[simp] theorem withQueue_fab (cs : List Instr) : (s.withQueue cs).fab = s.fab := rfl
@[simp] theorem withQueue_cles (cs : List Instr) : (s.withQueue cs).cles = s.cles := rfl
@[simp] theorem withQueue_hjob (cs : List Instr) : (s.withQueue cs).hjob = s.hjob := rfl
@[simp] theorem withQueue_flash (cs : List Instr) : (s.withQueue cs).flash = s.flash := rfl
@[simp] theorem withQueue_mmc (cs : List Instr) : (s.withQueue cs).mmc = s.mmc := rfl
@[simp] theorem withQueue_pwr (cs : List Instr) : (s.withQueue cs).pwr = s.pwr := rfl
@[simp] theorem withQueue_handlers (cs : List Instr) : (s.withQueue cs).handlers = s.handlers := rfl
@[simp] theorem withQueue_rates (cs : List Instr) : (s.withQueue cs).rates = s.rates := rfl
@[simp] theorem withQueue_mons (cs : List Instr) : (s.withQueue cs).mons = s.mons := rfl
@[simp] theorem withQueue_txnHost (cs : List Instr) : (s.withQueue cs).txnHost = s.txnHost := rfl
@[simp] theorem withQueue_txnMgmt (cs : List Instr) : (s.withQueue cs).txnMgmt = s.txnMgmt := rfl
@[simp] theorem withQueue_hostQ (cs : List Instr) : (s.withQueue cs).hostQ = s.hostQ := rfl
@[simp] theorem withQueue_waited (cs : List Instr) : (s.withQueue cs).waited = s.waited := rfl
@[simp] theorem withQueue_evtBuf (cs : List Instr) : (s.withQueue cs).evtBuf = s.evtBuf := rfl
@[simp] theorem withQueue_evtLost (cs : List Instr) : (s.withQueue cs).evtLost = s.evtLost := rfl
@[simp] theorem withQueue_evtSeq (cs : List Instr) : (s.withQueue cs).evtSeq = s.evtSeq := rfl
@[simp] theorem withQueue_hub1Lost (cs : List Instr) : (s.withQueue cs).hub1Lost = s.hub1Lost := rfl
@[simp] theorem withQueue_fatal (cs : List Instr) : (s.withQueue cs).fatal = s.fatal := rfl
@[simp] theorem withQueue_modLost (cs : List Instr) : (s.withQueue cs).modLost = s.modLost := rfl
@[simp] theorem withQueue_lostRegions (cs : List Instr) : (s.withQueue cs).lostRegions = s.lostRegions := rfl
@[simp] theorem withQueue_deadClus (cs : List Instr) : (s.withQueue cs).deadClus = s.deadClus := rfl
@[simp] theorem withQueue_gwDrops (cs : List Instr) : (s.withQueue cs).gwDrops = s.gwDrops := rfl
@[simp] theorem withQueue_fabDrops (cs : List Instr) : (s.withQueue cs).fabDrops = s.fabDrops := rfl
@[simp] theorem withQueue_acc_reg (cs : List Instr) (b : Nat) :
    (s.withQueue cs).reg b = s.reg b := rfl
@[simp] theorem withQueue_acc_regF (cs : List Instr) (b hi' lo' : Nat) :
    (s.withQueue cs).regF b hi' lo' = s.regF b hi' lo' := rfl
@[simp] theorem withQueue_acc_bit (cs : List Instr) (b j : Nat) :
    (s.withQueue cs).bit b j = s.bit b j := rfl
@[simp] theorem withQueue_acc_physClu (cs : List Instr) (c : Nat) :
    (s.withQueue cs).physClu c = s.physClu c := rfl
@[simp] theorem withQueue_acc_physUnit (cs : List Instr) (u : Nat) :
    (s.withQueue cs).physUnit u = s.physUnit u := rfl
@[simp] theorem withQueue_acc_ccState (cs : List Instr) (c : Nat) :
    (s.withQueue cs).ccState c = s.ccState c := rfl
@[simp] theorem withQueue_acc_ccBank (cs : List Instr) (c : Nat) :
    (s.withQueue cs).ccBank c = s.ccBank c := rfl
@[simp] theorem withQueue_acc_unitHalted (cs : List Instr) (u : Nat) :
    (s.withQueue cs).unitHalted u = s.unitHalted u := rfl
@[simp] theorem withQueue_acc_chState (cs : List Instr) (c : Nat) :
    (s.withQueue cs).chState c = s.chState c := rfl
@[simp] theorem withQueue_acc_logClu (cs : List Instr) (c : Nat) :
    (s.withQueue cs).logClu c = s.logClu c := rfl
@[simp] theorem withQueue_acc_logUnit (cs : List Instr) (c : Nat) :
    (s.withQueue cs).logUnit c = s.logUnit c := rfl
@[simp] theorem withQueue_acc_unit (cs : List Instr) (j : Nat) :
    (s.withQueue cs).unit j = s.unit j := rfl
@[simp] theorem withQueue_acc_clu (cs : List Instr) (j : Nat) :
    (s.withQueue cs).clu j = s.clu j := rfl
@[simp] theorem withQueue_acc_slice (cs : List Instr) (j : Nat) :
    (s.withQueue cs).slice j = s.slice j := rfl
@[simp] theorem withQueue_acc_chan (cs : List Instr) (j : Nat) :
    (s.withQueue cs).chan j = s.chan j := rfl
@[simp] theorem withQueue_acc_tgt (cs : List Instr) (j : Nat) :
    (s.withQueue cs).tgt j = s.tgt j := rfl
@[simp] theorem withQueue_acc_port (cs : List Instr) (j : Nat) :
    (s.withQueue cs).port j = s.port j := rfl
@[simp] theorem withQueue_acc_cle (cs : List Instr) (j : Nat) :
    (s.withQueue cs).cle j = s.cle j := rfl
@[simp] theorem withQueue_acc_queueSt (cs : List Instr) (j : Nat) :
    (s.withQueue cs).queueSt j = s.queueSt j := rfl

/-! ### enqueueFront -/

@[simp] theorem enqueueFront_regs (i : Instr) : (s.enqueueFront i).regs = s.regs := rfl
@[simp] theorem enqueueFront_ctr (i : Instr) : (s.enqueueFront i).ctr = s.ctr := rfl
@[simp] theorem enqueueFront_out (i : Instr) : (s.enqueueFront i).out = s.out := rfl
@[simp] theorem enqueueFront_units (i : Instr) : (s.enqueueFront i).units = s.units := rfl
@[simp] theorem enqueueFront_clus (i : Instr) : (s.enqueueFront i).clus = s.clus := rfl
@[simp] theorem enqueueFront_tokens (i : Instr) : (s.enqueueFront i).tokens = s.tokens := rfl
@[simp] theorem enqueueFront_scaleQ (i : Instr) : (s.enqueueFront i).scaleQ = s.scaleQ := rfl
@[simp] theorem enqueueFront_slotMap (i : Instr) : (s.enqueueFront i).slotMap = s.slotMap := rfl
@[simp] theorem enqueueFront_staged (i : Instr) : (s.enqueueFront i).staged = s.staged := rfl
@[simp] theorem enqueueFront_program (i : Instr) : (s.enqueueFront i).program = s.program := rfl
@[simp] theorem enqueueFront_running (i : Instr) : (s.enqueueFront i).running = s.running := rfl
@[simp] theorem enqueueFront_frame0 (i : Instr) : (s.enqueueFront i).frame0 = s.frame0 := rfl
@[simp] theorem enqueueFront_relock (i : Instr) : (s.enqueueFront i).relock = s.relock := rfl
@[simp] theorem enqueueFront_slices (i : Instr) : (s.enqueueFront i).slices = s.slices := rfl
@[simp] theorem enqueueFront_chans (i : Instr) : (s.enqueueFront i).chans = s.chans := rfl
@[simp] theorem enqueueFront_chanBytes (i : Instr) : (s.enqueueFront i).chanBytes = s.chanBytes := rfl
@[simp] theorem enqueueFront_chanPoison (i : Instr) : (s.enqueueFront i).chanPoison = s.chanPoison := rfl
@[simp] theorem enqueueFront_chanUnseen (i : Instr) : (s.enqueueFront i).chanUnseen = s.chanUnseen := rfl
@[simp] theorem enqueueFront_lostDies (i : Instr) : (s.enqueueFront i).lostDies = s.lostDies := rfl
@[simp] theorem enqueueFront_pages (i : Instr) : (s.enqueueFront i).pages = s.pages := rfl
@[simp] theorem enqueueFront_targets (i : Instr) : (s.enqueueFront i).targets = s.targets := rfl
@[simp] theorem enqueueFront_queues (i : Instr) : (s.enqueueFront i).queues = s.queues := rfl
@[simp] theorem enqueueFront_faults (i : Instr) : (s.enqueueFront i).faults = s.faults := rfl
@[simp] theorem enqueueFront_reqSeq (i : Instr) : (s.enqueueFront i).reqSeq = s.reqSeq := rfl
@[simp] theorem enqueueFront_atc (i : Instr) : (s.enqueueFront i).atc = s.atc := rfl
@[simp] theorem enqueueFront_invals (i : Instr) : (s.enqueueFront i).invals = s.invals := rfl
@[simp] theorem enqueueFront_ats (i : Instr) : (s.enqueueFront i).ats = s.ats := rfl
@[simp] theorem enqueueFront_pri (i : Instr) : (s.enqueueFront i).pri = s.pri := rfl
@[simp] theorem enqueueFront_priStop (i : Instr) : (s.enqueueFront i).priStop = s.priStop := rfl
@[simp] theorem enqueueFront_flashDue (i : Instr) : (s.enqueueFront i).flashDue = s.flashDue := rfl
@[simp] theorem enqueueFront_msixEn (i : Instr) : (s.enqueueFront i).msixEn = s.msixEn := rfl
@[simp] theorem enqueueFront_msixMask (i : Instr) : (s.enqueueFront i).msixMask = s.msixMask := rfl
@[simp] theorem enqueueFront_hostMem (i : Instr) : (s.enqueueFront i).hostMem = s.hostMem := rfl
@[simp] theorem enqueueFront_errFlight (i : Instr) : (s.enqueueFront i).errFlight = s.errFlight := rfl
@[simp] theorem enqueueFront_evtFlight (i : Instr) : (s.enqueueFront i).evtFlight = s.evtFlight := rfl
@[simp] theorem enqueueFront_almanac (i : Instr) : (s.enqueueFront i).almanac = s.almanac := rfl
@[simp] theorem enqueueFront_almStage (i : Instr) : (s.enqueueFront i).almStage = s.almStage := rfl
@[simp] theorem enqueueFront_ports (i : Instr) : (s.enqueueFront i).ports = s.ports := rfl
@[simp] theorem enqueueFront_fab (i : Instr) : (s.enqueueFront i).fab = s.fab := rfl
@[simp] theorem enqueueFront_cles (i : Instr) : (s.enqueueFront i).cles = s.cles := rfl
@[simp] theorem enqueueFront_hjob (i : Instr) : (s.enqueueFront i).hjob = s.hjob := rfl
@[simp] theorem enqueueFront_flash (i : Instr) : (s.enqueueFront i).flash = s.flash := rfl
@[simp] theorem enqueueFront_mmc (i : Instr) : (s.enqueueFront i).mmc = s.mmc := rfl
@[simp] theorem enqueueFront_pwr (i : Instr) : (s.enqueueFront i).pwr = s.pwr := rfl
@[simp] theorem enqueueFront_handlers (i : Instr) : (s.enqueueFront i).handlers = s.handlers := rfl
@[simp] theorem enqueueFront_rates (i : Instr) : (s.enqueueFront i).rates = s.rates := rfl
@[simp] theorem enqueueFront_mons (i : Instr) : (s.enqueueFront i).mons = s.mons := rfl
@[simp] theorem enqueueFront_txnHost (i : Instr) : (s.enqueueFront i).txnHost = s.txnHost := rfl
@[simp] theorem enqueueFront_txnMgmt (i : Instr) : (s.enqueueFront i).txnMgmt = s.txnMgmt := rfl
@[simp] theorem enqueueFront_hostQ (i : Instr) : (s.enqueueFront i).hostQ = s.hostQ := rfl
@[simp] theorem enqueueFront_waited (i : Instr) : (s.enqueueFront i).waited = s.waited := rfl
@[simp] theorem enqueueFront_evtBuf (i : Instr) : (s.enqueueFront i).evtBuf = s.evtBuf := rfl
@[simp] theorem enqueueFront_evtLost (i : Instr) : (s.enqueueFront i).evtLost = s.evtLost := rfl
@[simp] theorem enqueueFront_evtSeq (i : Instr) : (s.enqueueFront i).evtSeq = s.evtSeq := rfl
@[simp] theorem enqueueFront_hub1Lost (i : Instr) : (s.enqueueFront i).hub1Lost = s.hub1Lost := rfl
@[simp] theorem enqueueFront_fatal (i : Instr) : (s.enqueueFront i).fatal = s.fatal := rfl
@[simp] theorem enqueueFront_modLost (i : Instr) : (s.enqueueFront i).modLost = s.modLost := rfl
@[simp] theorem enqueueFront_lostRegions (i : Instr) : (s.enqueueFront i).lostRegions = s.lostRegions := rfl
@[simp] theorem enqueueFront_deadClus (i : Instr) : (s.enqueueFront i).deadClus = s.deadClus := rfl
@[simp] theorem enqueueFront_gwDrops (i : Instr) : (s.enqueueFront i).gwDrops = s.gwDrops := rfl
@[simp] theorem enqueueFront_fabDrops (i : Instr) : (s.enqueueFront i).fabDrops = s.fabDrops := rfl
@[simp] theorem enqueueFront_acc_reg (i : Instr) (b : Nat) :
    (s.enqueueFront i).reg b = s.reg b := rfl
@[simp] theorem enqueueFront_acc_regF (i : Instr) (b hi' lo' : Nat) :
    (s.enqueueFront i).regF b hi' lo' = s.regF b hi' lo' := rfl
@[simp] theorem enqueueFront_acc_bit (i : Instr) (b j : Nat) :
    (s.enqueueFront i).bit b j = s.bit b j := rfl
@[simp] theorem enqueueFront_acc_physClu (i : Instr) (c : Nat) :
    (s.enqueueFront i).physClu c = s.physClu c := rfl
@[simp] theorem enqueueFront_acc_physUnit (i : Instr) (u : Nat) :
    (s.enqueueFront i).physUnit u = s.physUnit u := rfl
@[simp] theorem enqueueFront_acc_ccState (i : Instr) (c : Nat) :
    (s.enqueueFront i).ccState c = s.ccState c := rfl
@[simp] theorem enqueueFront_acc_ccBank (i : Instr) (c : Nat) :
    (s.enqueueFront i).ccBank c = s.ccBank c := rfl
@[simp] theorem enqueueFront_acc_unitHalted (i : Instr) (u : Nat) :
    (s.enqueueFront i).unitHalted u = s.unitHalted u := rfl
@[simp] theorem enqueueFront_acc_chState (i : Instr) (c : Nat) :
    (s.enqueueFront i).chState c = s.chState c := rfl
@[simp] theorem enqueueFront_acc_logClu (i : Instr) (c : Nat) :
    (s.enqueueFront i).logClu c = s.logClu c := rfl
@[simp] theorem enqueueFront_acc_logUnit (i : Instr) (c : Nat) :
    (s.enqueueFront i).logUnit c = s.logUnit c := rfl
@[simp] theorem enqueueFront_acc_unit (i : Instr) (j : Nat) :
    (s.enqueueFront i).unit j = s.unit j := rfl
@[simp] theorem enqueueFront_acc_clu (i : Instr) (j : Nat) :
    (s.enqueueFront i).clu j = s.clu j := rfl
@[simp] theorem enqueueFront_acc_slice (i : Instr) (j : Nat) :
    (s.enqueueFront i).slice j = s.slice j := rfl
@[simp] theorem enqueueFront_acc_chan (i : Instr) (j : Nat) :
    (s.enqueueFront i).chan j = s.chan j := rfl
@[simp] theorem enqueueFront_acc_tgt (i : Instr) (j : Nat) :
    (s.enqueueFront i).tgt j = s.tgt j := rfl
@[simp] theorem enqueueFront_acc_port (i : Instr) (j : Nat) :
    (s.enqueueFront i).port j = s.port j := rfl
@[simp] theorem enqueueFront_acc_cle (i : Instr) (j : Nat) :
    (s.enqueueFront i).cle j = s.cle j := rfl
@[simp] theorem enqueueFront_acc_queueSt (i : Instr) (j : Nat) :
    (s.enqueueFront i).queueSt j = s.queueSt j := rfl

/-! ### setFlash -/

@[simp] theorem setFlash_pending (f : FlashSt → FlashSt) : (s.setFlash f).pending = s.pending := rfl
@[simp] theorem setFlash_regs (f : FlashSt → FlashSt) : (s.setFlash f).regs = s.regs := rfl
@[simp] theorem setFlash_ctr (f : FlashSt → FlashSt) : (s.setFlash f).ctr = s.ctr := rfl
@[simp] theorem setFlash_out (f : FlashSt → FlashSt) : (s.setFlash f).out = s.out := rfl
@[simp] theorem setFlash_units (f : FlashSt → FlashSt) : (s.setFlash f).units = s.units := rfl
@[simp] theorem setFlash_clus (f : FlashSt → FlashSt) : (s.setFlash f).clus = s.clus := rfl
@[simp] theorem setFlash_tokens (f : FlashSt → FlashSt) : (s.setFlash f).tokens = s.tokens := rfl
@[simp] theorem setFlash_scaleQ (f : FlashSt → FlashSt) : (s.setFlash f).scaleQ = s.scaleQ := rfl
@[simp] theorem setFlash_slotMap (f : FlashSt → FlashSt) : (s.setFlash f).slotMap = s.slotMap := rfl
@[simp] theorem setFlash_staged (f : FlashSt → FlashSt) : (s.setFlash f).staged = s.staged := rfl
@[simp] theorem setFlash_program (f : FlashSt → FlashSt) : (s.setFlash f).program = s.program := rfl
@[simp] theorem setFlash_running (f : FlashSt → FlashSt) : (s.setFlash f).running = s.running := rfl
@[simp] theorem setFlash_frame0 (f : FlashSt → FlashSt) : (s.setFlash f).frame0 = s.frame0 := rfl
@[simp] theorem setFlash_relock (f : FlashSt → FlashSt) : (s.setFlash f).relock = s.relock := rfl
@[simp] theorem setFlash_slices (f : FlashSt → FlashSt) : (s.setFlash f).slices = s.slices := rfl
@[simp] theorem setFlash_chans (f : FlashSt → FlashSt) : (s.setFlash f).chans = s.chans := rfl
@[simp] theorem setFlash_chanBytes (f : FlashSt → FlashSt) : (s.setFlash f).chanBytes = s.chanBytes := rfl
@[simp] theorem setFlash_chanPoison (f : FlashSt → FlashSt) : (s.setFlash f).chanPoison = s.chanPoison := rfl
@[simp] theorem setFlash_chanUnseen (f : FlashSt → FlashSt) : (s.setFlash f).chanUnseen = s.chanUnseen := rfl
@[simp] theorem setFlash_lostDies (f : FlashSt → FlashSt) : (s.setFlash f).lostDies = s.lostDies := rfl
@[simp] theorem setFlash_pages (f : FlashSt → FlashSt) : (s.setFlash f).pages = s.pages := rfl
@[simp] theorem setFlash_targets (f : FlashSt → FlashSt) : (s.setFlash f).targets = s.targets := rfl
@[simp] theorem setFlash_queues (f : FlashSt → FlashSt) : (s.setFlash f).queues = s.queues := rfl
@[simp] theorem setFlash_faults (f : FlashSt → FlashSt) : (s.setFlash f).faults = s.faults := rfl
@[simp] theorem setFlash_reqSeq (f : FlashSt → FlashSt) : (s.setFlash f).reqSeq = s.reqSeq := rfl
@[simp] theorem setFlash_atc (f : FlashSt → FlashSt) : (s.setFlash f).atc = s.atc := rfl
@[simp] theorem setFlash_invals (f : FlashSt → FlashSt) : (s.setFlash f).invals = s.invals := rfl
@[simp] theorem setFlash_ats (f : FlashSt → FlashSt) : (s.setFlash f).ats = s.ats := rfl
@[simp] theorem setFlash_pri (f : FlashSt → FlashSt) : (s.setFlash f).pri = s.pri := rfl
@[simp] theorem setFlash_priStop (f : FlashSt → FlashSt) : (s.setFlash f).priStop = s.priStop := rfl
@[simp] theorem setFlash_flashDue (f : FlashSt → FlashSt) : (s.setFlash f).flashDue = s.flashDue := rfl
@[simp] theorem setFlash_msixEn (f : FlashSt → FlashSt) : (s.setFlash f).msixEn = s.msixEn := rfl
@[simp] theorem setFlash_msixMask (f : FlashSt → FlashSt) : (s.setFlash f).msixMask = s.msixMask := rfl
@[simp] theorem setFlash_hostMem (f : FlashSt → FlashSt) : (s.setFlash f).hostMem = s.hostMem := rfl
@[simp] theorem setFlash_errFlight (f : FlashSt → FlashSt) : (s.setFlash f).errFlight = s.errFlight := rfl
@[simp] theorem setFlash_evtFlight (f : FlashSt → FlashSt) : (s.setFlash f).evtFlight = s.evtFlight := rfl
@[simp] theorem setFlash_almanac (f : FlashSt → FlashSt) : (s.setFlash f).almanac = s.almanac := rfl
@[simp] theorem setFlash_almStage (f : FlashSt → FlashSt) : (s.setFlash f).almStage = s.almStage := rfl
@[simp] theorem setFlash_ports (f : FlashSt → FlashSt) : (s.setFlash f).ports = s.ports := rfl
@[simp] theorem setFlash_fab (f : FlashSt → FlashSt) : (s.setFlash f).fab = s.fab := rfl
@[simp] theorem setFlash_cles (f : FlashSt → FlashSt) : (s.setFlash f).cles = s.cles := rfl
@[simp] theorem setFlash_hjob (f : FlashSt → FlashSt) : (s.setFlash f).hjob = s.hjob := rfl
@[simp] theorem setFlash_mmc (f : FlashSt → FlashSt) : (s.setFlash f).mmc = s.mmc := rfl
@[simp] theorem setFlash_pwr (f : FlashSt → FlashSt) : (s.setFlash f).pwr = s.pwr := rfl
@[simp] theorem setFlash_handlers (f : FlashSt → FlashSt) : (s.setFlash f).handlers = s.handlers := rfl
@[simp] theorem setFlash_rates (f : FlashSt → FlashSt) : (s.setFlash f).rates = s.rates := rfl
@[simp] theorem setFlash_mons (f : FlashSt → FlashSt) : (s.setFlash f).mons = s.mons := rfl
@[simp] theorem setFlash_txnHost (f : FlashSt → FlashSt) : (s.setFlash f).txnHost = s.txnHost := rfl
@[simp] theorem setFlash_txnMgmt (f : FlashSt → FlashSt) : (s.setFlash f).txnMgmt = s.txnMgmt := rfl
@[simp] theorem setFlash_hostQ (f : FlashSt → FlashSt) : (s.setFlash f).hostQ = s.hostQ := rfl
@[simp] theorem setFlash_waited (f : FlashSt → FlashSt) : (s.setFlash f).waited = s.waited := rfl
@[simp] theorem setFlash_evtBuf (f : FlashSt → FlashSt) : (s.setFlash f).evtBuf = s.evtBuf := rfl
@[simp] theorem setFlash_evtLost (f : FlashSt → FlashSt) : (s.setFlash f).evtLost = s.evtLost := rfl
@[simp] theorem setFlash_evtSeq (f : FlashSt → FlashSt) : (s.setFlash f).evtSeq = s.evtSeq := rfl
@[simp] theorem setFlash_hub1Lost (f : FlashSt → FlashSt) : (s.setFlash f).hub1Lost = s.hub1Lost := rfl
@[simp] theorem setFlash_fatal (f : FlashSt → FlashSt) : (s.setFlash f).fatal = s.fatal := rfl
@[simp] theorem setFlash_modLost (f : FlashSt → FlashSt) : (s.setFlash f).modLost = s.modLost := rfl
@[simp] theorem setFlash_lostRegions (f : FlashSt → FlashSt) : (s.setFlash f).lostRegions = s.lostRegions := rfl
@[simp] theorem setFlash_deadClus (f : FlashSt → FlashSt) : (s.setFlash f).deadClus = s.deadClus := rfl
@[simp] theorem setFlash_gwDrops (f : FlashSt → FlashSt) : (s.setFlash f).gwDrops = s.gwDrops := rfl
@[simp] theorem setFlash_fabDrops (f : FlashSt → FlashSt) : (s.setFlash f).fabDrops = s.fabDrops := rfl
@[simp] theorem setFlash_acc_reg (f : FlashSt → FlashSt) (b : Nat) :
    (s.setFlash f).reg b = s.reg b := rfl
@[simp] theorem setFlash_acc_regF (f : FlashSt → FlashSt) (b hi' lo' : Nat) :
    (s.setFlash f).regF b hi' lo' = s.regF b hi' lo' := rfl
@[simp] theorem setFlash_acc_bit (f : FlashSt → FlashSt) (b j : Nat) :
    (s.setFlash f).bit b j = s.bit b j := rfl
@[simp] theorem setFlash_acc_physClu (f : FlashSt → FlashSt) (c : Nat) :
    (s.setFlash f).physClu c = s.physClu c := rfl
@[simp] theorem setFlash_acc_physUnit (f : FlashSt → FlashSt) (u : Nat) :
    (s.setFlash f).physUnit u = s.physUnit u := rfl
@[simp] theorem setFlash_acc_ccState (f : FlashSt → FlashSt) (c : Nat) :
    (s.setFlash f).ccState c = s.ccState c := rfl
@[simp] theorem setFlash_acc_ccBank (f : FlashSt → FlashSt) (c : Nat) :
    (s.setFlash f).ccBank c = s.ccBank c := rfl
@[simp] theorem setFlash_acc_unitHalted (f : FlashSt → FlashSt) (u : Nat) :
    (s.setFlash f).unitHalted u = s.unitHalted u := rfl
@[simp] theorem setFlash_acc_chState (f : FlashSt → FlashSt) (c : Nat) :
    (s.setFlash f).chState c = s.chState c := rfl
@[simp] theorem setFlash_acc_logClu (f : FlashSt → FlashSt) (c : Nat) :
    (s.setFlash f).logClu c = s.logClu c := rfl
@[simp] theorem setFlash_acc_logUnit (f : FlashSt → FlashSt) (c : Nat) :
    (s.setFlash f).logUnit c = s.logUnit c := rfl
@[simp] theorem setFlash_acc_unit (f : FlashSt → FlashSt) (j : Nat) :
    (s.setFlash f).unit j = s.unit j := rfl
@[simp] theorem setFlash_acc_clu (f : FlashSt → FlashSt) (j : Nat) :
    (s.setFlash f).clu j = s.clu j := rfl
@[simp] theorem setFlash_acc_slice (f : FlashSt → FlashSt) (j : Nat) :
    (s.setFlash f).slice j = s.slice j := rfl
@[simp] theorem setFlash_acc_chan (f : FlashSt → FlashSt) (j : Nat) :
    (s.setFlash f).chan j = s.chan j := rfl
@[simp] theorem setFlash_acc_tgt (f : FlashSt → FlashSt) (j : Nat) :
    (s.setFlash f).tgt j = s.tgt j := rfl
@[simp] theorem setFlash_acc_port (f : FlashSt → FlashSt) (j : Nat) :
    (s.setFlash f).port j = s.port j := rfl
@[simp] theorem setFlash_acc_cle (f : FlashSt → FlashSt) (j : Nat) :
    (s.setFlash f).cle j = s.cle j := rfl
@[simp] theorem setFlash_acc_queueSt (f : FlashSt → FlashSt) (j : Nat) :
    (s.setFlash f).queueSt j = s.queueSt j := rfl

/-! ### unit -/

@[simp] theorem unit_setUnit (k : Nat) (x : UnitSt) : (s.setUnit k x).unit k = x := by
  simp [unit, setUnit]

theorem unit_setUnit_ne {j k : Nat} (x : UnitSt) (h : j ≠ k) : (s.setUnit k x).unit j = s.unit j := by
  simp [unit, setUnit, smGet_smSet_ne _ _ _ _ h]

@[simp] theorem unit_updUnit (k : Nat) (f : UnitSt → UnitSt) : (s.updUnit k f).unit k = f (s.unit k) := by
  simp [updUnit]

theorem unit_updUnit_ne {j k : Nat} (f : UnitSt → UnitSt) (h : j ≠ k) :
    (s.updUnit k f).unit j = s.unit j := unit_setUnit_ne s _ h

/-! ### clu -/

@[simp] theorem clu_setClu (k : Nat) (x : CluSt) : (s.setClu k x).clu k = x := by
  simp [clu, setClu]

theorem clu_setClu_ne {j k : Nat} (x : CluSt) (h : j ≠ k) : (s.setClu k x).clu j = s.clu j := by
  simp [clu, setClu, smGet_smSet_ne _ _ _ _ h]

@[simp] theorem clu_updClu (k : Nat) (f : CluSt → CluSt) : (s.updClu k f).clu k = f (s.clu k) := by
  simp [updClu]

theorem clu_updClu_ne {j k : Nat} (f : CluSt → CluSt) (h : j ≠ k) :
    (s.updClu k f).clu j = s.clu j := clu_setClu_ne s _ h

/-! ### slice -/

@[simp] theorem slice_setSlice (k : Nat) (x : SliceSt) : (s.setSlice k x).slice k = x := by
  simp [slice, setSlice]

theorem slice_setSlice_ne {j k : Nat} (x : SliceSt) (h : j ≠ k) : (s.setSlice k x).slice j = s.slice j := by
  simp [slice, setSlice, smGet_smSet_ne _ _ _ _ h]

/-! ### chan -/

@[simp] theorem chan_setChan (k : Nat) (x : ChanSt) : (s.setChan k x).chan k = x := by
  simp [chan, setChan]

theorem chan_setChan_ne {j k : Nat} (x : ChanSt) (h : j ≠ k) : (s.setChan k x).chan j = s.chan j := by
  simp [chan, setChan, smGet_smSet_ne _ _ _ _ h]

@[simp] theorem chan_updChan (k : Nat) (f : ChanSt → ChanSt) : (s.updChan k f).chan k = f (s.chan k) := by
  simp [updChan]

theorem chan_updChan_ne {j k : Nat} (f : ChanSt → ChanSt) (h : j ≠ k) :
    (s.updChan k f).chan j = s.chan j := chan_setChan_ne s _ h

/-! ### tgt -/

@[simp] theorem tgt_setTgt (k : Nat) (x : TgtSt) : (s.setTgt k x).tgt k = x := by
  simp [tgt, setTgt]

theorem tgt_setTgt_ne {j k : Nat} (x : TgtSt) (h : j ≠ k) : (s.setTgt k x).tgt j = s.tgt j := by
  simp [tgt, setTgt, smGet_smSet_ne _ _ _ _ h]

/-! ### port -/

@[simp] theorem port_setPort (k : Nat) (x : PortSt) : (s.setPort k x).port k = x := by
  simp [port, setPort]

theorem port_setPort_ne {j k : Nat} (x : PortSt) (h : j ≠ k) : (s.setPort k x).port j = s.port j := by
  simp [port, setPort, smGet_smSet_ne _ _ _ _ h]

@[simp] theorem port_updPort (k : Nat) (f : PortSt → PortSt) : (s.updPort k f).port k = f (s.port k) := by
  simp [updPort]

theorem port_updPort_ne {j k : Nat} (f : PortSt → PortSt) (h : j ≠ k) :
    (s.updPort k f).port j = s.port j := port_setPort_ne s _ h

/-! ### cle -/

@[simp] theorem cle_setCle (k : Nat) (x : CleSt) : (s.setCle k x).cle k = x := by
  simp [cle, setCle]

theorem cle_setCle_ne {j k : Nat} (x : CleSt) (h : j ≠ k) : (s.setCle k x).cle j = s.cle j := by
  simp [cle, setCle, smGet_smSet_ne _ _ _ _ h]

/-! ### queueSt -/

@[simp] theorem queueSt_setQueueSt (k : Nat) (x : QueueSt) : (s.setQueueSt k x).queueSt k = x := by
  simp [queueSt, setQueueSt]

theorem queueSt_setQueueSt_ne {j k : Nat} (x : QueueSt) (h : j ≠ k) : (s.setQueueSt k x).queueSt j = s.queueSt j := by
  simp [queueSt, setQueueSt, smGet_smSet_ne _ _ _ _ h]

@[simp] theorem fab_updFab (f : FabSt → FabSt) : (s.updFab f).fab = f s.fab := rfl
@[simp] theorem mmc_updMmc (f : MmcSt → MmcSt) : (s.updMmc f).mmc = f s.mmc := rfl
@[simp] theorem pwr_updPwr (f : PwrSt → PwrSt) : (s.updPwr f).pwr = f s.pwr := rfl
@[simp] theorem flash_setFlash (f : FlashSt → FlashSt) : (s.setFlash f).flash = f s.flash := rfl
@[simp] theorem emit_out (o : Out) : (s.emit o).out = o :: s.out := rfl
@[simp] theorem raise_errFlight (e : Err) : (s.raise e).errFlight = s.errFlight ++ [e] := rfl
@[simp] theorem withQueue_pending (cs : List Instr) : (s.withQueue cs).pending = cs := rfl
@[simp] theorem enqueueFront_pending (c : Instr) : (s.enqueueFront c).pending = c :: s.pending := rfl

end Sys2Proof.Machine.State
end

