-- ==== Sys2Proof/Laws/Control.lean ====
section
/-!
SUPPORT. What the shared operations of the control core do: fetching a command, the lists moved on, a
command counted.
-/

namespace Sys2Proof.Machine.State

/-- A change of control core `pc` alone: its cluster state and CLU_CC_STAT. -/
structure CoreOnly (pc : Nat) (s t : State) : Prop where
  reg  : ∀ a, a ≠ rClu pc 0 → t.reg a = s.reg a
  clu  : ∀ k, k ≠ pc → t.clu k = s.clu k
  rest : t = { s with regs := t.regs, clus := t.clus }

namespace CoreOnly

theorem refl (pc : Nat) (s : State) : CoreOnly pc s s := ⟨fun _ _ => rfl, fun _ _ => rfl, rfl⟩

theorem trans {pc : Nat} {s t u : State} (h : CoreOnly pc s t) (g : CoreOnly pc t u) : CoreOnly pc s u := by
  refine ⟨fun a ha => (g.reg a ha).trans (h.reg a ha), fun k hk => (g.clu k hk).trans (h.clu k hk), ?_⟩
  have h1 := h.rest
  have h2 := g.rest
  rw [h2]
  rw [h1]

theorem setClu (pc : Nat) (s : State) (c : CluSt) : CoreOnly pc s (s.setClu pc c) :=
  ⟨fun _ _ => rfl, fun _ hk => clu_setClu_ne s c hk, rfl⟩

theorem updClu (pc : Nat) (s : State) (f : CluSt → CluSt) : CoreOnly pc s (s.updClu pc f) := setClu pc s _

theorem setRegF (pc : Nat) (s : State) (hi lo v : Nat) : CoreOnly pc s (s.setRegF (rClu pc 0) hi lo v) :=
  ⟨fun _ ha => reg_setRegF_ne s _ _ _ ha, fun _ _ => rfl, rfl⟩

theorem bump (pc : Nat) (s : State) (hi lo n : Nat) : CoreOnly pc s (s.bump (rClu pc 0) hi lo n) :=
  setRegF pc s hi lo _

end CoreOnly

/-- Moving the lists on changes the core's lists, its wait and STATE, and nothing else. -/
theorem advance_core (pc n : Nat) (s : State) : CoreOnly pc s (s.advance pc n) := by
  induction n generalizing s with
  | zero => exact CoreOnly.refl pc s
  | succ n ih =>
    rw [advance]
    split
    · split
      · exact CoreOnly.setClu pc s _
      · exact (CoreOnly.setClu pc s _).trans (ih _)
    · split
      · exact CoreOnly.refl pc s
      · split
        · exact (CoreOnly.setClu pc s _).trans (ih _)
        · split
          · split
            · exact CoreOnly.setClu pc s _
            · exact (CoreOnly.setClu pc s _).trans (CoreOnly.setRegF pc _ _ _ _)
          · exact CoreOnly.setClu pc s _

/-- What moving the lists on keeps of the core itself: every field of CLU_CC_STAT but STATE, and the core's
count, break request, signals, program store and account. -/
structure CoreKeeps (pc : Nat) (s t : State) : Prop where
  stat   : ∀ hi lo, hi < 60 → t.regF (rClu pc 0) hi lo = s.regF (rClu pc 0) hi lo
  seq    : (t.clu pc).seq = (s.clu pc).seq
  brk    : (t.clu pc).breakReq = (s.clu pc).breakReq
  sigs   : (t.clu pc).sigs = (s.clu pc).sigs
  store  : (t.clu pc).store = (s.clu pc).store
  poison : (t.clu pc).spoison = (s.clu pc).spoison
  ended  : (t.clu pc).ended = (s.clu pc).ended

namespace CoreKeeps

theorem refl (pc : Nat) (s : State) : CoreKeeps pc s s := ⟨fun _ _ _ => rfl, rfl, rfl, rfl, rfl, rfl, rfl⟩

theorem trans {pc : Nat} {s t u : State} (h : CoreKeeps pc s t) (g : CoreKeeps pc t u) : CoreKeeps pc s u :=
  ⟨fun hi lo x => (g.stat hi lo x).trans (h.stat hi lo x), g.seq.trans h.seq, g.brk.trans h.brk, g.sigs.trans h.sigs,
    g.store.trans h.store, g.poison.trans h.poison, g.ended.trans h.ended⟩

theorem setClu (pc : Nat) (s : State) (c : CluSt) (h1 : c.seq = (s.clu pc).seq)
    (h2 : c.breakReq = (s.clu pc).breakReq) (h3 : c.sigs = (s.clu pc).sigs) (h4 : c.store = (s.clu pc).store)
    (h5 : c.spoison = (s.clu pc).spoison) (h6 : c.ended = (s.clu pc).ended) : CoreKeeps pc s (s.setClu pc c) := by
  constructor
  · intro hi lo _
    rw [setClu_acc_regF]
  all_goals rw [clu_setClu]; assumption

theorem setState (pc : Nat) (s : State) (v : Nat) : CoreKeeps pc s (s.setRegF (rClu pc 0) 63 60 v) := by
  constructor
  · intro hi lo h
    exact regF_setRegF_other s _ _ _ _ _ _ (by omega) (by omega) (by omega)
  all_goals rw [setRegF_acc_clu]

end CoreKeeps

theorem advance_keeps (pc n : Nat) (s : State) : CoreKeeps pc s (s.advance pc n) := by
  induction n generalizing s with
  | zero => exact CoreKeeps.refl pc s
  | succ n ih =>
    rw [advance]
    split
    · split
      · exact CoreKeeps.setClu pc s _ rfl rfl rfl rfl rfl rfl
      · refine CoreKeeps.trans ?_ (ih _)
        exact CoreKeeps.setClu pc s _ rfl rfl rfl rfl rfl rfl
    · split
      · exact CoreKeeps.refl pc s
      · split
        · refine CoreKeeps.trans ?_ (ih _)
          exact CoreKeeps.setClu pc s _ rfl rfl rfl rfl rfl rfl
        · split
          · split
            · exact CoreKeeps.setClu pc s _ rfl rfl rfl rfl rfl rfl
            · refine CoreKeeps.trans ?_ (CoreKeeps.setState pc _ _)
              exact CoreKeeps.setClu pc s _ rfl rfl rfl rfl rfl rfl
          · exact CoreKeeps.setClu pc s _ rfl rfl rfl rfl rfl rfl

theorem breakNow_none {s : State} {pc : Nat} (h : (s.clu pc).breakReq = false) : s.breakNow pc = s := by
  simp [breakNow, h]

/-- Fetching: with a whole, unpoisoned command of opcode `op` whose fields pass, a core that is not behind a
WAITTOK takes PC and runs the command. -/
theorem command_runs {s : State} {c pc w op : Nat} {f : Frame} {fs : List Frame} (two : W64 → Bool)
    (bad : State → Nat → W64 → W64 → Bool) (body : State → Nat → W64 → W64 → Nat → State)
    (hc : s.physClu c = some pc) (hf : (s.clu pc).frames = f :: fs) (hw : w = f.list + f.pos)
    (hin : f.pos < f.len) (hb : w < 32768) (hp : s.ccPoison pc w = false) (ho : fld (s.ccWord pc w) 63 56 = op)
    (hop : 1 ≤ op ∧ op ≤ 10)
    (ht : two (s.ccWord pc w) = true → f.pos + 2 ≤ f.len ∧ w + 2 ≤ 32768 ∧ s.ccPoison pc (w + 1) = false)
    (he : (s.clu pc).ending = false) (hst : s.ccState pc = 1 ∨ s.ccState pc = 2 ∧ (s.clu pc).wait = .none)
    (hbad : bad s pc (s.ccWord pc w) (if two (s.ccWord pc w) then s.ccWord pc (w + 1) else 0#64) = false) :
    s.command c op two bad body =
      body ((s.setRegF (rClu pc 0) 46 32 w).updClu pc fun k => { k with pcIter := f.run }) pc (s.ccWord pc w)
        (if two (s.ccWord pc w) then s.ccWord pc (w + 1) else 0#64) w := by
  have hs : s.speculating pc = false := by
    rcases hst with h | h <;> simp [speculating, h]
  have hfetch : s.canFetch pc op = true := by
    rcases hst with h | ⟨h, h'⟩
    · simp [canFetch, hs, h, he]
    · simp [canFetch, hs, h, h']
  subst hw
  have h1 : ¬ f.len ≤ f.pos := by omega
  have h2 : ¬ 32767 < f.list + f.pos := by omega
  have h3 : ¬ (op = 0 ∨ 10 < op) := by omega
  simp only [command, hc, hf, hs, hfetch, hp, ho, h1, h2, h3, hbad, if_false, Bool.false_and,
    Bool.not_true, Bool.false_eq_true, ne_eq, not_true_eq_false]
  by_cases h4 : two (s.ccWord pc (f.list + f.pos)) = true
  · obtain ⟨a, b, d⟩ := ht h4
    have h5 : ¬ (f.len ≤ f.pos + 1 ∨ 32767 ≤ f.list + f.pos) := by omega
    simp [h4, h5, d] at hbad ⊢
  · simp [h4] at hbad ⊢

end Sys2Proof.Machine.State
end

