-- ==== Sys2Proof/Laws/Memory.lean ====
section
/-!
SUPPORT. Every operation over the module's memories keeps their canonical form, and reset has it.
-/

namespace Sys2Proof.Machine

/-- The memories of `t` are in canonical form where those of `s` are. -/
def KeepsMemory (s t : State) : Prop := Memory.wf s = true → Memory.wf t = true

theorem KeepsMemory.refl (s : State) : KeepsMemory s s := id

theorem KeepsMemory.trans {s t u : State} (h : KeepsMemory s t) (g : KeepsMemory t u) : KeepsMemory s u :=
  fun w => g (h w)

/-- An update of anything but the memories. -/
theorem KeepsMemory.of_eq {s t : State} (h : Memory.wf t = Memory.wf s) : KeepsMemory s t := fun w => h ▸ w

theorem KeepsMemory.foldl {α : Type} (f : State → α → State) (h : ∀ s x, KeepsMemory s (f s x)) (l : List α)
    (s : State) : KeepsMemory s (l.foldl f s) := by
  induction l generalizing s with
  | nil => exact .refl s
  | cons x l ih => exact (h s x).trans (ih _)

/-- The memories at reset are in canonical form. -/
theorem memory_wf_reset : Memory.wf State.reset = true := rfl

theorem Memory.wf_iff (s : State) : Memory.wf s = true ↔
    smWf 0#8 s.chanBytes = true ∧ smWf false s.chanPoison = true ∧ smWf 0#8 s.hostMem = true ∧
    smWf 0 s.pages = true ∧ smWf 0#8 s.flash.data = true ∧
    (s.units.all fun x => smWf 0#8 x.2.tile && smWf false x.2.tpoison) = true ∧
    (s.clus.all fun x => smWf 0#8 x.2.store && smWf false x.2.spoison) = true := by
  simp only [Memory.wf, Bool.and_eq_true]
  tauto

/-! ### Updates of anything else -/

@[simp] theorem wf_setRegF (s : State) (a hi lo v : Nat) : Memory.wf (s.setRegF a hi lo v) = Memory.wf s := by
  simp [Memory.wf]
@[simp] theorem wf_bump (s : State) (a hi lo n : Nat) : Memory.wf (s.bump a hi lo n) = Memory.wf s := by
  simp [Memory.wf]
@[simp] theorem wf_setSlice (s : State) (k : Nat) (x : SliceSt) : Memory.wf (s.setSlice k x) = Memory.wf s := by
  simp [Memory.wf]
@[simp] theorem wf_updChan (s : State) (k : Nat) (f : ChanSt → ChanSt) : Memory.wf (s.updChan k f) = Memory.wf s := by
  simp [Memory.wf]
@[simp] theorem wf_raise (s : State) (e : Err) : Memory.wf (s.raise e) = Memory.wf s := by
  simp [Memory.wf]
@[simp] theorem wf_ctr (s : State) (n : Nat) : Memory.wf { s with ctr := n } = Memory.wf s := by
  simp only [Memory.wf]
@[simp] theorem wf_countPins (s : State) (r : Nat) : Memory.wf (s.countPins r) = Memory.wf s := by
  simp [State.countPins]
@[simp] theorem wf_hold (s : State) (b : Bool) : Memory.wf (s.hold b) = Memory.wf s := by
  unfold State.hold
  split <;> simp [Memory.wf]
@[simp] theorem wf_freeBytes (s : State) (n : Nat) : Memory.wf (s.freeBytes n).2 = Memory.wf s := wf_ctr _ _

/-! ### The channels -/

theorem channels_keep {s : State} {b : SMap Byte} {p : SMap Bool}
    (hb : smWf 0#8 s.chanBytes = true → smWf 0#8 b = true)
    (hp : smWf false s.chanPoison = true → smWf false p = true) :
    KeepsMemory s { s with chanBytes := b, chanPoison := p } := by
  intro h
  rw [Memory.wf_iff] at h ⊢
  exact ⟨hb h.1, hp h.2.1, h.2.2⟩

theorem putSector_keeps (s : State) (ch off : Nat) (bs : List Byte) (p : Bool) :
    KeepsMemory s (s.putSector ch off bs p) := by
  unfold State.putSector
  exact channels_keep (smWf_smSetL _ _ _) (smWf_smSet _ _ _)

theorem moveUnit_keeps (s : State) (ch x : Nat) : KeepsMemory s (s.moveUnit ch x) := by
  unfold State.moveUnit
  split
  · exact .refl _
  · dsimp only
    split
    · exact .trans (channels_keep (smWf_smSetL _ _ _) (smWf_smSetL _ _ _))
        (.of_eq (by rw [wf_bump, wf_updChan]))
    · exact .trans (channels_keep (smWf_smSetL _ _ _) (smWf_smSetL _ _ _)) (.of_eq (by rw [wf_updChan]))

theorem writeBack_keeps (s : State) (l : Line) : KeepsMemory s (s.writeBack l) := by
  unfold State.writeBack
  refine .trans ?_ (.foldl _ (fun t _ => putSector_keeps t _ _ _ _) _ _)
  split
  · exact moveUnit_keeps _ _ _
  · exact .refl _

/-! ### The slices -/

theorem makeRoom_keeps {s t : State} {ch ln : Nat} (h : s.makeRoom ch ln = some t) : KeepsMemory s t := by
  unfold State.makeRoom at h
  dsimp only at h
  split at h
  · cases h; exact .refl _
  · split at h
    · cases h
    · cases h
      split
      · exact (writeBack_keeps _ _).trans (.of_eq (wf_setSlice _ _ _))
      · exact .of_eq (by simp)

theorem place_keeps (s : State) (l : Line) (hint : Nat) : KeepsMemory s (s.place l hint) := by
  unfold State.place
  dsimp only
  split
  · split <;> exact .of_eq (by simp)
  · exact .of_eq (by simp)

theorem hit_keeps (s : State) (l : Line) (hint : Nat) : KeepsMemory s (s.hit l hint) := by
  unfold State.hit
  split
  · exact place_keeps _ _ _
  · exact .refl _

theorem dropLine_keeps (s : State) (l : Line) : KeepsMemory s (s.dropLine l) := by
  unfold State.dropLine
  dsimp only
  split
  · refine .trans (.of_eq ?_) (.foldl _ (fun t i => ?_) _ _)
    · simp
    · exact .trans (.of_eq (wf_ctr _ _)) (putSector_keeps _ _ _ _ _)
  · exact .of_eq (by simp)

theorem access_keeps (s : State) (ch ln hint : Nat) : KeepsMemory s (s.access ch ln hint).1 := by
  unfold State.access
  dsimp only
  split
  · exact hit_keeps _ _ _
  · split
    · exact .refl _
    · split
      · exact .of_eq (wf_hold _ _)
      · rename_i h
        exact ((makeRoom_keeps h).trans (place_keeps _ _ _)).trans (.of_eq (wf_hold _ _))

theorem seen_keeps (s : State) (bs : List Byte) (p : Bool) : KeepsMemory s (s.seen bs p).1 := by
  unfold State.seen
  split
  · exact .of_eq (by simp)
  · exact .refl _

theorem seenFold_keeps (l : List (Byte × Bool)) (a : State × List Byte) :
    KeepsMemory a.1 (l.foldl (fun acc b => ((acc.1.seen [b.1] b.2).1, acc.2 ++ (acc.1.seen [b.1] b.2).2)) a).1 := by
  induction l generalizing a with
  | nil => exact .refl _
  | cons y l ih =>
    rw [List.foldl_cons]
    exact (seen_keeps a.1 [y.1] y.2).trans (ih ((a.1.seen [y.1] y.2).1, a.2 ++ (a.1.seen [y.1] y.2).2))

theorem readLine_keeps (s : State) (ch ln lo n hint : Nat) : KeepsMemory s (s.readLine ch ln lo n hint).1 := by
  unfold State.readLine
  split
  · exact .of_eq (by simp)
  · dsimp only
    generalize e : (if hint = 2 then _ else _ : State × Line) = x
    have hx : KeepsMemory s x.1 := by
      rw [← e]
      split
      · split
        · exact dropLine_keeps _ _
        · exact .of_eq (wf_hold _ _)
      · exact access_keeps _ _ _ _
    refine hx.trans ?_
    exact seenFold_keeps _ (x.1, [])

/-- The line that a write takes: hit, made of whole data, or read. -/
theorem lineFor_keeps (s : State) (ch ln h : Nat) (bs : List Byte) : KeepsMemory s
    (if bs.length = 128 then
      match (s.slice (sliceOf ch)).find ch ln with
      | some l => (s.hit l h, l)
      | none =>
        let l : Line := { ch := ch, line := ln, data := bs, poison := List.replicate 4 false }
        if (s.slice (sliceOf ch)).lost then (s, l)
        else match s.makeRoom ch ln with
          | none => (s.hold true, l)
          | some s => (s.place l h, l)
    else s.access ch ln h : State × Line).1 := by
  split
  · split
    · exact hit_keeps _ _ _
    · dsimp only
      split
      · exact .refl _
      · split
        · exact .of_eq (wf_hold _ _)
        · rename_i h
          exact (makeRoom_keeps h).trans (place_keeps _ _ _)
  · exact access_keeps _ _ _ _

theorem writeLine_keeps (s : State) (ch ln lo : Nat) (bs : List Byte) (ps : List Bool) (hint : Nat) :
    KeepsMemory s (s.writeLine ch ln lo bs ps hint) := by
  unfold State.writeLine
  split
  · exact .of_eq (by simp [State.raiseCode])
  · dsimp only
    generalize e : (if s.chState ch = 5 ∧ s.migrating ch = true then _ else _ : State) = t
    have ht : KeepsMemory s t := by
      rw [← e]
      split
      · exact moveUnit_keeps _ _ _
      · exact .refl _
    refine ht.trans ((lineFor_keeps t ch ln (if hint = 2 then 0 else hint) bs).trans ?_)
    dsimp only
    generalize (if bs.length = 128 then _ else _ : State × Line) = x
    split
    · exact .of_eq (by simp)
    · exact writeBack_keeps _ _

/-! ### Reads and writes by device address, and of the host -/

theorem memRead_keeps (s : State) (a n hint : Nat) : KeepsMemory s (s.memRead a n hint).1 := by
  have key : ∀ (l : List (Nat × Nat)) (b : State × List Byte × List Bool), KeepsMemory b.1
      (l.foldl (fun (acc : State × List Byte × List Bool) p =>
        ((acc.1.readLine (acc.1.chanAddr p.1).1 ((acc.1.chanAddr p.1).2 / 128) ((acc.1.chanAddr p.1).2 % 128)
            p.2 hint).1,
          acc.2.1 ++ (acc.1.readLine (acc.1.chanAddr p.1).1 ((acc.1.chanAddr p.1).2 / 128)
            ((acc.1.chanAddr p.1).2 % 128) p.2 hint).2.1,
          acc.2.2 ++ (acc.1.readLine (acc.1.chanAddr p.1).1 ((acc.1.chanAddr p.1).2 / 128)
            ((acc.1.chanAddr p.1).2 % 128) p.2 hint).2.2)) b).1 := by
    intro l
    induction l with
    | nil => exact fun b => .refl _
    | cons p l ih =>
      intro b
      rw [List.foldl_cons]
      have h := readLine_keeps b.1 (b.1.chanAddr p.1).1 ((b.1.chanAddr p.1).2 / 128) ((b.1.chanAddr p.1).2 % 128) p.2 hint
      generalize b.1.readLine (b.1.chanAddr p.1).1 ((b.1.chanAddr p.1).2 / 128) ((b.1.chanAddr p.1).2 % 128) p.2 hint = x
        at h ⊢
      exact h.trans (ih (x.1, b.2.1 ++ x.2.1, b.2.2 ++ x.2.2))
  exact key _ (s, [], [])

theorem memWriteP_keeps (s : State) (a : Nat) (bs : List Byte) (ps : List Bool) (hint : Nat) :
    KeepsMemory s (s.memWriteP a bs ps hint) := by
  have key : ∀ (l : List (Nat × Nat)) (b : State × List Byte × List Bool), KeepsMemory b.1
      (l.foldl (fun (acc : State × List Byte × List Bool) p =>
        (acc.1.writeLine (acc.1.chanAddr p.1).1 ((acc.1.chanAddr p.1).2 / 128) ((acc.1.chanAddr p.1).2 % 128)
            (acc.2.1.take p.2) (acc.2.2.take p.2) hint, acc.2.1.drop p.2, acc.2.2.drop p.2)) b).1 := by
    intro l
    induction l with
    | nil => exact fun b => .refl _
    | cons p l ih =>
      intro b
      rw [List.foldl_cons]
      have h := writeLine_keeps b.1 (b.1.chanAddr p.1).1 ((b.1.chanAddr p.1).2 / 128) ((b.1.chanAddr p.1).2 % 128)
        (b.2.1.take p.2) (b.2.2.take p.2) hint
      generalize b.1.writeLine (b.1.chanAddr p.1).1 ((b.1.chanAddr p.1).2 / 128) ((b.1.chanAddr p.1).2 % 128)
        (b.2.1.take p.2) (b.2.2.take p.2) hint = x at h ⊢
      exact h.trans (ih (x, b.2.1.drop p.2, b.2.2.drop p.2))
  exact key _ (s, bs, ps)

theorem memWrite_keeps (s : State) (a : Nat) (bs : List Byte) (hint : Nat) : KeepsMemory s (s.memWrite a bs hint) :=
  memWriteP_keeps _ _ _ _ _

theorem hostWrite_keeps (s : State) (pasid : Option Nat) (a : Nat) (bs : List Byte) :
    KeepsMemory s (s.hostWrite pasid a bs) := by
  intro h
  unfold State.hostWrite
  rw [Memory.wf_iff] at h ⊢
  exact ⟨h.1, h.2.1, smWf_smSetL _ _ _ h.2.2.1, h.2.2.2⟩

/-- All that waiting does: nothing while an access is held, else the command's effect (R302). -/
theorem orWait_cases (s : State) (f : State → State) :
    ((f { s with waited := false }).waited = true ∧ s.orWait f = s) ∨
    ((f { s with waited := false }).waited = false ∧
      s.orWait f = { f { s with waited := false } with waited := s.waited }) := by
  cases h : (f { s with waited := false }).waited <;> simp [State.orWait, h]

theorem orWait_keeps (s : State) {f : State → State} (hf : ∀ s, KeepsMemory s (f s)) : KeepsMemory s (s.orWait f) := by
  rcases orWait_cases s f with ⟨_, h⟩ | ⟨_, h⟩
  · rw [h]; exact .refl s
  · rw [h]; exact fun w => hf { s with waited := false } w

/-! ### The tile stores, the program stores and the page table -/

theorem mem_smSet {α : Type} [DecidableEq α] {d v : α} {m : List (Nat × α)} {k : Nat} {e : Nat × α}
    (h : e ∈ smSet d m k v) : e = (k, v) ∨ e ∈ m := by
  unfold smSet at h
  split at h
  · exact .inr (mem_smErase h).1
  · rcases mem_smInsert h with h | h
    · exact .inl h
    · exact .inr (mem_smErase h).1

theorem smGet_mem {α : Type} (d : α) (m : List (Nat × α)) (k : Nat) : smGet d m k = d ∨ (k, smGet d m k) ∈ m := by
  induction m with
  | nil => exact .inl rfl
  | cons e m ih =>
    by_cases h : e.1 = k
    · subst h; exact .inr (by simp [smGet])
    · rcases ih with h' | h'
      · exact .inl (by simp [smGet, h, h'])
      · exact .inr (by simp [smGet, h, h'])

/-- The memories of one unit, and of one cluster, are in canonical form. -/
def UnitSt.wf (u : UnitSt) : Prop := smWf 0#8 u.tile = true ∧ smWf false u.tpoison = true
def CluSt.wf (c : CluSt) : Prop := smWf 0#8 c.store = true ∧ smWf false c.spoison = true

theorem unit_wf {s : State} (h : Memory.wf s = true) (pu : Nat) : (s.unit pu).wf := by
  rw [Memory.wf_iff] at h
  rcases smGet_mem {} s.units pu with e | e
  · unfold State.unit; rw [e]; exact ⟨rfl, rfl⟩
  · have := List.all_eq_true.1 h.2.2.2.2.2.1 _ e
    exact Bool.and_eq_true_iff.1 this

theorem clu_wf {s : State} (h : Memory.wf s = true) (pc : Nat) : (s.clu pc).wf := by
  rw [Memory.wf_iff] at h
  rcases smGet_mem {} s.clus pc with e | e
  · unfold State.clu; rw [e]; exact ⟨rfl, rfl⟩
  · have := List.all_eq_true.1 h.2.2.2.2.2.2 _ e
    exact Bool.and_eq_true_iff.1 this

theorem setUnit_keeps (s : State) (pu : Nat) {u : UnitSt} (hu : (s.unit pu).wf → u.wf) :
    KeepsMemory s (s.setUnit pu u) := by
  intro h
  have hu := hu (unit_wf h pu)
  rw [Memory.wf_iff] at h ⊢
  refine ⟨h.1, h.2.1, h.2.2.1, h.2.2.2.1, h.2.2.2.2.1, List.all_eq_true.2 fun e he => ?_, h.2.2.2.2.2.2⟩
  rcases mem_smSet he with rfl | he
  · exact Bool.and_eq_true_iff.2 hu
  · exact List.all_eq_true.1 h.2.2.2.2.2.1 e he

theorem updUnit_keeps (s : State) (pu : Nat) {f : UnitSt → UnitSt} (hf : ∀ u, u.wf → (f u).wf) :
    KeepsMemory s (s.updUnit pu f) := setUnit_keeps s pu (hf _)

theorem setClu_keeps (s : State) (pc : Nat) {c : CluSt} (hc : (s.clu pc).wf → c.wf) :
    KeepsMemory s (s.setClu pc c) := by
  intro h
  have hc := hc (clu_wf h pc)
  rw [Memory.wf_iff] at h ⊢
  refine ⟨h.1, h.2.1, h.2.2.1, h.2.2.2.1, h.2.2.2.2.1, h.2.2.2.2.2.1, List.all_eq_true.2 fun e he => ?_⟩
  rcases mem_smSet he with rfl | he
  · exact Bool.and_eq_true_iff.2 hc
  · exact List.all_eq_true.1 h.2.2.2.2.2.2 e he

theorem updClu_keeps (s : State) (pc : Nat) {f : CluSt → CluSt} (hf : ∀ c, c.wf → (f c).wf) :
    KeepsMemory s (s.updClu pc f) := setClu_keeps s pc (hf _)

/-- Bytes written one by one. -/
theorem smWf_foldl (bs : List (Nat × Byte)) {m : SMap Byte} (h : smWf 0#8 m = true) :
    smWf 0#8 (bs.foldl (fun t b => smSet 0#8 t b.1 b.2) m) = true := by
  induction bs generalizing m with
  | nil => exact h
  | cons b bs ih => exact ih (smWf_smSet _ _ _ h)

theorem writeWord_wf (u : UnitSt) (w : Nat) (bs : List (Nat × Byte)) (p : Bool) (h : u.wf) : (u.writeWord w bs p).wf :=
  ⟨smWf_foldl bs h.1, smWf_smSet _ _ _ h.2⟩

theorem tileWrite_keeps (s : State) (pu : Nat) (bs : List (Nat × Byte)) (p : Bool) :
    KeepsMemory s (s.tileWrite pu bs p) := by
  have words : ∀ (gs : SMap (List (Nat × Byte))) (u : UnitSt), u.wf →
      (gs.foldl (fun u g => u.writeWord g.1 g.2 p) u).wf := by
    intro gs
    induction gs with
    | nil => exact fun u h => h
    | cons g gs ih => exact fun u h => ih _ (writeWord_wf u _ _ _ h)
  unfold State.tileWrite
  dsimp only
  refine .trans ?_ (updUnit_keeps _ pu (words _))
  split
  · exact .of_eq (by simp)
  · exact .refl _

/-- A write to the program stores of a cluster. -/
theorem storeWrite_wf (c : CluSt) (a : Nat) (bs : List Byte) (h : c.wf) : CluSt.wf { c with store := smSetL 0#8 c.store a bs } :=
  ⟨smWf_smSetL _ _ _ h.1, h.2⟩

/-- A grant or a revocation of consecutive pages. -/
theorem pages_keep (s : State) (p : Nat) (vs : List Nat) : KeepsMemory s { s with pages := smSetL 0 s.pages p vs } := by
  intro h
  rw [Memory.wf_iff] at h ⊢
  exact ⟨h.1, h.2.1, h.2.2.1, smWf_smSetL _ _ _ h.2.2.2.1, h.2.2.2.2⟩

end Sys2Proof.Machine
end

