-- ==== Sys2Proof/Tests/Slice0.lean ====
section
/-!
SUPPORT. Tests and witnesses.  A witness shows a state and operands that meet the conditions of a statement.
-/

namespace Sys2Proof.Tests

set_option Elab.async false

open Sys2Proof Sys2Proof.Machine

/-! ### The step and its invariants -/

theorem witness_EmptyQueueIdles : State.reset.pending = [] := rfl

theorem witness_Queue_wf : Queue.wf { State.reset with pending := [.cfg 0] } = true := by decide

theorem witness_Registers_wf : Registers.wf (State.reset.setReg 0x38 1#64).regs = true := by decide

theorem witness_Memory_wf : Memory.wf { State.reset with hostMem := [(4096, 1#8)] } = true := by decide

/-! ### Helpers -/

/-- Reset with cluster 0 of the module on physical cluster 0, every function ready, and more registers. -/
def base (rs : SMap W64) : State :=
  { State.reset with regs := [(0x18, 0xFFFFFFFFFFFFFFFF#64), (rRgn 0 0, 0xE02C688#64)] ++ rs }

/-- The bytes of a program store that holds the words from word 0 on. -/
def storeOf (ws : List Nat) : SMap Byte := smSetL 0#8 [] 0 (ws.flatMap fun w => leBytes 8 w)

/-- `base` with control core 0 running a list that starts at word 0 and holds the words. -/
def running (ws : List Nat) (rs : SMap W64) (c : CluSt) : State :=
  { base ((rClu 0 0, 0x1000000000000000#64) :: rs) with
    clus := [(0, { c with store := storeOf ws, frames := [{ list := 0, len := ws.length }] })] }

/-! ### CFG, GO, STRM: words of the manual's worked example -/

theorem witness_cfg :
    let s := running [0x0110000000000000, 0x10000] [] {}
    Claims.atCommand s 0 0 0 1 2 { list := 0, len := 2 } [] ∧ Claims.cfgFields s (s.ccWord 0 0) (s.ccWord 0 1) ∧
    Claims.queuesFree s 0 (s.ccWord 0 0) (fun u => (u.queue (fld (s.ccWord 0 0) 51 50)).length) := by decide

theorem witness_go :
    let s := running [0x0310000000FFFFFF] [] {}
    Claims.atCommand s 0 0 0 3 1 { list := 0, len := 1 } [] ∧ Claims.goFields (s.ccWord 0 0) ∧
    Claims.queuesFree s 0 (s.ccWord 0 0) (fun u => (u.queue (fld (s.ccWord 0 0) 51 50)).length) := by decide

theorem witness_strm :
    let s := running [0x0410000000000000, 0x100] [] {}
    Claims.atCommand s 0 0 0 4 2 { list := 0, len := 2 } [] ∧ Claims.strmFields s (s.ccWord 0 0) (s.ccWord 0 1) ∧
    Claims.queuesFree s 0 (s.ccWord 0 0) (fun u => u.squeue.length) := by decide

/-! ### PATCH, WAITTOK, FENCE: words of the manual's worked example -/

theorem witness_patch :
    let s := running [0x0210000100000000, 0x2F6A] [] {}
    Claims.atCommand s 0 0 0 2 2 { list := 0, len := 2 } [] ∧
    Claims.patchFields s (s.ccWord 0 0) (s.ccWord 0 1) := by decide

theorem witness_waittok :
    let s := running [0x0500050001000000] [] {}
    Claims.atCommand s 0 0 0 5 1 { list := 0, len := 1 } [] ∧ fld (s.ccWord 0 0) 55 48 = 0 ∧ fld (s.ccWord 0 0) 23 16 = 0 ∧
    fld (s.ccWord 0 0) 39 24 ≠ 0 := by decide

theorem witness_waittok_zero :
    let s := running [0x0500050000000000, 0x0A00000000000000] [] {}
    Claims.atCommand s 0 0 0 5 1 { list := 0, len := 2 } [] ∧ fld (s.ccWord 0 0) 55 48 = 0 ∧ fld (s.ccWord 0 0) 23 16 = 0 ∧
    fld (s.ccWord 0 0) 39 24 = 0 := by decide

theorem witness_fence :
    let s := running [0x0910000000000000] [] {}
    Claims.atCommand s 0 0 0 9 1 { list := 0, len := 1 } [] ∧ fld (s.ccWord 0 0) 55 52 ≠ 0 ∧
    fld (s.ccWord 0 0) 51 0 = 0 := by decide

/-! ### REPLAY, SWAP, SIGTOK, HALT -/

theorem witness_replay :
    let s := running [0x0718800080030040, 1] [] {}
    Claims.atCommand s 0 0 0 7 2 { list := 0, len := 2 } [] ∧
    Claims.replayFields (s.ccWord 0 0) (s.ccWord 0 1) := by decide

theorem witness_swap :
    let s := running [0x0800000000000000] [] {}
    Claims.atCommand s 0 0 0 8 1 { list := 0, len := 1 } [] ∧ fld (s.ccWord 0 0) 55 0 = 0 := by decide

theorem witness_sigtok_now :
    let s := running [0x0601050100000000] [] {}
    Claims.atCommand s 0 0 0 6 (Claims.sigWords (s.ccWord 0 0)) { list := 0, len := 1 } [] ∧ Claims.sigtokFields s (s.ccWord 0 0) (s.ccWord 0 1) ∧
    Claims.sigTicket s 0 (s.ccWord 0 0) = 0 := by decide

/-- A running state whose last GO of unit 0, slot FWD has ticket 1 and is in the scoreboard. -/
def withGo (ws : List Nat) : State :=
  { running ws [] { lastGo := [(0, 1)] } with units := [(0, { sb := [{ ticket := 1 }] })] }

theorem witness_sigtok_bound :
    let s := withGo [0x0601050100000000]
    Claims.atCommand s 0 0 0 6 (Claims.sigWords (s.ccWord 0 0)) { list := 0, len := 1 } [] ∧ Claims.sigtokFields s (s.ccWord 0 0) (s.ccWord 0 1) ∧
    Claims.sigTicket s 0 (s.ccWord 0 0) ≠ 0 ∧
    ((s.unit 0).sb.find? fun e => e.ticket == Claims.sigTicket s 0 (s.ccWord 0 0)) = some { ticket := 1 } := by decide

theorem witness_sigtok_remote :
    let s := running [0x0601050180070000, 9] [] {}
    Claims.atCommand s 0 0 0 6 (Claims.sigWords (s.ccWord 0 0)) { list := 0, len := 2 } [] ∧
    Claims.sigtokFields s (s.ccWord 0 0) (s.ccWord 0 1) ∧ Claims.sigTicket s 0 (s.ccWord 0 0) = 0 := by decide

theorem witness_halt_end :
    let s := running [0x0A00000000000000] [] {}
    Claims.atCommand s 0 0 0 0x0A 1 { list := 0, len := 1 } [] ∧ fld (s.ccWord 0 0) 55 0 = 0 := by decide

theorem witness_halt_stop :
    let s := running [0x0A00000000000010] [] {}
    Claims.atCommand s 0 0 0 0x0A 1 { list := 0, len := 1 } [] ∧ fld (s.ccWord 0 0) 55 0 = 0x10 := by decide

/-! ### The ends of waits -/

/-- Control core 0 in a state, waiting, at a list with one word. -/
def waiting (stat : W64) (w : CcWait) (rs : SMap W64) : State :=
  { base ((rClu 0 0, stat) :: rs) with clus := [(0, { wait := w, frames := [{ list := 0, len := 1 }] })] }

theorem witness_patchTakeEffect :
    let p : PatchSt := { units := 1, pr := 2, mode := 1, value := 5#64, pc := 0, ticket := 1, incr := false }
    Claims.patchDue (waiting 0x2000000000000000#64 (.patch p) []) 0 0 p ∧ p.mode ≠ 2 := by decide

theorem witness_waittokRelease :
    let s := waiting 0x3000000000000000#64 (.token 5 1 0 0) [(rClu 0 0x1028, 3#64)]
    s.physClu 0 = some 0 ∧ (s.clu 0).wait = .token 5 1 0 0 ∧ s.ccState 0 = 3 ∧
    1 ≤ s.regF (rClu 0 (0x1000 + 8 * 5)) 15 0 ∧ Claims.noSpec s 0 ∧ (s.clu 0).sigs = [] ∧
    (s.clu 0).frames = [{ list := 0, len := 1 }] := by decide

theorem witness_tokenTimeout :
    let s := waiting 0x3000000000000000#64 (.token 5 1 7 0) []
    s.physClu 0 = some 0 ∧ (s.clu 0).wait = .token 5 1 7 0 ∧ s.ccState 0 = 3 ∧
    s.regF (rClu 0 (0x1000 + 8 * 5)) 15 0 < 1 ∧ (s.clu 0).ended = none := by decide

theorem witness_fenceRelease :
    let s := waiting 0x4000000000000000#64 (.fence 1 1 0) []
    s.physClu 0 = some 0 ∧ (s.clu 0).wait = .fence 1 1 0 ∧ s.ccState 0 = 4 ∧ s.fenceDone 0 1 1 = true := by decide

theorem witness_swapTakeEffect :
    let s := base [(rClu 0 0x10, 1#64)]
    s.physClu 0 = some 0 ∧ s.bit (rClu 0 0x10) 0 = true ∧ s.fetching 0 = false := by decide

/-- Control core 0 at the end of its program, the only one that runs. -/
def ending : State :=
  { base [(rClu 0 0, 0x1000000000000000#64)] with clus := [(0, { ending := true })], running := some [0] }

theorem witness_programEnd :
    ending.physClu 0 = some 0 ∧ (ending.clu 0).ending = true ∧ ending.ccState 0 = 1 ∧
    Claims.cfgOpen ending 0 = false ∧ (ending.clu 0).ended = none := by decide

/-! ### Debug, swap requests, tokens -/

theorem witness_ccBreak :
    let s := running [0x0A00000000000000] [] {}
    Claims.dieReady s 0 ∧ s.physClu 0 = some 0 ∧ s.ccState 0 = 1 ∧ (s.clu 0).ending = false := by decide

theorem witness_ccBreak_waits :
    let s := waiting 0x4000000000000000#64 (.fence 1 1 0) []
    Claims.dieReady s 0 ∧ s.physClu 0 = some 0 ∧ 2 ≤ s.ccState 0 ∧ s.ccState 0 ≤ 4 ∧ s.ccState 0 ≠ 3 := by decide

theorem witness_ccBreak_speculating :
    let s := waiting 0x3000000000000000#64 (.token 5 1 0 0) []
    Claims.dieReady s 0 ∧ s.physClu 0 = some 0 ∧ s.ccState 0 = 3 ∧ (s.clu 0).specStop = false ∧
    s.serialise = false := by decide

theorem witness_ccResume :
    let s := base [(rClu 0 0, 0x5010000000000000#64)]
    Claims.dieReady s 0 ∧ s.physClu 0 = some 0 ∧ s.ccState 0 = 5 ∧ s.regF (rClu 0 0) 55 48 = 0x10 := by decide

/-- A state with one token addition in flight. -/
def token (x : TokFlight) (rs : SMap W64) : State := { base rs with tokens := [x] }

theorem witness_tokenAdd :
    let x : TokFlight := { src := some (0, 0), dest := .clu 0, ctr := 5, add := 2, seq := 1 }
    let s := token x [(rClu 0 0x1028, 0xFFFE#64)]
    s.tokens[0]? = some x ∧ s.physClu 0 = some 0 ∧ Claims.admitted s x 0 ∧
    65535 < s.regF (rClu 0 (0x1000 + 8 * x.ctr)) 15 0 + x.add := by decide

theorem witness_tokenAdd_dropped :
    let x : TokFlight := { src := some (1, 3), dest := .clu 0, ctr := 5, add := 2, seq := 1 }
    let s := token x []
    s.tokens[0]? = some x ∧ s.physClu 0 ≠ some 1 ∧ s.gatewayOk 1 3 = false := by decide

theorem witness_tokenAdd_remote :
    let x : TokFlight := { src := none, dest := .remote 9 0, ctr := 5, add := 2, seq := 1 }
    (token x []).tokens[0]? = some x := by decide

/-! ### CFG checks, GO -/

/-- Unit 0 with a state of its own. -/
def unit0 (rs : SMap W64) (u : UnitSt) : State := { base rs with units := [(0, u)] }

/-- A unit with one entry in the queue of a slot. -/
def queued (sl : Nat) (e : QEnt) : UnitSt := { queues := [(sl, [e])], sb := [{ ticket := 1, declared := true }] }

/-! ### A block of zeros and its CRC-32C -/

/-- The CRC register after `n` bytes 0. -/
def crcZeros (c : W32) (n : Nat) : W32 :=
  (List.replicate n (0#8)).foldl (fun c b => crcBits 8 (c ^^^ b.setWidth 32)) c

theorem crcZeros_add (c : W32) (m n : Nat) : crcZeros c (m + n) = crcZeros (crcZeros c m) n := by
  rw [crcZeros, List.replicate_add, List.foldl_append]
  rfl

theorem crcZeros_a : crcZeros 0xFFFFFFFF#32 64 = 0xfc371498#32 := by decide +kernel
theorem crcZeros_b : crcZeros 0xfc371498#32 64 = 0xf7d89b24#32 := by decide +kernel
theorem crcZeros_c : crcZeros 0xf7d89b24#32 64 = 0x8bca87cf#32 := by decide +kernel
theorem crcZeros_d : crcZeros 0x8bca87cf#32 64 = 0x478d4e6f#32 := by decide +kernel
theorem crcZeros_e : crcZeros 0x478d4e6f#32 64 = 0x3d5a233#32 := by decide +kernel
theorem crcZeros_f : crcZeros 0x3d5a233#32 64 = 0x4509d0c9#32 := by decide +kernel
theorem crcZeros_g : crcZeros 0x4509d0c9#32 64 = 0xcc289dc7#32 := by decide +kernel
theorem crcZeros_h : crcZeros 0xcc289dc7#32 64 = 0xcf03123f#32 := by decide +kernel
theorem crcZeros_i : crcZeros 0xcf03123f#32 64 = 0x39b9ac6b#32 := by decide +kernel
theorem crcZeros_j : crcZeros 0x39b9ac6b#32 64 = 0x1fd80331#32 := by decide +kernel
theorem crcZeros_k : crcZeros 0x1fd80331#32 64 = 0x7793e80c#32 := by decide +kernel
theorem crcZeros_l : crcZeros 0x7793e80c#32 64 = 0xc5c4c2f9#32 := by decide +kernel
theorem crcZeros_m : crcZeros 0xc5c4c2f9#32 64 = 0xfc7deb93#32 := by decide +kernel
theorem crcZeros_n : crcZeros 0xfc7deb93#32 64 = 0xd77c4c0#32 := by decide +kernel
theorem crcZeros_o : crcZeros 0xd77c4c0#32 64 = 0xc011635a#32 := by decide +kernel
theorem crcZeros_p : crcZeros 0xc011635a#32 56 = 0x71349dbd#32 := by decide +kernel

theorem crc32c_zeros : crc32c (List.replicate 1016 0#8) = 0x8ecb6242#32 := by
  have h : crcZeros 0xFFFFFFFF#32 1016 = 0x71349dbd#32 := by
    rw [show 1016 = 64+64+64+64+64+64+64+64+64+64+64+64+64+64+64+56 from rfl]
    simp only [crcZeros_add, crcZeros_a, crcZeros_b, crcZeros_c, crcZeros_d, crcZeros_e, crcZeros_f, crcZeros_g,
      crcZeros_h, crcZeros_i, crcZeros_j, crcZeros_k, crcZeros_l, crcZeros_m, crcZeros_n, crcZeros_o, crcZeros_p]
  show crcZeros 0xFFFFFFFF#32 1016 ^^^ 0xFFFFFFFF#32 = _
  rw [h]
  decide

theorem getD_snoc (xs : List W64) (w : W64) (n : Nat) (h : xs.length = n) : (xs ++ [w]).getD n 0#64 = w := by
  subst h
  simp

/-- A block of 127 words 0 and a last word: its DCRC is right when that word holds the CRC of zeros. -/
theorem dcrc_zeros (bs : List Byte) (hb : bs.length = 8) (w : W64) (hw : BitVec.ofNat 64 (leVal bs) = w) :
    State.dcrcOk (State.words 128 (List.replicate 1016 0#8 ++ bs)) = decide (BitVec.ofNat 32 (fld w 31 0) = 0x8ecb6242#32) := by
  have h : ∀ n : Nat, State.words (n + 1) (List.replicate (8 * n) 0#8 ++ bs) = List.replicate n 0#64 ++ [w] := by
    intro n
    induction n with
    | zero => simp [State.words, ← hw, List.take_of_length_le (Nat.le_of_eq hb)]
    | succ n ih =>
      have h : List.replicate (8 * (n + 1)) (0#8) ++ bs = List.replicate 8 0#8 ++ (List.replicate (8 * n) 0#8 ++ bs) := by
        rw [← List.append_assoc, ← List.replicate_add]
        congr 2
        omega
      rw [State.words, h, List.take_left' (by simp), List.drop_left' (by simp), ih, List.replicate_succ]
      rfl
  rw [h 127]
  have h3 : leBytes 8 (0#64).toNat = List.replicate 8 0#8 := by decide
  simp only [State.dcrcOk, dfld, wordAt]
  rw [List.take_left' (by simp), List.map_replicate, h3, List.flatten_replicate_replicate, crc32c_zeros]
  rw [getD_snoc _ w 127 (List.length_replicate ..)]
  rw [Bool.eq_iff_iff, beq_iff_eq, decide_eq_true_iff]
  exact eq_comm

theorem source_block (st : SMap Byte) (bs : List Byte)
    (h : smGetL 0#8 st 0 1016 = List.replicate 1016 0#8) (hb : smGetL 0#8 st 1016 8 = bs) :
    smGetL 0#8 st 0 1024 = List.replicate 1016 0#8 ++ bs := by
  have : smGetL 0#8 st 0 (1016 + 8) = smGetL 0#8 st 0 1016 ++ smGetL 0#8 st 1016 8 := by
    simp only [smGetL, List.range_add, List.map_append, List.map_map]
    congr 1
  rw [← h, ← hb, ← this]

theorem smGetL_below (st : SMap Byte) (n k : Nat) (h : ∀ i < n, smGet 0#8 st (k + i) = 0#8) :
    smGetL 0#8 st k n = List.replicate n 0#8 := by
  apply List.ext_getElem <;> simp [smGetL]
  intro i hi
  exact h i hi

def zeroDesc : SMap Byte := [(1016, 0x42#8), (1017, 0x62#8), (1018, 0xCB#8), (1019, 0x8E#8)]

theorem zeroDesc_block : smGetL 0#8 zeroDesc 0 1024 = List.replicate 1016 0#8 ++ [0x42#8, 0x62#8, 0xCB#8, 0x8E#8, 0#8, 0#8, 0#8, 0#8] := by
  refine source_block _ _ (smGetL_below _ _ _ fun i hi => ?_) (by decide)
  have h1 : 1016 ≠ i := by omega
  have h2 : 1017 ≠ i := by omega
  have h3 : 1018 ≠ i := by omega
  have h4 : 1019 ≠ i := by omega
  simp [zeroDesc, smGet, h1, h2, h3, h4]

theorem cfgSource_bank (s : State) (pc bank addr : Nat) :
    (s.cfgSource pc bank 0 addr).2.1 = smGetL 0#8 (s.clu pc).store (bank * 262144 + addr) 1024 := by
  rw [State.cfgSource, if_pos rfl]

theorem witness_dcrcCheck :
    let p : Prov := { ticket := 1 }
    let s := { unit0 [] (queued 0 { cmd := .cfg 0 0, prov := p }) with clus := [(0, { store := zeroDesc })] }
    Claims.cfgHead s 0 0 .fwd 0 0 p .queued [] (s.cfgSource 0 0 0 0) ∧
    State.dcrcOk (State.words 128 (s.cfgSource 0 0 0 0).2.1) = true := by
  refine ⟨⟨by decide, by decide, rfl, rfl, by decide +kernel⟩, ?_⟩
  rw [cfgSource_bank, show (State.clu _ 0).store = zeroDesc from rfl, Nat.zero_mul, zeroDesc_block, dcrc_zeros _ (by decide) 0x8ecb6242#64 (by decide)]
  decide

theorem witness_dcrcCheck_wrong :
    let p : Prov := { ticket := 1 }
    let s := unit0 [(rClu 0 0, 0x1000000000000000#64)] (queued 0 { cmd := .cfg 0 0, prov := p })
    Claims.cfgHead s 0 0 .fwd 0 0 p .queued [] (s.cfgSource 0 0 0 0) ∧
    State.dcrcOk (State.words 128 (s.cfgSource 0 0 0 0).2.1) = false ∧ s.ccState (0 / 4) = 1 ∧
    smGet none (s.unit 0).saved (slotIx .fwd) = none := by
  refine ⟨⟨by decide, by decide, rfl, rfl, by decide +kernel⟩, ?_, by decide, rfl⟩
  rw [cfgSource_bank, show (State.clu _ 0).store = [] from rfl, Nat.zero_mul, source_block [] (List.replicate 8 0#8) (smGetL_below _ _ _ fun i _ => rfl) (by decide),
    dcrc_zeros _ (by decide) 0#64 (by decide)]
  decide

theorem witness_goAdmit :
    let p : Prov := { ticket := 1 }
    let s := unit0 [] (queued 0 { cmd := .go 0xFFFFFF, prov := p })
    Claims.goHead s 0 0 .fwd 0xFFFFFF p .queued [] ∧ Claims.admissible s 0 0 .fwd p := by decide +kernel

theorem witness_goPrepare_fails :
    let p : Prov := { ticket := 1 }
    let s := unit0 [] (queued 0 { cmd := .go 0xFFFFFF, prov := p, stage := .admitted })
    Claims.goHead s 0 0 .fwd 0xFFFFFF p .admitted [] ∧ s.unitHalted 0 = false ∧
    (Claims.copied s 0 .fwd).prepCheck 0 0 0 0xFFFFFF (s.shadow 0 0) (Claims.entryOf s 0 p) = some 3 := by decide +kernel

/-- A forward descriptor of one pass: FP32 operands, rows to the tile store, M = N = K = 64, its windows
in regions 0 and 1. -/
def small : List Nat :=
  [0x0100000000000101, 0x0001000100000001, 0x0000010000000040, 0, 0, 0,
   0x400 * 1, 0, 0x400 * 1 + 64, 0, 0x400 * 1 + 128, 0, 0x40 + 0x41 * 2 ^ 7 + 0x42 * 2 ^ 28]

/-- `unit0` with words in the shadow block of slot FWD. -/
def shadowed (ws : List Nat) (rs : SMap W64) (u : UnitSt) : State :=
  (List.range ws.length).foldl
    (fun s i => s.setReg (rUnit 0 (0x1000 + 8 * i)) (BitVec.ofNat 64 (ws.getD i 0))) (unit0 rs u)

/-- Region `r` of unit 0 as [lo, hi). -/
def rgn (r lo hi : Nat) : Nat × W64 := (rUnit 0 (0x400 + 8 * r), BitVec.ofNat 64 (2 ^ 63 + hi * 2 ^ 32 + lo))

/-- Unit 0 with an admitted GO of `small` and the regions it names. -/
def prep : State :=
  shadowed small [(rUnit 0 0, 0x2040#64), rgn 0 0 0x20000, rgn 1 0x20000 0x40000, rgn 2 0x40000 0x60000]
    { queued 0 { cmd := .go 0xFFFFFF, prov := { ticket := 1 }, stage := .admitted } with
      shadowOk := [(0, true)], sb := [{ ticket := 1, rd := 3, wr := 4, declared := true }] }

theorem witness_goPrepare :
    Claims.goHead prep 0 0 .fwd 0xFFFFFF { ticket := 1 } .admitted [] ∧
    (Claims.copied prep 0 .fwd).prepCheck 0 0 0 0xFFFFFF (prep.shadow 0 0) (Claims.entryOf prep 0 { ticket := 1 }) = none ∧
    ((Claims.copied prep 0 .fwd).prepRead 0 0 0 (prep.shadow 0 0) { ticket := 1 }).2.isRight = true := by decide +kernel

theorem witness_goStart :
    let p : Prov := { ticket := 1 }
    let r : RunSt := { slot := 0, desc := [], prov := p }
    let s := unit0 [] { queued 0 { cmd := .go 0xFFFFFF, prov := p, stage := .prepared } with runs := [r] }
    Claims.goHead s 0 0 .fwd 0xFFFFFF p .prepared [] ∧
    ((s.unit 0).runs.find? fun r => r.prov.ticket == p.ticket) = some r := by decide +kernel

theorem witness_goStart_rru :
    let p : Prov := { ticket := 1 }
    let r : RunSt := { slot := 2, desc := [], prov := p }
    let s := unit0 [] { queued 2 { cmd := .go 0xFFFFFF, prov := p, stage := .prepared } with runs := [r] }
    Claims.goHead s 0 0 .rru 0xFFFFFF p .prepared [] ∧
    ((s.unit 0).runs.find? fun r => r.prov.ticket == p.ticket) = some r := by decide +kernel

/-- `unit0` with a prepared RRU descriptor that writes LN_FWD rows it does not own: an RMS_FWD of one row. -/
theorem witness_goStart_rru_runs :
    let p : Prov := { ticket := 1 }
    let r : RunSt := { slot := 2, desc := [], prov := p, phaseWait := true }
    let s := unit0 [] { queued 2 { cmd := .go 5, prov := p, stage := .prepared } with runs := [r] }
    ((Claims.begun s 0 5 p [] r).rruRun 0 0 { r with started := true }).2.2 = none := by decide +kernel

/-- An RRU descriptor of one segment without a slot map: its first access has no position. -/
theorem witness_goStart_rru_collides :
    let p : Prov := { ticket := 1 }
    let r : RunSt := { slot := 2, desc := [0#64, 0x0001000100000001#64], prov := p, rowMask := 1, colMask := 1 }
    let s := unit0 [] { queued 2 { cmd := .go 0xFFFFFF, prov := p, stage := .prepared } with runs := [r] }
    let h : HaltInfo := { reason := 6, source := 2, prov := p, owner := 16, cyc := some 0 }
    Claims.goHead s 0 0 .rru 0xFFFFFF p .prepared [] ∧ s.unitHalted 0 = false ∧
    (s.startGo 0 0 2 (r, 0xFFFFFF, [])).2 = some h ∧ h = (Claims.carried s 0 0 (r, 0xFFFFFF, []) h).2 ∧
    Claims.provFits h.prov ∧ ((s.unit 0).runs.find? fun r => r.prov.ticket == p.ticket) = some r := by decide +kernel

/-! ### Passes, drains, completion, the watchdog -/

/-- A started forward run of `small` with one pass. -/
def aRun : RunSt := { slot := 0, desc := small.map fun w => BitVec.ofNat 64 w, prov := { ticket := 1 }, started := true,
                      total := 1 }

/-- Task 0 of unit 0 owns the forward broadcast bus in every cycle of a frame of 64. -/
def busMap : SlotMap :=
  { frameLen := 64, units := [(0, [{ port := 0x1000, owner := 1, start := 0, len := 64, period := 0, reps := 0, tight := false }])] }

theorem witness_passStart :
    let s := { unit0 [] { runs := [aRun] } with slotMap := busMap }
    s.physUnit 0 = some 0 ∧ s.nextPass 0 0 = some aRun ∧ s.unitHalted 0 = false ∧
    (∀ p ∈ (s.eng 0 0).hist.drop 1, p.d.isSome = true) ∧
    (s.feed 0 0 0 aRun (Claims.startOf s 0 .fwd aRun).1).2 = none := by decide +kernel

theorem witness_drainStart :
    let p : PassRec := { ticket := 1, index := 0, page := 0, rb := 0, cols := [], s := 10, fin := 74 }
    let s := unit0 [] { runs := [aRun], fwd := { hist := [p] } }
    s.physUnit 0 = some 0 ∧ ((s.eng 0 0).hist.filter fun p => p.d.isNone).getLast? = some p ∧
    ((s.unit 0).runs.find? fun r => r.prov.ticket == p.ticket) = some aRun ∧ s.unitHalted 0 = false ∧
    (s.serialHold 0 0 aRun p).1 = true ∧
    (s.drainPass 0 0 0 p aRun (Claims.drainOf s 0 0 .fwd p aRun) []).2 = none := by decide +kernel

theorem witness_descriptorComplete :
    let r := { aRun with fed := 1, drained := 1 }
    let s := unit0 [] { runs := [r] }
    s.physUnit 0 = some 0 ∧ ((s.unit 0).runs.find? fun r => r.slot == 0) = some r ∧ State.runLanded r 0 = true := by
  decide +kernel

theorem witness_watchdog :
    let s := unit0 [] { runs := [aRun] }
    s.physUnit 0 = some 0 ∧ s.unitHalted 0 = false ∧ s.regF (rUnit 0 0x70) 15 0 ≠ 0 ∧
    State.watchdogName (s.unit 0) =
      some { reason := 0x0D, source := 0, prov := { ticket := 1 }, serial := 0x101 } := by decide +kernel

/-! ### The chain and scale records -/

/-- A row without values on the link, from the unit's own cluster. -/
def aRow : ChainRow := { eng := 0, pass := 0, row := 0, vals := [[], []], pois := [] }

theorem witness_chainRowArrive :
    let s := unit0 [] { chain := { link := [aRow] } }
    Claims.rowComes s 0 0 aRow [] ∧ s.unitHalted 0 = false ∧
    (∀ i < aRow.vals.length, aRow.vals.getD i [] ≠ [] →
      Claims.owned s 0 (0x2000 + arrBase aRow.eng + i) (ownerOf aRow.task 0x016) aRow.cyc ∧
      ∀ y ∈ (s.unit 0).slips, y.port = 0x2000 + arrBase aRow.eng + i → y.cyc ≠ aRow.cyc) ∧
    (∀ y ∈ (s.unit 0).chain.own, y.eng ≠ aRow.eng) := by decide +kernel

theorem witness_chainRowArrive_halted :
    let s := unit0 [(rUnit 0 0x100, 0x0D00000000000000#64)] { chain := { link := [aRow] } }
    Claims.rowComes s 0 0 aRow [] ∧ s.unitHalted 0 = true ∧
    (∀ y ∈ (s.unit 0).chain.own, ¬(y.eng = aRow.eng ∧ y.pass = aRow.pass)) := by decide +kernel

/-- A run of a chain from unit 0 to unit 1. -/
def chainOf : RunSt :=
  { slot := 0, desc := [0, 0, 0, 0x8000000#64, 0, 0, 0, 0, 0, 0, 0, 0, 0, 0, 0, 0x100000000#64], prov := { ticket := 1 },
    started := true, total := 1 }

theorem witness_chainAbort :
    let s := { base [] with units := [(1, { runs := [chainOf], chain := { abort := true } })] }
    s.physUnit 1 = some 1 ∧ Claims.chainRun s 1 1 = some chainOf ∧ s.unitHalted 1 = false ∧
    Claims.abortCame s 1 1 ∧ Claims.provFits chainOf.prov := by decide +kernel

theorem witness_chainAbort_nobody :
    (base []).physUnit 1 = some 1 ∧ Claims.chainRun (base []) 1 1 = none := by decide +kernel

theorem witness_scale : ({ base [] with scaleQ := [{ addr := 0, report := some {}, close := true, clu := 0 }] } : State).scaleQ[0]? =
    some { addr := 0, report := some {}, close := true, clu := 0 } := by decide

theorem witness_scaleClose :
    let s := { base [(0x30, 0xFF#64)] with scaleQ := [{ addr := 0, report := none, close := true, clu := 0 }] }
    Claims.at' (State.memRead { s with scaleQ := [] } 0 64 0).2.1 6 2 = 0 := by decide +kernel

theorem witness_scaleClose_reports :
    let s := { base [(0x30, 0xFF#64)] with scaleQ := [{ addr := 0, report := none, close := true, clu := 0 }], chanBytes := [(6, 1#8)] }
    Claims.at' (State.memRead { s with scaleQ := [] } 0 64 0).2.1 6 2 ≠ 0 := by decide +kernel

theorem witness_close_record :
    let bs : List Byte := [0, 0, 0, 0x12] ++ List.replicate 60 0
    bs.length = 64 ∧ 1 ≤ Claims.at' bs 3 1 % 16 ∧ Claims.at' bs 3 1 % 16 ≤ 8 ∧
    Claims.at' bs 3 1 / 16 % 8 < Claims.at' bs 3 1 % 16 := by decide +kernel

/-! ### Streams -/

/-- A stream program of one LOAD of one FP32 row: header and instruction. -/
def loadProg : List W64 × List (List W64) :=
  (List.replicate 8 0#64, [[0x003FE00000000000#64, 0, 0, 0]])

/-- The stream of that program. -/
def aStream : StreamSt := { hdr := loadProg.1, instrs := loadProg.2, pr := List.replicate 32 0#64, prov := { ticket := 1 }, total := 1 }

/-- Task 0 of unit 0, generator 0 owns every bank and the crossbar output of the unit. -/
def streamMap : SlotMap :=
  { frameLen := 64
    units := [(0, (List.range 64).map fun b =>
      { port := b, owner := 0x12, start := 0, len := 64, period := 0, reps := 0, tight := false })]
    clus := [(0, [{ port := 0x6000, owner := 0, start := 0, len := 64, period := 0, reps := 0, tight := false }])] }

theorem witness_streamStart :
    let e : SEnt := { gen := 0, task := 0, src := 0, addr := 0, prov := { ticket := 1 }, prog := some loadProg }
    let s := unit0 [] { squeue := [e], sb := [{ ticket := 1, declared := true }] }
    Claims.startable s 0 0 e [] ∧ s.serialise = false ∧ (Claims.program s 0 0 e).2.2.2 = none ∧
    (s.unit 0).admits 1 = true ∧
    State.baseBad (Claims.params s 0) loadProg.2 = false := by decide +kernel

theorem witness_streamStart_fails :
    let e : SEnt := { gen := 0, task := 0, src := 0, addr := 0, prov := { ticket := 1 } }
    let s := { unit0 [] { squeue := [e], sb := [{ ticket := 1 }] } with clus := [(0, { spoison := [(0, true)] })] }
    Claims.startable s 0 0 e [] ∧ Claims.provFits e.prov ∧ (Claims.program s 0 0 e).2.2.2 = some 0x0A := by decide +kernel

theorem witness_streamIssue :
    let s0 := unit0 [] { streams := [(0, some { aStream with pr := 0x800000000000#64 :: List.replicate 31 0 })] }
    let s := { s0 with
      atc := [{ pasid := s0.streamPasid, base := 0, size := 12, rd := true, wr := true }] }
    s.physUnit 0 = some 0 ∧ s.pickStream 0 0 = some (0, false) ∧
    Claims.issuable s 0 0 { aStream with pr := 0x800000000000#64 :: List.replicate 31 0 } := by decide +kernel

theorem witness_streamIssue_blocks :
    let s := unit0 [] { streams := [(0, some aStream)] }
    s.physUnit 0 = some 0 ∧ s.pickStream 0 0 = some (0, false) ∧ s.faultAddr 0 256 < s.partnerBase ∧
    ((State.elemRanges aStream 0).find? fun r => s.translate r.1 r.2.1 false != 0) = some (0, 256, true) ∧
    s.translate 0 256 false = 256 := by
  have h : populated (0 + 256 - 1) = true := by
    simp only [populated, hbmGiB, stackGiB]
    split <;> decide
  have e : State.elemRanges aStream 0 = [(0, 256, true)] := by decide +kernel
  generalize hs : unit0 [] { streams := [(0, some aStream)] } = s
  have hp : s.pagePresent 0 = false := by rw [← hs]; decide +kernel
  have hh : hostAddr 0 = false := by decide
  have hb : s.faultAddr 0 256 < s.partnerBase := by
    have hr : s.regF (rSnap 0) 8 0 = 0 := by rw [← hs]; decide +kernel
    have : s.faultAddr 0 256 = 0 := by unfold State.faultAddr; rw [hp, hh]; rfl
    rw [this]
    unfold State.partnerBase State.spareBase
    rw [hr]
    split <;> decide
  have ht : s.translate 0 256 false = 256 := by
    unfold State.translate
    rw [hh, h]
    simp only [Bool.false_eq_true, if_false, Bool.not_true, List.any_cons, hp, Bool.not_false, Bool.true_or, if_true]
  refine ⟨by rw [← hs]; decide +kernel, by rw [← hs]; decide +kernel, hb, ?_, ht⟩
  rw [e, List.find?_cons_of_pos]
  show (s.translate 0 256 false != 0) = true
  rw [ht]
  decide

/-- A stream of one LOAD at a host address. -/
def hostLoad : StreamSt := { aStream with pr := 0x800000000000#64 :: List.replicate 31 0 }

theorem witness_streamIssue_asks :
    let s := unit0 [] { streams := [(0, some hostLoad)] }
    s.pickStream 0 0 = some (0, false) ∧
    ((State.elemRanges hostLoad 0).find? fun r => s.translate r.1 r.2.1 false != 0) = some (0x800000000000, 256, true) ∧
    s.translate 0x800000000000 256 false = 1 := by decide +kernel

theorem witness_elementDelivery :
    let q : Req := { num := 0, addr := 0x800000000000, len := 256, write := false, hint := 0, host := true, elems := [(0, true)] }
    let st : StreamSt := { aStream with pr := 0x800000000000#64 :: List.replicate 31 0, next := 1, reqs := [q] }
    let s := { unit0 [] { streams := [(0, some st)] } with slotMap := streamMap }
    ∃ st' ∈ (s.doHost 0 0 0 0 0).settleInvals.stream 0 0 0, st'.dlv = st.dlv ∧
      ∃ p ∈ s.elemPath 0 0 0 5 st' st'.dlv, Claims.deliverable s 0 0 0 0 5 st' p := by decide +kernel

/-! ### Time-outs, translations and page answers -/

/-- The stream of one LOAD from host memory. -/
def hostStream : StreamSt :=
  { aStream with pr := 0x800000000000#64 :: List.replicate 31 0, faddr := 0x800000000000 }

/-- Unit 0 with one stream. -/
def withStream (st : StreamSt) : State := unit0 [] { streams := [(0, some st)] }

theorem witness_faultTimeout :
    let st := { hostStream with blocked := true }
    Claims.streamAt (withStream st) 0 0 0 0 st ∧ (withStream st).regF (rUnit 0 0x78) 15 0 ≠ 0 ∧
    (withStream st).unitHalted 0 = false ∧ Claims.provFits st.prov := by decide +kernel

theorem witness_atsGranted :
    let st := { hostStream with xlat := true }
    Claims.streamAt (withStream st) 0 0 0 0 st ∧ Claims.missing st (0x800000000000, 256, true) ∧
    st.stores st.next = false := by decide +kernel

theorem witness_atsRefused :
    let st := { hostStream with xlat := true }
    Claims.streamAt (withStream st) 0 0 0 0 st ∧ (withStream st).pri = true ∧
    ((withStream st).setStream 0 0 0 (some (Claims.blockedHost st ((withStream st).xlatAsk 0x800000000000 256 false)))).groupsOut < 512 ∧
    Claims.missing st (0x800000000000, 256, true) := by decide +kernel

theorem witness_pageAnswers :
    let st := { hostStream with blocked := true, prg := true }
    (withStream st).physUnit 0 = some 0 ∧ (withStream st).stream 0 0 0 = some st ∧ Claims.allFit (withStream st) ∧
    (0, 0, 0) ∈ (withStream st).allStreams ∧ (withStream st).unitHalted 0 = false := by decide +kernel

/-- A read of the first page of host memory that has not returned. -/
def hostRead : Req :=
  { num := 0, addr := 0x800000000000, len := 256, write := false, hint := 0, host := true, elems := [(0, true)] }

theorem witness_invalidation : Claims.openIn (withStream { hostStream with reqs := [hostRead] }) (0, 4096) = true ∧
    Claims.openIn (withStream { hostStream with reqs := [hostRead] }) (4096, 4096) = false := by decide +kernel

/-! ### Cache slices -/

/-- A line of zeros of channel 0. -/
def aLine (dirty : Bool) : Line :=
  { ch := 0, line := 0, dirty := dirty, data := List.replicate 128 0#8, poison := List.replicate 4 false }

/-- Slice 0 with one line, device memory interleaved over the module. -/
def cached (dirty : Bool) (rs : SMap W64) : State :=
  { base ((0x30, 0xFF#64) :: rs) with slices := [(0, { lines := [aLine dirty], flush := [(0, 0)] })] }

/-- The piece of a request for the first four bytes. -/
def firstPiece (r : SliceReq) : Wait := { ch := 0, line := 0, lo := 0, n := 4, off := 0, req := r }

theorem populated_first : Claims.inHbm 0 4 := by
  constructor <;> (simp only [populated, hbmGiB, stackGiB]; split <;> decide)

theorem witness_sliceHit :
    (∀ h : Fin 3, Claims.onePiece (cached true []) (.read 0 4 h) 0 4 (firstPiece (.read 0 4 h)) ∧
      Claims.lineOf (cached true []) (firstPiece (.read 0 4 h)) = some (aLine true)) ∧
    Claims.cleanLine (aLine true) ∧ Claims.fullLine (aLine true) := by decide +kernel

theorem witness_sliceWrite :
    Claims.onePiece (cached false []) (.write 0 [1, 2, 3, 4] 1) 0 4 (firstPiece (.write 0 [1, 2, 3, 4] 1)) ∧
    Claims.lineOf (cached false []) (firstPiece (.write 0 [1, 2, 3, 4] 1)) = some (aLine false) ∧
    (cached false []).chState 0 ≠ 5 := by decide +kernel

/-- A read request of a stream for the first four bytes. -/
def devRead : Req :=
  { num := 5, addr := 0, len := 4, write := false, hint := 0, host := false, elems := [(0, true)] }

/-- Unit 0 reads through slice 0, which holds the line. -/
def cachedStream : State :=
  { cached false [] with units := [(0, { streams := [(0, some { aStream with reqs := [devRead] })] })] }

theorem witness_sliceStream :
    cachedStream.physUnit 0 = some 0 ∧ cachedStream.stream 0 0 0 = some { aStream with reqs := [devRead] } ∧
    Claims.onePiece cachedStream (.stream 0 0 0 5) 0 4 (firstPiece (.stream 0 0 0 5)) ∧
    Claims.lineOf cachedStream (firstPiece (.stream 0 0 0 5)) = some (aLine false) := by decide +kernel

/-- No line is cached; the channel state of channel 0 is `st`. -/
def uncached (st : Nat) (sl : SliceSt) : State :=
  { base [(0x30, 0xFF#64), (rChan 0 0, BitVec.ofNat 64 (st * 2 ^ 60))] with slices := [(0, sl)] }

theorem witness_sliceMiss : ∀ h : Fin 3,
    Claims.onePiece (uncached 2 {}) (.read 0 4 h) 0 4 (firstPiece (.read 0 4 h)) ∧
    Claims.lineOf (uncached 2 {}) (firstPiece (.read 0 4 h)) = none ∧ (uncached 2 {}).lineHeld 0 0 = false ∧
    (uncached 2 {}).noVictim 0 0 = false := by decide +kernel

theorem witness_sliceHeld : ∀ h : Fin 3,
    Claims.onePiece (uncached 3 {}) (.read 0 4 h) 0 4 (firstPiece (.read 0 4 h)) ∧
    Claims.lineOf (uncached 3 {}) (firstPiece (.read 0 4 h)) = none ∧ (uncached 3 {}).lineHeld 0 0 = true ∧
    ((uncached 3 {}).slice 0).lost = false := by decide +kernel

theorem witness_lineFill :
    let w := firstPiece (.read 0 4 0)
    let s := uncached 2 { fills := [w] }
    ((s.slice 0).fills.filter fun w => w.ch == 0 && w.line == 0) = [w] ∧
    Claims.lineOf s w = none ∧ ((s.slice 0).ways 0 0).length < 16 ∧ (∀ i < 4, s.undetected 0 (32 * i) = false) := by decide +kernel

theorem witness_mscFlush : (cached true []).bit 0x18 8 = true ∧ ((cached true []).slice 0).lost = false ∧
    (cached true []).bit (rMsc 0 8) 2 = false := by decide +kernel

theorem witness_mscFlushDone :
    let s := cached true [(rMsc 0 8, 4#64)]
    s.bit (rMsc 0 8) 2 = true ∧ (∀ l ∈ (s.slice 0).lines, Claims.fullLine l) ∧
    ∀ x ∈ (s.slice 0).flush, x.1 < 2048 ∧ x.2 < 2 ^ 24 ∧ s.retired x.1 = false ∧ s.chHeld x.1 = false := by decide +kernel

theorem witness_patrol : (uncached 2 {}).chState 0 = 2 ∧ 0 < cch ∧ ((uncached 2 {}).getSector 0 0).2 = false ∧
    ((uncached 2 {}).chan 0).ueHour < 1000 ∧ (uncached 2 {}).chLost 0 = false ∧ (uncached 2 {}).home 0 0 = (0, 0) := by
  refine ⟨by decide +kernel, ?_, by decide +kernel, by decide +kernel, by decide +kernel, by decide +kernel⟩
  simp only [cch]
  split <;> decide

/-! ### Channels -/

/-- Channel 0 in a state. -/
def chan0 (st : Nat) (c : ChanSt) (rs : SMap W64) : State :=
  { base (smSet 0#64 rs (rChan 0 0) (BitVec.ofNat 64 (st * 2 ^ 60))) with chans := [(0, c)] }

theorem witness_retrainOpen : (chan0 2 {} []).chState 0 = 2 ∧ (∀ i < 64, (chan0 2 {} []).chState i ≠ 3) ∧
    (chan0 2 {} []).migRuns 0 = false ∧ (chan0 2 {} []).regF 0x10108 63 60 ≤ 1 ∧
    (chan0 2 {} []).chLost 0 = false := by decide +kernel

theorem witness_retrain : (chan0 3 {} []).chState 0 = 3 ∧ ((chan0 3 {} []).chan 0).failing = false ∧
    ((chan0 3 {} []).chan 0).badWindows = 0 ∧ ((chan0 3 { badWindows := 1 } []).chan 0).badWindows = 1 ∧
    ((chan0 3 { failing := true } []).chan 0).failing = true ∧
    (chan0 3 { failing := true } []).regF (State.rMig 0) 63 60 = 0 ∧ Claims.noneHeld (chan0 3 {} []) 0 := by decide +kernel

/-- Channel 0 is retired and moves. -/
def retiring : State := chan0 4 {} [(State.rMig 0, 0x1000000000000000#64)]

theorem witness_migration : retiring.migRuns 0 = true ∧ retiring.regF (State.rMig 0) 57 52 = 0 ∧
    retiring.retired 0 = true ∧ retiring.unitMoved 0 0 = false ∧ retiring.retired (migTarget 0 0).1 = false := by
  have h : ∀ b : Bool, (retiring.regF (State.rMig 0) 63 60 != 0) = true ∧
      retiring.regF (State.rMig 0) 20 0 < 63 * (if b then 1536 * 2 ^ 20 else 1024 * 2 ^ 20) / 64 / 1024 := by decide +kernel
  refine ⟨?_, by decide +kernel, by decide +kernel, by decide +kernel, by decide +kernel⟩
  have h' := h Config.order768
  rw [State.migRuns, Bool.and_eq_true]
  exact ⟨h'.1, decide_eq_true h'.2⟩

/-- TG_CTRL over the first MiB, and START. -/
def tgCtrl : W64 := 0x20000000001#64

/-- Channel 0 in test, with one step in its program registers. -/
def inTest (step0 : W64) : State := chan0 1 {} [(rChan 0 0x40, step0)]

theorem channel_MiB : cch / 2 ^ 20 = 1536 ∨ cch / 2 ^ 20 = 1024 := by
  simp only [cch]
  split
  · exact Or.inl (by decide)
  · exact Or.inr (by decide)

theorem witness_tgStart : Claims.tgStarts (inTest 0x2200000000000000#64) 0 tgCtrl ∧
    (Claims.tgWritten (inTest 0x2200000000000000#64) 0 tgCtrl).tgBad 0 = false ∧
    (Claims.tgWritten (inTest 0x2200000000000000#64) 0 1#64).tgBad 0 = true := by
  refine ⟨by decide +kernel, ?_, ?_⟩ <;> unfold State.tgBad <;>
    rcases channel_MiB with h | h <;> rw [h] <;> decide +kernel

/-- A program that runs: the control word, one step, END. -/
def tgRuns (step0 : W64) : State :=
  { chan0 1 { tg := [0x20000000000#64, step0] } [(rChan 0 0x10, 0x4000000000000000#64)] with pending := [] }

theorem witness_tgEnd : Claims.oneStep (tgRuns 0x2200000000000000#64) 0 0x2200000000000000#64 ∧
    Claims.oneStep (tgRuns 0x4200000000000000#64) 0 0x4200000000000000#64 ∧
    Claims.inTgRange (tgRuns 0x4200000000000000#64) 0 32767 := by decide +kernel

/-! ### The update engine -/

/-- Die 0's engine with a job. -/
def upe (j : Job) (rs : SMap W64) : State := { base rs with targets := [(1, { job := some j })] }

/-- A job of OP `op` at a stage. -/
def upeJobOf (op stage : Nat) (w3 : W64) : Job :=
  { words := [BitVec.ofNat 64 (op * 2 ^ 56 + 5), 0#64, 0#64, w3, 0#64, 0#64, 0#64, 0#64], sqn := 0, cqn := 0, stage := stage }

theorem witness_upeTake :
    let j := upeJobOf 1 0 0x8000000000010007#64
    let k := upeJobOf 1 0 0#64
    Claims.upeJob (upe j []) 0 = some j ∧ j.stage = 0 ∧ (upe j []).pwrState = 0 ∧ dfld j.words 3 63 63 = 1 ∧
    dfld j.words 3 47 40 < 192 ∧ dfld k.words 3 63 63 = 0 ∧ jobBad k.words = true ∧
    (upeCheck (Claims.checking (upe k []) 0 k) k).1.status ≠ 0 := by decide +kernel

theorem witness_upeToken :
    let j := upeJobOf 1 1 0x8000000001000007#64
    let s := upe j [(rClu 0 0x1000, 1#64)]
    Claims.upeJob s 0 = some j ∧ s.physClu (dfld j.words 3 47 40) = some 0 ∧
    Claims.waitVal j ≤ s.regF (Claims.waitCtr j 0) 15 0 ∧ dfld j.words 3 15 0 ≠ 0 ∧
    (upe j []).regF (Claims.waitCtr j 0) 15 0 < Claims.waitVal j ∧
    (upe j []).physClu (dfld j.words 3 47 40) = some 0 := by decide +kernel

theorem witness_upeComplete :
    let j := upeJobOf 1 3 0#64
    Claims.upeJob (upe j []) 0 = some j ∧ j.stage = 3 ∧ ∀ x ∈ (upe j []).scaleQ, x.clu ≠ 1000 := by decide +kernel

/-- A dense SGD tensor of one row of 64 elements. -/
def sgdTensor : UpeTensor :=
  { ent := [0x00F0000000000000#64, 4096#64, 8192#64, 0, 0, 0, 0, 0, 0, 0, 0x4000000000#64, 1#64, 0, 0, 0, 0], grp := [] }

theorem witness_update : Claims.running (upe { upeJobOf 1 2 0#64 with tensors := [sgdTensor] } []) 0 1
      { upeJobOf 1 2 0#64 with tensors := [sgdTensor] } ∧ Claims.sgdRow sgdTensor ∧ 0 < tRowlen sgdTensor.ent := by
  decide +kernel

/-- P = 1 and DAMP 1.0. -/
def rootRecord : List W64 := [0, 0, 0, 0, 0, 0x3F80000000000000#64, 0x100#64]

theorem witness_preconditioner :
    (∀ op ∈ [2, 3, 4, 5], Claims.running (upe (upeJobOf op 2 0#64) []) 0 op (upeJobOf op 2 0#64)) := by decide +kernel

theorem witness_norm : Claims.running (upe { upeJobOf 2 2 0#64 with tensors := [sgdTensor] } []) 0 2
    { upeJobOf 2 2 0#64 with tensors := [sgdTensor] } ∧ tSparse sgdTensor.ent = false := by decide +kernel

/-- ss = 2: q is 1, since 2 is at most 4 and not at most 1. -/
theorem witness_rootScale : pP rootRecord = 1 ∧ positive (Claims.damping rootRecord) = true ∧
    (val32 (Claims.damping rootRecord)).isFin = true ∧ val32 0x40000000#32 = .fin false 8388608 (-22) ∧
    leMag 8388608 (-22) 1 2 = true ∧ leMag 8388608 (-22) 1 0 = false := by decide +kernel

/-- A job of ROOT_T on blocks of 64 rows: M at 4096, T at 32768, the record at 256. -/
def rootJob : Job := { upeJobOf 5 0 0#64 with words := [0x0500000000000005#64, 0, 0, 0, 0, 0, 256#64, 0] }

/-- Its memory. -/
def rootState : State :=
  { upe rootJob [(0x30, 0xFF#64)] with
    pages := [(0, 3)], chanBytes := [(273, 0x10#8), (289, 0x80#8), (304, 1#8), (305, 1#8)] }

theorem populated_small (a : Nat) (h : a < 2 ^ 30) : populated a = true := by
  unfold populated hbmGiB stackGiB
  refine decide_eq_true ?_
  split <;> omega

theorem rangePresent_small (s : State) (a n : Nat) (hp : s.pages = [(0, 3)]) (hn : 0 < n) (h : a + n ≤ 2 ^ 21) :
    s.rangePresent a n = true := by
  unfold State.rangePresent
  rw [populated_small _ (by omega), populated_small _ (by omega), hp]
  simp only [Bool.and_self, Bool.true_and, List.all_eq_true, List.mem_range]
  intro i hi
  have : a / 2 ^ 21 + i = 0 := by omega
  rw [this]
  decide

theorem witness_upeTake_passes : Claims.upeJob rootState 0 = some rootJob ∧ rootJob.stage = 0 ∧ rootState.pwrState = 0 ∧
    dfld rootJob.words 3 63 63 = 0 ∧ (upeCheck (Claims.checking (Claims.fresh rootState) 0 rootJob) rootJob).1.status = 0 ∧
    (upeCheck (Claims.checking (Claims.fresh rootState) 0 rootJob) rootJob).1.s.waited = false := by
  refine ⟨by decide +kernel, by decide +kernel, by decide +kernel, by decide +kernel, ?_⟩
  generalize hs : Claims.checking (Claims.fresh rootState) 0 rootJob = s
  have hw : (s.memRead 256 128 0).1.waited = false := by rw [← hs]; decide +kernel
  have hp : s.pages = [(0, 3)] := by rw [← hs]; decide +kernel
  have hq : (s.memRead 256 128 0).1.pages = [(0, 3)] := by rw [← hs]; decide +kernel
  have hr : (s.memRead 256 128 0).2.2.any id = false := by rw [← hs]; decide +kernel
  have hb : State.words 16 (s.memRead 256 128 0).2.1 =
      [0, 0, 4096#64, 0, 32768#64, 0, 0x101#64, 0, 0, 0, 0, 0, 0, 0, 0, 0] := by rw [← hs]; decide +kernel
  have hread : UpeChk.read { s := s } 256 128 = ({ s := (s.memRead 256 128 0).1 }, (s.memRead 256 128 0).2.1) := by
    unfold UpeChk.read
    rw [rangePresent_small s 256 128 hp (by decide) (by decide)]
    simp only [hr, Bool.or_self, Bool.not_true, Bool.false_eq_true, if_false, show ((128 : Nat) = 0) = False from by simp]
  have hplane : ∀ (c : UpeChk) (a : Nat), c.s.pages = [(0, 3)] → a % 128 = 0 → a + 16384 ≤ 2 ^ 21 →
      c.plane a 16384 = c := by
    intro c a h h1 h2
    unfold UpeChk.plane UpeChk.bad
    rw [rangePresent_small c.s a 16384 h (by decide) h2, h1]
    simp
  have hpass : ((UpeChk.bad { s := (s.memRead 256 128 0).1 } false).range = true) = False := by simp [UpeChk.bad]
  generalize hR : State.words 16 (s.memRead 256 128 0).2.1 = R at hb
  have hJ : jobBad rootJob.words = false := by decide +kernel
  have hO : jOp rootJob.words = 5 := by decide +kernel
  have hD : dfld rootJob.words 6 47 0 = 256 := by decide +kernel
  have hrec : (reservedIn precBits R || dfld R 6 7 0 == 0 || decide (128 < dfld R 6 7 0) ||
      precStray 5 R) = false := by rw [hb]; decide +kernel
  have hn : 4 * pN R * pN R = 16384 := by rw [hb]; decide +kernel
  have h2 : pAddr R 2 = 4096 := by rw [hb]; decide +kernel
  have h4 : pAddr R 4 = 32768 := by rw [hb]; decide +kernel
  have hf : precMats 5 = [2, 4] := rfl
  simp only [upeCheck, hJ, hO, hD, hread, hR, hrec, hn, hpass, hf, Bool.false_eq_true, if_false, List.foldl_cons,
    List.foldl_nil, h2, h4, show ((5 : Nat) ≤ 2) = False from by simp]
  have hq' : (UpeChk.bad { s := (s.memRead 256 128 0).1 } false).s.pages = [(0, 3)] := by simpa [UpeChk.bad] using hq
  rw [hplane _ 4096 hq' (by decide) (by decide), hplane _ 32768 hq' (by decide) (by decide)]
  simp [UpeChk.bad, UpeChk.status, hw]

/-! ### Ports -/

/-- Port 0 in a state. -/
def port0 (st : Nat) (x : PortSt) (rs : SMap W64) : State :=
  { base (smSet 0#64 rs (rLnk 0 8) (BitVec.ofNat 64 (st * 2 ^ 60))) with ports := [(0, x)] }

/-- The INIT that port 0's partner sends: direction 1, K 0. -/
def goodInit (ok : Bool) : InitFlit := { peer := 7#64, gen := 1, dir := 1, k := 0, rxOk := ok }

/-- An INIT from a port of the wrong direction. -/
def badInit : InitFlit := { peer := 7#64, gen := 1, dir := 2, k := 0, rxOk := false }

theorem witness_portStates : (port0 1 {} []).lnkState 0 = 1 ∧ (port0 2 {} []).lnkState 0 = 2 ∧
    (port0 3 { sleep := 2 } []).lnkUp 0 = true ∧ ((port0 3 { sleep := 2 } []).port 0).sleep = 2 ∧
    Claims.portReady (port0 4 {} [(rLnk 0 0, 9#64)]) 0 ∧ (port0 4 {} [(rLnk 0 0, 9#64)]).lnkState 0 = 4 ∧
    (port0 4 {} [(rLnk 0 0, 9#64)]).bit (rLnk 0 0) 3 = true ∧
    (port0 4 {} [(rLnk 0 0, 9#64)]).bit (rLnk 0 0) 0 = true := by decide +kernel

theorem witness_initSend : ((port0 2 {} []).port 0).gotOk = false ∧
    (let s := port0 2 { gotInit := true, gotOk := true } []
     (s.port 0).gotOk = true ∧ (s.port 0).gotInit = true ∧ Claims.nothingHeld s 0) := by decide +kernel

theorem witness_initFlit : Claims.cabledRight (port0 2 {} []) 0 (goodInit true) ∧
    Claims.peerOf (port0 2 {} []) 0 = none ∧ ¬Claims.cabledRight (port0 2 {} []) 0 badInit ∧
    ((port0 2 { sentOk := true } []).port 0).sentOk = true ∧
    Claims.peerOf { port0 2 {} [] with fab := { peers := [(0, some (8#64, 1))] } } 0 = some (8#64, 1) := by decide +kernel

theorem witness_initUp : (port0 3 {} [(rLnk 0 0x10, 7#64)]).lnkUp 0 = true ∧
    ¬Claims.sameLink (port0 3 {} []) 0 badInit ∧
    (let s : State := { base [(rLnk 0 8, 0x3001000000000000#64), (rLnk 0 0x10, 7#64)] with
       ports := [(0, {})]
       fab := { peers := [(0, some (7#64, 9))] } }
     Claims.sameLink s 0 (goodInit true) ∧ Claims.peerOf s 0 = some (7#64, 9)) := by decide +kernel

theorem witness_wake : (port0 6 {} [(0x10108, 0x2000000000000000#64)]).pwrState = 2 ∧
    (port0 6 {} [(0x10108, 0x2000000000000000#64)]).lnkState 0 = 6 ∧
    (port0 6 {} [(rLnk 0 0, 0x30#64)]).bit (rLnk 0 0) 4 = true ∧
    (port0 6 {} [(rLnk 0 0, 0x30#64)]).bit (rLnk 0 0) 5 = true := by decide +kernel

/-- A packet without payload. -/
def aPacket : Packet := { hdr := List.replicate 64 0#8, payload := [] }

theorem witness_autoWake : ({ port0 6 {} [] with fab := { held := [(0, [(aPacket, 24)])] } } : State).waitsFor 0 = true ∧
    ({ port0 6 {} [] with fab := { held := [(0, [(aPacket, 24)])] } } : State).routerRuns = true := by
  decide +kernel

/-! ### Flits -/

/-- An UP port with one packet unacknowledged. -/
def sending (run : Nat) : State := port0 3 { sent := [{ pkt := aPacket, lsn := 0 }], lsn := 1, run := run } []

/-- A LINK flit. -/
def linkOf (ack nak rep : Option (BitVec 12)) : LinkFlit := { ack := ack, nak := nak, replay := rep, credits := [1, 0, 0, 0] }

theorem witness_upPort : Claims.up (port0 3 {} []) 0 ∧ ((port0 3 {} []).port 0).disc = false ∧
    ((port0 3 {} []).port 0).unack < 63 ∧ leVal ((aPacket.hdr.drop 15).take 1) = 0 ∧ Claims.quiet (port0 3 {} []) 0 ∧
    ((port0 3 { disc := true, unack := 1 } []).port 0).disc = true ∧
    0 < ((port0 3 { disc := true, unack := 1 } []).port 0).unack ∧ ctrlOk (List.replicate 64 0#8) = false ∧
    (linkOf none none none).credits.length = 4 := by decide +kernel

theorem witness_linkFlit : Claims.ackCount (sending 0) 0 0 ≤ State.unacked ((sending 0).port 0) ∧
    Claims.quiet (sending 0) 0 ∧ Claims.backTo (sending 0) 0 0 ≤ 1024 ∧ 1024 < Claims.backTo (sending 0) 0 5 := by
  decide +kernel

theorem witness_linkReplay : Claims.up (sending 0) 0 ∧ ((sending 0).port 0).sent ≠ [] ∧
    Claims.replayNo ((sending 0).port 0) ≤ 8 ∧ 8 < Claims.replayNo ((sending 8).port 0) := by decide +kernel

/-- Port 0 went DOWN with a packet; its sibling port 1 is in a state. -/
def sibling1 (st : Nat) : State :=
  { port0 4 { lost := [(aPacket, 0)] } [(rLnk 1 8, BitVec.ofNat 64 (st * 2 ^ 60))] with
    ports := [(0, { lost := [(aPacket, 0)] }), (1, { cred := [8, 8, 8, 8] })] }

theorem witness_reinject : ((sibling1 0).port 0).lost ≠ [] ∧ (sibling1 0).sibling 0 = none ∧
    (sibling1 3).sibling 0 = some 1 := by decide +kernel

/-! ### Packets -/

/-- A sealed packet of module 0, to an EID, with an opcode and arguments. -/
def packetTo (dst op a0 : Nat) (pay : List Byte) : Packet :=
  let q := mkPacket dst op 0 0 0 false a0 0 0 pay
  { q with hdr := rehash q.hdr }

/-- Module 1 with a route to itself, to EID 2 in direction 1, and EID 0 known. -/
def inFabric (ports : SMap PortSt) (rs : SMap W64) (f : FabSt) : State :=
  { base (smSet 0#64 rs (rFab 0) 0x1000000000001#64) with
    ports := ports
    fab := { f with rt0 := [(0, 0x8000000000000007#64), (1, 0x8000000000000037#64), (2, 0x800000000000000F#64)] } }

/-- A packet as it arrives for a module, in VC 1 with PHASE 1. -/
def arriving (dst : Nat) : Packet := setRoute (packetTo dst 5 0 []) 1 1 0

/-- Port 0 holds one packet. -/
def arrived (q : Packet) (ready : Bool) (f : FabSt) (rs : SMap W64) (more : SMap PortSt) : State :=
  inFabric ((0, { inp := [(1, [{ pkt := q, ready := ready }])] }) :: more) rs f

theorem witness_routeDuplicate :
    let s := arrived (arriving 1) false { rxE := [(1, 1)] } [] []
    Claims.unjudged s 0 1 [] [] (arriving 1) ∧ Claims.seenBefore s 0 (arriving 1) := by decide +kernel

theorem witness_routeForward :
    let s := arrived (arriving 2) false {} [] []
    Claims.unjudged s 0 1 [] [] (arriving 2) ∧ Claims.newPacket s 0 (arriving 2) ∧
    s.routerCheck (arriving 2) = none ∧ s.route (arriving 2) (some 0) = .go 1 (arriving 2) := by decide +kernel

theorem witness_routeHere :
    let s := arrived (arriving 1) false {} [] []
    s.routerRuns = true ∧ Claims.newPacket s 0 (arriving 1) ∧ s.routerCheck (arriving 1) = none ∧
    s.route (arriving 1) (some 0) = .here (arriving 1) ∧ Claims.ofSequence s (arriving 1) := by decide +kernel

theorem witness_routeDrop :
    let s := arrived (arriving 3) false {} [] []
    let b := arrived aPacket false {} [] []
    Claims.newPacket s 0 (arriving 3) ∧ s.routerCheck (arriving 3) = none ∧ s.route (arriving 3) (some 0) = .drop ∧
    b.routerCheck aPacket = some 0 := by decide +kernel

/-- Port 2 of direction 1 is UP with credits. -/
def outUp : State := arrived (arriving 2) true {} [(rLnk 2 8, 0x3000000000000000#64)] [(2, { cred := [8, 8, 8, 8] })]

theorem witness_forward : outUp.inp 0 1 = [{ pkt := arriving 2, ready := true }] ∧
    outUp.routerRuns = true ∧ outUp.route (arriving 2) (some 0) = .go 1 (arriving 2) ∧
    outUp.outFor 1 (arriving 2) (Claims.need 0 1 1 (arriving 2)) = some 2 ∧ outUp.turn 2 1 = true ∧
    (arrived (arriving 2) true {} [] []).outFor 1 (arriving 2) (Claims.need 0 1 1 (arriving 2)) = none := by decide +kernel

/-- The module wants to send. -/
def injecting (dst : Nat) : State :=
  inFabric [(2, { cred := [8, 8, 8, 8] })] [(rLnk 2 8, 0x3000000000000000#64), (rFab 8, 1#64)] { inject := [(packetTo dst 5 0 [], 0)] }

theorem witness_inject :
    let f := ((injecting 2).injectForm (packetTo 2 5 0 []) 0).1
    (injecting 2).waiting = [(packetTo 2 5 0 [], 0, none)] ∧ (injecting 2).mayInject (packetTo 2 5 0 []) = true ∧
    (injecting 2).routerCheck f = none ∧ (injecting 2).route f none = .go 1 f ∧
    (injecting 2).routerRuns = true ∧ (injecting 2).outFor 1 f 2 = some 2 ∧ (injecting 2).turn 2 (pVc f) = true := by decide +kernel

theorem witness_injectHere :
    let f := ((injecting 1).injectForm (packetTo 1 5 0 []) 0).1
    (injecting 1).waiting = [(packetTo 1 5 0 [], 0, none)] ∧ (injecting 1).mayInject (packetTo 1 5 0 []) = true ∧
    (injecting 1).routerCheck f = none ∧ (injecting 1).route f none = .here f ∧ Claims.ofSequence (injecting 1) f := by decide +kernel

/-- A packet has been handed to its consumer. -/
def delivered (q : Packet) (rs : SMap W64) : State := inFabric [] rs { local_ := [(q, 0)] }

theorem witness_put :
    let q := packetTo 1 1 0 (List.replicate 32 1#8)
    let e := packetTo 1 1 0 []
    Claims.firstOf (delivered q []) (fun q => pOp q == 1 && pDie q != 9) (q, 0) ∧ Claims.intact q ∧
    Claims.firstOf (delivered e []) (fun q => pOp q == 1 && pDie q != 9) (e, 0) ∧ Claims.intact e := by decide +kernel

theorem witness_put_refused : (delivered (packetTo 1 1 0 (List.replicate 32 1#8)) []).rangePresent 0 32 = false := by
  unfold State.rangePresent
  rw [populated_small _ (by decide), populated_small _ (by decide)]
  decide +kernel

/-- An enabled EQ of 16 entries. -/
def anEq (tail : Nat) : SMap W64 :=
  [(rQ 0 0, 0xD020000000000000#64), (rQ 0 3, BitVec.ofNat 64 (tail * 2 ^ 16))]

theorem witness_msg :
    let q := packetTo 1 3 0 (List.replicate 32 1#8)
    Claims.firstOf (delivered q []) (fun q => pOp q == 3) (q, 0) ∧ Claims.intact q ∧ Claims.msgQueue q = 0 ∧
    (delivered q []).qIs 0 3 = false ∧ (delivered q (anEq 15)).qIs 0 3 = true ∧
    (delivered q (anEq 15)).qRoom 0 1 = false ∧ (delivered q (anEq 0)).qRoom 0 1 = true ∧
    (delivered q (anEq 0)).qSize 0 ≤ 65536 := by decide +kernel

theorem witness_token :
    let q := packetTo 1 4 0x503 []
    Claims.firstOf (delivered q []) (fun q => pOp q == 4) (q, 0) ∧
    (delivered q []).physClu (bitsOf (pArg0 q) 23 16) = some 0 := by decide +kernel

/-! ### The Vigil -/

/-- A module whose parent is `par`, with `n` children. -/
def vigilTree (par n st : Nat) (f : FabSt) : State :=
  inFabric [] (smSet 0#64 (smSet 0#64 (smSet 0#64 [] (rFab 0x18) (BitVec.ofNat 64 (par * 2 ^ 48))) (rFab 0x20)
    (BitVec.ofNat 64 (n * 2 ^ 48))) State.rVigil (BitVec.ofNat 64 (st * 2 ^ 60))) f

/-- A VIGIL packet of a stage that has been delivered. -/
def vigilIn (stage : Nat) : List (Packet × Nat) := [(Claims.vigilTo 1 stage 0 1 1 [], 0)]

theorem witness_vigilStart : Claims.hubReady (vigilTree 1 2 0 {}) ∧ (vigilTree 1 2 0 {}).vigilState = 0 ∧
    (vigilTree 1 2 0 {}).parent = (vigilTree 1 2 0 {}).selfEid ∧ 0 < (vigilTree 1 2 0 {}).nChild ∧
    Claims.noneDiscarded (vigilTree 1 2 0 {}) ∧ (vigilTree 5 2 0 {}).parent ≠ (vigilTree 5 2 0 {}).selfEid := by
  decide +kernel

theorem witness_vigilDown : ∀ k ∈ [1, 2, 3, 4, 5],
    Claims.vigilHere (vigilTree 5 0 0 { local_ := vigilIn k }) k (Claims.vigilTo 1 k 0 1 1 [], 0) ∧
    (vigilTree 5 0 0 { local_ := vigilIn k }).nChild = 0 ∧ 0 < (vigilTree 5 2 0 { local_ := vigilIn k }).nChild ∧
    (vigilTree 5 0 0 { local_ := vigilIn k }).fab.vigil.epoch0 < 4 := by decide +kernel

/-- A reply of stage 1 from EID 0, and the children of the module being 0 and, where there are two, another. -/
def replying (n : Nat) : State :=
  let s := vigilTree 1 n 1 { local_ := [(Claims.vigilTo 1 0x81 0 1 1 [], 0)], vigil := { root := true, stage := 1 } }
  s.setReg (rFab 0x18) 0x0001000000050005#64

theorem witness_vigilReply : ∀ n ∈ [1, 2],
    let x := (Claims.vigilTo 1 0x81 0 1 1 [], 0)
    Claims.replyHere (replying n) x ∧ (replying n).answersNow x.1 = true ∧ Claims.intact x.1 ∧
    (replying 1).nChild = 1 ∧ (replying 1).child 0 = pSrc x.1 ∧
    (∃ i < (replying 2).nChild, (replying 2).child i ≠ pSrc x.1 ∧ (replying 2).child i ∉ (replying 2).fab.vigil.answered) := by
  decide +kernel

theorem witness_vigilReply_dropped :
    let x := (Claims.vigilTo 1 0x82 0 1 1 [], 0)
    let s := { replying 1 with fab := { (replying 1).fab with local_ := [x] } }
    Claims.replyHere s x ∧ s.answersNow x.1 = false := by decide +kernel

theorem witness_vigilTimeout :
    let s := vigilTree 1 2 1 { vigil := { root := true, stage := 1 } }
    s.fab.vigil.root = true ∧ s.fab.vigil.stage ≠ 0 ∧ s.fab.vigil.commitSent = false ∧
    (vigilTree 5 2 1 {}).vigilState ≠ 0 := by decide +kernel

/-! ### Queues: contexts of the manual's worked example -/

/-- The CQ 1,001 and the SQ 1,000 of the example, enabled, their tails and heads, and more. -/
def exampleQueues (sq3 cq3 : W64) (rs : SMap W64) : State :=
  base ([(rQ 1000 0, 0x5040000000000000#64), (rQ 1000 1, 0x1234560000#64), (rQ 1000 2, 0x1030000000003E9#64), (rQ 1000 3, sq3),
    (rQ 1001 0, 0x9030000000000000#64), (rQ 1001 1, 0x1234570000#64), (rQ 1001 2, 0x80C#64), (rQ 1001 3, cq3)] ++ rs)

theorem witness_bar4 :
    (base []).hostUp = true ∧ (base []).bar4Off = false ∧ (base []).bar4Addr 0 8 = some 0 ∧ ((base []).memRead 0 0 0).2.2.any id = false ∧
    (base [(0x20000, 0xFFFFF000001C#64)]).bar4Addr 0 8 = some 0xFFFFF0000000 := by decide +kernel

theorem witness_bar4_mapped : State.bar4Mapped 0 8 = true ∧ State.bar4Mapped 0xFFFFF0000000 8 = false := by
  unfold State.bar4Mapped State.spareBase
  cases Config.order768 <;> decide

theorem witness_bar4_free : (base [(0x30, 0xFF#64)]).hostQ = [] ∧
    (base [(0x30, 0xFF#64)]).hostWaits (.read 0 8) = false ∧
    (base [(0x30, 0xFF#64)]).hostWaits (.write 0 (List.replicate 8 0#8)) = false := by decide +kernel

theorem witness_bar4_waits :
    let s := base [(0x30, 0xFF#64), (rChan 0 0, 0x3000000000000000#64)]
    s.hostWaits (.read 0 8) = true ∧ s.hostWaits (.write 0 (List.replicate 8 0#8)) = true ∧
    ({ s with hostQ := [.read 0 8] } : State).hostQ ≠ [] := by decide +kernel

theorem witness_bar4_poison :
    let s := { base [(0x30, 0xFF#64)] with lostDies := [(0, true)] }
    s.bar4Addr 0 8 = some 0 ∧ (s.memRead 0 8 0).2.2.any id = true := by decide +kernel

theorem witness_doorbell_sq :
    let s := exampleQueues 0#64 0x300000000#64 []
    Claims.rings s 0x3E80#22 4 1000 ∧ s.badDoorbell 1000 (Claims.ringVal 4 1#64) = false ∧ s.qKind 1000 = 1 ∧
    s.badDoorbell 1000 (Claims.ringVal 4 256#64) = true ∧ s.qEn 0 = false := by decide +kernel

theorem witness_doorbell_cq :
    let s := exampleQueues 1#64 0x300010000#64 []
    Claims.rings s 0x3E90#22 4 1001 ∧ s.badDoorbell 1001 (Claims.ringVal 4 0x00001#64) = false ∧
    s.badDoorbell 1001 (Claims.ringVal 4 0x10001#64) = false ∧ s.qKind 1001 ≠ 1 ∧ Claims.noEvents s 1001 := by
  decide +kernel

theorem witness_queueEnable :
    let s := base [(rQ 1001 1, 0x1234570000#64), (rQ 1001 2, 0x80C#64)]
    s.bit 0x18 1 = true ∧ s.qEn 1001 = false ∧ fld 0x9030000000000000#64 60 60 = 1 := by decide +kernel

theorem witness_queueEnable_check :
    (base [(rQ 1001 1, 0x1234570000#64), (rQ 1001 2, 0x80C#64)]).qCheck 1001 0x9030000000000000#64 = 0 ∧
    (base []).qCheck 1001 0x1000000000000000#64 = 1 := by
  decide +kernel

theorem witness_queueDisable :
    let s := exampleQueues 0#64 0x300000000#64 []
    s.qEn 1001 = true ∧ s.qLocked 1001 0x8030000000000000#64 = false ∧ s.qLocked 1001 0x8040000000000000#64 = true ∧
    s.qKind 1001 = 2 ∧ s.cqInUse 1001 = true ∧ s.qLocked 1000 0x4040000000000000#64 = false ∧ s.qKind 1000 = 1 := by decide +kernel

theorem witness_sqFetch :
    let s := exampleQueues 0x10000#64 0x300000000#64 []
    s.qIs 1000 1 = true ∧ s.qErr 1000 = 0 ∧ s.qDev 1000 = false ∧ Claims.toFetch s 1000 = 1 := by decide +kernel

/-- Only SQ 1,000 has an entry, and it has been read. -/
def takeState : State :=
  { exampleQueues 0x10000#64 0x300000000#64 [] with queues := [(1000, { buf := [[0x10000007A01#64]] })] }

theorem witness_sqEntryTake :
    Claims.eligible takeState 4 1000 ∧ (takeState.tgt 4).job = none ∧ (takeState.tgt 4).last = 0 ∧
    takeState.keyOk 4 = true ∧ takeState.fenced = false ∧ takeState.hub1Lost = false ∧ Registers.wf takeState.regs = true ∧
    takeState.enabled = [1000, 1001] ∧ ¬ Claims.eligible takeState 4 1001 ∧
    (takeState.queueSt 1000).buf = [[0x10000007A01#64]] := by decide +kernel

/-- The worked example's job has ended. -/
def postState (cq3 : W64) : State :=
  { exampleQueues 1#64 cq3 [] with
    targets := [(4, { job := some { words := [0x10000007A01#64], sqn := 1000, cqn := 1001, stage := 4 }, last := 1001 })] }

theorem witness_completionPost :
    let s := postState 0x300000000#64
    (s.tgt 4).job = some { words := [0x10000007A01#64], sqn := 1000, cqn := 1001, stage := 4 } ∧
    s.qIs 1001 2 = true ∧ Claims.hostRing s 1001 ∧ (postState 0x3003F0000#64).qRoom 1001 1 = false := by decide +kernel

/-- The manual's completion entry of the example. -/
theorem test_completion_entry :
    Claims.cqEntry (postState 0x300000000#64) { words := [0x10000007A01#64], sqn := 1000, cqn := 1001, stage := 4 } =
      [0x800000FA00000001#64, 0x7A01#64, 0#64, 0#64, 0#64, 0#64, 0#64, 0#64] := by decide +kernel

theorem witness_msixSend :
    let s := { exampleQueues 1#64 0x300010000#64 [(0x300C8, 0#64)] with queues := [(1001, { fresh := 1 })] }
    let m := { exampleQueues 1#64 0x300010000#64 [] with queues := [(1001, { fresh := 1 })] }
    s.msixEn = true ∧ s.msixMask = false ∧ Claims.msgDue s 1001 false ∧ s.bit (0x30008 + 16 * s.regF (rQ 1001 2) 10 0) 32 = false ∧ Claims.msgDue m 1001 false ∧
    m.bit (0x30008 + 16 * m.regF (rQ 1001 2) 10 0) 32 = true := by decide +kernel

/-- An event of type 6 on its way, routed to queue 0 or not. -/
def anEvent (route : W64) (tail : Nat) (held : List (Nat × Evt)) : State :=
  { base ((0x20830, route) :: anEq tail) with evtFlight := [{ type := 6 }], evtBuf := held }

theorem witness_eventDelivery :
    ¬ Claims.evtRouted (anEvent 0#64 0 []) { type := 6 } ∧
    Claims.evtRouted (anEvent 0x8000000000000000#64 0 []) { type := 6 } ∧
    Claims.noEvents (anEvent 0x8000000000000000#64 0 []) 0 ∧ Claims.hostRing (anEvent 0x8000000000000000#64 0 []) 0 ∧
    (anEvent 0x8000000000000000#64 15 []).qRoom 0 1 = false ∧
    (anEvent 0x8000000000000000#64 15 (List.replicate 256 (0, { type := 6 }))).evtBuf.length = 256 := by decide +kernel

theorem witness_hostInterfaceReset : State.reset.units = [] := rfl

/-! ### Transfers -/

/-- A COPY_OUT of `n` bytes to EID 2. -/
def copyJob (n : Nat) (w4 : W64) : List W64 :=
  [0x0100000000000007#64, 0x1000#64, 0x0002000000002000#64, BitVec.ofNat 64 (n * 2 ^ 32), w4, 0#64, 0#64, 5#64]

/-- Hub 0's transfer engine has a job. -/
def transferring (j : Job) (f : FabSt) : State := { base [(0x30, 0xFF#64)] with targets := [(9, { job := some j })], fab := f }

def copyTaken (w4 : W64) : Job := { words := copyJob 2048 w4, sqn := 3, cqn := 4 }

theorem witness_copyOut :
    Claims.copyWaits (transferring (copyTaken 0#64) {}) 0 (copyTaken 0#64) ∧
    Claims.copyLeaves (transferring (copyTaken 0#64) {}) (copyTaken 0#64) (transferring (copyTaken 0#64) {}) ∧
    (transferring (copyTaken 0x8000000001000005#64) {}).takeToken 0 0 1 = none ∧
    Claims.copyWaits (transferring (copyTaken 0x8000000001000005#64) {}) 0 (copyTaken 0x8000000001000005#64) ∧
    dfld (copyTaken 0x8000000001000005#64).words 4 15 0 ≠ 0 := by decide +kernel

theorem witness_copyOk : copyOk (copyTaken 0#64).words = true := by
  unfold copyOk State.bar4Mapped State.spareBase
  cases Config.order768 <;> decide +kernel

theorem witness_copyOut_bad : copyOk ({ words := copyJob 0 0#64, sqn := 3, cqn := 4 } : Job).words = false := by decide +kernel

/-- A running transfer of `n` bytes, and a PUT_ACK for it. -/
def copyRun (n sent : Nat) (out : List Nat) : Job :=
  { words := copyJob n 0#64, sqn := 3, cqn := 4, stage := 2, out := out, counts := [sent, 0] }
def putAckOf (i : Nat) (refused : Bool) : Packet :=
  setH (mkPacket 1 2 8 noQueue 0 true 0 (i + (if refused then 2 ^ 32 else 0)) 0 []) 2 2 2
def acking (j : Job) (i : Nat) (r : Bool) : State := transferring j { local_ := [(putAckOf i r, 0)] }

theorem witness_putAck :
    Claims.ackFor (acking (copyRun 4096 2 [0, 1]) 1 false) 0 (copyRun 4096 2 [0, 1]) (putAckOf 1 false, 0) 1 ∧
    Claims.ackFor (acking (copyRun 2048 1 [0]) 0 true) 0 (copyRun 2048 1 [0]) (putAckOf 0 true, 0) 0 ∧
    Claims.ackFor (acking (copyRun 2048 1 [0]) 0 false) 0 (copyRun 2048 1 [0]) (putAckOf 0 false, 0) 0 ∧
    Claims.ackFor (acking (copyRun 200000 64 (List.range 64)) 3 false) 0 (copyRun 200000 64 (List.range 64)) (putAckOf 3 false, 0) 3 ∧
    bitAt (pArg1 (putAckOf 0 true)) 32 = true ∧ bitAt (pArg1 (putAckOf 0 false)) 32 = false ∧
    (acking (copyRun 2048 1 [0]) 0 false).hjob = none := by decide +kernel

/-! ### Collectives -/

/-- A collective of `n` ranks at rank `me`, of FP32 with chunks of 512. -/
def collWords (op n me : Nat) (w7 : W64) : List W64 :=
  [BitVec.ofNat 64 (op * 2 ^ 56 + 9 * 2 ^ 32 + 7), BitVec.ofNat 64 (n * 2 ^ 48), BitVec.ofNat 64 (me * 2 ^ 48 + 0x10000),
   0x20000#64, BitVec.ofNat 64 ((if op = 4 then 2048 else 512) * 2 ^ 32 + 5), 0#64, 0#64, w7]

def collTaken (op n me stage : Nat) (w7 : W64) : Job := { words := collWords op n me w7, sqn := 3, cqn := 4, stage := stage }

/-- The line of the rank table. -/
def rankLine : Line :=
  { ch := 0, line := 0, data := [0#8, 0#8, 1#8, 0#8, 2#8] ++ List.replicate 123 0#8, poison := List.replicate 4 false }

/-- Module 1 of the ranks 0 to 2, whose rank table is at address 0: rank i has EID i. -/
def collState (j : Job) (c : CleSt) (loc : List (Packet × Nat)) : State :=
  { inFabric [] [(0x30, 0xFF#64)] { local_ := loc } with
    targets := [(11, { job := some j })], cles := [(0, c)]
    slices := [(0, { lines := [rankLine] })] }

theorem witness_collRange : ∀ op ∈ [1, 2, 3, 4], collRange (collWords op 3 1 0#64) = true ∧ collFormats (collWords op 3 1 0#64) = true := by
  unfold collRange State.bar4Mapped State.spareBase
  cases Config.order768 <;> decide +kernel

theorem witness_collBad : collRange (collWords 1 0 0 0#64) = false ∧ collFormats (collWords 2 1 0 0#64) = true := by
  unfold collRange
  decide +kernel

theorem witness_collRanks :
    let s := collState (collTaken 1 3 1 0 0#64) {} []
    (Claims.rankAt s (collWords 1 3 1 0#64) 1).2 = s.selfEid ∧ (Claims.rankAt s (collWords 1 3 1 0#64) 2).2 = 2 ∧
    Claims.neighbour s (some 0) 0 ∧ Claims.neighbour s (some 2) 2 ∧ ¬ Claims.neighbour s (some 3) 3 ∧
    Claims.collJob s 0 (collTaken 1 3 1 0 0#64) ∧
    s.takeToken 0 0 1 = none := by decide +kernel

theorem witness_collStart_ranks : ∀ op ∈ [1, 3, 4, 2],
    let s := collState (collTaken op 3 1 0 0#64) {} []
    let c := Claims.checkingColl s 0 (collWords op 3 1 0#64)
    (Claims.rankAt c (collWords op 3 1 0#64) 1).2 = 1 ∧
    (Claims.rankAt (Claims.rankAt c (collWords op 3 1 0#64) 1).1 (collWords op 3 1 0#64) 0).2 = 0 ∧
    (Claims.rankAt (Claims.rankAt (Claims.rankAt c (collWords op 3 1 0#64) 1).1 (collWords op 3 1 0#64) 0).1
      (collWords op 3 1 0#64) 2).2 = 2 ∧
    (Claims.rankAt (Claims.rankAt (Claims.rankAt c (collWords op 3 1 0#64) 1).1 (collWords op 3 1 0#64) 0).1
      (collWords op 3 1 0#64) 2).1.selfEid = 1 := by decide +kernel

/-- A COLL or COLL_CREDIT packet of kind `k` from EID `src`. -/
def collPacket (op k n src : Nat) : Packet := setH (mkPacket 1 op 8 noQueue 0 false (State.collArg 0 k n (collWords 3 3 1 0#64)) 0 0 []) 2 2 src
def collRunning (x : Packet) : State :=
  collState (collTaken 3 3 1 2 0#64) { eids := [0, 2], stepOk := true } [(x, 0)]

theorem witness_coll :
    Claims.collArrives (collRunning (collPacket 5 0 0 0)) 0 (collWords 3 3 1 0#64) (collPacket 5 0 0 0, 0) 0 0 ∧
    Claims.collArrives (collRunning (collPacket 5 1 2 2)) 0 (collWords 3 3 1 0#64) (collPacket 5 1 2 2, 0) 1 2 ∧
    State.nth ((collRunning (collPacket 5 0 0 0)).cle 0).sentN 0 = 0 ∧
    Claims.collArrives (collRunning (collPacket 5 0 2 0)) 0 (collWords 3 3 1 0#64) (collPacket 5 0 2 0, 0) 0 2 ∧
    State.roomN ((collRunning (collPacket 5 0 0 0)).cle 0) 0 = true ∧
    State.roomP ((collRunning (collPacket 5 1 2 2)).cle 0) 1 = true ∧
    (Claims.taken (collRunning (collPacket 5 0 2 9)) (collPacket 5 0 2 9, 0)).collMatches 0 (collWords 3 3 1 0#64) (collPacket 5 0 2 9) = false := by
  decide +kernel

theorem witness_collCredit :
    let x := (collPacket 6 0 3 2, 0)
    Claims.firstOf (collRunning x.1) (fun q => pOp q == 6) x ∧ State.collFields x.1 = (0, 0, 3, 9) ∧
    (Claims.taken (collRunning x.1) x).kJob 0 = some (collWords 3 3 1 0#64) ∧
    (Claims.taken (collRunning x.1) x).collDone 0 (collWords 3 3 1 0#64) = false ∧ kTmo (collWords 3 3 1 0#64) ≠ 0 := by decide +kernel

/-! ### Firmware -/

/-- Firmware has a job. -/
def fwState (j : Job) (rs : SMap W64) : State := { base rs with targets := [(0, { job := some j })] }
def fwJob (ws : List W64) : Job := { words := ws, sqn := 3, cqn := 4 }

theorem witness_load :
    let j := fwJob [0x0100000000000007#64, 0x400#64]
    Claims.fwTook (fwState j []) j 1 ∧ (fwState j []).pwrState = 0 ∧ (fwState j []).jubilee = false ∧
    (fwState j []).colBusy = false ∧ Claims.onePlace (fwState j []) := by decide +kernel

/-- LOAD of an image at address 0, whose header, zeros, is in the cache. -/
def loadState : State :=
  { fwState (fwJob [0x0100000000000007#64, 0#64]) [(0x30, 0xFF#64)] with
    slices := [(0, { lines := [{ ch := 0, line := 0, data := List.replicate 128 0#8, poison := List.replicate 4 false }] })] }

theorem witness_load_reads :
    (Claims.loadVerdict (Claims.fresh loadState) [0x0100000000000007#64, 0#64]).2.waited = false := by
  unfold Claims.loadVerdict State.partnerBase State.spareBase
  cases Config.order768 <;> decide +kernel

theorem witness_load_waits :
    let j := fwJob [0x0100000000000007#64, 0x400#64]
    let s := fwState j [(rUnit 5 8, 2#64)]
    Claims.fwTook s j 1 ∧ s.pwrState = 0 ∧ s.colBusy = true := by decide +kernel

theorem witness_slotMapApply :
    let s := { base [] with staged := some ({ frameLen := 4 }, { bank := 0, order := [] }) }
    s.staged = some ({ frameLen := 4 }, { bank := 0, order := [] }) ∧ s.canApply = true ∧ Claims.onePlace s := by
  decide +kernel

theorem witness_start :
    let j := fwJob [0x0200000000000007#64]
    let s := { fwState j [] with program := some { bank := 0, order := [] } }
    Claims.fwTook s j 2 ∧ s.pwrState = 0 ∧ s.fenced = false ∧ s.anyFetching = false ∧ s.program ≠ none ∧
    ∀ ch, ch < 512 → s.chState ch ≠ 1 := by decide +kernel

theorem witness_start_fenced :
    let j := fwJob [0x0200000000000007#64]
    let s := { fwState j [(rSnap 0x48, 0x100000000#64)] with program := some { bank := 0, order := [] } }
    Claims.fwTook s j 2 ∧ s.pwrState = 0 ∧ s.fenced = true := by decide +kernel

theorem witness_start_busy : (fwState (fwJob []) [(rClu 0 0, 0x1000000000000000#64)]).anyFetching = true := by decide +kernel

theorem witness_programStart :
    let j : Job := { fwJob [0x0200000000000007#64] with stage := 1 }
    let s := { fwState j [] with clus := (List.range 6).map fun k => (k, { store := storeOf [0x8000] }) }
    (s.tgt 0).job = some j ∧ dfld j.words 0 63 56 = 2 ∧ s.staged = none ∧ Claims.onePlace s ∧
    ∀ x ∈ s.present, s.bit (rClu x.2 0x10) 0 = false ∧ 0 < fld (s.ccWord x.2 0) 29 15 := by decide +kernel

theorem witness_grant : ∀ op ∈ [3, 4],
    let j := fwJob [BitVec.ofNat 64 (op * 2 ^ 56), 0x400000#64, 2#64]
    Claims.fwTook (fwState j []) j op ∧ (fwState j []).pageBusy 2 2 = false := by decide +kernel

theorem witness_grantOk : (fwState (fwJob []) []).grantBad [0#64, 0x400000#64, 2#64] = false ∧
    (fwState (fwJob []) []).grantBad [0#64, 0x400001#64, 2#64] = true := by
  unfold State.grantBad State.partnerBase State.spareBase
  cases Config.order768 <;> decide +kernel

/-- A stream of unit 0 that is blocked on device page 2 under FAULT_ID 5. -/
def pageFault (j : Job) : State :=
  { fwState j [] with
    faults := [(5, some 2)]
    units := [(0, { streams := [(0, some { aStream with blocked := true, faultId := some 5 })] })] }

theorem witness_pageRefuse :
    let j := fwJob [0x0500000000000007#64, 5#64]
    let k := fwJob [0x0500000000000007#64, 6#64]
    Claims.fwTook (pageFault j) j 5 ∧ smGet none (pageFault j).faults 5 = some 2 ∧ Claims.fwTook (pageFault k) k 5 ∧
    smGet none (pageFault k).faults 6 = none ∧ (pageFault j).unitHalted 0 = false ∧
    Claims.blockedOn (pageFault j) 0 0 0 { aStream with blocked := true, faultId := some 5 } 5 ∧
    Claims.allFit (pageFault j) := by decide +kernel

theorem witness_clusterReset :
    let j := fwJob [0x0600000000000007#64, 0#64]
    let k := fwJob [0x0600000000000007#64, 200#64]
    Claims.fwTook (fwState j []) j 6 ∧ (fwState j []).physClu 0 = some 0 ∧ Claims.fwTook (fwState k []) k 6 ∧
    ∀ u, u < 4 → (fwState j []).runsChain (0 * 4 + u) = false := by decide +kernel

theorem witness_unload :
    let j := fwJob [0x0700000000000007#64]
    Claims.fwTook (fwState j []) j 7 ∧ (fwState j []).anyFetching = false := by decide +kernel

theorem witness_fwReserved :
    State.fwReserved 7 [0x0700000000000007#64, 1#64] = true := by decide +kernel

/-! ### Harvest -/

/-- The ring at address 0, of 16 entries, enabled; entry 0 in the cache with the words. -/
def hvRing (ws : List Nat) (p : Bool) : State :=
  { base [(0x30, 0xFF#64), (rSnap 0x40, 0x8080000000000000#64)] with
    slices := [(0, { lines := [{ ch := 0, line := 0, data := ((ws.flatMap fun w => leBytes 8 w) ++ List.replicate 128 0#8).take 128, poison := List.replicate 4 p }] })] }

theorem witness_hvPoll :
    let m := fun (ws : List Nat) (p : Bool) => (hvRing ws p).memRead (hvRing ws p).hvEntry 64 0
    (hvRing [] false).bit (rSnap 0x40) 63 = true ∧ (hvRing [] false).hjob = none ∧ (hvRing [] false).fenced = false ∧
    (hvRing [] false).hub1Lost = false ∧ (hvRing [] false).routerRuns = true ∧ dfld (State.words 8 (m [] false).2.1) 0 63 63 = 0 ∧
    (m [0x8800000000000000] true).2.2.any id = true ∧
    dfld (State.words 8 (m [0x8800000000000000] false).2.1) 0 63 63 = 1 ∧
    hvOp (Claims.ringWords (m [0x8800000000000000] false).1) = 8 ∧
    hvOp (Claims.ringWords (m [0x8700000000000000] false).1) = 7 := by decide +kernel

theorem witness_hvBad : hvBad [0x8700000000000000#64, 0#64, 0#64, 0x1000#64, 0#64, 0#64, 0#64, 0#64] = false ∧
    hvBad [0x8700000000000000#64, 1#64, 0#64, 0x1000#64, 0#64, 0#64, 0#64, 1#64] = true := by
  unfold hvBad mapped State.bar4Mapped State.spareBase
  cases Config.order768 <;> decide +kernel

/-- The engine has a job. -/
def hvState (h : HJob) (f : FlashSt) : State :=
  { hvRing [0, 0, 0, 0, 0, 0, 0, 0, 0x1000, 1] false with hjob := some h, flash := f }
def hvJob (op : Nat) (stage : Nat) (more : List W64) : HJob :=
  { words := BitVec.ofNat 64 (2 ^ 63 + op * 2 ^ 56) :: more, stage := stage }

theorem witness_hvToken :
    let h := hvJob 7 1 [0x8000000000000005#64]
    let k := hvJob 7 1 [0x8000000001000005#64]
    (hvState h {}).hjob = some h ∧ h.stage = 1 ∧ dfld h.words 1 15 0 ≠ 0 ∧
    ((hvState h {}).takeToken (dfld h.words 1 47 40) (dfld h.words 1 55 48) (dfld h.words 1 39 24)).isSome = true ∧
    (hvState k {}).takeToken (dfld k.words 1 47 40) (dfld k.words 1 55 48) (dfld k.words 1 39 24) = none := by decide +kernel

/-- An EQUINOX of one rank, its manifest at address 64: 4 KiB at address 4,096. -/
def equinoxJob : HJob := hvJob 1 2 [0#64, 0#64, 0x0000000300000000#64, 0x0001000000000000#64, 0x10000#64, 0x40#64, 5#64]

theorem witness_equinox :
    Claims.hvReady (hvState equinoxJob {}) equinoxJob 1 ∧ ((hvState equinoxJob {}).tgt (11 + (hvState equinoxJob {}).ceq)).job = none ∧
    ((hvState equinoxJob {}).memRead (dfld equinoxJob.words 6 47 0) (16 * manN equinoxJob.words) 0).2.2.any id = false := by
  decide +kernel

theorem witness_equinox_manifest :
    ((hvState equinoxJob {}).memRead (dfld equinoxJob.words 6 47 0) (16 * manN equinoxJob.words) 0).2.1 =
      leBytes 8 0x1000 ++ leBytes 8 1 := by decide +kernel

theorem witness_manOk : manOk (leBytes 8 0x1000 ++ leBytes 8 1) 1 = true ∧ manOk (leBytes 8 0x1001 ++ leBytes 8 1) 1 = false := by
  unfold manOk mapped State.bar4Mapped State.spareBase
  cases Config.order768 <;> decide +kernel

theorem witness_equinoxAgreed :
    let h := { equinoxJob with stage := 3 }
    let s := { hvState h {} with targets := [(14, { job := some { words := [], sqn := 262144, cqn := 262144, stage := 4 } })] }
    s.ceq = 3 ∧ hvOp h.words = 1 ∧ s.hubFree = true ∧ (s.tgt 14).job = some { words := [], sqn := 262144, cqn := 262144, stage := 4 } := by
  decide +kernel

theorem witness_harvestCopyCommit :
    let h := { equinoxJob with stage := 4, phase := 1, next := 10, man := leBytes 8 0x1000 ++ leBytes 8 1 }
    (hvState h {}).hjob = some h ∧ State.hvTotal h ≤ h.next ∧ (hvState h {}).hubFree = true ∧
    h.holder + 1 = (hvState h {}).holders := by decide +kernel

theorem witness_hvJobs :
    let r := hvJob 2 2 [0#64, 0#64, 0x1000#64]
    let d := hvJob 3 2 [0#64, 0#64, 0x1000#64, 0x2000#64]
    let v := hvJob 5 2 [0#64, 0#64, 0x1000#64]
    let l := hvJob 7 2 [0#64, 0#64, 0x1000#64]
    Claims.hvReady (hvState r {}) r 2 ∧ Claims.hvReady (hvState d {}) d 3 ∧
    ((hvState d {}).readRanges d.words).2.2 = (false, false) ∧ Claims.hvReady (hvState v {}) v 5 ∧
    Claims.hvReady (hvState l {}) l 7 := by decide +kernel

theorem witness_capture :
    let c := hvJob 6 2 [0#64, 0#64, 0x1000#64, 0x800000001000#64]
    Claims.hvReady (hvState c {}) c 6 ∧ ((hvState c {}).readRanges c.words).2.2.2 = false ∧
    2 ^ 47 ≤ dfld c.words 4 47 0 := by decide +kernel

/-- A committed generation of slot 0 in flash: E 9, two segments. -/
def aGen : FlashGen :=
  { slot := 0, grec := leBytes 12 0 ++ leBytes 4 9 ++ leBytes 4 0 ++ leBytes 4 2, man := [], ring := [], segs := [8, 9], committed := true }

theorem witness_restore :
    let r := hvJob 4 2 [0#64, 0#64, 0x8000000000000009#64, 0#64, 0x0000000200000000#64]
    let n := hvJob 4 2 [0#64, 0#64, 0x800000000000000A#64, 0#64, 0x0000000200000000#64]
    Claims.hvReady (hvState r { gens := [aGen] }) r 4 ∧
    ((hvState r { gens := [aGen] }).flash.gens.find? fun g => g.slot == dfld r.words 3 62 62 && g.committed &&
      recE g.grec == dfld r.words 3 31 0) = some aGen ∧
    dfld r.words 5 63 48 + dfld r.words 5 47 32 ≤ recSegs aGen.grec ∧ dfld r.words 3 61 61 = 0 ∧
    ((hvState n { gens := [aGen] }).flash.gens.find? fun g => g.slot == dfld n.words 3 62 62 && g.committed &&
      recE g.grec == dfld n.words 3 31 0) = none := by decide +kernel

/-! ### Partner slots, flash, fences -/

/-- A Harvest PUT to a slot from EID 2, generation 0. -/
def hvPacket (a : Nat) (pay : List Byte) : Packet :=
  setH (mkPacket 1 1 9 noQueue 0 false a 0 0 pay) 2 2 2

/-- One slot of 1 GiB, owned by EID 2 in generation 0, and a PUT. -/
def slotState (a : Nat) (pay : List Byte) (f : FlashSt) : State :=
  { delivered (hvPacket a pay) [(rSnap 0, 0x1#64), (State.rSlot 0, 0x20000#64)] with flash := f }

theorem not_taken (s : State) (q : Packet) (a n : Nat) (ha : pArg0 q = a) (hn : q.payload.length = n)
    (h : s.slotOf a n = none) (k : Nat) : ¬ Claims.slotTakes s q k := by
  intro hk
  have h1 := hk.1
  rw [ha, hn, h] at h1
  cases h1

theorem hvPacket_arg : pArg0 (hvPacket 0x1000 []) = 0x1000 := by decide +kernel

theorem slotState_noSlot : (slotState 0x1000 [] {}).slotOf 0x1000 0 = none := by
  unfold State.slotOf State.slotBase State.partnerBase State.spareBase
  cases Config.order768 <;> decide +kernel

theorem witness_harvestPut_refused (k : Nat) : ¬ Claims.slotTakes (slotState 0x1000 [] {}) (hvPacket 0x1000 []) k :=
  not_taken _ _ _ _ hvPacket_arg rfl slotState_noSlot k

theorem witness_hvPutFirst :
    Claims.hvPutFirst (slotState 0x1000 [] {}) (hvPacket 0x1000 [], 0) := by decide +kernel

/-- The first address of the slot. -/
def slotAt : Nat := State.spareBase - 1073741824

theorem witness_harvestPut : ∀ o ∈ [0x20000, 0x10000, 0x4001000, 0],
    let s := slotState (slotAt + o) [] { gens := [{ aGen with committed := false }] }
    Claims.hvPutFirst s (hvPacket (slotAt + o) [], 0) ∧ Claims.slotTakes s (hvPacket (slotAt + o) []) 0 ∧
    Claims.slotOff s (hvPacket (slotAt + o) []) 0 = o ∧ s.flashOpen 0 ≠ none ∧ s.flashDue = [] ∧
    (slotState (slotAt + o) [] {}).flashOpen 0 = none := by
  unfold Claims.slotTakes Claims.slotOff State.slotOf State.slotBase State.partnerBase slotAt State.spareBase
  cases Config.order768 <;> decide +kernel

/-- Five bytes of a generation record. -/
def recHead : List Byte := [2#8, 2#8, 2#8, 2#8, 2#8]

theorem hvPacket_gen (a : Nat) (pay : List Byte) : pGen (hvPacket a pay) = 0 := by rfl
theorem hvPacket_src (a : Nat) (pay : List Byte) : pSrc (hvPacket a pay) = 2 := by rfl

theorem hvPacket_len (a : Nat) (pay : List Byte) : (hvPacket a pay).payload.length = pay.length := by rfl

theorem hvPacket_at : pArg0 (hvPacket slotAt recHead) = slotAt := by
  unfold slotAt State.spareBase
  cases Config.order768 <;> decide +kernel

theorem slotOf_regs (s s' : State) (h : s.regs = s'.regs) (a n : Nat) : s.slotOf a n = s'.slotOf a n ∧ s.slotBase 0 = s'.slotBase 0 := by
  unfold State.slotOf State.slotBase State.partnerBase State.slotSize State.slotN State.regF State.reg
  rw [h]
  exact ⟨rfl, rfl⟩

/-- The registers of `slotState`. -/
def slotRegs : State := inFabric [] [(rSnap 0, 0x1#64), (State.rSlot 0, 0x20000#64)] {}

theorem slotBase_one (s : State) (h : s.regF (rSnap 0) 8 0 = 1) : s.slotBase 0 = slotAt := by
  unfold State.slotBase State.partnerBase slotAt
  rw [h]
  omega

theorem slotOf_eq (s : State) (b n : Nat) : s.slotOf b n =
    (List.range s.slotN).find? fun k => decide (s.slotBase k ≤ b) && decide (b + n ≤ s.slotBase k + s.slotSize) := by rfl

theorem slotOf_one (s : State) (b z : Nat) (hn : s.slotN = 1) (hs : s.slotSize = z) (hb : s.slotBase 0 = b) (h : 5 ≤ z) :
    s.slotOf b 5 = some 0 := by
  rw [slotOf_eq, hn, hs, show List.range 1 = [0] from by decide]
  simp [hb, h]

theorem slotSize_one (s : State) (h : s.regF (rSnap 0) 8 0 = 1) (hn : s.slotN = 1) : s.slotSize = 1 * 2 ^ 30 / 1 := by
  unfold State.slotSize
  rw [h, hn]

theorem slotRegs_fields : slotRegs.regF (rSnap 0) 8 0 = 1 ∧ slotRegs.slotN = 1 := by decide +kernel

theorem slotState_regs (a : Nat) (p : List Byte) : (slotState a p {}).regs = slotRegs.regs := by rfl

theorem slotState_owner : slotRegs.regF (State.rSlot 0) 31 16 = 2 ∧ slotRegs.regF (State.rSlot 0) 47 32 = 0 ∧
    slotRegs.bit (State.rSlot 0) 57 = false := by decide +kernel

theorem regs_regF (s s' : State) (h : s.regs = s'.regs) (a hi lo : Nat) : s.regF a hi lo = s'.regF a hi lo ∧ s.bit a lo = s'.bit a lo := by
  unfold State.bit State.regF State.reg
  rw [h]
  exact ⟨rfl, rfl⟩

theorem takes_of (s s' : State) (q : Packet) (b n : Nat) (h : s.regs = s'.regs) (ha : pArg0 q = b) (hn : q.payload.length = n)
    (hs : s'.slotOf b n = some 0) (hb : s'.slotBase 0 = b) (hsrc : pSrc q = 2) (hgen : pGen q = 0)
    (ho : s'.regF (State.rSlot 0) 31 16 = 2 ∧ s'.regF (State.rSlot 0) 47 32 = 0 ∧ s'.bit (State.rSlot 0) 57 = false) :
    Claims.slotTakes s q 0 ∧ Claims.slotOff s q 0 = 0 := by
  have e1 := slotOf_regs _ _ h b n
  have e2 := regs_regF _ _ h (State.rSlot 0)
  refine ⟨⟨?_, ?_, ?_, ?_⟩, ?_⟩
  · rw [ha, hn, e1.1, hs]
  · rw [(e2 31 16).1, ho.1, hsrc]
  · rw [(e2 47 32).1, ho.2.1, hgen]
  · rw [(e2 0 57).2, ho.2.2]
  · show pArg0 q - s.slotBase 0 = 0
    rw [ha, e1.2, hb, Nat.sub_self]

theorem slotRegs_slot : slotRegs.slotOf slotAt 5 = some 0 :=
  slotOf_one _ _ _ slotRegs_fields.2 (slotSize_one _ slotRegs_fields.1 slotRegs_fields.2)
    (slotBase_one _ slotRegs_fields.1) (by norm_num)

theorem witness_harvestPut_record : Claims.slotTakes (slotState slotAt recHead {}) (hvPacket slotAt recHead) 0 ∧
    Claims.slotOff (slotState slotAt recHead {}) (hvPacket slotAt recHead) 0 = 0 :=
  takes_of _ slotRegs _ slotAt 5 (slotState_regs _ _) hvPacket_at rfl slotRegs_slot (slotBase_one _ slotRegs_fields.1)
    (hvPacket_src _ _) (hvPacket_gen _ _) slotState_owner

theorem hvPacket_crc (a : Nat) (pay : List Byte) : hNat (hvPacket a pay) 48 4 = leVal (leBytes 4 (pcrc pay)) := by rfl
theorem hvPacket_op (a : Nat) (pay : List Byte) : (pOp (hvPacket a pay) == 1 && pDie (hvPacket a pay) == 9) = true := by rfl
theorem recHead_crc : pcrc recHead = 52861176 := by decide +kernel

theorem slotState_local (a : Nat) (p : List Byte) : (slotState a p {}).fab.local_ = [(hvPacket a p, 0)] := by rfl

theorem witness_harvestPut_record_first : Claims.hvPutFirst (slotState slotAt recHead {}) (hvPacket slotAt recHead, 0) := by
  refine ⟨rfl, ?_, ?_⟩
  · unfold Claims.firstOf
    rw [slotState_local]
    simp only [List.find?_cons, hvPacket_op]
  · unfold Claims.intact
    rw [hvPacket_crc]
    show pcrc recHead = leVal (leBytes 4 (pcrc recHead))
    rw [recHead_crc]
    decide +kernel

theorem witness_reread : (slotState 0 [] {}).slotSize ≠ 0 ∧ (slotState 0 [] {}).routerRuns = true := by decide +kernel

/-- An open generation of slot 0 in flash. -/
def flashing (g : FlashGen) (st : Nat) : State :=
  { base [(State.rSlot 0, BitVec.ofNat 64 (st * 2 ^ 58))] with flash := { gens := [g] } }

theorem witness_flash :
    let g := { aGen with committed := false }
    let r := { g with run := true }
    let l := { g with run := true, done := 1 }
    Claims.openGen (flashing g 1) 0 g ∧ Claims.flashState (flashing g 1) 0 = 1 ∧
    Claims.openGen (flashing g 2) 0 g ∧ Claims.flashState (flashing g 2) 0 = 2 ∧ Claims.openGen (flashing r 1) 0 r ∧
    r.done + 1 < r.segs.length ∧ Claims.openGen (flashing l 1) 0 l ∧ l.segs.length ≤ l.done + 1 := by decide +kernel

theorem witness_snapRingEnable : (base []).bit 0x18 3 = true ∧ (base []).bit (rSnap 0x40) 63 = false ∧
    fld 0x8080000000001000#64 63 63 = 1 := by decide +kernel

/-- A copy of an Equinox, with PUTs unacknowledged, and a PUT_ACK. -/
def copying (out : List Nat) : HJob := { equinoxJob with stage := 4, phase := 0, next := 2, out := out }
def hvAcking (i : Nat) (r : Bool) : State :=
  { hvState (copying [0, 1]) {} with fab := { local_ := [(setH (putAckOf i r) 2 2 0, 0)] } }

theorem witness_hvAck :
    let x := (setH (putAckOf 1 false) 2 2 0, 0)
    let y := (setH (putAckOf 1 true) 2 2 0, 0)
    Claims.hvAckFor (hvAcking 1 false) (copying [0, 1]) x ∧ bitAt (pArg1 x.1) 32 = false ∧
    (copying [0, 1]).out.erase (pArg1 x.1 % 2 ^ 32) ≠ [] ∧ State.hvTotal (copying [0, 1]) ≤ (copying [0, 1]).next ∧
    Claims.hvAckFor (hvAcking 1 true) (copying [0, 1]) y ∧ bitAt (pArg1 y.1) 32 = true ∧
    (hvAcking 1 true).holders ≤ (copying [0, 1]).holder + 1 ∧ (hvAcking 1 true).hubFree = true ∧
    dfld (copying [0, 1]).words 7 15 0 ≠ 0 := by decide +kernel

theorem witness_hvAck_restore :
    let h := { hvJob 4 4 [] with out := [0] }
    let s := { hvState h {} with fab := { local_ := [(setH (putAckOf 0 true) 2 2 0, 0)] } }
    Claims.hvAckFor s h (setH (putAckOf 0 true) 2 2 0, 0) := by decide +kernel

theorem witness_isolated :
    let s := { base [(rSnap 0x48, 5#64)] with program := some { bank := 0, order := [] } }
    Claims.isolated s := by decide +kernel

/-! ### Operating points -/

/-- Die 0 at the points F and V. -/
def atPoint (f v : Nat) (busy : Nat) : State := base [(Claims.opReg 0, BitVec.ofNat 64 (busy * 2 ^ 47 + f * 2 ^ 42 + v * 2 ^ 39))]

theorem witness_pwrOpVWr : Claims.vIllegal (atPoint 0 0 0) 0 0xB00#64 ∧ fld 0xB00#64 11 11 = 1 ∧
    ¬ Claims.vIllegal (atPoint 3 0 0) 0 0xB00#64 ∧ fld 0xB00#64 10 8 ≠ Claims.vPoint (atPoint 3 0 0) 0 ∧
    ¬ Claims.vIllegal (atPoint 3 3 0) 0 0xB00#64 ∧ fld 0xB00#64 10 8 = Claims.vPoint (atPoint 3 3 0) 0 := by decide +kernel

/-- Every die at OP0, and a slot map with a chain that enters die 1. -/
def crossing (rs : SMap W64) (g : SMap (Option (Nat × List Nat))) : State :=
  { base rs with
    program := some { bank := 0, order := [] }
    slotMap := { units := [(96, [{ port := 0x2000, owner := 0x16, start := 0, len := 1, period := 8, reps := 1, tight := false }])] }
    pwr := { goal := g } }

theorem crossing_cross (rs : SMap W64) (g : SMap (Option (Nat × List Nat))) : (crossing rs g).crossDie = true := by rfl

theorem witness_pwrOpFWr : Claims.reaches (crossing [] []) 0 3 ∧ ¬ Claims.fIllegal (atPoint 0 0 0) 0 (fld 0xB0#64 6 4) ∧
    Claims.reaches (atPoint 0 0 0) 0 0 ∧ ¬ Claims.reaches (atPoint 0 0 0) 0 1 ∧
    Claims.fIllegal (atPoint 3 3 0) 0 (fld 0xA0#64 6 4) ∧ fld 0xA0#64 7 7 = 1 ∧ ¬ Claims.mixed 0xB0#64 ∧
    (∀ x, x < 8 → ¬ Claims.fIllegal (crossing [] []) x (fld 0xB0#64 6 4)) := by decide +kernel

theorem witness_pwrOpTWr : fld 0xB#64 3 3 = 1 ∧ ¬ Claims.mixed 0xB#64 ∧ fld 0xB#64 2 0 = 3 ∧ Claims.mixed 0x88#64 ∧
    (∀ x, x < 8 → Claims.vPoint (crossing [] []) x < 3 ∧ ¬ Claims.slewing (crossing [] []) x ∧ ¬ Claims.spent (crossing [] []) x 3) ∧
    fld 0x8#64 2 0 < Claims.vPoint (atPoint 3 3 0) 0 ∧ Claims.slewing (atPoint 3 3 1) 0 := by decide +kernel

theorem witness_takesWrite : Claims.takesWrite (atPoint 3 3 0) (Claims.opReg 0) ∧ Claims.takesWrite (base []) 0x10118 ∧
    ¬ Claims.badWrite 0xB#64 ∧ ¬ Claims.badWrite 0xB00#64 ∧ ¬ Claims.badWrite 0xB0#64 ∧ Claims.badWrite 0x5#64 ∧
    (base [(0x28, 0xE000000000000000#64)]).reaches none = true ∧
    (base [(0x28, 0xE000000000000000#64)]).regF 0x28 63 56 = 0xE0 := by decide +kernel

theorem witness_voltageSlewDone :
    let s := { base [(Claims.opReg 0, 0x8D8000000000#64), (Claims.opReg 1, 0x8D8000000000#64)] with
               pwr := { goal := [(0, some (0, [0, 1])), (1, some (0, [0, 1]))] } }
    Claims.slewing s 0 ∧ Claims.vPoint s 1 = 3 ∧ smGet none s.pwr.goal 1 = some (0, [0, 1]) := by decide +kernel

theorem witness_pwrStretchWrite : 13 ≤ fld 0xD0#64 (4 * 1 + 3) (4 * 1) ∧ (∀ d, d < 8 → fld 0xC0#64 (4 * d + 3) (4 * d) ≤ 12) := by
  decide +kernel

/-! ### Power states -/

/-- PWR_STAT.STATE and TARGET, and the wake's account. -/
def inPower (st tgt : Nat) (w : PwrSt) (rs : SMap W64) : State :=
  { base ((Claims.pwrStat, BitVec.ofNat 64 (st * 2 ^ 60 + tgt * 2 ^ 57)) :: rs) with pwr := w }

theorem witness_lowRequest : (inPower 4 0 {} []).refusal 2 = 7 ∧ (inPower 0 0 {} []).refusal 3 = 0 ∧
    (inPower 0 0 {} []).pwrState = 0 ∧ (running [0] [] {}).anyFetching = true := by decide +kernel

theorem witness_hostMay : Claims.hostMay (inPower 0 0 {} []) ∧ Claims.hostMay (inPower 4 2 {} []) ∧
    Claims.portsSettled (inPower 4 3 { wakeSrc := some 2 } []) ∧ (inPower 4 3 { wakeSrc := some 2 } []).regF Claims.pwrStat 59 57 = 3 ∧
    (inPower 0 0 {} [(0x28, 0xE000000000000000#64)]).regF 0x28 63 56 = 0xE0 := by decide +kernel

theorem witness_wakes : (∀ st ∈ [1, 2, 3], (inPower st 0 {} [(0x10110, 0x8000000000000005#64)]).pwrState = st ∧
    (inPower st 0 {} [(0x10110, 0x8000000000000005#64)]).bit 0x10110 63 = true) ∧ (inPower 5 0 {} []).pwrState = 5 ∧
    (inPower 4 2 {} []).pwrState = 4 ∧ (inPower 4 2 {} []).bit 0x10110 63 = false := by decide +kernel

theorem witness_entering : (∀ p, p < 24 → (inPower 4 2 {} []).lnkUp p = false ∧
    ((base []).setReg Claims.pwrStat 0x4600000000000000#64).lnkUp p = false) ∧ Claims.entering (inPower 4 1 {} []) 1 ∧ Claims.entering (inPower 4 2 {} []) 2 ∧
    Claims.entering ((base []).setReg Claims.pwrStat 0x4600000000000000#64) 3 ∧
    Registers.wf ((base []).setReg Claims.pwrStat 0x4600000000000000#64).regs = true ∧ (inPower 4 3 {} []).bit 0x18 8 = true := by decide +kernel

theorem witness_wakeComplete : (∀ b, b < 56 → bitAt (inPower 5 0 { src := 3, wait := 256 } []).pwr.wait b = true →
      (inPower 5 0 { src := 3, wait := 256 } []).reported b = true) ∧
    (State.reset.reported 8 = false) := by decide +kernel

/-! ### Resets -/

/-- Bank A verifies at SVN 3, bank B does not. -/
def goodBoot : BootVerdict := { bankOk := (true, false), bankKey := (0#384, 0#384), hub1Ok := true, dieOk := true }

/-- One authenticated session. -/
def inSession (s : State) : State := { s with mmc := { s.mmc with sessions := [(0, true)] } }

theorem witness_trusted : Claims.trusted (inSession (base [])) ∧ Claims.flashIdle (inSession (base [])) ∧
    Registers.wf (inSession (base [])).regs = true := by decide +kernel

theorem witness_booted : Claims.bankGood (base []) goodBoot (base []).mmc.sel ∧
    ¬ Claims.bankGood { base [] with mmc := { sel := true } } goodBoot true ∧
    Claims.bankGood { base [] with mmc := { sel := true } } goodBoot false ∧
    ¬ Claims.bankGood { base [] with mmc := { fuse := 4 } } goodBoot false ∧
    ¬ Claims.bankGood (base []) { goodBoot with bankKey := (1#384, 0#384) } false ∧
    ¬ Claims.bankGood { base [] with mmc := { fuse := 4 } } goodBoot true := by decide

theorem witness_perst : (base []).pwr.off = false ∧ (base []).pwr.perst = false ∧ ¬ (base []).pwrState = 3 ∧
    (inPower 3 0 { d3hot := true } []).pwrState = 3 ∧ (inPower 3 0 { perst := true, d3cold := true } []).pwrState = 3 := by
  decide +kernel

/-! ### Bring-up -/

/-- PKG_READY as given and nothing else. -/
def readyIs (v : W64) : State := { State.reset with regs := [(0x18, v)] }

/-- A self-test that finds nothing wrong. -/
def healthy : SelfTest := { clusterOk := List.replicate 28 true, colFaults := [] }

theorem witness_functionReady : Claims.canReport State.reset 0 ∧ (readyIs 1#64).bit 0x18 0 = true ∧
    Claims.canReport (readyIs 1#64) 1 ∧ Claims.canReport (readyIs 1#64) 2 ∧ Claims.canReport (readyIs 1#64) 3 ∧
    Claims.canReport (readyIs 9#64) 4 ∧ (readyIs 9#64).bit 0x18 3 = true ∧ Claims.canReport (readyIs 5#64) 35 ∧
    (readyIs 5#64).bit 0x18 (2 + 3 / 12) = true ∧ Claims.canReport (readyIs 1#64) 18 ∧ Claims.canReport (readyIs 0xC0001#64) 9 ∧
    (readyIs 0xC0001#64).bit 0x18 19 = true ∧ Claims.canReport (readyIs 1#64) 9 ∧ (readyIs 1#64).pwrState = 0 := by
  decide +kernel

theorem witness_functionReady_early : ∀ d : Fin 8, State.reset.bit 0x18 (8 + d.val) = false ∧
    State.reset.bit 0x20 (8 + d.val) = false := by decide +kernel

theorem witness_functionReady_port : ({ State.reset with regs := [(0x18, 5#64), (rLnk 3 8, 0x3000000000000000#64)] } : State).lnkState 3 = 3 := by
  decide +kernel

theorem witness_healthy : Claims.cluHealthy healthy 5 ∧ ¬ Claims.cluHealthy { healthy with colFaults := [[0x7FF#66]] } 0 := by
  decide +kernel

theorem witness_clockLoss : (base []).pwr.off = false ∧ smGet false (base []).lostDies 3 = false := by decide

/-! ### Errors -/

/-- SLICE_CHECK of region 21: the error of the manual's worked example, escalated or not. -/
def sliceCheck (esc : Bool) : Err := { mkErr 0x0301 2 21 0x00000158020013E0#64 with esc := esc }

/-- Handler (l, x) as given, and an error on its way. -/
def atHandler (l x : Nat) (h : HandlerSt) (e : Err) (rs : SMap W64) : State :=
  { base rs with handlers := [(l * 1000 + x, h)], errFlight := [e] }

/-- The record of the worked example: LEVEL 3, ESC 1, COUNT 1. -/
theorem test_escalated_word2 : errWord2 (sliceCheck true) 3 1 false = 0x0301700000000001#64 := by decide

theorem witness_errorArrival :
    let e := sliceCheck false
    let full : HandlerSt := { cur := some e, q := [e, e, e, e] }
    Claims.incoming (atHandler 2 21 {} e []) 0 e 2 21 ∧ Claims.ehReg (atHandler 2 21 {} e []) 2 21 (rRgn 21 0x10) ∧
    (atHandler 2 21 { cur := some e } e []).hnd 2 21 = { cur := some e } ∧
    (atHandler 2 21 full e []).hnd 2 21 = full ∧ domainAt 3 e.scope e.index = some 5 ∧
    Claims.ehReg (atHandler 2 21 full e []) 3 5 (rDie 5 0x20) ∧ rRgn 21 0x10 ≠ rDie 5 0x20 ∧
    ((atHandler 2 21 full e []).hnd 3 5).cur = none ∧
    (atHandler 2 21 { dead := true } e []).fromDead e = true ∧
    Claims.incoming (atHandler 4 0 full (mkErr 0x0505 0 0 0#64) []) 0 (mkErr 0x0505 0 0 0#64) 4 0 := by decide +kernel

theorem witness_errorArrival_known : State.knownErr (mkErr 0x7777 0 0 0#64) = none ∧
    State.knownErr (mkErr 0x0509 5 0 0#64) = some (mkErr 0x0509 5 0 0#64) ∧ State.isFatal29 (mkErr 0x0509 5 0 0#64) = true := by
  decide +kernel

theorem witness_errorHandlingEnd :
    let e := sliceCheck false
    let c := mkErr 0x0401 7 3 0#64
    Claims.handles (atHandler 2 21 { cur := some e } e []) 2 21 (rRgn 21 0x10) e ∧ Claims.plainErr e ∧
    (base []).bit 0x40008 62 = false ∧ (base []).regF 0x40008 60 44 < 65535 ∧
    Claims.handles (atHandler 3 0 { cur := some c } e []) 3 0 (rDie 0 0x20) c ∧ c.cls = 1 ∧ Claims.plainErr { c with cls := 2 } := by
  decide +kernel

/-- CLUSTER_DEAD of logical cluster 0, physical cluster 0. -/
def deadCluster : Err := mkErr 0x0201 3 0 0#64

theorem witness_clusterDead :
    let s := atHandler 2 0 { cur := some deadCluster } deadCluster []
    Claims.handles s 2 0 (rRgn 0 0x10) deadCluster ∧ deadCluster.cls = 4 ∧ s.regF (rRgn 0 0) 2 0 = 0 ∧
    s.regF (rRgn 0 0) 27 25 = 7 ∧
    ({ s with regs := [(0x18, 1#64), (rRgn 0 0, 0xDFAC688#64)] } : State).regF (rRgn 0 0) 27 25 = 6 := by decide +kernel

theorem witness_handlerStrike :
    let s := { atHandler 2 21 { cur := some (sliceCheck false) } (sliceCheck false) [] with errFlight := [] }
    (s.hnd 2 21).cur = some (sliceCheck false) ∧ (s.hnd 2 21).q = [] ∧ (s.hnd 3 5).cur = none ∧ (s.hnd 4 0).dead = false ∧
    ((atHandler 2 21 { dead := true } deadCluster []).hnd 2 21).dead = true ∧
    Claims.strikes s 2 21 none (sliceCheck false) ∧
    Claims.strikes (base []) 2 21 (some (sliceCheck false)) (sliceCheck false) := by decide +kernel

theorem witness_pkgErrInj : (base []).bit 0x38 0 = false ∧ (errInfo (fld 0x0301020001500000#64 63 48)).1 = 2 ∧
    placeOk 2 21 = true ∧ placeOk 7 600 = false ∧
    let e := { mkErr 0x0301 2 21 0#64 with inj := true }
    e = { mkErr (fld 0x0301020001500000#64 63 48) (fld 0x0301020001500000#64 47 40) (fld 0x0301020001500000#64 39 20) 0#64 with
      inj := true } ∧ domainAt 2 e.scope e.index = some 21 ∧ errLevel e = 2 ∧ (base []).fromDead e = false := by decide +kernel

/-! ### The Almanac -/

/-- An Almanac with two records, or one being restored. -/
def almState (st : Nat) (f : FlashSt) (stage : List (List (List W64))) : State :=
  { inSession (base [(Claims.almStat, BitVec.ofNat 64 st)]) with
    almanac := [(0, [1#64]), (1, [2#64])], flash := f, almStage := stage }

theorem witness_almanac :
    Claims.flashUp (almState (2 ^ 45) {} []) ∧ ¬ Claims.restoring (almState (2 ^ 45) {} []) ∧
    Claims.almCount (almState (2 ^ 45) {} []) = 2 ∧ Claims.restoring (almState (2 ^ 62) { copy4 := { recs := [[3#64]] } } []) ∧
    Claims.chosenCopy { copy4 := { recs := [[3#64]] } } (some { recs := [[3#64]] }) ∧
    Claims.chosenCopy { copy4 := { recs := [[3#64]] }, copy5 := { sound := false }, last5 := true } (some { recs := [[3#64]] }) ∧
    Claims.chosenCopy { copy4 := { sound := false }, copy5 := { sound := false } } none ∧
    Claims.mmcServes (almState (2 ^ 45) {} []) ∧ Claims.trusted (almState (2 ^ 45) {} []) ∧
    Claims.trusted (almState (2 ^ 62) {} []) ∧ (almState (2 ^ 62) {} []).bit 0x18 4 = true ∧
    (readyIs 1#64).bit 0x18 4 = false := by decide +kernel

theorem witness_time : (base []).pwr.off = false ∧ (base []).bit 0x18 0 = true ∧
    ((base [(0x40000, 0xE0F0000#64)]).regF 0x40000 47 16 + 1) % 3600 = 0 := by decide +kernel

/-! ### Monitors and throttling -/

/-- Point 5 of block 2 samples source 1 with edges 10, 20 and 30 and the rest at 65535, SHIFT 1. -/
def monState (rs : SMap W64) : State :=
  base ([(rMon 2 5 0, 0x8001000000100001#64), (rMon 2 5 8, 0xFFFF001E0014000A#64), (rMon 2 5 0x10, 0xFFFFFFFFFFFFFFFF#64),
    (rMon 2 5 0x18, 0xFFFFFFFFFFFFFFFF#64), (rMon 2 5 0x20, 0xFFFFFFFFFFFF#64)] ++ rs)

theorem witness_monitorSample : (monState []).bit (rMon 2 5 0) 63 = true ∧ (monState []).regF (rMon 2 5 0) 55 48 ≠ 0 ∧
    Claims.blockSampled (monState []) 2 ∧ Claims.blockSampled (base []) 8 ∧ ¬ Claims.blockSampled State.reset 8 ∧ (Claims.liveBank (monState []) 2 5).bins.length = 16 ∧
    Claims.inBin (monState []) 2 5 (min (50 / 2 ^ (monState []).regF (rMon 2 5 0) 24 20) 65535) 2 ∧
    (monState []).regF (rMon 2 5 0) 19 0 ≠ 0 ∧ (base []).bit (rMon 2 5 0) 63 = false ∧
    50 < (monState [(rMon 2 5 0x78, 0xFFFFFFFF00000033#64)]).regF (rMon 2 5 0x78) 31 0 := by decide +kernel

theorem witness_thermalControl : (base []).bit 0x18 8 = true ∧ Claims.nextTh 11 1700 1600 false = 12 ∧
    (base [(Claims.therm 0, 0x00000B0064000000#64)]).regF (Claims.therm 0) 43 40 = 11 ∧ ¬ Claims.slewing (base []) 0 ∧
    ¬ Claims.spent (base []) 0 4 ∧ (base []).crossDie = false ∧ ¬ Claims.dieOn State.reset 0 := by decide +kernel

theorem witness_powerControl : Claims.nextPwr 8 90000 8000 800000 760000 true false = 12 ∧
    Claims.nextPwr 8 70000 7200 800000 760000 false true = 7 := by decide

theorem witness_thermalTrip : smGet false (base []).lostDies 3 = false ∧ (base []).hub1Lost = false := by decide

/-! ### Jubilees and column tests -/

/-- MON_JUB of die 2 as given, OPSEC 7,000 hours. -/
def jubState (j : Nat) (m : Nat) : State :=
  base [(Claims.jub 2, BitVec.ofNat 64 j), (Claims.margin 2, BitVec.ofNat 64 m), (0x40000, BitVec.ofNat 64 (25200000 * 2 ^ 16))]

/-- The manual's seventh Jubilee of die 2: PREDICT_H 5,000. -/
theorem test_predict : State.predict [(21600000, 3), (18000000, 2), (14400000, 2), (10800000, 1)] 25200000 5 = 5000 := by decide

/-- The manual's OP0: 11, 13 and 15 ps at 3, 4 and 5 steps. -/
theorem test_marginPoint : fld (State.marginPoint 15 3#64 0 [11, 13, 15]) 3 0 = 5 := by decide

theorem witness_jubilee :
    let s := jubState 0xF00 0
    s.bit (Claims.jub 2) 1 = false ∧ s.bit 0x18 10 = true ∧
    3600000 ≤ (s.regF 0x40000 47 16 + 2 ^ 32 - s.regF (Claims.jub 2) 47 16) % 2 ^ 32 ∧ Claims.jubFits s 2 ∧
    (jubState 0xF04 0).bit (Claims.jub 2) 2 = true ∧ (jubState 0xF02 3).bit (Claims.jub 2) 1 = true ∧
    Claims.testsOver (jubState 0xF02 3) 2 ∧ (∀ p, p < 5 → Claims.offsetOf (jubState 0xF02 3) 2 p ≤ 10) ∧
    ¬ Claims.jubFits { s with program := some { bank := 0, order := [] } } 2 := by decide +kernel

/-- Unit 0 is testing; every width is 64; physical cluster 6 is the spare of region 0, or it has none. -/
def testing (sp : Bool) : State :=
  { base [] with regs := ([(0x18, 0xFFFFFFFFFFFFFFFF#64), (rRgn 0 0, if sp then 0xDFEC688#64 else 0xE02C688#64), (rUnit 0 8, 2#64)] ++
    ([0, 24, 25, 26, 27].map fun u => (rUnit u 0, capWord [64, 64, 64, 64, 64, 64]))) }

theorem witness_columnTest : (testing true).physUnit 0 = some 0 ∧ (testing true).bit (rUnit 0 8) 1 = true ∧
    (testing true).widths 0 = widthsOf [] ∧ arrayWidth 7#66 < 64 ∧ (testing true).regF (rRgn 0 0) 27 25 = 6 ∧
    (∀ i, i < 4 → (testing true).widths (24 + i) = [64, 64, 64, 64, 64, 64]) ∧ 56 ≤ arrayWidth 7#66 ∧
    (testing false).regF (rRgn 0 0) 27 25 = 7 ∧ (testing false).widths 0 ≠ widthsOf [7#66] ∧
    (testing false).physUnit 0 = some 0 ∧ Claims.trusted (inSession (testing true)) := by decide +kernel

/-! ### Transactions -/

/-- An open transaction of the host that has staged these. -/
def inTxn (l : List (Nat × W64)) (c : List Nat) (o : Option Nat) (rs : SMap W64) : State :=
  { base ((Claims.txnStat .host, 0x1000000000000000#64) :: rs) with txnHost := { staged := l, conflict := c, ovf := o } }

theorem witness_txn :
    Claims.isOpen (inTxn [] [] none []) .host ∧ ¬ Claims.isOpen (base []) .host ∧ Claims.mayAsk (inTxn [] [] none []) .host ∧
    Claims.mayAsk (base []) .mgmt ∧ ¬ Claims.mayAsk State.reset .host ∧
    ((inTxn [(rDie 5 0x10, 0x942#64)] [] none []).commitFault (inTxn [(rDie 5 0x10, 0x942#64)] [] none []).txnHost) =
      some (1, 0x063C0010) ∧
    (inTxn [(rDie 0 0x10, 0xA42#64), (rDie 5 0x10, 0xA42#64)] [] none []).commitFault
      (inTxn [(rDie 0 0x10, 0xA42#64), (rDie 5 0x10, 0xA42#64)] [] none []).txnHost = none ∧
    Claims.stagedRising (inTxn [(rDie 0 0x10, 0xA42#64), (rDie 5 0x10, 0xA42#64)] [] none []) .host ∧
    fld 0x942#64 11 8 + fld 0x942#64 7 4 + fld 0x942#64 3 0 ≠ 16 := by decide +kernel

theorem witness_txn_refused :
    let k : Nat × W64 := (rDie 5 0x10, 0xA42#64)
    ((inTxn [k] [k.1] none []).txnHost.staged.find? fun x => (inTxn [k] [k.1] none []).txnHost.conflict.contains x.1) = some k ∧
    ((inTxn [k] [] none []).txnHost.staged.find? fun x =>
      !({ inTxn [k] [] none [] with regs := [] } : State).regReady x.1 ||
        ({ inTxn [k] [] none [] with regs := [] } : State).regLost x.1) = some k ∧
    (inTxn [] [] (some 0x30) []).txnHost.ovf = some 0x30 ∧ (base []).regF 0x28 63 56 ≠ 0xE0 ∧
    (inTxn [(0x30, 0#64)] [] none [(0x30, 3#64)]).reg 0x30 ≠ 0#64 := by decide +kernel

theorem witness_txn_notReady : ({ base [] with regs := [(Claims.txnStat .host, 0x1000000000000000#64)] } : State).regF (Claims.txnStat .host) 63 60 = 1 ∧
    ({ base [] with regs := [(Claims.txnStat .host, 0x1000000000000000#64)] } : State).regReady (rDie 5 0x10) = false := by
  decide +kernel

/-! ### Register accesses -/

/-- The manual's UNIT_HALT0 of unit 3.2.5.1. -/
theorem test_unitWindow : Claims.unitWindow (3 * 96 + 2 * 24 + 5 * 4 + 1) 0x100 = 0x04A90100 := by decide

theorem witness_registerWrite : (∀ a ∈ [0x30, 0x38, 0x48, 0x80, 0x88, 0x90, 0x10110, 0x10118, Claims.opReg 3, rDie 5 0x10],
      Claims.reachable (base []) .host a) ∧ (base []).discards 0x38 1#64 = false ∧ (base []).discards (rDie 5 0x10) 1#64 = false ∧
    (State.reset).bit 0x18 1 = false ∧ (readyIs 3#64).regReady (rDie 5 0x10) = false ∧
    Claims.reachable (base []) .mgmt (Claims.unitWindow 0 0x1000) ∧ (inTxn [] [] none []).txnHost.staged.length < 256 ∧
    Claims.stagedRising (inTxn [] [] none []) .host := by decide +kernel

theorem witness_plainReg : Claims.plainReg 0x38 ∧ Claims.plainReg (rDie 5 0x10) :=
  ⟨⟨by decide, .inl (by decide)⟩, by decide, .inr (.inl ⟨5, by decide, .inl rfl⟩)⟩

theorem witness_regRead : Claims.mmcServes (base []) ∧ (base []).regReady 0x30 = true ∧ (base []).regLost 0x30 = false ∧
    Claims.mmcServes (readyIs 1#64) ∧ (readyIs 1#64).regReady 0x20000 = false ∧
    smGet false ({ base [] with lostDies := [(2, true)] } : State).lostDies (0x03FC0000 / 0x1000000 - 1) = true ∧
    0x03FC0000 / 0x80000 % 8 = 7 := by decide +kernel

theorem witness_pstoreWindowWrite : (base []).physClu 0 = some 0 ∧ (base []).fetching 0 = false ∧
    (running [0] [] {}).fetching 0 = true ∧ (running [0] [] {}).ccBank 0 = (running [0] [] {}).regF (rClu 0 0x30) 1 1 ∧
    (base []).bit 0x18 8 = true := by decide +kernel

theorem witness_hbmPhyLockLoss : (base [(rChan 3 0, 0x2000000000000000#64)]).chState 3 = 2 ∧ (base []).chState 3 = 0 ∧
    smGet false (base []).lostDies 0 = false := by decide +kernel

/-! ### The management port -/

/-- A module served by its MMC, with one authenticated session. -/
def served (rs : SMap W64) : State := inSession (base rs)

theorem witness_wilvodom : Claims.mmcServes (served []) ∧ Claims.trusted (served []) ∧ (served []).fenced = false ∧
    (served [(rSnap 0x48, 0x100000000#64)]).fenced = true ∧ (served [(Claims.pwrStat, 0x2000000000000000#64)]).pwrState = 2 ∧
    (0 : Nat) = (served []).regF (rFab 0) 47 32 ∧ (1 : Nat) ≠ (served []).regF (rFab 0) 47 32 ∧
    (served [(rChan 3 0, 0x2000000000000000#64)]).chState 3 = 2 ∧ (served [(rChan 3 0, 0x1000000000000000#64)]).chState 3 = 1 ∧
    (served []).regF (State.rMig 0) 63 60 = 0 ∧ (served [(State.rMig 0, 0x1000000000000000#64)]).regF (State.rMig 0) 63 60 ≠ 0 ∧
    ((served []).slice (sliceOf 3)).lines = [] ∧ (served []).heldOf 3 = [] ∧ (served []).regF (State.rTg 3 0x10) 63 62 ≠ 1 ∧
    smGet false (served []).lostDies 0 = false := by decide +kernel

theorem witness_anchored : ({ served [] with mmc := { sessions := [(0, false)], anchor := some 1#384 } } : State).mmc.anchor ≠ none := by
  decide

theorem witness_readBringup : 0 < ({ served [] with flash := { bringup := [{ test := healthy, chans := [] }] } } : State).flash.bringup.length := by decide

/-! ### Management protocols and the input -/

theorem witness_inputLoss : (base []).pwr.off = false ∧ Claims.flashUp (base []) ∧ ¬ Claims.restoring (base []) ∧
    Claims.almCount (base []) < 65535 := by decide +kernel

theorem witness_sensor : (served []).regReady (Claims.sensorOf 0x1105) = true ∧ (served []).regLost (Claims.sensorOf 0x1105) = false ∧
    (served [(rMon 2 5 0, 0x8001000000100001#64)]).bit (Claims.sensorOf 0x1105) 63 = true ∧
    (served []).bit (Claims.sensorOf 0x1105) 63 = false ∧ (served []).bit 0x28 55 = false ∧
    (served [(0x28, 0x80000000000000#64)]).bit 0x28 55 = true := by decide +kernel

theorem witness_protocols : (served []).mmc.sessions.length < 4 ∧ (served []).mmc.events = [] ∧
    ((served [(0x28, 0xE000000000000000#64)]).regF 0x28 63 56 = 0xE0) ∧ (served []).mmc.testAccess = false ∧
    ({ served [] with mmc := { testAccess := true } } : State).mmc.tapUsed = false ∧
    4 ≤ ({ served [] with mmc := { sessions := [(0, true), (1, true), (2, true), (3, true)] } } : State).mmc.sessions.length := by
  decide +kernel

/-! ### Rules over all commands -/

theorem witness_securityState : ({ inSession (base []) with pending := [.activate true] } : State).pending = [.activate true] ∧
    Claims.trusted (inSession (base [])) := by decide +kernel

theorem witness_Depths : Claims.Depths
    { base [] with
      handlers := [(2021, { q := [sliceCheck false] })]
      mons := [(133, {})]
      units := [(5, { squeue := [{ gen := 0, task := 0, src := 0, addr := 0, prov := {} }] })] } := by decide +kernel

theorem witness_losses : ({ base [] with lostDies := [(3, true)], pending := [.trst] } : State).pending = [.trst] ∧
    smGet false ({ base [] with lostDies := [(3, true)], pending := [.trst] } : State).lostDies 3 = true := by decide +kernel

theorem witness_exhausted : Claims.spent (base [(rDie 0 0x38, 0x300000#64)]) 0 (fld 0x80#64 6 4) ∧
    Claims.reaches (base [(rDie 0 0x38, 0x300000#64)]) 0 0 ∧ (base []).pwr.jubOp = [] := by decide +kernel

theorem witness_almanacFull : (base [(0x40008, BitVec.ofNat 64 (65535 * 2 ^ 44))]).regF 0x40008 60 44 = 65535 ∧
    (base [(0x40008, BitVec.ofNat 64 (65536 * 2 ^ 44))]).regF 0x40008 60 44 = 65536 ∧
    (base [(0x40008, BitVec.ofNat 64 (65536 * 2 ^ 44))]).bit 0x40008 62 = false := by decide +kernel

/-! ### Ill-formed commands are refused, a term for each check -/

theorem test_wf_sliceRequest : Instr.wf (.sliceRequest (.read 0 0 0)) = false ∧ Instr.wf (.sliceRequest (.write 0 [] 0)) = false ∧
    Instr.wf (.sliceRequest (.read 0 64 0)) = true := by decide

theorem test_wf_lineFill : Instr.wf (.lineFill 0 (2 ^ 30) []) = false ∧ Instr.wf (.lineFill 0 0 []) = false := by
  constructor
  · simp only [Instr.wf, chanSize]; split <;> decide
  · simp [Instr.wf]

theorem test_wf_patrolRead (o : SectorOutcome) : Instr.wf (.patrolRead 0 (2 ^ 30) o) = false := by
  simp only [Instr.wf, chanSize]; split <;> decide

theorem test_wf_migrationUnitMove : Instr.wf (.migrationUnitMove ⟨0, List.replicate 33 .clean⟩) = false := by decide
theorem test_wf_tgStop : Instr.wf (.tgStop 0 ⟨2#64, [(2 ^ 30, 0#64)]⟩) = false := by
  simp only [Instr.wf, chanSize]; split <;> decide
theorem test_wf_tgProgramEnd : Instr.wf (.tgProgramEnd 0 [(2 ^ 30, 0#64)]) = false := by
  simp only [Instr.wf, chanSize]; split <;> decide

/-- A slot of 64 zero bytes. -/
def zeroSlot : SlotIn := { kind := 0, bytes := List.replicate 64 0#8 }

theorem test_wf_codewordReceive : Instr.wf (.codewordReceive 0 (.decoded 16 (List.replicate 10 zeroSlot))) = false ∧
    Instr.wf (.codewordReceive 0 (.decoded 0 [zeroSlot])) = false ∧
    Instr.wf (.codewordReceive 0 (.decoded 0 ({ kind := 1, bytes := [] } :: List.replicate 9 zeroSlot))) = false ∧
    Instr.wf (.codewordReceive 0 (.decoded 15 (List.replicate 10 zeroSlot))) = true := by decide

theorem test_wf_linkFlit : Instr.wf (.linkFlit 0 ⟨none, none, none, []⟩) = false := by decide

theorem test_wf_bar4 : Instr.wf (.bar4Read 0 0) = false ∧ Instr.wf (.bar4Read 0 4097) = false ∧
    Instr.wf (.bar4Read (2 ^ 36 - 8) 16) = false ∧ Instr.wf (.bar4Write 0 []) = false ∧
    Instr.wf (.bar4Write (2 ^ 36 - 1) [1#8, 2#8]) = false ∧ Instr.wf (.bar4Write 0 (List.replicate 513 0#8)) = false := by decide +kernel

theorem test_wf_atsTranslationResponse : Instr.wf (.atsTranslationResponse 0 0 0 true true 11) = false ∧
    Instr.wf (.atsTranslationResponse 0 0 0 true true 31) = false := by decide

theorem test_wf_functionReady : Instr.wf (.functionReady (.die 0) (.ready ⟨[], []⟩ [])) = false ∧
    Instr.wf (.functionReady (.stack 0 0) (.ready ⟨[], []⟩ [])) = false ∧
    Instr.wf (.functionReady .mmc .capacityMismatch) = false ∧ Instr.wf (.functionReady .mmc .failed) = true := by decide

theorem test_wf_jubileeComplete : Instr.wf (.jubileeComplete 0 []) = false := by decide

theorem test_wf_columnTestDone : Instr.wf (.columnTestDone 0 []) = false := by decide

/-! ### The manual's worked examples -/

/-- Chapter 5, four partial sums: the hops of 2^24 and three times 1.0 under RNE and, with the manual's
draws, under SR. -/
theorem test_chain_hops : fAdd 0x4B800000#32 0x3F800000#32 = 0x4B800000#32 ∧
    round32 (.sr 0xC00000) ((val32 0x4B800000#32).add (val32 0x3F800000#32)) = 0x4B800001#32 ∧
    round32 (.sr 0x3FFFFF) ((val32 0x4B800001#32).add (val32 0x3F800000#32)) = 0x4B800001#32 ∧
    round32 (.sr 0x800000) ((val32 0x4B800001#32).add (val32 0x3F800000#32)) = 0x4B800002#32 := by decide +kernel

/-- The trace of R160. -/
theorem test_generator : generator 0#64 1#32 2#32 3 = 0xBE1425 := by decide +kernel

/-- Chapter 11: the AdamW group and tensor of its worked example. -/
def adamw : UpeTensor :=
  { ent := 0x0010000000000000#64 :: List.replicate 15 0#64
    grp := [0#64, 0#64, 0#64, 0#64, 0#64, BitVec.ofNat 64 (2 ^ 40 + 2 * 2 ^ 32 + 0x35800000)]
    lr := 0x3A800000#32, wd := 0#32, b1 := 0x3F600000#32, b2 := 0x3F7E0000#32 }

def adamwOut : UpeOut :=
  upeElem adamw 0x3F800000#32 (fSub one32 adamw.b1) (fSub one32 adamw.b2) 1 3
    { gin := val32 0x3F000000#32, w := one32, xb := 0, m1 := 0, m2 := 0, poison := false }

theorem test_adamw : adamwOut.w = 0x3F7FC000 ∧ adamwOut.xb = 8 ∧ adamwOut.m1 = 0x3D800000 ∧ adamwOut.m2 = 0x3B000000 ∧
    adamwOut.work = 0x3F80 := by decide +kernel

/-- Chapter 6: the scale record before the spike. -/
def spikeRecord : List Byte :=
  [2#8, 2#8, 1#8, 0x14#8, 3#8, 0#8, 0#8, 0#8] ++ List.replicate 24 0#8 ++
    ([850, 730, 610, 880].flatMap fun n => leBytes 4 (ofNat32 n).toNat) ++ List.replicate 16 0#8

/-- Both reports and the CLOSE: T_DATA 2, T_NEXT 4, HPOS 2, HIST[1] 2,000.0. -/
theorem test_spike :
    let r := State.applyReport (State.applyReport spikeRecord ⟨ofNat32 2000, 1, 0⟩) ⟨ofNat32 1100, 0, 0⟩
    let c := State.applyClose r 0x55#8
    State.recNat r 20 4 = (ofNat32 2000).toNat ∧ State.recNat r 5 1 = 1 ∧ State.recNat r 6 2 = 2 ∧ State.recNat r 8 4 = 1 ∧
    c.take 4 = [2#8, 4#8, 1#8, 0x24#8] ∧ State.recNat c 36 4 = (ofNat32 2000).toNat ∧ State.recNat c 16 4 = 1 := by decide +kernel

/-- Chapter 9: the stream that fills the X window. -/
def xStream : StreamSt :=
  { hdr := [BitVec.ofNat 64 (3 * 2 ^ 48), BitVec.ofNat 64 (51 * 2 ^ 48 + 64), BitVec.ofNat 64 (63 * 2 ^ 48 + 3328),
            BitVec.ofNat 64 (1 * 2 ^ 48 + 212992), 0#64, 0#64, 0#64, 0#64]
    instrs := [[BitVec.ofNat 64 (Format.code .f8e4 * 2 ^ 56 + 1 * 2 ^ 51 + 2 * 2 ^ 48 + 0 * 2 ^ 45 + 4 * 2 ^ 40), 0#64,
      BitVec.ofNat 64 (1 * 2 ^ 52 + 1 * 2 ^ 30 + 52 * 2 ^ 20 + 104 * 2 ^ 10), 0#64]]
    pr := [0#64, 0#64, 0#64, 0#64, 0x04001E0000#64], prov := {} }

/-- Element X[100][1,000]: its index, address, and the words of its row in banks 51 and 19. -/
theorem test_stream_element : xStream.tile 5215 = (36, 1, 15) ∧ xStream.addr 5215 = 0x04001E0000 + 333760 ∧
    State.rowWords xStream 5215 = [134 * 2048 + 51 * 32, 135 * 2048 + 19 * 32] ∧ sTotal xStream.hdr = 6656 := by decide +kernel

/-- Chapter 10: that element's channel, offset and slice, and its target when channel 5.0.24 is retired. -/
theorem test_channel_of_element : State.chanAddr { State.reset with regs := [(0x30, 0xFFF#64)] } 0x04002317E8 = (344, 0x20013E8) ∧ sliceOf 344 = 21 ∧
    Machine.setOf 344 (0x20013E8 / 128) = 632 ∧ (migTarget 344 (0x20013E8 / 1024)).1 = 332 := by decide +kernel

/-! ### Completion: the hypotheses are those of the witnesses of the fuller statements, and these -/

theorem witness_scaleReport_open :
    let s : State := { base [] with scaleQ := [{ addr := 0, report := some {}, close := false, clu := 0 }] }
    s.scaleQ[0]? = some { addr := 0, report := some {}, close := false, clu := 0 } := by decide +kernel

theorem witness_chainAbort_confirmed : chainOf.prov.spec = false := by decide +kernel


end Sys2Proof.Tests
end

/-! ## Obligation O49: losses last until a reset

`State.lasting` is the queue with the losses that only a few commands touch. Every function of the model but those few
leaves it as it is (the lemmas `…_lasting`, in the order of the model's files); the few are followed loss by loss (the
lemmas `…_lasts`). -/

namespace Sys2Proof.Machine
namespace State
/-- The queue, and the losses that outlast a command: a fatal error, the dead clusters, the lost dies, hub 1. -/
def lasting (s : State) : List Instr × Bool × SMap Bool × SMap Bool × Bool :=
  (s.pending, s.fatal, s.deadClus, s.lostDies, s.hub1Lost)

@[simp] theorem lasting_eta (s : State) : (s.pending, s.fatal, s.deadClus, s.lostDies, s.hub1Lost) = s.lasting := (rfl)
@[simp] theorem lasting_mk (pending regs ctr out units clus tokens scaleQ slotMap staged program running frame0 relock slices chans
    chanBytes chanPoison chanUnseen lostDies pages targets queues faults reqSeq atc invals ats pri priStop
    flashDue msixEn msixMask hostMem errFlight evtFlight almanac almStage ports fab cles hjob flash mmc pwr
    handlers rates mons txnHost txnMgmt hostQ waited evtBuf evtLost evtSeq hub1Lost fatal modLost lostRegions
    deadClus gwDrops fabDrops) :
    (State.mk pending regs ctr out units clus tokens scaleQ slotMap staged program running frame0 relock slices chans
      chanBytes chanPoison chanUnseen lostDies pages targets queues faults reqSeq atc invals ats pri priStop
      flashDue msixEn msixMask hostMem errFlight evtFlight almanac almStage ports fab cles hjob flash mmc pwr
      handlers rates mons txnHost txnMgmt hostQ waited evtBuf evtLost evtSeq hub1Lost fatal modLost lostRegions
      deadClus gwDrops fabDrops).lasting = (pending, fatal, deadClus, lostDies, hub1Lost) := (rfl)

@[simp] theorem lasting_ite (c : Prop) [Decidable c] (s t : State) :
    (if c then s else t).lasting = if c then s.lasting else t.lasting := by split <;> rfl

@[simp] theorem fst_ite_lasting {β : Type} (c : Prop) [Decidable c] (p q : State × β) :
    (if c then p else q).1.lasting = if c then p.1.lasting else q.1.lasting := by split <;> rfl

@[simp] theorem foldl_lasting {α : Type} {f : State → α → State} (hf : ∀ s a, (f s a).lasting = s.lasting) (l : List α)
    (s : State) : (l.foldl f s).lasting = s.lasting := by
  induction l generalizing s with
  | nil => rfl
  | cons a l ih => exact (ih _).trans (hf s a)

@[simp] theorem foldl_fst_lasting {α β : Type} {f : State × β → α → State × β}
    (hf : ∀ p a, (f p a).1.lasting = p.1.lasting) (l : List α) (p : State × β) :
    (l.foldl f p).1.lasting = p.1.lasting := by
  induction l generalizing p with
  | nil => rfl
  | cons a l ih => exact (ih _).trans (hf p a)

theorem orElse_lasting {s t : State} {a : Option State} {b : Unit → Option State}
    (ha : ∀ t, a = some t → t.lasting = s.lasting) (hb : ∀ t, b () = some t → t.lasting = s.lasting)
    (h : a.orElse b = some t) : t.lasting = s.lasting := by
  cases a with
  | none => exact hb t h
  | some u => exact ha t h

theorem getD_lasting {s : State} {o : Option State} (h : ∀ t, o = some t → t.lasting = s.lasting) :
    (o.getD s).lasting = s.lasting := by
  cases o with
  | none => rfl
  | some t => exact h t rfl

end State
end Sys2Proof.Machine

/-! ### What leaves the losses as they are -/

namespace Sys2Proof.Machine.State

/-! ### Machine/Ops -/

@[simp] theorem setReg_lasting (s : State) (a : Nat) (v : W64) :
    (s.setReg a v).lasting = s.lasting := by
  simp only [setReg, lasting_mk, lasting_eta]

@[simp] theorem setRegF_lasting (s : State) (a hi lo v : Nat) :
    (s.setRegF a hi lo v).lasting = s.lasting := by
  simp only [setRegF, setReg_lasting]

@[simp] theorem setUnit_lasting (s : State) (pu : Nat) (u : UnitSt) :
    (s.setUnit pu u).lasting = s.lasting := by
  simp only [setUnit, lasting_mk, lasting_eta]

@[simp] theorem updUnit_lasting (s : State) (pu : Nat) (f : UnitSt → UnitSt) :
    (s.updUnit pu f).lasting = s.lasting := by
  simp only [updUnit, setUnit_lasting]

@[simp] theorem setClu_lasting (s : State) (pc : Nat) (c : CluSt) :
    (s.setClu pc c).lasting = s.lasting := by
  simp only [setClu, lasting_mk, lasting_eta]

@[simp] theorem updClu_lasting (s : State) (pc : Nat) (f : CluSt → CluSt) :
    (s.updClu pc f).lasting = s.lasting := by
  simp only [updClu, setClu_lasting]

@[simp] theorem setSlice_lasting (s : State) (r : Nat) (x : SliceSt) :
    (s.setSlice r x).lasting = s.lasting := by
  simp only [setSlice, lasting_mk, lasting_eta]

@[simp] theorem setChan_lasting (s : State) (ch : Nat) (x : ChanSt) :
    (s.setChan ch x).lasting = s.lasting := by
  simp only [setChan, lasting_mk, lasting_eta]

@[simp] theorem updChan_lasting (s : State) (ch : Nat) (f : ChanSt → ChanSt) :
    (s.updChan ch f).lasting = s.lasting := by
  simp only [updChan, setChan_lasting]

@[simp] theorem setTgt_lasting (s : State) (k : Nat) (x : TgtSt) :
    (s.setTgt k x).lasting = s.lasting := by
  simp only [setTgt, lasting_mk, lasting_eta]

@[simp] theorem updJob_lasting (s : State) (k : Nat) (f : Job → Job) :
    (s.updJob k f).lasting = s.lasting := by
  unfold updJob
  split <;> simp only [setTgt_lasting]

@[simp] theorem setPort_lasting (s : State) (p : Nat) (x : PortSt) :
    (s.setPort p x).lasting = s.lasting := by
  simp only [setPort, lasting_mk, lasting_eta]

@[simp] theorem updPort_lasting (s : State) (p : Nat) (f : PortSt → PortSt) :
    (s.updPort p f).lasting = s.lasting := by
  simp only [updPort, setPort_lasting]

@[simp] theorem setCle_lasting (s : State) (e : Nat) (x : CleSt) :
    (s.setCle e x).lasting = s.lasting := by
  simp only [setCle, lasting_mk, lasting_eta]

@[simp] theorem updFab_lasting (s : State) (f : FabSt → FabSt) :
    (s.updFab f).lasting = s.lasting := by
  simp only [updFab, lasting_mk, lasting_eta]

@[simp] theorem updMmc_lasting (s : State) (f : MmcSt → MmcSt) :
    (s.updMmc f).lasting = s.lasting := by
  simp only [updMmc, lasting_mk, lasting_eta]

@[simp] theorem updPwr_lasting (s : State) (f : PwrSt → PwrSt) :
    (s.updPwr f).lasting = s.lasting := by
  simp only [updPwr, lasting_mk, lasting_eta]

@[simp] theorem setQueueSt_lasting (s : State) (q : Nat) (x : QueueSt) :
    (s.setQueueSt q x).lasting = s.lasting := by
  simp only [setQueueSt, lasting_mk, lasting_eta]

@[simp] theorem emit_lasting (s : State) (o : Out) :
    (s.emit o).lasting = s.lasting := by
  simp only [emit, lasting_mk, lasting_eta]

@[simp] theorem raise_lasting (s : State) (e : Err) :
    (s.raise e).lasting = s.lasting := by
  simp only [raise, lasting_mk, lasting_eta]

@[simp] theorem freeBytes_lasting (s : State) (n : Nat) :
    (s.freeBytes n).2.lasting = s.lasting := by
  simp only [freeBytes, lasting_mk, lasting_eta]

@[simp] theorem freeWord_lasting (s : State) :
    (s.freeWord).2.lasting = s.lasting := by
  simp only [freeWord, lasting_mk, lasting_eta]

@[simp] theorem now_lasting (s : State) :
    (s.now).2.lasting = s.lasting := by
  simp only [now, freeWord_lasting]

/-! ### Machine/Flags -/

@[simp] theorem bump_lasting (s : State) (a hi lo n : Nat) :
    (s.bump a hi lo n).lasting = s.lasting := by
  simp only [bump, setRegF_lasting]

@[simp] theorem setBit_lasting (s : State) (a i : Nat) :
    (s.setBit a i).lasting = s.lasting := by
  simp only [setBit, setRegF_lasting]

@[simp] theorem clrBit_lasting (s : State) (a i : Nat) :
    (s.clrBit a i).lasting = s.lasting := by
  simp only [clrBit, setRegF_lasting]

@[simp] theorem maxF_lasting (s : State) (a hi lo v : Nat) :
    (s.maxF a hi lo v).lasting = s.lasting := by
  simp only [maxF, setRegF_lasting]

@[simp] theorem gate_lasting (s : State) (b : Nat) (f : State → State) (hf : ∀ s, (f s).lasting = s.lasting) :
    (s.gate b f).lasting = s.lasting := by
  simp only [gate, bump_lasting, hf, lasting_ite, ite_self]

/-! ### Machine/Operands -/

@[simp] theorem raiseCode_lasting (s : State) (code scope index detail : Nat) :
    (s.raiseCode code scope index detail).lasting = s.lasting := by
  simp only [raiseCode, raise_lasting]

/-! ### Machine/Mem -/

@[simp] theorem putSector_lasting (s : State) (ch off : Nat) (bs : List Byte) (poison : Bool) :
    (s.putSector ch off bs poison).lasting = s.lasting := by
  simp only [putSector, lasting_mk, lasting_eta]

@[simp] theorem countPins_lasting (s : State) (r : Nat) :
    (s.countPins r).lasting = s.lasting := by
  simp only [countPins, setRegF_lasting]

@[simp] theorem moveUnit_lasting (s : State) (ch x : Nat) (bad : List Bool) :
    (s.moveUnit ch x bad).lasting = s.lasting := by
  simp only [moveUnit, updChan_lasting, bump_lasting, lasting_mk, lasting_eta, lasting_ite, ite_self]

@[simp] theorem writeBack_lasting (s : State) (l : Line) :
    (s.writeBack l).lasting = s.lasting := by
  simp only [writeBack, moveUnit_lasting, putSector_lasting, lasting_ite, ite_self, foldl_lasting, implies_true]

theorem makeRoom_lasting (s : State) (ch ln : Nat) :
    ∀ t, (s.makeRoom ch ln) = some t → t.lasting = s.lasting := by
  grind [makeRoom, writeBack_lasting, setSlice_lasting]

@[simp] theorem place_lasting (s : State) (l : Line) (hint : Nat) (who : Option Nat) :
    (s.place l hint who).lasting = s.lasting := by
  grind [place, setSlice_lasting, countPins_lasting, bump_lasting, updUnit_lasting]

@[simp] theorem hit_lasting (s : State) (l : Line) (hint : Nat) (who : Option Nat) :
    (s.hit l hint who).lasting = s.lasting := by
  simp only [hit, place_lasting, lasting_ite, ite_self]

@[simp] theorem dropLine_lasting (s : State) (l : Line) :
    (s.dropLine l).lasting = s.lasting := by
  simp only [dropLine, setSlice_lasting, countPins_lasting, bump_lasting, putSector_lasting, lasting_mk, lasting_eta,
    lasting_ite, ite_self, foldl_lasting, implies_true]

@[simp] theorem hold_lasting (s : State) (b : Bool) :
    (s.hold b).lasting = s.lasting := by
  simp only [hold, lasting_mk, lasting_eta, lasting_ite, ite_self]

@[simp] theorem orWait_lasting (s : State) (f : State → State) (hf : ∀ s, (f s).lasting = s.lasting) :
    (s.orWait f).lasting = s.lasting := by
  simp only [orWait, hf, lasting_mk, lasting_eta, lasting_ite, ite_self]

@[simp] theorem calm_lasting (s : State) (f : State → State) (hf : ∀ s, (f s).lasting = s.lasting) :
    (s.calm f).lasting = s.lasting := by
  simp only [calm, hf, lasting_mk, lasting_eta]

@[simp] theorem access_lasting (s : State) (ch ln hint : Nat) (who : Option Nat) :
    (s.access ch ln hint who).1.lasting = s.lasting := by
  grind [access, hit_lasting, makeRoom_lasting, hold_lasting, place_lasting]

@[simp] theorem seen_lasting (s : State) (bs : List Byte) (poison : Bool) :
    (s.seen bs poison).1.lasting = s.lasting := by
  simp only [seen, freeBytes_lasting, fst_ite_lasting, ite_self]

@[simp] theorem readLine_lasting (s : State) (ch ln lo n hint : Nat) (who : Option Nat) :
    (s.readLine ch ln lo n hint who).1.lasting = s.lasting := by
  grind [readLine, freeBytes_lasting, dropLine_lasting, hold_lasting, access_lasting, seen_lasting, foldl_fst_lasting]

@[simp] theorem writeLine_lasting (s : State) (ch ln lo : Nat) (bs : List Byte) (ps : List Bool) (hint : Nat) :
    (s.writeLine ch ln lo bs ps hint).lasting = s.lasting := by
  grind [writeLine, raiseCode_lasting, moveUnit_lasting, hit_lasting, makeRoom_lasting, hold_lasting, place_lasting,
    access_lasting, setSlice_lasting, writeBack_lasting]

@[simp] theorem memRead_lasting (s : State) (a n hint : Nat) :
    (s.memRead a n hint).1.lasting = s.lasting := by
  simp only [memRead, readLine_lasting, foldl_fst_lasting, implies_true]

@[simp] theorem memWriteP_lasting (s : State) (a : Nat) (bs : List Byte) (ps : List Bool) (hint : Nat) :
    (s.memWriteP a bs ps hint).lasting = s.lasting := by
  simp only [memWriteP, writeLine_lasting, foldl_fst_lasting, implies_true]

@[simp] theorem memWrite_lasting (s : State) (a : Nat) (bs : List Byte) (hint : Nat) :
    (s.memWrite a bs hint).lasting = s.lasting := by
  simp only [memWrite, memWriteP_lasting]

@[simp] theorem hostWrite_lasting (s : State) (pasid : Option Nat) (a : Nat) (bs : List Byte) :
    (s.hostWrite pasid a bs).lasting = s.lasting := by
  simp only [hostWrite, lasting_mk, lasting_eta]

/-! ### Machine/Tile -/

@[simp] theorem tileWrite_lasting (s : State) (pu : Nat) (bs : List (Nat × Byte)) (poison : Bool) :
    (s.tileWrite pu bs poison).lasting = s.lasting := by
  simp only [tileWrite, freeBytes_lasting, updUnit_lasting, lasting_ite, ite_self]

/-! ### Machine/Slots -/

@[simp] theorem bumpSpec_lasting (s : State) (pu : Nat) (spec : Bool) (a hi lo n : Nat) :
    (s.bumpSpec pu spec a hi lo n).lasting = s.lasting := by
  simp only [bumpSpec, updUnit_lasting, bump_lasting, lasting_ite, ite_self]

@[simp] theorem setSpec_lasting (s : State) (pu : Nat) (spec : Bool) (a hi lo v : Nat) :
    (s.setSpec pu spec a hi lo v).lasting = s.lasting := by
  simp only [setSpec, updUnit_lasting, setRegF_lasting, lasting_ite, ite_self]

@[simp] theorem raiseSpec_lasting (s : State) (pu : Nat) (spec : Bool) (e : Err) :
    (s.raiseSpec pu spec e).lasting = s.lasting := by
  simp only [raiseSpec, updUnit_lasting, raise_lasting, lasting_ite, ite_self]

@[simp] theorem countSlip_lasting (s : State) (pu : Nat) (spec : Bool) (a pos : Nat) :
    (s.countSlip pu spec a pos).lasting = s.lasting := by
  simp only [countSlip, setSpec_lasting, bumpSpec_lasting]

/-! ### Machine/Halt -/

@[simp] theorem sendAbort_lasting (s : State) (u : Nat) :
    (s.sendAbort u).lasting = s.lasting := by
  unfold sendAbort
  split <;> simp only [updUnit_lasting]

@[simp] theorem setHaltRegs_lasting (s : State) (pu : Nat) (h : HaltInfo) (deferred : Bool) :
    (s.setHaltRegs pu h deferred).lasting = s.lasting := by
  simp only [setHaltRegs, setReg_lasting, setRegF_lasting, lasting_ite, ite_self]

@[simp] theorem stopUnit_lasting (s : State) (pu t : Nat) (keep : RunSt → Bool) :
    (s.stopUnit pu t keep).lasting = s.lasting := by
  simp only [stopUnit, updUnit_lasting]

@[simp] theorem settlePending_lasting (s : State) (pu : Nat) :
    (s.settlePending pu).lasting = s.lasting := by
  simp only [settlePending]
  split <;> simp only [setRegF_lasting, lasting_ite, ite_self]

@[simp] theorem closeFaults_lasting (s : State) :
    (s.closeFaults).lasting = s.lasting := by
  simp only [closeFaults, lasting_mk, lasting_eta]

@[simp] theorem haltUnit_lasting (s : State) (pu : Nat) (h : HaltInfo) (deferred : Bool) :
    (s.haltUnit pu h deferred).lasting = s.lasting := by
  simp only [haltUnit, setHaltRegs_lasting, settlePending_lasting, stopUnit_lasting, clrBit_lasting,
    sendAbort_lasting, closeFaults_lasting, raise_lasting, lasting_ite, ite_self]

@[simp] theorem haltWork_lasting (s : State) (pu : Nat) (h : HaltInfo) :
    (s.haltWork pu h).lasting = s.lasting := by
  simp only [haltWork, updUnit_lasting, haltUnit_lasting, lasting_ite, ite_self]

@[simp] theorem squashUnit_lasting (s : State) (pu : Nat) :
    (s.squashUnit pu).lasting = s.lasting := by
  simp only [squashUnit, updUnit_lasting]
  refine (foldl_lasting (fun s e => ?_) _ _).trans (foldl_lasting (fun s sl => ?_) _ _)
  · split
    · rfl
    · rfl
    · split <;> rfl
    · rfl
  · split
    · rfl
    · simp only [updUnit_lasting, setReg_lasting, foldl_lasting, implies_true]

@[simp] theorem squash_lasting (s : State) (pc : Nat) :
    (s.squash pc).lasting = s.lasting := by
  simp only [squash, squashUnit_lasting, foldl_lasting, implies_true]

@[simp] theorem endCheck_lasting (s : State) :
    (s.endCheck).lasting = s.lasting := by
  unfold endCheck
  split <;> simp only [lasting_mk, lasting_eta, lasting_ite, ite_self]

@[simp] theorem clusterEnd_lasting (s : State) (pc reason : Nat) :
    (s.clusterEnd pc reason).lasting = s.lasting := by
  simp only [clusterEnd, endCheck_lasting, updClu_lasting]

@[simp] theorem haltCc_lasting (s : State) (pc reason word : Nat) (at_ : Option Nat) :
    (s.haltCc pc reason word at_).lasting = s.lasting := by
  grind [haltCc, setRegF_lasting, squash_lasting, updClu_lasting, raise_lasting, clusterEnd_lasting]

@[simp] theorem fenceCluster_lasting (s : State) (pc : Nat) :
    (s.fenceCluster pc).lasting = s.lasting := by
  simp only [fenceCluster, haltUnit_lasting, haltCc_lasting, foldl_lasting, implies_true]

/-! ### Machine/Fault -/

@[simp] theorem setStream_lasting (s : State) (pu g t : Nat) (x : Option StreamSt) :
    (s.setStream pu g t x).lasting = s.lasting := by
  simp only [setStream, updUnit_lasting]

@[simp] theorem updStream_lasting (s : State) (pu g t : Nat) (f : StreamSt → StreamSt) :
    (s.updStream pu g t f).lasting = s.lasting := by
  unfold updStream
  split <;> simp only [setStream_lasting]

@[simp] theorem setSflt_lasting (s : State) (pu g t : Nat) (st : StreamSt) (addr : Nat) (blocking : Bool) :
    (s.setSflt pu g t st addr blocking).lasting = s.lasting := by
  simp only [setSflt, setReg_lasting]

@[simp] theorem clearSflt_lasting (s : State) (pu : Nat) :
    (s.clearSflt pu).lasting = s.lasting := by
  simp only [clearSflt, setReg_lasting, setRegF_lasting]

@[simp] theorem clearPending_lasting (s : State) (pu g t : Nat) :
    (s.clearPending pu g t).lasting = s.lasting := by
  simp only [clearPending, setRegF_lasting, lasting_ite, ite_self]

@[simp] theorem streamHalt_lasting (s : State) (pu g t : Nat) (st : StreamSt) (addr sub : Nat) (deferred : Bool) :
    (s.streamHalt pu g t st addr sub deferred).lasting = s.lasting := by
  simp only [streamHalt, closeFaults_lasting, settlePending_lasting, setStream_lasting, haltUnit_lasting,
    setSflt_lasting, lasting_ite, ite_self]

@[simp] theorem blockDevice_lasting (s : State) (pu g t : Nat) (st : StreamSt) (deferred : Bool) :
    (s.blockDevice pu g t st deferred).lasting = s.lasting := by
  simp only [blockDevice, setSflt_lasting, setStream_lasting, streamHalt_lasting, lasting_mk, lasting_eta,
    lasting_ite, ite_self]

@[simp] theorem sendPageReq_lasting (s : State) (pu g t : Nat) :
    (s.sendPageReq pu g t).lasting = s.lasting := by
  unfold sendPageReq
  split <;> simp only [setStream_lasting, emit_lasting, lasting_ite, ite_self]

@[simp] theorem blockHost_lasting (s : State) (pu g t : Nat) (st : StreamSt) (deferred : Bool) :
    (s.blockHost pu g t st deferred).lasting = s.lasting := by
  simp only [blockHost, streamHalt_lasting, setSflt_lasting, sendPageReq_lasting, setStream_lasting, lasting_ite,
    ite_self]

@[simp] theorem failXlat_lasting (s : State) (pu g t : Nat) (st : StreamSt) (code : Nat) (deferred : Bool) :
    (s.failXlat pu g t st code deferred).lasting = s.lasting := by
  simp only [failXlat, setStream_lasting, blockDevice_lasting, blockHost_lasting, streamHalt_lasting, lasting_ite,
    ite_self]

@[simp] theorem retireChan_lasting (s : State) (ch : Nat) (dead empty : Bool) :
    (s.retireChan ch dead empty).lasting = s.lasting := by
  simp only [retireChan, updChan_lasting, setRegF_lasting, raiseCode_lasting, lasting_ite, ite_self]

@[simp] theorem countUe_lasting (s : State) (h : Nat) :
    (s.countUe h).lasting = s.lasting := by
  simp only [countUe, bump_lasting, updChan_lasting, retireChan_lasting, lasting_ite, ite_self]

@[simp] theorem noteParity_lasting (s : State) (pu key sec : Nat) :
    (s.noteParity pu key sec).lasting = s.lasting := by
  simp only [noteParity, updUnit_lasting]

@[simp] theorem applyHeld_lasting (s : State) (pu : Nat) (x1 : HeldEff) :
    (s.applyHeld pu x1).lasting = s.lasting := by
  unfold applyHeld
  split <;> simp only [bump_lasting, setRegF_lasting, raise_lasting, countUe_lasting, noteParity_lasting,
    haltUnit_lasting, lasting_mk, lasting_eta]

@[simp] theorem raisePend_lasting (s : State) (pu k : Nat) :
    (s.raisePend pu k).lasting = s.lasting := by
  grind [raisePend, failXlat_lasting]

@[simp] theorem confirmUnit_lasting (s : State) (pu : Nat) :
    (s.confirmUnit pu).lasting = s.lasting := by
  simp only [confirmUnit, updUnit_lasting, applyHeld_lasting, raisePend_lasting, foldl_lasting, implies_true]

/-! ### Machine/Almanac -/

@[simp] theorem putRecords_lasting (s : State) (rs : List (List W64)) :
    (s.putRecords rs).lasting = s.lasting := by
  unfold putRecords
  split <;> simp only [bump_lasting, emit_lasting, setRegF_lasting, setBit_lasting, lasting_mk, lasting_eta,
    lasting_ite, ite_self, foldl_lasting, implies_true]

@[simp] theorem record_lasting (s : State) (type cls reason scope index : Nat) (w2 w3 : W64) :
    (s.record type cls reason scope index w2 w3).lasting = s.lasting := by
  simp only [record, now_lasting, bump_lasting, putRecords_lasting, lasting_mk, lasting_eta, lasting_ite, ite_self]

@[simp] theorem gatewayDrop_lasting (s : State) (pc tag : Nat) :
    (s.gatewayDrop pc tag).lasting = s.lasting := by
  simp only [gatewayDrop, record_lasting, fenceCluster_lasting, lasting_mk, lasting_eta, lasting_ite, ite_self]

/-! ### Machine/Control -/

@[simp] theorem declareAll_lasting (s : State) (pu : Nat) :
    (s.declareAll pu).lasting = s.lasting := by
  simp only [declareAll, updUnit_lasting, foldl_lasting, implies_true]

@[simp] theorem complete_lasting (s : State) (pu : Nat) (p : Prov) :
    (s.complete pu p).lasting = s.lasting := by
  simp only [complete, updUnit_lasting, declareAll_lasting]

@[simp] theorem addToken_lasting (s : State) (pc ctr n : Nat) :
    (s.addToken pc ctr n).lasting = s.lasting := by
  simp only [addToken, setBit_lasting, setRegF_lasting, lasting_ite, ite_self]

@[simp] theorem sendTok_lasting (s : State) (pc : Nat) (dest : TokDest) (ctr n seq : Nat) :
    (s.sendTok pc dest ctr n seq).lasting = s.lasting := by
  simp only [sendTok, lasting_mk, lasting_eta, lasting_ite, ite_self]

@[simp] theorem flushSigs_lasting (s : State) (pc : Nat) :
    (s.flushSigs pc).lasting = s.lasting := by
  simp only [flushSigs, setClu_lasting, sendTok_lasting, foldl_lasting, implies_true]

@[simp] theorem advance_lasting (s : State) (pc x1 : Nat) :
    (s.advance pc x1).lasting = s.lasting := by
  fun_induction advance <;> grind [setClu_lasting, setRegF_lasting]

@[simp] theorem moveOn_lasting (s : State) (pc : Nat) :
    (s.moveOn pc).lasting = s.lasting := by
  simp only [moveOn, advance_lasting]

@[simp] theorem breakNow_lasting (s : State) (pc : Nat) :
    (s.breakNow pc).lasting = s.lasting := by
  simp only [breakNow, haltCc_lasting, updClu_lasting, lasting_ite, ite_self]

@[simp] theorem executed_lasting (s : State) (pc n : Nat) :
    (s.executed pc n).lasting = s.lasting := by
  simp only [executed, updClu_lasting, bump_lasting, breakNow_lasting, moveOn_lasting, lasting_ite, ite_self]

@[simp] theorem running1_lasting (s : State) (pc : Nat) :
    (s.running1 pc).lasting = s.lasting := by
  simp only [running1, setRegF_lasting, lasting_ite, ite_self]

@[simp] theorem stall_lasting (s : State) (pc : Nat) :
    (s.stall pc).lasting = s.lasting := by
  simp only [stall, setRegF_lasting, lasting_ite, ite_self]

@[simp] theorem command_lasting (s : State) (c op : Nat) (two : W64 → Bool) (bad : State → Nat → W64 → W64 → Bool) (body : State → Nat → W64 → W64 → Nat → State) (hbody : ∀ s a2 a3 a4 a5, (body s a2 a3 a4 a5).lasting = s.lasting) :
    (s.command c op two bad body).lasting = s.lasting := by
  simp only [command]
  split
  · rfl
  split
  · rfl
  · simp only [haltCc_lasting, updClu_lasting, setRegF_lasting, hbody, lasting_ite, ite_self]

@[simp] theorem enqueue_lasting (s : State) (pc : Nat) (w0 : W64) (word n : Nat) (cmd : QCmd) :
    (s.enqueue pc w0 word n cmd).lasting = s.lasting := by
  simp only [enqueue, stall_lasting, updUnit_lasting, declareAll_lasting, updClu_lasting, executed_lasting,
    running1_lasting, lasting_ite, ite_self, foldl_lasting, implies_true]

@[simp] theorem fxCfg_lasting (s : State) (c : Nat) :
    (s.fxCfg c).lasting = s.lasting := by
  simp only [fxCfg, command_lasting, enqueue_lasting, implies_true]

@[simp] theorem cfgSource_lasting (s : State) (pc bank src addr : Nat) :
    (s.cfgSource pc bank src addr).1.lasting = s.lasting := by
  simp only [cfgSource, memRead_lasting, fst_ite_lasting, ite_self]

@[simp] theorem setRegs_lasting (s : State) (a : Nat) (ws : List W64) :
    (s.setRegs a ws).lasting = s.lasting := by
  simp only [setRegs, setReg_lasting, foldl_lasting, implies_true]

@[simp] theorem fxDcrcCheck_lasting (s : State) (u sl : Nat) :
    (s.fxDcrcCheck u sl).lasting = s.lasting := by
  unfold fxDcrcCheck
  repeat' split
  all_goals simp only [cfgSource_lasting, updUnit_lasting, declareAll_lasting, haltCc_lasting, setRegs_lasting,
    lasting_ite, ite_self]

@[simp] theorem fxPatch_lasting (s : State) (c : Nat) :
    (s.fxPatch c).lasting = s.lasting := by
  simp only [fxPatch, command_lasting, bump_lasting, updClu_lasting, setRegF_lasting, implies_true]

@[simp] theorem fxPatchTakeEffect_lasting (s : State) (c : Nat) :
    (s.fxPatchTakeEffect c).lasting = s.lasting := by
  grind [fxPatchTakeEffect, updClu_lasting, memRead_lasting, haltCc_lasting, setReg_lasting, setRegF_lasting,
    breakNow_lasting, moveOn_lasting, foldl_lasting]

@[simp] theorem fxReplay_lasting (s : State) (c : Nat) :
    (s.fxReplay c).lasting = s.lasting := by
  simp only [fxReplay, command_lasting, haltCc_lasting, bump_lasting, setClu_lasting, breakNow_lasting,
    setRegF_lasting, lasting_ite, ite_self, implies_true]

@[simp] theorem fxGo_lasting (s : State) (c : Nat) :
    (s.fxGo c).lasting = s.lasting := by
  simp only [fxGo, command_lasting, enqueue_lasting, implies_true]

@[simp] theorem fxStrm_lasting (s : State) (c : Nat) :
    (s.fxStrm c).lasting = s.lasting := by
  simp only [fxStrm, command_lasting, stall_lasting, updUnit_lasting, updClu_lasting, executed_lasting,
    running1_lasting, lasting_ite, ite_self, foldl_lasting, implies_true]

@[simp] theorem fxGoAdmit_lasting (s : State) (u sl : Nat) :
    (s.fxGoAdmit u sl).lasting = s.lasting := by
  grind [fxGoAdmit, updUnit_lasting]

@[simp] theorem advanceSpec_lasting (s : State) (pc : Nat) :
    (s.advanceSpec pc).lasting = s.lasting := by
  simp only [advanceSpec, moveOn_lasting, updClu_lasting, lasting_ite, ite_self]

@[simp] theorem fxWaittok_lasting (s : State) (c : Nat) :
    (s.fxWaittok c).lasting = s.lasting := by
  simp only [fxWaittok, command_lasting, executed_lasting, running1_lasting, updClu_lasting, bump_lasting,
    advanceSpec_lasting, setRegF_lasting, lasting_ite, ite_self, implies_true]

@[simp] theorem fxWaittokRelease_lasting (s : State) (c : Nat) :
    (s.fxWaittokRelease c).lasting = s.lasting := by
  grind [fxWaittokRelease, setRegF_lasting, bump_lasting, updClu_lasting, confirmUnit_lasting, declareAll_lasting,
    breakNow_lasting, moveOn_lasting, flushSigs_lasting, foldl_lasting]

@[simp] theorem fxTokenTimeout_lasting (s : State) (c : Nat) :
    (s.fxTokenTimeout c).lasting = s.lasting := by
  grind [fxTokenTimeout, haltCc_lasting]

@[simp] theorem fxSigtok_lasting (s : State) (c : Nat) :
    (s.fxSigtok c).lasting = s.lasting := by
  simp only [fxSigtok, command_lasting, sendTok_lasting, flushSigs_lasting, updClu_lasting, executed_lasting,
    running1_lasting, lasting_ite, ite_self, implies_true]

@[simp] theorem fxTokenAdd_lasting (s : State) (i : Nat) :
    (s.fxTokenAdd i).lasting = s.lasting := by
  simp only [fxTokenAdd]
  repeat' split
  all_goals simp only [gatewayDrop_lasting, addToken_lasting, lasting_mk, lasting_eta]

@[simp] theorem fxSwap_lasting (s : State) (c : Nat) :
    (s.fxSwap c).lasting = s.lasting := by
  simp only [fxSwap, command_lasting, haltCc_lasting, executed_lasting, running1_lasting, setBit_lasting, lasting_ite,
    ite_self, implies_true]

@[simp] theorem fxSwapTakeEffect_lasting (s : State) (c : Nat) :
    (s.fxSwapTakeEffect c).lasting = s.lasting := by
  unfold fxSwapTakeEffect
  split <;> simp only [setRegF_lasting, clrBit_lasting, lasting_ite, ite_self]

@[simp] theorem fxFence_lasting (s : State) (c : Nat) :
    (s.fxFence c).lasting = s.lasting := by
  simp only [fxFence, command_lasting, bump_lasting, updClu_lasting, setRegF_lasting, implies_true]

@[simp] theorem fxFenceRelease_lasting (s : State) (c : Nat) :
    (s.fxFenceRelease c).lasting = s.lasting := by
  grind [fxFenceRelease, updClu_lasting, breakNow_lasting, moveOn_lasting, setRegF_lasting]

@[simp] theorem fxHalt_lasting (s : State) (c : Nat) :
    (s.fxHalt c).lasting = s.lasting := by
  simp only [fxHalt, command_lasting, bump_lasting, setRegF_lasting, updClu_lasting, haltCc_lasting, executed_lasting,
    running1_lasting, lasting_ite, ite_self, implies_true]

@[simp] theorem fxProgramEnd_lasting (s : State) (c : Nat) :
    (s.fxProgramEnd c).lasting = s.lasting := by
  unfold fxProgramEnd
  split <;> simp only [setRegF_lasting, clusterEnd_lasting, lasting_ite, ite_self]

@[simp] theorem fxCcBreak_lasting (s : State) (c : Nat) :
    (s.fxCcBreak c).lasting = s.lasting := by
  unfold fxCcBreak
  split <;> simp only [haltCc_lasting, breakNow_lasting, updClu_lasting, lasting_ite, ite_self]

@[simp] theorem fxCcResume_lasting (s : State) (c : Nat) :
    (s.fxCcResume c).lasting = s.lasting := by
  unfold fxCcResume
  split <;> simp only [setRegF_lasting, lasting_ite, ite_self]

@[simp] theorem fxSwapReq_lasting (s : State) (c : Nat) :
    (s.fxSwapReq c).lasting = s.lasting := by
  unfold fxSwapReq
  split <;> simp only [setBit_lasting]

/-! ### Machine/Access -/

@[simp] theorem noteWrote_lasting (s : State) (pu : Nat) (p : Prov) (off : Nat) :
    (s.noteWrote pu p off).lasting = s.lasting := by
  simp only [noteWrote, updUnit_lasting, lasting_ite, ite_self]

@[simp] theorem uncountSlip_lasting (s : State) (pu pos : Nat) (x : SlipRec) :
    (s.uncountSlip pu pos x).lasting = s.lasting := by
  simp only [uncountSlip, updUnit_lasting, bump_lasting, setRegF_lasting, lasting_ite, ite_self]

@[simp] theorem undoSlip_lasting (s : State) (pu pos : Nat) (x : SlipRec) :
    (s.undoSlip pu pos x).lasting = s.lasting := by
  simp only [undoSlip]
  split <;> simp only [uncountSlip_lasting, updUnit_lasting, lasting_ite, ite_self]

@[simp] theorem noteUse_lasting (s : State) (pu : Nat) (x : SlipRec) :
    (s.noteUse pu x).lasting = s.lasting := by
  simp only [noteUse, updUnit_lasting]

@[simp] theorem meetUse_lasting (s : State) (pu pos who : Nat) (y : SlipRec) (h : HaltInfo) :
    (s.meetUse pu pos who y h).1.lasting = s.lasting := by
  simp only [meetUse, undoSlip_lasting, haltWork_lasting, fst_ite_lasting, ite_self]

@[simp] theorem portUse_lasting (s : State) (pu u port agent cyc word : Nat) (k : Cmd) (undo : List (Nat × Byte)) (pois : Bool) (seg : Option Nat) :
    (s.portUse pu u port agent cyc word k undo pois seg).1.lasting = s.lasting := by
  simp only [portUse]
  split <;> simp only [meetUse_lasting, noteUse_lasting, countSlip_lasting]

@[simp] theorem streamUse_lasting (s : State) (pu u who : Nat) (k : Cmd) (agent cyc off : Nat) (undo : List (Nat × Byte)) :
    (s.streamUse pu u who k agent cyc off undo).1.lasting = s.lasting := by
  simp only [streamUse]
  split <;> simp only [meetUse_lasting, noteUse_lasting]

@[simp] theorem notePlace_lasting (s : State) (pu bank owner c : Nat) (w : State.Window) :
    (s.notePlace pu bank owner c w).lasting = s.lasting := by
  simp only [notePlace, updUnit_lasting, lasting_ite, ite_self]

@[simp] theorem readWords_lasting (s : State) (pu u agent : Nat) (k : Cmd) (w : State.Window) (ws : List Nat) :
    (s.readWords pu u agent k w ws).1.lasting = s.lasting := by
  simp only [readWords, portUse_lasting, notePlace_lasting, foldl_fst_lasting, implies_true]

@[simp] theorem writeWords_lasting (s : State) (pu u agent : Nat) (k : Cmd) (w : State.Window) (bs : List (Nat × Byte)) (poison : Bool) (seg : Option Nat) :
    (s.writeWords pu u agent k w bs poison seg).1.lasting = s.lasting := by
  grind [writeWords, portUse_lasting, notePlace_lasting, tileWrite_lasting, noteWrote_lasting, foldl_fst_lasting]

@[simp] theorem enterRru_lasting (s : State) (pu u : Nat) (k : Cmd) (cyc : Nat) :
    (s.enterRru pu u k cyc).1.lasting = s.lasting := by
  simp only [enterRru, portUse_lasting]

/-! ### Machine/Rru -/

@[simp] theorem rruRow_lasting (s : State) (pu u : Nat) (r : RunSt) (m cyc : Nat) (xs : List (Nat × W32)) (poison : Bool) :
    (s.rruRow pu u r m cyc xs poison).1.lasting = s.lasting := by
  simp only [rruRow]
  split <;> simp only [readWords_lasting, writeWords_lasting, bumpSpec_lasting, fst_ite_lasting, ite_self]

@[simp] theorem rruFeed_lasting (s : State) (pu u : Nat) (r : RunSt) (m cyc : Nat) (at_ : Machine.SMap (Option Nat)) (xs : List (Nat × W32 × Bool)) :
    (s.rruFeed pu u r m cyc at_ xs).1.lasting = s.lasting := by
  simp only [rruFeed, rruRow_lasting, fst_ite_lasting, ite_self, foldl_fst_lasting, implies_true]

@[simp] theorem rruRun_lasting (s : State) (pu u : Nat) (r : RunSt) :
    (s.rruRun pu u r).1.lasting = s.lasting := by
  grind [rruRun, readWords_lasting, enterRru_lasting, rruFeed_lasting, foldl_fst_lasting]

/-! ### Machine/GoPrep -/

@[simp] theorem readRecord_lasting (s : State) (pu sel : Nat) (f : Machine.Format) :
    (s.readRecord pu sel f).1.lasting = s.lasting := by
  simp only [readRecord, memRead_lasting, fst_ite_lasting, ite_self]

@[simp] theorem prepRead_lasting (s : State) (pu u sl : Nat) (d : List W64) (p : Prov) :
    (s.prepRead pu u sl d p).1.lasting = s.lasting := by
  grind [prepRead, readRecord_lasting]

@[simp] theorem fxGoPrepare_lasting (s : State) (u sl t0 t : Nat) :
    (s.fxGoPrepare u sl t0 t).lasting = s.lasting := by
  simp only [fxGoPrepare]
  grind [updUnit_lasting, setRegs_lasting, haltWork_lasting, prepRead_lasting]

/-! ### Machine/Engine -/

@[simp] theorem setEng_lasting (s : State) (pu e : Nat) (x : EngSt) :
    (s.setEng pu e x).lasting = s.lasting := by
  simp only [setEng, updUnit_lasting]

@[simp] theorem setRun_lasting (s : State) (pu : Nat) (r : RunSt) :
    (s.setRun pu r).lasting = s.lasting := by
  simp only [setRun, updUnit_lasting]

@[simp] theorem rowWrite_lasting (s : State) (pu u : Nat) (r : RunSt) (agent : Nat → Nat) (bs : List OutByte) (cyc : Nat) :
    (s.rowWrite pu u r agent bs cyc).1.lasting = s.lasting := by
  grind [rowWrite, portUse_lasting, tileWrite_lasting, noteWrote_lasting, foldl_fst_lasting]

@[simp] theorem rruDrain_lasting (s : State) (pu u : Nat) (r : RunSt) (m g cyc : Nat) (cs : List ColVal) :
    (s.rruDrain pu u r m g cyc cs).1.lasting = s.lasting := by
  simp only [rruDrain]
  split <;> simp only [readWords_lasting, rruFeed_lasting, fst_ite_lasting, ite_self]

@[simp] theorem deliver_lasting (s : State) (pu u ticket target m g : Nat) (cols : List (Nat × Nat)) (vs : List W32) (ps : List Bool) (agent : Nat → Nat) (cyc : Nat) :
    (s.deliver pu u ticket target m g cols vs ps agent cyc).1.lasting = s.lasting := by
  grind [deliver, portUse_lasting, rruDrain_lasting, setRun_lasting, rowWrite_lasting, setEng_lasting, bumpSpec_lasting]

@[simp] theorem chainOut_lasting (s : State) (pu u : Nat) (r : RunSt) (x : ChainRow) (cyc : Nat) :
    (s.chainOut pu u r x cyc).1.lasting = s.lasting := by
  grind [chainOut, setSpec_lasting, bumpSpec_lasting, updUnit_lasting, deliver_lasting, setRun_lasting,
    foldl_fst_lasting]

@[simp] theorem chainMatch_lasting (s : State) (pu u e x1 : Nat) :
    (s.chainMatch pu u e x1).1.lasting = s.lasting := by
  fun_induction chainMatch <;> grind [setSpec_lasting, updUnit_lasting, portUse_lasting, freeBytes_lasting,
    bumpSpec_lasting, chainOut_lasting, foldl_fst_lasting]

@[simp] theorem chainOwn_lasting (s : State) (pu u : Nat) (r : RunSt) (x : ChainRow) :
    (s.chainOwn pu u r x).1.lasting = s.lasting := by
  simp only [chainOwn]
  split <;> simp only [portUse_lasting, chainOut_lasting, chainMatch_lasting, updUnit_lasting, fst_ite_lasting,
    ite_self]

@[simp] theorem drainPass_lasting (s : State) (pu u e : Nat) (p : PassRec) (r : RunSt) (dc : Nat × Nat) (parity : List (Nat × Nat × Nat)) :
    (s.drainPass pu u e p r dc parity).1.lasting = s.lasting := by
  simp only [drainPass]
  split <;> simp only [setEng_lasting, raiseSpec_lasting, updUnit_lasting, noteParity_lasting, chainOwn_lasting,
    deliver_lasting, bumpSpec_lasting, setRun_lasting, lasting_ite, fst_ite_lasting, ite_self, foldl_lasting,
    foldl_fst_lasting, implies_true]

@[simp] theorem feed_lasting (s : State) (pu u e : Nat) (r : RunSt) (c : Nat) :
    (s.feed pu u e r c).1.lasting = s.lasting := by
  grind [feed, setEng_lasting, readWords_lasting, portUse_lasting, foldl_fst_lasting]

@[simp] theorem runPass_lasting (s : State) (pu u e : Nat) (r : RunSt) :
    (s.runPass pu u e r).1.lasting = s.lasting := by
  simp only [runPass]
  split <;> simp only [feed_lasting, setEng_lasting, setRun_lasting, bumpSpec_lasting]

@[simp] theorem startGo_lasting (s : State) (pu u sl : Nat) (g : RunSt × Nat × List QEnt) :
    (s.startGo pu u sl g).1.lasting = s.lasting := by
  simp only [startGo, updUnit_lasting, bumpSpec_lasting, countSlip_lasting, setBit_lasting, rruRun_lasting,
    declareAll_lasting, lasting_ite, fst_ite_lasting, ite_self]

theorem dueWork_lasting (s : State) (pu u e c : Nat) :
    ∀ t, (s.dueWork pu u e c) = some t → t.1.lasting = s.lasting := by
  grind [dueWork, drainPass_lasting, runPass_lasting, startGo_lasting]

@[simp] theorem toHalt_lasting (s : State) (pu u x1 : Nat) (x2 : HaltInfo) :
    (s.toHalt pu u x1 x2).1.lasting = s.lasting := by
  fun_induction toHalt <;> grind [dueWork_lasting]

@[simp] theorem haltAt_lasting (s : State) (pu u : Nat) (h : HaltInfo) :
    (s.haltAt pu u h).lasting = s.lasting := by
  unfold haltAt
  split <;> simp only [toHalt_lasting, haltWork_lasting]

@[simp] theorem orHalt_lasting (z : State × Option HaltInfo) (pu u : Nat) :
    (orHalt z pu u).lasting = z.1.lasting := by
  unfold orHalt
  split <;> simp only [haltAt_lasting]

@[simp] theorem fxDrainStart_lasting (s : State) (u e : Nat) (parity : List (Nat × Nat × Nat)) :
    (s.fxDrainStart u e parity).lasting = s.lasting := by
  simp only [fxDrainStart]
  split
  · rfl
  split
  · rfl
  · simp only [orHalt_lasting, drainPass_lasting]

@[simp] theorem fxPassStart_lasting (s : State) (u e : Nat) :
    (s.fxPassStart u e).lasting = s.lasting := by
  simp only [fxPassStart]
  split
  · rfl
  split
  · rfl
  · simp only [orHalt_lasting, runPass_lasting]

@[simp] theorem fxGoStart_lasting (s : State) (u sl : Nat) :
    (s.fxGoStart u sl).lasting = s.lasting := by
  simp only [fxGoStart]
  split
  · rfl
  split
  · rfl
  · simp only [orHalt_lasting, startGo_lasting]

/-! ### Machine/Complete -/

@[simp] theorem fxDescriptorComplete_lasting (s : State) (u sl : Nat) :
    (s.fxDescriptorComplete u sl).lasting = s.lasting := by
  simp only [fxDescriptorComplete]
  split
  · rfl
  split
  · rfl
  · simp only [setSpec_lasting, updUnit_lasting, clrBit_lasting, flushSigs_lasting, complete_lasting, lasting_mk,
    lasting_eta, lasting_ite, ite_self]

@[simp] theorem putRecord_lasting (s : State) (addr lo hi : Nat) (bs : List Byte) :
    (s.putRecord addr lo hi bs).lasting = s.lasting := by
  simp only [putRecord, memWrite_lasting]

@[simp] theorem fxScaleReport_lasting (s : State) (i : Nat) :
    (s.fxScaleReport i).lasting = s.lasting := by
  simp only [fxScaleReport]
  split
  · rfl
  split
  · rfl
  · simp only [memRead_lasting, putRecord_lasting, lasting_mk, lasting_eta]

@[simp] theorem fxScaleClose_lasting (s : State) (i : Nat) :
    (s.fxScaleClose i).lasting = s.lasting := by
  unfold fxScaleClose
  split <;> simp only [memRead_lasting, freeBytes_lasting, putRecord_lasting, bump_lasting, lasting_mk, lasting_eta,
    lasting_ite, ite_self]

@[simp] theorem fxChainRowArrive_lasting (s : State) (u : Nat) :
    (s.fxChainRowArrive u).lasting = s.lasting := by
  grind [fxChainRowArrive, updUnit_lasting, gatewayDrop_lasting, portUse_lasting, haltAt_lasting, orHalt_lasting,
    chainMatch_lasting, foldl_fst_lasting]

@[simp] theorem fxChainAbort_lasting (s : State) (u : Nat) :
    (s.fxChainAbort u).lasting = s.lasting := by
  simp only [fxChainAbort]
  split
  · rfl
  split
  · rfl
  · simp only [updUnit_lasting, setBit_lasting, clearSflt_lasting, haltUnit_lasting, lasting_ite, ite_self]

@[simp] theorem fxWatchdog_lasting (s : State) (u : Nat) :
    (s.fxWatchdog u).lasting = s.lasting := by
  grind [fxWatchdog, haltWork_lasting]

/-! ### Machine/Stream -/

@[simp] theorem progWords_lasting (s : State) (pc : Nat) (e : SEnt) (i n : Nat) :
    (s.progWords pc e i n).1.lasting = s.lasting := by
  simp only [progWords, memRead_lasting, fst_ite_lasting, ite_self]

@[simp] theorem readProg_lasting (s : State) (pu u : Nat) (e : SEnt) :
    (s.readProg pu u e).1.lasting = s.lasting := by
  simp only [readProg, progWords_lasting, updUnit_lasting, fst_ite_lasting, ite_self]

@[simp] theorem startHalt_lasting (s : State) (pu : Nat) (e : SEnt) (sub : Nat) :
    (s.startHalt pu e sub).lasting = s.lasting := by
  simp only [startHalt, updUnit_lasting, setRegF_lasting, clearSflt_lasting, haltWork_lasting, lasting_ite, ite_self]

@[simp] theorem fxStreamStart_lasting (s : State) (u : Nat) :
    (s.fxStreamStart u).lasting = s.lasting := by
  grind [fxStreamStart, readProg_lasting, startHalt_lasting, updUnit_lasting]

@[simp] theorem issueElem_lasting (s : State) (pu u g t : Nat) (st : StreamSt) :
    (s.issueElem pu u g t st).lasting = s.lasting := by
  grind [issueElem, updUnit_lasting, setStream_lasting, emit_lasting, failXlat_lasting, gatewayDrop_lasting,
    lasting_mk, lasting_eta]

@[simp] theorem fxStreamIssue_lasting (s : State) (u g : Nat) :
    (s.fxStreamIssue u g).lasting = s.lasting := by
  grind [fxStreamIssue, updUnit_lasting, setRegF_lasting, issueElem_lasting]

@[simp] theorem doHost_lasting (s : State) (pu u g t E : Nat) :
    (s.doHost pu u g t E).lasting = s.lasting := by
  unfold doHost
  split <;> simp only [updStream_lasting, lasting_mk, lasting_eta, lasting_ite, ite_self, foldl_lasting, implies_true]

@[simp] theorem settleInvals_lasting (s : State) :
    (s.settleInvals).lasting = s.lasting := by
  simp only [settleInvals, emit_lasting, lasting_mk, lasting_eta, foldl_lasting, implies_true]

@[simp] theorem streamWords_lasting (s : State) (pu u who : Nat) (k : Cmd) (agent : Nat) (ws : List ((Nat × List (Nat × Byte) × Bool) × Nat)) :
    (s.streamWords pu u who k agent ws).1.lasting = s.lasting := by
  grind [streamWords, streamUse_lasting, tileWrite_lasting, noteWrote_lasting, foldl_fst_lasting]

@[simp] theorem delivered_lasting (s : State) (pu g t : Nat) (st : StreamSt) :
    (s.delivered pu g t st).lasting = s.lasting := by
  simp only [delivered, bumpSpec_lasting, flushSigs_lasting, complete_lasting, setStream_lasting, lasting_ite, ite_self]

@[simp] theorem afterWords_lasting (z : State × Option HaltInfo) (pu u g t : Nat) (st : StreamSt) :
    (afterWords z pu u g t st).lasting = z.1.lasting := by
  unfold afterWords
  split <;> simp only [haltAt_lasting, updStream_lasting, delivered_lasting]

@[simp] theorem deliverLoad_lasting (s : State) (pu u g t : Nat) (st : StreamSt) (p : State.Path) :
    (s.deliverLoad pu u g t st p).lasting = s.lasting := by
  simp only [deliverLoad, afterWords_lasting, streamWords_lasting]

@[simp] theorem deliverStore_lasting (s : State) (pu u g t : Nat) (st : StreamSt) (p : State.Path) :
    (s.deliverStore pu u g t st p).lasting = s.lasting := by
  simp only [deliverStore, afterWords_lasting, streamWords_lasting]

@[simp] theorem deliverPush_lasting (s : State) (pu u g t : Nat) (st : StreamSt) (p : State.Path) :
    (s.deliverPush pu u g t st p).lasting = s.lasting := by
  grind [deliverPush, gatewayDrop_lasting, streamHalt_lasting, streamWords_lasting, afterWords_lasting]

@[simp] theorem fxElementDelivery_lasting (s : State) (u g t cyc : Nat) :
    (s.fxElementDelivery u g t cyc).lasting = s.lasting := by
  simp only [fxElementDelivery]
  repeat' split
  all_goals simp only [settleInvals_lasting, doHost_lasting, deliverLoad_lasting, deliverStore_lasting,
    deliverPush_lasting]

@[simp] theorem fxFaultTimeout_lasting (s : State) (u g t : Nat) :
    (s.fxFaultTimeout u g t).lasting = s.lasting := by
  simp only [fxFaultTimeout]
  split
  · rfl
  split
  · rfl
  · simp only [streamHalt_lasting, lasting_ite, ite_self]

@[simp] theorem fxAtsTranslationResponse_lasting (s : State) (u g t : Nat) (r w : Bool) (logSize : Nat) :
    (s.fxAtsTranslationResponse u g t r w logSize).lasting = s.lasting := by
  simp only [fxAtsTranslationResponse]
  split
  · rfl
  split
  · rfl
  · simp only [setStream_lasting, failXlat_lasting, lasting_mk, lasting_eta, lasting_ite, ite_self]

@[simp] theorem sendWaiting_lasting (s : State) :
    (s.sendWaiting).lasting = s.lasting := by
  simp only [sendWaiting, sendPageReq_lasting, foldl_lasting, implies_true]

@[simp] theorem refuseHost_lasting (s : State) (pu g t : Nat) :
    (s.refuseHost pu g t).lasting = s.lasting := by
  unfold refuseHost
  split <;> simp only [setStream_lasting, streamHalt_lasting, lasting_ite, ite_self]

@[simp] theorem fxPageRequestResponse_lasting (s : State) (u g t : Nat) (r : PageResp) :
    (s.fxPageRequestResponse u g t r).lasting = s.lasting := by
  unfold fxPageRequestResponse
  split
  · rfl
  split
  · rfl
  split
  · rfl
  split
  · simp only [sendWaiting_lasting, clearPending_lasting, setStream_lasting]
  · simp only [sendWaiting_lasting, refuseHost_lasting]
  · refine (foldl_lasting (fun s x => ?_) _ _).trans rfl
    split
    · simp only [lasting_ite, refuseHost_lasting, ite_self]
    · rfl

@[simp] theorem fxAtsInvalidation_lasting (s : State) (addr len : Nat) :
    (s.fxAtsInvalidation addr len).lasting = s.lasting := by
  simp only [fxAtsInvalidation, settleInvals_lasting, lasting_mk, lasting_eta]

@[simp] theorem refuseBlocked_lasting (s : State) :
    (s.refuseBlocked).lasting = s.lasting := by
  grind [refuseBlocked, refuseHost_lasting, foldl_lasting]

@[simp] theorem fxPriEnableClear_lasting (s : State) :
    (s.fxPriEnableClear).lasting = s.lasting := by
  simp only [fxPriEnableClear, refuseBlocked_lasting, lasting_mk, lasting_eta]

/-! ### Machine/Hbm -/

@[simp] theorem answer_lasting (s : State) (w : Wait) (bs : List (Byte × Bool)) :
    (s.answer w bs).lasting = s.lasting := by
  grind [answer, updStream_lasting]

@[simp] theorem serveAs_lasting (s : State) (w : Wait) (hint : Nat) :
    (s.serveAs w hint).lasting = s.lasting := by
  simp only [serveAs, calm_lasting, answer_lasting, writeLine_lasting, readLine_lasting, lasting_ite, ite_self,
    implies_true]

@[simp] theorem serve_lasting (s : State) (w : Wait) :
    (s.serve w).lasting = s.lasting := by
  simp only [serve, serveAs_lasting]

@[simp] theorem addHeld_lasting (s : State) (w : Wait) :
    (s.addHeld w).lasting = s.lasting := by
  simp only [addHeld, bump_lasting, setSlice_lasting]

@[simp] theorem addFill_lasting (s : State) (w : Wait) :
    (s.addFill w).lasting = s.lasting := by
  simp only [addFill, setSlice_lasting]

@[simp] theorem present1_lasting (s : State) (w : Wait) :
    (s.present1 w).lasting = s.lasting := by
  simp only [present1, serve_lasting, addFill_lasting, addHeld_lasting, lasting_ite, ite_self]

@[simp] theorem takeReq_lasting (s : State) (ws : List Wait) :
    (s.takeReq ws).lasting = s.lasting := by
  simp only [takeReq, present1_lasting, lasting_ite, ite_self, foldl_lasting, implies_true]

@[simp] theorem fxSliceRequest_lasting (s : State) (r : SliceReq) :
    (s.fxSliceRequest r).lasting = s.lasting := by
  cases r with
  | read => simp only [fxSliceRequest, lasting_ite, takeReq_lasting, ite_self]
  | write => simp only [fxSliceRequest, lasting_ite, takeReq_lasting, ite_self]
  | stream u g t i =>
    simp only [fxSliceRequest]
    split
    · rfl
    · simp only [lasting_ite, updStream_lasting, present1_lasting, foldl_lasting, implies_true, ite_self]

@[simp] theorem poisonSector_lasting (s : State) (ch off : Nat) :
    (s.poisonSector ch off).lasting = s.lasting := by
  simp only [poisonSector]
  split <;> simp only [setSlice_lasting, putSector_lasting, lasting_ite, ite_self]

@[simp] theorem withHeld_lasting (s : State) (who : Option Nat) (es : List HeldEff) (now : State)
    (hnow : now.lasting = s.lasting) : (s.withHeld who es now).lasting = s.lasting := by
  cases who with
  | none => exact hnow
  | some pu => exact updUnit_lasting _ _ _

@[simp] theorem hbmCe_lasting (s : State) (ch off : Nat) (who : Option Nat) :
    (s.hbmCe ch off who).lasting = s.lasting := by
  simp only [hbmCe, withHeld_lasting, raise_lasting, bump_lasting]

@[simp] theorem markUe_lasting (s : State) (ch off : Nat) :
    (s.markUe ch off).lasting = s.lasting := by
  simp only [markUe, countUe_lasting, putSector_lasting]

@[simp] theorem hbmUe_lasting (s : State) (ch off : Nat) (who : Option Nat) :
    (s.hbmUe ch off who).lasting = s.lasting := by
  simp only [hbmUe, putSector_lasting, withHeld_lasting, countUe_lasting, raise_lasting]

@[simp] theorem detectNow_lasting (s : State) (ch off : Nat) :
    (s.detectNow ch off).lasting = s.lasting := by
  simp only [detectNow, lasting_mk, lasting_eta]

@[simp] theorem fillSector_lasting (s : State) (ch off : Nat) (o : SectorOutcome) (who : Option Nat) :
    (s.fillSector ch off o who).1.lasting = s.lasting := by
  simp only [fillSector]
  grind [hbmUe_lasting, detectNow_lasting, hbmCe_lasting, putSector_lasting, withHeld_lasting, raise_lasting]

@[simp] theorem fillSectors_lasting (s : State) (ch off n : Nat) (os : List SectorOutcome) (who : Option Nat) :
    (s.fillSectors ch off n os who).1.lasting = s.lasting := by
  simp only [fillSectors, fillSector_lasting, foldl_fst_lasting, implies_true]

@[simp] theorem fxMigrationUnitMove_lasting (s : State) (d : Nat) (os : List SectorOutcome) :
    (s.fxMigrationUnitMove d os).lasting = s.lasting := by
  simp only [fxMigrationUnitMove, fillSectors_lasting, moveUnit_lasting, setRegF_lasting, updChan_lasting,
    lasting_ite, fst_ite_lasting, ite_self]

@[simp] theorem fillPlace_lasting (s : State) (l : Line) (hint : Nat) (who : Option Nat) :
    (s.fillPlace l hint who).lasting = s.lasting := by
  grind [fillPlace, makeRoom_lasting, place_lasting]

@[simp] theorem serveLine_lasting (s : State) (w : Wait) (l : Line) :
    (s.serveLine w l).1.lasting = s.lasting := by
  simp only [serveLine, answer_lasting, writeBack_lasting, fst_ite_lasting, ite_self]

@[simp] theorem fxLineFill_lasting (s : State) (ch line : Nat) (os : List SectorOutcome) :
    (s.fxLineFill ch line os).lasting = s.lasting := by
  simp only [fxLineFill, setSlice_lasting, fillSectors_lasting, serve_lasting, serveLine_lasting, fillPlace_lasting,
    serveAs_lasting, lasting_ite, fst_ite_lasting, ite_self, foldl_fst_lasting, implies_true]

@[simp] theorem fxPatrolRead_lasting (s : State) (ch sector : Nat) (o : SectorOutcome) :
    (s.fxPatrolRead ch sector o).lasting = s.lasting := by
  unfold fxPatrolRead
  split <;> simp only [hbmCe_lasting, hbmUe_lasting, lasting_ite, ite_self]

@[simp] theorem fxRetrainWindowOpen_lasting (s : State) (ch : Nat) :
    (s.fxRetrainWindowOpen ch).lasting = s.lasting := by
  simp only [fxRetrainWindowOpen, setRegF_lasting, lasting_ite, ite_self]

@[simp] theorem release_lasting (s : State) (ch : Nat) :
    (s.release ch).lasting = s.lasting := by
  simp only [release, setSlice_lasting, setRegF_lasting, present1_lasting, foldl_lasting, implies_true]

@[simp] theorem fxRetrainReopen_lasting (s : State) (ch spared : Nat) :
    (s.fxRetrainReopen ch spared).lasting = s.lasting := by
  simp only [fxRetrainReopen, setRegF_lasting, bump_lasting, updChan_lasting, release_lasting, retireChan_lasting,
    lasting_ite, ite_self]

@[simp] theorem fxRetrainTimeout_lasting (s : State) (ch : Nat) (restored lanes : Bool) :
    (s.fxRetrainTimeout ch restored lanes).lasting = s.lasting := by
  simp only [fxRetrainTimeout, bump_lasting, setRegF_lasting, updChan_lasting, retireChan_lasting, release_lasting,
    lasting_ite, ite_self]

@[simp] theorem fxFallbackTrainingDone_lasting (s : State) (ch spared : Nat) (passed : Bool) :
    (s.fxFallbackTrainingDone ch spared passed).lasting = s.lasting := by
  simp only [fxFallbackTrainingDone, setRegF_lasting, release_lasting, retireChan_lasting, lasting_ite, ite_self]

@[simp] theorem fxMscFlush_lasting (s : State) (r : Nat) :
    (s.fxMscFlush r).lasting = s.lasting := by
  simp only [fxMscFlush, setBit_lasting, setSlice_lasting, lasting_ite, ite_self]

@[simp] theorem flushLine_lasting (s : State) (r ch line : Nat) :
    (s.flushLine r ch line).lasting = s.lasting := by
  unfold flushLine
  split <;> simp only [writeBack_lasting, setSlice_lasting, lasting_ite, ite_self]

@[simp] theorem fxMscFlushDone_lasting (s : State) (r : Nat) :
    (s.fxMscFlushDone r).lasting = s.lasting := by
  simp only [fxMscFlushDone, flushLine_lasting, clrBit_lasting, setSlice_lasting, lasting_ite, ite_self,
    foldl_lasting, implies_true]

@[simp] theorem unpin_lasting (s : State) (r : Nat) :
    (s.unpin r).lasting = s.lasting := by
  simp only [unpin, setRegF_lasting, setSlice_lasting]

@[simp] theorem fxUnpinAll_lasting (s : State) (r : Nat) :
    (s.fxUnpinAll r).lasting = s.lasting := by
  simp only [fxUnpinAll, unpin_lasting]

@[simp] theorem fxTgStart_lasting (s : State) (ch : Nat) (v : W64) :
    (s.fxTgStart ch v).lasting = s.lasting := by
  simp only [fxTgStart, setReg_lasting, setRegF_lasting, updChan_lasting, lasting_ite, ite_self]

@[simp] theorem tgFail_lasting (s : State) (ch sec : Nat) (lanes : W64) :
    (s.tgFail ch sec lanes).lasting = s.lasting := by
  simp only [tgFail, updChan_lasting, setRegF_lasting, bump_lasting, setReg_lasting, lasting_ite, ite_self]

@[simp] theorem tgSector_lasting (s : State) (ch : Nat) (w : W64) (faulty : List (Nat × W64)) (sec : Nat) :
    (s.tgSector ch w faulty sec).1.lasting = s.lasting := by
  simp only [tgSector, putSector_lasting, tgFail_lasting, lasting_ite, fst_ite_lasting, ite_self]

@[simp] theorem tgRun_lasting (s : State) (ch : Nat) (faulty : List (Nat × W64)) (cut : Nat) :
    (s.tgRun ch faulty cut).1.lasting = s.lasting := by
  simp only [tgRun, tgSector_lasting, setRegF_lasting, fst_ite_lasting, ite_self, foldl_fst_lasting, implies_true]

@[simp] theorem fxTgProgramEnd_lasting (s : State) (ch : Nat) (faulty : List (Nat × W64)) :
    (s.fxTgProgramEnd ch faulty).lasting = s.lasting := by
  simp only [fxTgProgramEnd, tgRun_lasting, setRegF_lasting, lasting_ite, ite_self]

@[simp] theorem fxTgStop_lasting (s : State) (ch : Nat) (v : W64) (faulty : List (Nat × W64)) :
    (s.fxTgStop ch v faulty).lasting = s.lasting := by
  simp only [fxTgStop, setReg_lasting, freeWord_lasting, tgRun_lasting, setRegF_lasting, lasting_ite, ite_self]

/-! ### Machine/Wake -/

@[simp] theorem setLnk_lasting (s : State) (p v : Nat) :
    (s.setLnk p v).lasting = s.lasting := by
  simp only [setLnk, setRegF_lasting]

@[simp] theorem setReadyWord_lasting (s : State) (v : W64) :
    (s.setReadyWord v).lasting = s.lasting := by
  simp only [setReadyWord, setReg_lasting, lasting_mk, lasting_eta, lasting_ite, ite_self]

@[simp] theorem setReady_lasting (s : State) (b : Nat) (on : Bool) :
    (s.setReady b on).lasting = s.lasting := by
  simp only [setReady, setReadyWord_lasting]

@[simp] theorem portWake_lasting (s : State) (p : Nat) :
    (s.portWake p).lasting = s.lasting := by
  simp only [portWake, setLnk_lasting, lasting_ite, ite_self]

@[simp] theorem resetRecord_lasting (s : State) :
    (s.resetRecord).lasting = s.lasting := by
  simp only [resetRecord, record_lasting]

@[simp] theorem beginWake_lasting (s : State) (bit from_ : Nat) :
    (s.beginWake bit from_).lasting = s.lasting := by
  simp only [beginWake, setRegF_lasting, bump_lasting, updPwr_lasting, portWake_lasting, freeWord_lasting,
    resetRecord_lasting, emit_lasting, lasting_mk, lasting_eta, lasting_ite, ite_self, foldl_lasting, implies_true]

@[simp] theorem wakeUp_lasting (s : State) (bit : Nat) :
    (s.wakeUp bit).lasting = s.lasting := by
  simp only [wakeUp, updPwr_lasting, beginWake_lasting, lasting_ite, ite_self]

/-! ### Machine/Update -/

@[simp] theorem upeFail_lasting (s : State) (d status : Nat) :
    (s.upeFail d status).lasting = s.lasting := by
  simp only [upeFail, bump_lasting, setRegF_lasting, updJob_lasting]

end Sys2Proof.Machine.State

namespace Sys2Proof.Machine
open State

@[simp] theorem UpeChk.bad_lasting (c : UpeChk) (b : Bool) : (c.bad b).s.lasting = c.s.lasting := (rfl)

@[simp] theorem UpeChk.plane_lasting (c : UpeChk) (a n : Nat) : (c.plane a n).s.lasting = c.s.lasting := by
  simp only [UpeChk.plane, UpeChk.bad_lasting]

@[simp] theorem UpeChk.read_lasting (c : UpeChk) (a n : Nat) : (c.read a n).1.s.lasting = c.s.lasting := by
  unfold UpeChk.read
  split
  · rfl
  split
  · exact c.bad_lasting true
  · exact memRead_lasting _ _ _ _

@[simp] theorem UpeChk.coef_lasting (c : UpeChk) (w : W64) (used : Bool) (step : Nat) :
    (c.coef w used step).1.s.lasting = c.s.lasting := by
  have hread := UpeChk.read_lasting
  have hbad := UpeChk.bad_lasting
  unfold UpeChk.coef
  generalize UpeChk.read = read at hread
  generalize UpeChk.bad = bad at hbad
  grind

@[simp] theorem UpeChk.scaleRec_lasting (c : UpeChk) (a : Nat) (f : Format) :
    (c.scaleRec a f).1.s.lasting = c.s.lasting := by
  unfold UpeChk.scaleRec
  split
  · exact c.bad_lasting true
  · exact memRead_lasting _ _ _ _

@[simp] theorem UpeChk.entry_lasting (c : UpeChk) (e : List W64) : (c.entry e).1.s.lasting = c.s.lasting := by
  have hread := UpeChk.read_lasting
  have hbad := UpeChk.bad_lasting
  have hplane := UpeChk.plane_lasting
  have hscale := UpeChk.scaleRec_lasting
  unfold UpeChk.entry
  generalize UpeChk.read = read at hread
  generalize UpeChk.bad = bad at hbad
  generalize UpeChk.plane = plane at hplane
  generalize UpeChk.scaleRec = scaleRec at hscale
  grind

@[simp] theorem UpeChk.tensor_lasting (c : UpeChk) (e : List W64) (step : Nat) :
    (c.tensor e step).1.s.lasting = c.s.lasting := by
  have hread := UpeChk.read_lasting
  have hbad := UpeChk.bad_lasting
  have hplane := UpeChk.plane_lasting
  have hscale := UpeChk.scaleRec_lasting
  have hcoef := UpeChk.coef_lasting
  have hentry := UpeChk.entry_lasting
  unfold UpeChk.tensor
  generalize UpeChk.read = read at hread
  generalize UpeChk.bad = bad at hbad
  generalize UpeChk.plane = plane at hplane
  generalize UpeChk.scaleRec = scaleRec at hscale
  generalize UpeChk.coef = coef at hcoef
  generalize UpeChk.entry = entry at hentry
  grind

theorem UpeChk.foldl_fst_lasting {α β : Type} {f : UpeChk × β → α → UpeChk × β}
    (hf : ∀ c a, (f c a).1.s.lasting = c.1.s.lasting) (l : List α) (c : UpeChk × β) :
    (l.foldl f c).1.s.lasting = c.1.s.lasting := by
  induction l generalizing c with
  | nil => rfl
  | cons a l ih => exact (ih _).trans (hf c a)

theorem UpeChk.foldl_lasting {α : Type} {f : UpeChk → α → UpeChk} (hf : ∀ c a, (f c a).s.lasting = c.s.lasting)
    (l : List α) (c : UpeChk) : (l.foldl f c).s.lasting = c.s.lasting := by
  induction l generalizing c with
  | nil => rfl
  | cons a l ih => exact (ih _).trans (hf c a)

@[simp] theorem upeCheck_lasting (s : State) (j : Job) : (upeCheck s j).1.s.lasting = s.lasting := by
  have hread := UpeChk.read_lasting
  have hbad := UpeChk.bad_lasting
  have hplane := UpeChk.plane_lasting
  have htensor := UpeChk.tensor_lasting
  have hentry := UpeChk.entry_lasting
  unfold upeCheck
  generalize UpeChk.read = read at hread
  generalize UpeChk.bad = bad at hbad
  generalize UpeChk.plane = plane at hplane
  generalize UpeChk.tensor = tensor at htensor
  generalize UpeChk.entry = entry at hentry
  simp only
  split
  · exact hbad _ _
  split
  · split <;> split
    case isTrue.isTrue | isFalse.isTrue => grind
    all_goals
      refine (UpeChk.foldl_fst_lasting (fun c k => ?_) _ _).trans (by grind)
      grind
  · split
    · exact (hbad _ _).trans (hread _ _ _)
    · exact (UpeChk.foldl_lasting (fun c i => hplane _ _ _) _ _).trans ((hbad _ _).trans (hread _ _ _))

end Sys2Proof.Machine

namespace Sys2Proof.Machine.State

@[simp] theorem upeStart_lasting (s : State) (d : Nat) : (s.upeStart d).lasting = s.lasting := by
  unfold upeStart
  split
  · rfl
  next j _ =>
    have hc := upeCheck_lasting (s.setRegF (rUpe d) 63 60 2) j
    simp only [lasting_ite, updJob_lasting, setRegF_lasting, upeFail_lasting, hc, ite_self]

@[simp] theorem fxUpeJobTake_lasting (s : State) (d : Nat) :
    (s.fxUpeJobTake d).lasting = s.lasting := by
  unfold fxUpeJobTake
  split <;> simp only [wakeUp_lasting, setRegF_lasting, updJob_lasting, upeStart_lasting, lasting_ite, ite_self]

@[simp] theorem fxUpeTokenRelease_lasting (s : State) (d : Nat) :
    (s.fxUpeTokenRelease d).lasting = s.lasting := by
  unfold fxUpeTokenRelease
  split
  · rfl
  dsimp only
  split
  · rfl
  · simp only [lasting_ite, upeStart_lasting, setRegF_lasting, ite_self]

@[simp] theorem fxUpeTokenTimeout_lasting (s : State) (d : Nat) :
    (s.fxUpeTokenTimeout d).lasting = s.lasting := by
  unfold fxUpeTokenTimeout
  split <;> simp only [upeFail_lasting, lasting_ite, ite_self]

@[simp] theorem upeDone_lasting (s : State) (d : Nat) (c : List Nat) :
    (s.upeDone d c).lasting = s.lasting := by
  simp only [upeDone, bump_lasting, updJob_lasting, setRegF_lasting]

@[simp] theorem fxUpeJobComplete_lasting (s : State) (d : Nat) :
    (s.fxUpeJobComplete d).lasting = s.lasting := by
  unfold fxUpeJobComplete
  split <;> simp only [bump_lasting, setRegF_lasting, updJob_lasting, lasting_mk, lasting_eta, lasting_ite, ite_self]

@[simp] theorem readCodes_lasting (s : State) (a z n hint : Nat) :
    (s.readCodes a z n hint).1.lasting = s.lasting := by
  simp only [readCodes, memRead_lasting]

@[simp] theorem writeCodes_lasting (s : State) (a z : Nat) (cs : List (Nat × Bool)) (hint : Nat) :
    (s.writeCodes a z cs hint).lasting = s.lasting := by
  simp only [writeCodes, memWriteP_lasting]

@[simp] theorem upeRow_lasting (s : State) (T : UpeTensor) (gmul : W32) (step k row n : Nat) (bad : Bool) :
    (s.upeRow T gmul step k row n bad).1.lasting = s.lasting := by
  simp only [upeRow, readCodes_lasting, writeCodes_lasting, lasting_ite, fst_ite_lasting, ite_self]

@[simp] theorem upeTensor_lasting (s : State) (d : Nat) (T : UpeTensor) (ta : Nat) (gmul : W32) (step : Nat) :
    (s.upeTensor d T ta gmul step).1.lasting = s.lasting := by
  simp only [upeTensor, readCodes_lasting, writeCodes_lasting, upeRow_lasting, memWrite_lasting, lasting_mk,
    lasting_eta, lasting_ite, fst_ite_lasting, ite_self, foldl_fst_lasting, implies_true]

@[simp] theorem upeGroup_lasting (s : State) (T : UpeTensor) (step : Nat) :
    (s.upeGroup T step).lasting = s.lasting := by
  simp only [upeGroup, memWrite_lasting]

@[simp] theorem fxUpdate_lasting (s : State) (d : Nat) :
    (s.fxUpdate d).lasting = s.lasting := by
  unfold fxUpdate
  split <;> simp only [upeTensor_lasting, upeDone_lasting, upeGroup_lasting, foldl_lasting, foldl_fst_lasting,
    implies_true]

@[simp] theorem fxNorm_lasting (s : State) (d : Nat) :
    (s.fxNorm d).lasting = s.lasting := by
  unfold fxNorm
  split <;> simp only [readCodes_lasting, upeDone_lasting, writeCodes_lasting, foldl_fst_lasting, implies_true]

@[simp] theorem readMat_lasting (s : State) (a n : Nat) :
    (s.readMat a n).1.lasting = s.lasting := by
  simp only [readMat, readCodes_lasting]

@[simp] theorem writeMat_lasting (s : State) (a : Nat) (m : List (W32 × Bool)) :
    (s.writeMat a m).lasting = s.lasting := by
  simp only [writeMat, writeCodes_lasting]

@[simp] theorem fxStatBlend_lasting (s : State) (d : Nat) :
    (s.fxStatBlend d).lasting = s.lasting := by
  unfold fxStatBlend
  split <;> simp only [readMat_lasting, writeMat_lasting, upeDone_lasting, memWrite_lasting]

@[simp] theorem fxRootPrep_lasting (s : State) (d : Nat) :
    (s.fxRootPrep d).lasting = s.lasting := by
  simp only [fxRootPrep]
  repeat' split
  all_goals simp only [readMat_lasting, upeDone_lasting, memWrite_lasting, writeMat_lasting, memWriteP_lasting]

@[simp] theorem fxRootT_lasting (s : State) (d : Nat) :
    (s.fxRootT d).lasting = s.lasting := by
  unfold fxRootT
  split <;> simp only [readMat_lasting, upeDone_lasting, writeMat_lasting]

/-! ### Machine/Link -/

@[simp] theorem sendCtrl_lasting (s : State) (p : Nat) (c : Ctrl) :
    (s.sendCtrl p c).lasting = s.lasting := by
  simp only [sendCtrl, emit_lasting]

@[simp] theorem linkOut_lasting (s : State) (p : Nat) (ack nak rep : Option (BitVec 12)) :
    (s.linkOut p ack nak rep).lasting = s.lasting := by
  simp only [linkOut, sendCtrl_lasting]

@[simp] theorem clearHeld_lasting (s : State) (d : Nat) :
    (s.clearHeld d).lasting = s.lasting := by
  simp only [clearHeld, updFab_lasting]

@[simp] theorem launch_lasting (s : State) (p : Nat) (q : Packet) :
    (s.launch p q).lasting = s.lasting := by
  simp only [launch, emit_lasting, setReg_lasting, updFab_lasting, setPort_lasting, lasting_ite, ite_self]

@[simp] theorem drainReinj_lasting (s : State) (p : Nat) :
    (s.drainReinj p).lasting = s.lasting := by
  simp only [drainReinj, updPort_lasting, launch_lasting, bump_lasting, lasting_ite, ite_self, foldl_lasting,
    implies_true]

@[simp] theorem portDown_lasting (s : State) (p cause : Nat) :
    (s.portDown p cause).lasting = s.lasting := by
  simp only [portDown, setRegF_lasting, setLnk_lasting, bump_lasting, updPort_lasting, raiseCode_lasting,
    setReady_lasting, lasting_ite, ite_self]

@[simp] theorem lowPower_lasting (s : State) (p : Nat) :
    (s.lowPower p).lasting = s.lasting := by
  simp only [lowPower, setLnk_lasting, updPort_lasting, setReady_lasting, updPwr_lasting, lasting_ite, ite_self]

@[simp] theorem sleepStep_lasting (s : State) (p : Nat) :
    (s.sleepStep p).lasting = s.lasting := by
  simp only [sleepStep, sendCtrl_lasting, updPort_lasting, lowPower_lasting, lasting_ite, ite_self]

@[simp] theorem fxPortSleep_lasting (s : State) (p : Nat) :
    (s.fxPortSleep p).lasting = s.lasting := by
  simp only [fxPortSleep, sleepStep_lasting, updPort_lasting, lasting_ite, ite_self]

@[simp] theorem freeTo_lasting (s : State) (p l : Nat) :
    (s.freeTo p l).lasting = s.lasting := by
  simp only [freeTo, updPort_lasting, lasting_ite, ite_self]

@[simp] theorem replay_lasting (s : State) (p : Nat) :
    (s.replay p).lasting = s.lasting := by
  simp only [replay, linkOut_lasting, portDown_lasting, updPort_lasting, maxF_lasting, bump_lasting, setReg_lasting,
    emit_lasting, lasting_ite, ite_self, foldl_lasting, implies_true]

@[simp] theorem fxLinkFlit_lasting (s : State) (p : Nat) (f : LinkFlit) :
    (s.fxLinkFlit p f).lasting = s.lasting := by
  grind [fxLinkFlit, portDown_lasting, updPort_lasting, freeTo_lasting, replay_lasting, sleepStep_lasting,
    drainReinj_lasting]

@[simp] theorem goUp_lasting (s : State) (p : Nat) :
    (s.goUp p).lasting = s.lasting := by
  simp only [goUp, setLnk_lasting, updPort_lasting, drainReinj_lasting, setReady_lasting, clearHeld_lasting,
    fxPortSleep_lasting, lasting_ite, ite_self]

@[simp] theorem initDone_lasting (s : State) (p : Nat) :
    (s.initDone p).lasting = s.lasting := by
  simp only [initDone, goUp_lasting, lasting_ite, ite_self]

@[simp] theorem newPartner_lasting (s : State) (p : Nat) (id : W64) (gen : Nat) :
    (s.newPartner p id gen).lasting = s.lasting := by
  simp only [newPartner, updFab_lasting, clearHeld_lasting, updPort_lasting, bump_lasting, lasting_ite, ite_self,
    foldl_lasting, implies_true]

@[simp] theorem fxInitFlit_lasting (s : State) (p : Nat) (f : InitFlit) :
    (s.fxInitFlit p f).lasting = s.lasting := by
  simp only [fxInitFlit, newPartner_lasting, portDown_lasting, setRegF_lasting, setReg_lasting, setReady_lasting,
    setLnk_lasting, initDone_lasting, updPort_lasting, lasting_ite, ite_self]

@[simp] theorem fxInitSend_lasting (s : State) (p : Nat) :
    (s.fxInitSend p).lasting = s.lasting := by
  simp only [fxInitSend, sendCtrl_lasting, initDone_lasting, updPort_lasting, lasting_ite, ite_self]

@[simp] theorem fxSleep_lasting (s : State) (p : Nat) :
    (s.fxSleep p).lasting = s.lasting := by
  simp only [fxSleep, sleepStep_lasting, updPort_lasting, lasting_ite, ite_self]

@[simp] theorem fxSleepAck_lasting (s : State) (p : Nat) :
    (s.fxSleepAck p).lasting = s.lasting := by
  simp only [fxSleepAck, lowPower_lasting, lasting_ite, ite_self]

@[simp] theorem setDepth_lasting (s : State) (p v n : Nat) :
    (s.setDepth p v n).lasting = s.lasting := by
  simp only [setDepth, setRegF_lasting, maxF_lasting]

@[simp] theorem setInp_lasting (s : State) (p v : Nat) (l : List RxPkt) :
    (s.setInp p v l).lasting = s.lasting := by
  simp only [setInp, setDepth_lasting, updPort_lasting]

@[simp] theorem packetIn_lasting (s : State) (p : Nat) (fl : List (List Byte)) :
    (s.packetIn p fl).lasting = s.lasting := by
  simp only [packetIn, updFab_lasting, setInp_lasting, lasting_ite, ite_self]

@[simp] theorem sendAck_lasting (s : State) (p : Nat) :
    (s.sendAck p).lasting = s.lasting := by
  simp only [sendAck, updPort_lasting, linkOut_lasting]

@[simp] theorem flitIn_lasting (s : State) (p : Nat) (head : Bool) (b : List Byte) :
    (s.flitIn p head b).lasting = s.lasting := by
  grind [flitIn, updPort_lasting, sendAck_lasting, setReg_lasting, packetIn_lasting]

@[simp] theorem ctrlIn_lasting (s : State) (p : Nat) (c : Ctrl) :
    (s.ctrlIn p c).lasting = s.lasting := by
  unfold ctrlIn
  split <;> simp only [fxLinkFlit_lasting, fxInitFlit_lasting, fxSleep_lasting, fxSleepAck_lasting]

@[simp] theorem slotIn_lasting (s : State) (p : Nat) (x : SlotIn) :
    (s.slotIn p x).lasting = s.lasting := by
  unfold slotIn
  split <;> simp only [ctrlIn_lasting, bump_lasting, flitIn_lasting, lasting_ite, ite_self]

@[simp] theorem fxCodewordReceive_lasting (s : State) (p : Nat) (cw : CodewordIn) :
    (s.fxCodewordReceive p cw).lasting = s.lasting := by
  unfold fxCodewordReceive
  split
  · rfl
  cases cw with
  | align => rfl
  | decoded n slots => simp only [lasting_ite, bump_lasting, slotIn_lasting, foldl_lasting, implies_true, ite_self]
  | uncorrectable => simp only [lasting_ite, bump_lasting, linkOut_lasting, updPort_lasting, ite_self]

@[simp] theorem fxNakRepeat_lasting (s : State) (p : Nat) :
    (s.fxNakRepeat p).lasting = s.lasting := by
  simp only [fxNakRepeat, linkOut_lasting, lasting_ite, ite_self]

@[simp] theorem fxAckTimer_lasting (s : State) (p : Nat) :
    (s.fxAckTimer p).lasting = s.lasting := by
  simp only [fxAckTimer, sendAck_lasting, lasting_ite, ite_self]

@[simp] theorem fxReplayTimeout_lasting (s : State) (p : Nat) :
    (s.fxReplayTimeout p).lasting = s.lasting := by
  simp only [fxReplayTimeout, replay_lasting, lasting_ite, ite_self]

@[simp] theorem fxLinkTrainingDone_lasting (s : State) (p : Nat) :
    (s.fxLinkTrainingDone p).lasting = s.lasting := by
  simp only [fxLinkTrainingDone, updPort_lasting, setLnk_lasting, lasting_ite, ite_self]

@[simp] theorem fxTrainFail_lasting (s : State) (p : Nat) :
    (s.fxTrainFail p).lasting = s.lasting := by
  simp only [fxTrainFail, portDown_lasting, lasting_ite, ite_self]

@[simp] theorem fxLockLoss_lasting (s : State) (p : Nat) :
    (s.fxLockLoss p).lasting = s.lasting := by
  simp only [fxLockLoss, portDown_lasting, lasting_ite, ite_self]

@[simp] theorem fxPartnerSignalLoss_lasting (s : State) (p : Nat) :
    (s.fxPartnerSignalLoss p).lasting = s.lasting := by
  simp only [fxPartnerSignalLoss, portDown_lasting, lasting_ite, ite_self]

@[simp] theorem fxAutoRetrain_lasting (s : State) (p : Nat) :
    (s.fxAutoRetrain p).lasting = s.lasting := by
  simp only [fxAutoRetrain, setLnk_lasting, lasting_ite, ite_self]

@[simp] theorem fxLnkRetrain_lasting (s : State) (p : Nat) :
    (s.fxLnkRetrain p).lasting = s.lasting := by
  simp only [fxLnkRetrain, setLnk_lasting, portDown_lasting, lasting_ite, ite_self]

@[simp] theorem portGate_lasting (s : State) (p : Nat) (f : State → State) (hf : ∀ s, (f s).lasting = s.lasting) :
    (s.portGate p f).lasting = s.lasting := by
  simp only [portGate, gate_lasting, hf, implies_true]

@[simp] theorem fxLnkEnable_lasting (s : State) (p : Nat) (on : Bool) :
    (s.fxLnkEnable p on).lasting = s.lasting := by
  simp only [fxLnkEnable, setBit_lasting, setLnk_lasting, clrBit_lasting, portDown_lasting, lasting_ite, ite_self]

@[simp] theorem fxClrCnt_lasting (s : State) (p : Nat) :
    (s.fxClrCnt p).lasting = s.lasting := by
  simp only [fxClrCnt, setReg_lasting, foldl_lasting, implies_true]

@[simp] theorem fxReinject_lasting (s : State) (p : Nat) :
    (s.fxReinject p).lasting = s.lasting := by
  grind [fxReinject, updPort_lasting, drainReinj_lasting, updFab_lasting]

@[simp] theorem fxSleepAckTimeout_lasting (s : State) (p : Nat) :
    (s.fxSleepAckTimeout p).lasting = s.lasting := by
  simp only [fxSleepAckTimeout, portDown_lasting, lasting_ite, ite_self]

@[simp] theorem fxSignalDetectWake_lasting (s : State) (p : Nat) :
    (s.fxSignalDetectWake p).lasting = s.lasting := by
  simp only [fxSignalDetectWake, portWake_lasting, wakeUp_lasting, updPort_lasting, lasting_ite, ite_self]

@[simp] theorem fxLanternDetect_lasting (s : State) (p bursts : Nat) :
    (s.fxLanternDetect p bursts).lasting = s.lasting := by
  simp only [fxLanternDetect, setBit_lasting, portWake_lasting, wakeUp_lasting, lasting_ite, ite_self]

@[simp] theorem fxLanternSend_lasting (s : State) (p : Nat) :
    (s.fxLanternSend p).lasting = s.lasting := by
  simp only [fxLanternSend, emit_lasting, lasting_ite, ite_self]

/-! ### Machine/Rings -/

@[simp] theorem qcfgErr_lasting (s : State) (n code : Nat) :
    (s.qcfgErr n code).lasting = s.lasting := by
  simp only [qcfgErr, setReg_lasting]

@[simp] theorem queueErr_lasting (s : State) (n err : Nat) :
    (s.queueErr n err).lasting = s.lasting := by
  simp only [queueErr, setRegF_lasting, lasting_mk, lasting_eta]

@[simp] theorem putEntry_lasting (s : State) (q : Nat) (ws : List W64) :
    (s.putEntry q ws).lasting = s.lasting := by
  simp only [putEntry, memWrite_lasting, hostWrite_lasting, setRegF_lasting, bump_lasting, setQueueSt_lasting,
    lasting_ite, ite_self]

@[simp] theorem stamp_lasting (s : State) (e : Evt) :
    (s.stamp e).2.lasting = s.lasting := by
  simp only [stamp, now_lasting, lasting_mk, lasting_eta]

@[simp] theorem countHeld_lasting (s : State) :
    (s.countHeld).lasting = s.lasting := by
  simp only [countHeld, setRegF_lasting]

@[simp] theorem flushEvents_lasting (q x1 : Nat) (x2 : State) :
    (flushEvents q x1 x2).lasting = x2.lasting := by
  fun_induction flushEvents <;> grind [stamp_lasting, putEntry_lasting, countHeld_lasting, lasting_mk, lasting_eta]

@[simp] theorem flushEq_lasting (s : State) (q : Nat) :
    (s.flushEq q).lasting = s.lasting := by
  simp only [flushEq, calm_lasting, flushEvents_lasting, implies_true]

@[simp] theorem fxEventDelivery_lasting (s : State) :
    (s.fxEventDelivery).lasting = s.lasting := by
  unfold fxEventDelivery
  split <;> simp only [stamp_lasting, calm_lasting, putEntry_lasting, countHeld_lasting, bump_lasting, lasting_mk,
    lasting_eta, lasting_ite, ite_self, implies_true]

@[simp] theorem sendVector_lasting (s : State) (v : Nat) :
    (s.sendVector v).lasting = s.lasting := by
  simp only [sendVector, setBit_lasting, emit_lasting, lasting_ite, ite_self]

@[simp] theorem fxMsixSend_lasting (s : State) (q : Nat) (late : Bool) :
    (s.fxMsixSend q late).lasting = s.lasting := by
  simp only [fxMsixSend, clrBit_lasting, setQueueSt_lasting, sendVector_lasting, lasting_ite, ite_self]

@[simp] theorem qWrite0_lasting (s : State) (n : Nat) (v : W64) :
    (s.qWrite0 n v).lasting = s.lasting := by
  simp only [qWrite0, setReg_lasting]

@[simp] theorem fxQueueEnable_lasting (s : State) (n : Nat) (v : W64) :
    (s.fxQueueEnable n v).lasting = s.lasting := by
  simp only [fxQueueEnable, qcfgErr_lasting, qWrite0_lasting, setRegF_lasting, setReg_lasting, setQueueSt_lasting,
    flushEq_lasting, lasting_ite, ite_self]

@[simp] theorem fxQueueDisable_lasting (s : State) (n : Nat) (v : W64) :
    (s.fxQueueDisable n v).lasting = s.lasting := by
  simp only [fxQueueDisable, qcfgErr_lasting, clrBit_lasting, setQueueSt_lasting, countHeld_lasting, lasting_mk,
    lasting_eta, lasting_ite, ite_self]

@[simp] theorem ring_lasting (s : State) (n : Nat) (v : W64) :
    (s.ring n v).lasting = s.lasting := by
  simp only [ring, bump_lasting, queueErr_lasting, setRegF_lasting, setQueueSt_lasting, setBit_lasting,
    flushEq_lasting, lasting_ite, ite_self]

@[simp] theorem bar4Err_lasting (s : State) (kind a : Nat) :
    (s.bar4Err kind a).lasting = s.lasting := by
  simp only [bar4Err, setRegF_lasting, bump_lasting]

@[simp] theorem bar4Data_lasting (s : State) (a n : Nat) :
    (s.bar4Data a n).lasting = s.lasting := by
  simp only [bar4Data, memRead_lasting, bar4Err_lasting, emit_lasting, lasting_ite, ite_self]

@[simp] theorem hostAct_lasting (s : State) (x1 : HostReq) :
    (s.hostAct x1).lasting = s.lasting := by
  unfold hostAct
  split <;> simp only [memWrite_lasting, bar4Data_lasting, ring_lasting]

@[simp] theorem hostRequest_lasting (s : State) (r : HostReq) :
    (s.hostRequest r).lasting = s.lasting := by
  simp only [hostRequest, calm_lasting, hostAct_lasting, lasting_mk, lasting_eta, lasting_ite, ite_self, implies_true]

@[simp] theorem hostDrain_lasting (x1 : Nat) (x2 : State) :
    (hostDrain x1 x2).lasting = x2.lasting := by
  fun_induction hostDrain <;> grind [hostAct_lasting, lasting_mk, lasting_eta]

@[simp] theorem resume_lasting (s : State) :
    (s.resume).lasting = s.lasting := by
  simp only [resume, calm_lasting, hostDrain_lasting, flushEq_lasting, foldl_lasting, implies_true]

@[simp] theorem fxBar4Read_lasting (s : State) (off n : Nat) :
    (s.fxBar4Read off n).lasting = s.lasting := by
  unfold fxBar4Read
  split <;> simp only [emit_lasting, bar4Err_lasting, hostRequest_lasting, lasting_ite, ite_self]

@[simp] theorem fxBar4Write_lasting (s : State) (off : Nat) (data : List Byte) :
    (s.fxBar4Write off data).lasting = s.lasting := by
  unfold fxBar4Write
  split <;> simp only [bar4Err_lasting, hostRequest_lasting, lasting_ite, ite_self]

@[simp] theorem fxDoorbell_lasting (s : State) (off size : Nat) (v : W64) :
    (s.fxDoorbell off size v).lasting = s.lasting := by
  simp only [fxDoorbell, hostRequest_lasting, lasting_ite, ite_self]

@[simp] theorem fxDoorbellArm_lasting (s : State) (off size : Nat) (v : W64) :
    (s.fxDoorbellArm off size v).lasting = s.lasting := by
  simp only [fxDoorbellArm, fxDoorbell_lasting, lasting_ite, ite_self]

@[simp] theorem fxSqFetch_lasting (s : State) (n : Nat) (r : RingRead) :
    (s.fxSqFetch n r).lasting = s.lasting := by
  simp only [fxSqFetch, memRead_lasting, queueErr_lasting, setQueueSt_lasting, lasting_ite, ite_self,
    foldl_fst_lasting, implies_true]

@[simp] theorem fxSqEntryTake_lasting (s : State) (k : Nat) :
    (s.fxSqEntryTake k).lasting = s.lasting := by
  grind [fxSqEntryTake, setQueueSt_lasting, setRegF_lasting, bump_lasting, setTgt_lasting]

@[simp] theorem fxCompletionPost_lasting (s : State) (k : Nat) :
    (s.fxCompletionPost k).lasting = s.lasting := by
  unfold fxCompletionPost
  split <;> simp only [setTgt_lasting, putEntry_lasting, lasting_ite, ite_self]

/-! ### Machine/Fabric -/

@[simp] theorem setRt_lasting (s : State) (bank e : Nat) (v : W64) :
    (s.setRt bank e v).lasting = s.lasting := by
  simp only [setRt, updFab_lasting]

@[simp] theorem fabDrop_lasting (s : State) (k : Nat) (q : Packet) (port : Nat) :
    (s.fabDrop k q port).lasting = s.lasting := by
  simp only [fabDrop, bump_lasting, updFab_lasting, record_lasting, raiseCode_lasting, lasting_mk, lasting_eta,
    lasting_ite, ite_self]

@[simp] theorem injectForm_lasting (s : State) (q : Packet) (hub : Nat) :
    (s.injectForm q hub).2.lasting = s.lasting := by
  grind [injectForm, updFab_lasting]

@[simp] theorem takeWaiting_lasting (s : State) (x : Packet × Nat × Option Nat) :
    (s.takeWaiting x).lasting = s.lasting := by
  unfold takeWaiting
  split <;> simp only [updFab_lasting, lasting_mk, lasting_eta, lasting_ite, ite_self]

@[simp] theorem handOver_lasting (s : State) (q : Packet) (port : Nat) :
    (s.handOver q port).lasting = s.lasting := by
  simp only [handOver, updFab_lasting, lasting_ite, ite_self]

@[simp] theorem placeOn_lasting (s : State) (o d : Nat) (q : Packet) :
    (s.placeOn o d q).lasting = s.lasting := by
  simp only [placeOn, updFab_lasting, launch_lasting]

@[simp] theorem send_lasting (s : State) (hub : Nat) (q : Packet) :
    (s.send hub q).lasting = s.lasting := by
  grind [send, updFab_lasting]

@[simp] theorem freeBuf_lasting (s : State) (p v : Nat) :
    (s.freeBuf p v).lasting = s.lasting := by
  simp only [freeBuf, updPort_lasting]

@[simp] theorem judge_lasting (s : State) (p : Nat) (q : Packet) : (s.judge p q).2.lasting = s.lasting := by
  unfold judge
  extract_lets k E seen d
  split
  · rfl
  split
  · rfl
  split
  · rfl
  · exact updFab_lasting s _

@[simp] theorem routeIn_lasting (s : State) (p v : Nat) : (s.routeIn p v).lasting = s.lasting := by
  simp only [routeIn]
  split
  · rfl
  split
  · rfl
  next x _ =>
  have hj := judge_lasting s p x.pkt
  generalize s.judge p x.pkt = j at hj
  simp only [lasting_ite, freeBuf_lasting, setInp_lasting, bump_lasting, updFab_lasting, portDown_lasting, ite_self, hj]
  split
  · rfl
  split
  · rfl
  split
  · simp only [freeBuf_lasting, setInp_lasting, fabDrop_lasting, setReg_lasting, hj]
  · split
    · simp only [freeBuf_lasting, setInp_lasting, fabDrop_lasting, setReg_lasting, hj]
    · simp only [freeBuf_lasting, setInp_lasting, handOver_lasting, setReg_lasting, hj]
    · simp only [setInp_lasting, setReg_lasting, hj]

@[simp] theorem routeOwn_lasting (s : State) : (s.routeOwn).lasting = s.lasting := by
  refine getD_lasting fun t h => ?_
  obtain ⟨x, -, hx⟩ := List.exists_of_findSome?_eq_some h
  simp only at hx
  split at hx
  · cases hx
  split at hx
  · cases hx
    simp only [fabDrop_lasting, takeWaiting_lasting, injectForm_lasting]
  · split at hx <;> cases hx
    · simp only [fabDrop_lasting, takeWaiting_lasting, injectForm_lasting]
    · simp only [handOver_lasting, takeWaiting_lasting, injectForm_lasting]

@[simp] theorem fxPacketRoute_lasting (s : State) (src : RouteSrc) :
    (s.fxPacketRoute src).lasting = s.lasting := by
  simp only [fxPacketRoute]
  grind [routeIn_lasting, routeOwn_lasting]

@[simp] theorem forwardIn_lasting (s : State) (p v : Nat) :
    (s.forwardIn p v).lasting = s.lasting := by
  grind [forwardIn, freeBuf_lasting, setInp_lasting, fabDrop_lasting, handOver_lasting, placeOn_lasting]

@[simp] theorem forwardOwn_lasting (s : State) : (s.forwardOwn).lasting = s.lasting := by
  refine getD_lasting fun t h => ?_
  obtain ⟨x, -, hx⟩ := List.exists_of_findSome?_eq_some h
  simp only at hx
  split at hx
  · cases hx
  split at hx
  · cases hx
  split at hx
  · split at hx
    · split at hx <;> cases hx
      simp only [placeOn_lasting, takeWaiting_lasting, injectForm_lasting]
    · cases hx
  · cases hx

@[simp] theorem fxPacketForward_lasting (s : State) (src : RouteSrc) :
    (s.fxPacketForward src).lasting = s.lasting := by
  simp only [fxPacketForward]
  grind [forwardIn_lasting, forwardOwn_lasting]

@[simp] theorem fxAutoWakeLantern_lasting (s : State) (p : Nat) :
    (s.fxAutoWakeLantern p).lasting = s.lasting := by
  simp only [fxAutoWakeLantern, emit_lasting, updPort_lasting, setBit_lasting, lasting_ite, ite_self]

theorem takeLocal_lasting (s : State) (want : Packet → Bool) :
    ∀ t, (s.takeLocal want) = some t → t.2.lasting = s.lasting := by
  grind [takeLocal, updFab_lasting]

@[simp] theorem payload_lasting (s : State) (x : Packet × Nat) :
    (s.payload x).2.lasting = s.lasting := by
  simp only [payload]
  split <;> simp only [raiseCode_lasting]

@[simp] theorem fxPut_lasting (s : State) :
    (s.fxPut).lasting = s.lasting := by
  unfold fxPut
  split
  · rfl
  next x t h =>
    have ht := takeLocal_lasting _ _ _ h
    simp only [send_lasting, lasting_ite, memWriteP_lasting, payload_lasting, ite_self, ht]

@[simp] theorem fxMsg_lasting (s : State) :
    (s.fxMsg).lasting = s.lasting := by
  unfold fxMsg
  split
  · rfl
  next x t h =>
    have ht := takeLocal_lasting _ _ _ h
    simp only [lasting_ite, bump_lasting, putEntry_lasting, stamp_lasting, payload_lasting, foldl_lasting,
      implies_true, ite_self, ht]

@[simp] theorem fxToken_lasting (s : State) :
    (s.fxToken).lasting = s.lasting := by
  unfold fxToken
  split
  · rfl
  next x t h =>
    have ht := takeLocal_lasting _ _ _ h
    simp only
    split
    · exact ht
    · exact (addToken_lasting _ _ _ _).trans ht

@[simp] theorem updVigil_lasting (s : State) (f : VigilSt → VigilSt) :
    (s.updVigil f).lasting = s.lasting := by
  simp only [updVigil, updFab_lasting]

@[simp] theorem pauseCles_lasting (s : State) (on : Bool) :
    (s.pauseCles on).lasting = s.lasting := by
  simp only [pauseCles, setRegF_lasting, lasting_ite, ite_self, foldl_lasting, implies_true]

@[simp] theorem vigilStopHere_lasting (s : State) :
    (s.vigilStopHere).lasting = s.lasting := by
  simp only [vigilStopHere, pauseCles_lasting, setRegF_lasting, updFab_lasting, clearHeld_lasting, record_lasting,
    updVigil_lasting, lasting_ite, ite_self, foldl_lasting, implies_true]

@[simp] theorem exchange_lasting (s : State) :
    (s.exchange).lasting = s.lasting := by
  simp only [exchange, setRegF_lasting]

@[simp] theorem vigilAct_lasting (s : State) (stage : Nat) :
    (s.vigilAct stage).lasting = s.lasting := by
  unfold vigilAct
  split <;> simp only [vigilStopHere_lasting, setRegF_lasting, exchange_lasting, updVigil_lasting, pauseCles_lasting,
    lasting_ite, ite_self]

@[simp] theorem vigilStage_lasting (s : State) (stage : Nat) :
    (s.vigilStage stage).lasting = s.lasting := by
  simp only [vigilStage, updVigil_lasting, vigilAct_lasting, send_lasting, foldl_lasting, implies_true]

@[simp] theorem vigilCounts_lasting (s : State) :
    (s.vigilCounts).2.lasting = s.lasting := by
  simp only [vigilCounts, updFab_lasting]

@[simp] theorem vigilFailed_lasting (s : State) (result : Nat) :
    (s.vigilFailed result).lasting = s.lasting := by
  simp only [vigilFailed, record_lasting, lasting_mk, lasting_eta]

@[simp] theorem vigilEnd_lasting (s : State) (result : Nat) :
    (s.vigilEnd result).lasting = s.lasting := by
  simp only [vigilEnd, vigilStage_lasting, updVigil_lasting, vigilFailed_lasting, lasting_ite, ite_self]

@[simp] theorem vigilRoot_lasting (s : State) :
    (s.vigilRoot).lasting = s.lasting := by
  simp only [vigilRoot]
  split <;> simp only [vigilStage_lasting, vigilCounts_lasting, updVigil_lasting, vigilEnd_lasting, lasting_ite,
    ite_self]

@[simp] theorem vigilAnswer_lasting (s : State) :
    (s.vigilAnswer).lasting = s.lasting := by
  simp only [vigilAnswer]
  split <;> simp only [updVigil_lasting, vigilCounts_lasting, send_lasting]

@[simp] theorem vigilSettle_lasting (x1 : Nat) (x2 : State) :
    (vigilSettle x1 x2).lasting = x2.lasting := by
  fun_induction vigilSettle <;> grind [vigilRoot_lasting, vigilAnswer_lasting]

@[simp] theorem fxVigilStart_lasting (s : State) (_w : Who) (v : W64) :
    (s.fxVigilStart _w v).lasting = s.lasting := by
  simp only [fxVigilStart, setRegF_lasting, vigilSettle_lasting, vigilStage_lasting, updVigil_lasting, lasting_ite,
    ite_self]

theorem takeVigil_lasting (s : State) (stage : Nat → Bool) :
    ∀ t, (s.takeVigil stage) = some t → t.2.lasting = s.lasting := by
  exact takeLocal_lasting _ _

@[simp] theorem vigilDown_lasting (s : State) (stage : Nat) :
    (s.vigilDown stage).lasting = s.lasting := by
  unfold vigilDown
  split
  · rfl
  next x t h =>
    have ht := takeVigil_lasting _ _ _ h
    simp only [lasting_ite, vigilSettle_lasting, vigilStage_lasting, updVigil_lasting, ite_self, ht]

@[simp] theorem fxVigilStop_lasting (s : State) :
    (s.fxVigilStop).lasting = s.lasting := by
  simp only [fxVigilStop, vigilDown_lasting]

@[simp] theorem fxVigilCommit_lasting (s : State) :
    (s.fxVigilCommit).lasting = s.lasting := by
  simp only [fxVigilCommit, vigilDown_lasting]

@[simp] theorem fxVigilRollback_lasting (s : State) :
    (s.fxVigilRollback).lasting = s.lasting := by
  simp only [fxVigilRollback, vigilDown_lasting]

@[simp] theorem fxVigilResume_lasting (s : State) :
    (s.fxVigilResume).lasting = s.lasting := by
  simp only [fxVigilResume, vigilDown_lasting]

@[simp] theorem fxVigilCount_lasting (s : State) :
    (s.fxVigilCount).lasting = s.lasting := by
  simp only [fxVigilCount, vigilSettle_lasting, vigilDown_lasting, lasting_ite, ite_self]

@[simp] theorem fxVigilReply_lasting (s : State) :
    (s.fxVigilReply).lasting = s.lasting := by
  unfold fxVigilReply
  split
  · rfl
  next x t h =>
    have ht := takeLocal_lasting _ _ _ h
    simp only [lasting_ite, vigilSettle_lasting, updVigil_lasting, payload_lasting, ite_self, ht]

@[simp] theorem fxVigilStageTimeout_lasting (s : State) :
    (s.fxVigilStageTimeout).lasting = s.lasting := by
  simp only [fxVigilStageTimeout, vigilEnd_lasting, vigilSettle_lasting, vigilStage_lasting, lasting_ite, ite_self]

@[simp] theorem fxVigilSelfResume_lasting (s : State) :
    (s.fxVigilSelfResume).lasting = s.lasting := by
  simp only [fxVigilSelfResume, vigilAct_lasting, updVigil_lasting, lasting_ite, ite_self]

@[simp] theorem fxFabRetire_lasting (s : State) (v : W64) :
    (s.fxFabRetire v).lasting = s.lasting := by
  simp only [fxFabRetire, updFab_lasting]

@[simp] theorem fxFabClrMon_lasting (s : State) :
    (s.fxFabClrMon).lasting = s.lasting := by
  simp only [fxFabClrMon, setRegF_lasting, foldl_lasting, implies_true]

/-! ### Machine/Collect -/

theorem takeToken_lasting (s : State) (c ctr v : Nat) :
    ∀ t, (s.takeToken c ctr v) = some t → t.lasting = s.lasting := by
  grind [takeToken, setRegF_lasting]

@[simp] theorem signal_lasting (s : State) (c ctr add : Nat) :
    (s.signal c ctr add).lasting = s.lasting := by
  simp only [signal, lasting_mk, lasting_eta]

@[simp] theorem endJob_lasting (s : State) (k status : Nat) (res : List W64) :
    (s.endJob k status res).lasting = s.lasting := by
  simp only [endJob, updJob_lasting]

@[simp] theorem copySend_lasting (h x1 : Nat) (x2 : State) :
    (copySend h x1 x2).lasting = x2.lasting := by
  fun_induction copySend <;> grind [memRead_lasting, updJob_lasting, send_lasting]

@[simp] theorem copyStart_lasting (s : State) (h : Nat) (j : Job) :
    (s.copyStart h j).lasting = s.lasting := by
  simp only [copyStart, copySend_lasting, updJob_lasting, endJob_lasting, lasting_ite, ite_self]

@[simp] theorem fxCopyOut_lasting (s : State) (h : Nat) :
    (s.fxCopyOut h).lasting = s.lasting := by
  grind [fxCopyOut, copySend_lasting, endJob_lasting, copyStart_lasting, takeToken_lasting, updJob_lasting]

@[simp] theorem fxTransferTokenTimeout_lasting (s : State) (h : Nat) :
    (s.fxTransferTokenTimeout h).lasting = s.lasting := by
  unfold fxTransferTokenTimeout
  split <;> simp only [endJob_lasting, lasting_ite, ite_self]

@[simp] theorem copyTimeout_lasting (s : State) (h : Nat) :
    (s.copyTimeout h).lasting = s.lasting := by
  unfold copyTimeout
  split <;> simp only [endJob_lasting, lasting_ite, ite_self]

@[simp] theorem copyAck_lasting (s : State) (h : Nat) (q : Packet) :
    (s.copyAck h q).lasting = s.lasting := by
  unfold copyAck
  split <;> simp only [endJob_lasting, updJob_lasting, send_lasting, signal_lasting, copySend_lasting, lasting_ite,
    ite_self]

@[simp] theorem updCle_lasting (s : State) (e : Nat) (f : CleSt → CleSt) :
    (s.updCle e f).lasting = s.lasting := by
  simp only [updCle, setCle_lasting]

@[simp] theorem segSend_lasting (s : State) (e : Nat) (w : List W64) (toNext : Bool) (x : Seg) :
    (s.segSend e w toNext x).lasting = s.lasting := by
  simp only [segSend, send_lasting, bump_lasting, updCle_lasting]

@[simp] theorem segFree_lasting (s : State) (e : Nat) (w : List W64) (fromNext : Bool) (kind tc : Nat) :
    (s.segFree e w fromNext kind tc).lasting = s.lasting := by
  simp only [segFree, updCle_lasting, send_lasting]

@[simp] theorem readIn_lasting (s : State) (w : List W64) (g : Nat) :
    (s.readIn w g).1.lasting = s.lasting := by
  simp only [readIn, readCodes_lasting]

@[simp] theorem writeOut_lasting (s : State) (e : Nat) (w : List W64) (g : Nat) (vs : List (W32 × Bool)) :
    (s.writeOut e w g vs).lasting = s.lasting := by
  simp only [writeOut, writeCodes_lasting, updCle_lasting, lasting_ite, ite_self]

theorem sumOn_lasting (s : State) (e : Nat) (w : List W64) (g : Nat) (vs : List (W32 × Bool)) :
    ∀ t, (s.sumOn e w g vs) = some t → t.lasting = s.lasting := by
  grind [sumOn, segSend_lasting, writeOut_lasting]

@[simp] theorem writeRaw_lasting (s : State) (e a n : Nat) (x : Seg) :
    (s.writeRaw e a n x).lasting = s.lasting := by
  simp only [writeRaw, memWriteP_lasting, updCle_lasting]

theorem segStep_lasting (s : State) (e : Nat) (w : List W64) (fromNext : Bool) (x : Seg) :
    ∀ t, s.segStep e w fromNext x = some t → t.lasting = s.lasting := by
  intro t h
  simp only [segStep, Option.map_eq_some_iff] at h
  obtain ⟨u, hu, rfl⟩ := h
  rw [segFree_lasting]
  split at hu
  · exact (sumOn_lasting _ _ _ _ _ _ hu).trans (readIn_lasting _ _ _)
  · grind only [writeOut_lasting, segSend_lasting]
  · grind only [writeRaw_lasting, segSend_lasting]
  · grind only [writeRaw_lasting, updCle_lasting]

theorem heldStep_lasting (s : State) (e : Nat) (w : List W64) :
    ∀ t, s.heldStep e w = some t → t.lasting = s.lasting := by
  intro t h
  obtain ⟨i, -, hi⟩ := List.exists_of_findSome?_eq_some h
  split at hi
  · cases hi
  next x _ =>
    simp only at hi
    split at hi
    · cases hi
    next u hu =>
      cases hi
      rw [updCle_lasting]
      split at hu
      · exact segStep_lasting _ _ _ _ _ _ hu
      · cases hu

@[simp] theorem rawSeg_lasting (s : State) (kind g a n : Nat) :
    (s.rawSeg kind g a n).1.lasting = s.lasting := by
  simp only [rawSeg, memRead_lasting]

theorem gatherOn_lasting (s : State) (e : Nat) (w : List W64) :
    ∀ t, (s.gatherOn e w) = some t → t.lasting = s.lasting := by
  grind [gatherOn, rawSeg_lasting, updCle_lasting, writeRaw_lasting, segSend_lasting]

theorem gatherBack_lasting (s : State) (e : Nat) (w : List W64) :
    ∀ t, (s.gatherBack e w) = some t → t.lasting = s.lasting := by
  grind [gatherBack, rawSeg_lasting, updCle_lasting, segSend_lasting]

theorem ownStep_lasting (s : State) (e : Nat) (w : List W64) :
    ∀ t, s.ownStep e w = some t → t.lasting = s.lasting := by
  intro t h
  simp only [ownStep] at h
  split at h
  · exact orElse_lasting (gatherOn_lasting s e w) (gatherBack_lasting s e w) h
  · split at h
    · cases h
      simp only [updCle_lasting, segSend_lasting, rawSeg_lasting]
    · cases h
  · split at h
    · obtain ⟨u, hu, rfl⟩ := Option.map_eq_some_iff.mp h
      simp only [updCle_lasting, sumOn_lasting _ _ _ _ _ _ hu, readIn_lasting]
    · cases h

theorem passStep_lasting (s : State) (e : Nat) (w : List W64) :
    ∀ t, s.passStep e w = some t → t.lasting = s.lasting := by
  intro t h
  simp only [passStep] at h
  split at h
  · cases h
  split at h
  · obtain ⟨u, hu, rfl⟩ := Option.map_eq_some_iff.mp h
    exact (updCle_lasting _ _ _).trans (takeToken_lasting _ _ _ _ _ hu)
  split at h
  · cases h
    simp only [updCle_lasting, lasting_ite, signal_lasting, ite_self]
  · cases h

@[simp] theorem collPump_lasting (e n : Nat) (s : State) : (collPump e n s).lasting = s.lasting := by
  induction n generalizing s with
  | zero => rfl
  | succ n ih =>
    unfold collPump
    split
    · rfl
    next w _ =>
    split
    next t h =>
      refine (ih t).trans (orElse_lasting (heldStep_lasting s e w) ?_ h)
      exact fun _ h => orElse_lasting (ownStep_lasting s e w) (passStep_lasting s e w) h
    · simp only [lasting_ite, updJob_lasting, setRegF_lasting, ite_self]

@[simp] theorem pump_lasting (s : State) (e : Nat) :
    (s.pump e).lasting = s.lasting := by
  simp only [pump, collPump_lasting]

@[simp] theorem collEnd_lasting (s : State) (e status : Nat) :
    (s.collEnd e status).lasting = s.lasting := by
  simp only [collEnd, endJob_lasting, setRegF_lasting]

@[simp] theorem collStart_lasting (s : State) (e : Nat) (w : List W64) :
    (s.collStart e w).lasting = s.lasting := by
  grind [collStart, setCle_lasting, setRegF_lasting, collEnd_lasting, memRead_lasting, pump_lasting, updJob_lasting]

@[simp] theorem collRun_lasting (s : State) (e op : Nat) :
    (s.collRun e op).lasting = s.lasting := by
  grind [collRun, pump_lasting, setRegF_lasting, collStart_lasting, takeToken_lasting, updJob_lasting]

@[simp] theorem fxReduceScatter_lasting (s : State) (e : Nat) :
    (s.fxReduceScatter e).lasting = s.lasting := by
  simp only [fxReduceScatter, collRun_lasting]

@[simp] theorem fxAllGather_lasting (s : State) (e : Nat) :
    (s.fxAllGather e).lasting = s.lasting := by
  simp only [fxAllGather, collRun_lasting]

@[simp] theorem fxAllReduce_lasting (s : State) (e : Nat) :
    (s.fxAllReduce e).lasting = s.lasting := by
  simp only [fxAllReduce, collRun_lasting]

@[simp] theorem fxRingPass_lasting (s : State) (e : Nat) :
    (s.fxRingPass e).lasting = s.lasting := by
  simp only [fxRingPass, collRun_lasting]

@[simp] theorem fxColl_lasting (s : State) :
    (s.fxColl).lasting = s.lasting := by
  unfold fxColl
  split
  · rfl
  next x t h =>
    have ht := takeLocal_lasting _ _ _ h
    simp only
    split
    · simp only [bump_lasting, payload_lasting, ht]
    · simp only [lasting_ite, bump_lasting, pump_lasting, updCle_lasting, payload_lasting, ht, ite_self]

@[simp] theorem fxCollCredit_lasting (s : State) :
    (s.fxCollCredit).lasting = s.lasting := by
  unfold fxCollCredit
  split
  · rfl
  next x t h =>
    have ht := takeLocal_lasting _ _ _ h
    simp only
    split
    · exact ht
    · simp only [lasting_ite, pump_lasting, updCle_lasting, ht, ite_self]

@[simp] theorem fxCollComplete_lasting (s : State) (e : Nat) :
    (s.fxCollComplete e).lasting = s.lasting := by
  unfold fxCollComplete
  split <;> simp only [signal_lasting, collEnd_lasting, lasting_ite, ite_self]

@[simp] theorem fxCollTimeout_lasting (s : State) (e : Nat) :
    (s.fxCollTimeout e).lasting = s.lasting := by
  unfold fxCollTimeout
  split <;> simp only [collEnd_lasting, lasting_ite, ite_self]

/-! ### Machine/Firmware -/

@[simp] theorem fwEnd_lasting (s : State) (status : Nat) (res : List W64) :
    (s.fwEnd status res).lasting = s.lasting := by
  simp only [fwEnd, endJob_lasting]

@[simp] theorem firmware_lasting (s : State) (op : Nat) (body : State → List W64 → State) (hbody : ∀ s a2,
  (body s a2).lasting = s.lasting) :
    (s.firmware op body).lasting = s.lasting := by
  unfold firmware
  split <;> simp only [fwEnd_lasting, hbody, lasting_ite, ite_self]

@[simp] theorem writeBank_lasting (s : State) (pc bank : Nat) (bs : List Byte) :
    (s.writeBank pc bank bs).lasting = s.lasting := by
  simp only [writeBank, updClu_lasting]

@[simp] theorem loadWrite_lasting (s : State) (b : List Byte) (bank : Nat) (sm : SlotMap) :
    (s.loadWrite b bank sm).lasting = s.lasting := by
  simp only [loadWrite, writeBank_lasting, lasting_mk, lasting_eta, foldl_lasting, implies_true]

@[simp] theorem loadBody_lasting (s : State) (w : List W64) :
    (s.loadBody w).lasting = s.lasting := by
  grind [loadBody, fwEnd_lasting, memRead_lasting, loadWrite_lasting, updJob_lasting]

@[simp] theorem fxLoad_lasting (s : State) :
    (s.fxLoad).lasting = s.lasting := by
  simp only [fxLoad, firmware_lasting, wakeUp_lasting, loadBody_lasting, lasting_ite, ite_self, implies_true]

@[simp] theorem fxSlotMapApply_lasting (s : State) (t : Nat) : (s.fxSlotMapApply t).lasting = s.lasting := by
  simp only [fxSlotMapApply]
  split
  · rfl
  split
  · rfl
  split
  all_goals
    simp only [lasting_ite, fwEnd_lasting, setReg_lasting, unpin_lasting, lasting_mk, lasting_eta, foldl_lasting,
      implies_true, ite_self]
    refine (foldl_lasting (fun s u => ?_) _ _).trans rfl
    split
    · rfl
    · simp only [setReg_lasting, setRegF_lasting, foldl_lasting, implies_true]

@[simp] theorem fxStart_lasting (s : State) :
    (s.fxStart).lasting = s.lasting := by
  simp only [fxStart, firmware_lasting, wakeUp_lasting, fwEnd_lasting, updJob_lasting, updClu_lasting, lasting_ite,
    ite_self, foldl_lasting, implies_true]

@[simp] theorem startCore_lasting (s : State) (pc : Nat) :
    (s.startCore pc).lasting = s.lasting := by
  simp only [startCore, setReg_lasting, updClu_lasting, setRegF_lasting, updUnit_lasting, moveOn_lasting,
    foldl_lasting, implies_true]

@[simp] theorem fxProgramStart_lasting (s : State) :
    (s.fxProgramStart).lasting = s.lasting := by
  unfold fxProgramStart
  split <;> simp only [fwEnd_lasting, startCore_lasting, lasting_mk, lasting_eta, lasting_ite, ite_self,
    foldl_lasting, implies_true]

@[simp] theorem unblock_lasting (s : State) (id : Nat) :
    (s.unblock id).lasting = s.lasting := by
  grind [unblock, clearPending_lasting, setStream_lasting, foldl_lasting]

@[simp] theorem fxGrant_lasting (s : State) :
    (s.fxGrant).lasting = s.lasting := by
  simp only [fxGrant, firmware_lasting, fwEnd_lasting, closeFaults_lasting, unblock_lasting, lasting_mk, lasting_eta,
    lasting_ite, ite_self, foldl_lasting, implies_true]

@[simp] theorem fxRevoke_lasting (s : State) :
    (s.fxRevoke).lasting = s.lasting := by
  simp only [fxRevoke, firmware_lasting, fwEnd_lasting, lasting_mk, lasting_eta, lasting_ite, ite_self, implies_true]

@[simp] theorem fxPageRefuse_lasting (s : State) :
    (s.fxPageRefuse).lasting = s.lasting := by
  grind [fxPageRefuse, firmware_lasting, fwEnd_lasting, streamHalt_lasting, lasting_mk, lasting_eta, foldl_lasting]

@[simp] theorem resetUnitSt_lasting (s : State) (pu : Nat) :
    (s.resetUnitSt pu).lasting = s.lasting := by
  simp only [resetUnitSt, sendAbort_lasting, stopUnit_lasting, updUnit_lasting, settlePending_lasting, setReg_lasting,
    clrBit_lasting, lasting_ite, ite_self, foldl_lasting, implies_true]

@[simp] theorem resetCluster_lasting (s : State) (pc : Nat) :
    (s.resetCluster pc).lasting = s.lasting := by
  simp only [resetCluster, squash_lasting, resetUnitSt_lasting, setReg_lasting, endCheck_lasting, closeFaults_lasting,
    setClu_lasting, foldl_lasting, implies_true]

@[simp] theorem fxClusterReset_lasting (s : State) :
    (s.fxClusterReset).lasting = s.lasting := by
  simp only [fxClusterReset, firmware_lasting, fwEnd_lasting, resetCluster_lasting, lasting_ite, ite_self,
    foldl_lasting, implies_true]

@[simp] theorem dropProgram_lasting (s : State) :
    (s.dropProgram).lasting = s.lasting := by
  simp only [dropProgram, setReg_lasting, unpin_lasting, updClu_lasting, lasting_mk, lasting_eta, foldl_lasting,
    implies_true]

@[simp] theorem dueTests_lasting (s : State) :
    (s.dueTests).lasting = s.lasting := by
  simp only [dueTests, updUnit_lasting, setBit_lasting, lasting_ite, ite_self, foldl_lasting, implies_true]

@[simp] theorem fxUnload_lasting (s : State) :
    (s.fxUnload).lasting = s.lasting := by
  simp only [fxUnload, firmware_lasting, fwEnd_lasting, resetCluster_lasting, dueTests_lasting, dropProgram_lasting,
    lasting_ite, ite_self, foldl_lasting, implies_true]

@[simp] theorem closeTxn_lasting (s : State) (w : Who) (result : Nat) :
    (s.closeTxn w result).lasting = s.lasting := by
  unfold closeTxn
  split <;> simp only [setRegF_lasting, lasting_mk, lasting_eta, lasting_ite, ite_self]

@[simp] theorem fxHostInterfaceReset_lasting (s : State) :
    (s.fxHostInterfaceReset).lasting = s.lasting := by
  grind [fxHostInterfaceReset, fxPageRequestResponse_lasting, setRegF_lasting, closeTxn_lasting, lasting_mk,
    lasting_eta, foldl_lasting]

/-! ### Machine/Harvest -/

@[simp] theorem peekSlot_lasting (s : State) (n o k : Nat) :
    (s.peekSlot n o k).1.lasting = s.lasting := by
  simp only [peekSlot, freeBytes_lasting, fst_ite_lasting, ite_self]

@[simp] theorem slotRecord_lasting (s : State) (n : Nat) :
    (s.slotRecord n).1.lasting = s.lasting := by
  simp only [slotRecord, peekSlot_lasting]

@[simp] theorem readSlot_lasting (s : State) (n : Nat) :
    (s.readSlot n).lasting = s.lasting := by
  simp only [readSlot, slotRecord_lasting, setRegF_lasting]

@[simp] theorem setFlash_lasting (s : State) (f : FlashSt → FlashSt) :
    (s.setFlash f).lasting = s.lasting := by
  simp only [setFlash, lasting_mk, lasting_eta]

@[simp] theorem flashBegin_lasting (s : State) (n : Nat) :
    (s.flashBegin n).lasting = s.lasting := by
  simp only [flashBegin, setRegF_lasting, setFlash_lasting, lasting_mk, lasting_eta, lasting_ite, ite_self]

@[simp] theorem rereadSlot_lasting (s : State) (n : Nat) :
    (s.rereadSlot n).lasting = s.lasting := by
  simp only [rereadSlot, readSlot_lasting, flashBegin_lasting, lasting_ite, ite_self]

@[simp] theorem flashAbandon_lasting (s : State) (n : Nat) :
    (s.flashAbandon n).lasting = s.lasting := by
  simp only [flashAbandon, setFlash_lasting, bump_lasting, setRegF_lasting, lasting_mk, lasting_eta, lasting_ite,
    ite_self]

@[simp] theorem rMin_lasting (s : State) :
    (s.rMin).1.lasting = s.lasting := by
  unfold rMin
  split <;> simp only [freeWord_lasting]

@[simp] theorem segmentCheck_lasting (s : State) (n cap p : Nat) :
    (s.segmentCheck n cap p).lasting = s.lasting := by
  simp only [segmentCheck, rMin_lasting, setRegF_lasting, clrBit_lasting, setFlash_lasting, bump_lasting,
    setBit_lasting, lasting_ite, ite_self]

@[simp] theorem fxFlashSegmentStart_lasting (s : State) (n cap p : Nat) :
    (s.fxFlashSegmentStart n cap p).lasting = s.lasting := by
  unfold fxFlashSegmentStart
  split <;> simp only [segmentCheck_lasting, lasting_ite, ite_self]

@[simp] theorem fxHoldupRecheck_lasting (s : State) (n cap p : Nat) :
    (s.fxHoldupRecheck n cap p).lasting = s.lasting := by
  unfold fxHoldupRecheck
  split <;> simp only [segmentCheck_lasting, lasting_ite, ite_self]

@[simp] theorem segmentDone_lasting (s : State) (n : Nat) (commit : Bool) :
    (s.segmentDone n commit).lasting = s.lasting := by
  unfold segmentDone
  split <;> simp only [setFlash_lasting, setRegF_lasting, lasting_ite, ite_self]

@[simp] theorem fxFlashSegmentDone_lasting (s : State) (n rate : Nat) :
    (s.fxFlashSegmentDone n rate).lasting = s.lasting := by
  unfold fxFlashSegmentDone
  split <;> simp only [setFlash_lasting, segmentDone_lasting, lasting_ite, ite_self]

@[simp] theorem updH_lasting (s : State) (f : HJob → HJob) :
    (s.updH f).lasting = s.lasting := by
  simp only [updH, lasting_mk, lasting_eta]

@[simp] theorem sendReleases_lasting (s : State) (is : List Nat) :
    (s.sendReleases is).lasting = s.lasting := by
  unfold sendReleases
  split <;> simp only [signal_lasting, updH_lasting, lasting_ite, ite_self, foldl_lasting, implies_true]

@[simp] theorem readManifest_lasting (s : State) (w : List W64) :
    (s.readManifest w).1.lasting = s.lasting := by
  simp only [readManifest, memRead_lasting, updH_lasting]

@[simp] theorem releaseAcked_lasting (s : State) :
    (s.releaseAcked).lasting = s.lasting := by
  unfold releaseAcked
  split <;> simp only [sendReleases_lasting, lasting_ite, ite_self]

@[simp] theorem releaseRest_lasting (s : State) (h : HJob) :
    (s.releaseRest h).lasting = s.lasting := by
  simp only [releaseRest, readManifest_lasting, sendReleases_lasting, lasting_ite, ite_self]

@[simp] theorem hvEnd_lasting (s : State) (status : Nat) :
    (s.hvEnd status).lasting = s.lasting := by
  unfold hvEnd
  split <;> simp only [releaseRest_lasting, clrBit_lasting, memWrite_lasting, signal_lasting, record_lasting,
    setRegF_lasting, lasting_mk, lasting_eta, lasting_ite, ite_self]

@[simp] theorem hvData_lasting (s : State) (h : HJob) : (s.hvData h).1.lasting = s.lasting := by
  grind only [hvData, memRead_lasting]

@[simp] theorem hvSend_lasting (x1 : Nat) (x2 : State) :
    (hvSend x1 x2).lasting = x2.lasting := by
  fun_induction hvSend <;> grind [hvData_lasting, updH_lasting, send_lasting]

@[simp] theorem hvPump_lasting (s : State) :
    (s.hvPump).lasting = s.lasting := by
  simp only [hvPump, hvSend_lasting]

@[simp] theorem hvPhase_lasting (s : State) (ph : Nat) :
    (s.hvPhase ph).lasting = s.lasting := by
  simp only [hvPhase, hvPump_lasting, updH_lasting]

@[simp] theorem holderEnd_lasting (s : State) (status : Nat) :
    (s.holderEnd status).lasting = s.lasting := by
  unfold holderEnd
  split <;> simp only [hvPhase_lasting, updH_lasting, hvEnd_lasting, lasting_ite, ite_self]

@[simp] theorem segmentEnd_lasting (s : State) :
    (s.segmentEnd).lasting = s.lasting := by
  unfold segmentEnd
  split <;> simp only [hvEnd_lasting, send_lasting, hvPhase_lasting, updH_lasting, lasting_ite, ite_self]

@[simp] theorem hvAcked_lasting (s : State) :
    (s.hvAcked).lasting = s.lasting := by
  grind [hvAcked, hvPump_lasting, hvPhase_lasting, hvEnd_lasting, updH_lasting, segmentEnd_lasting, holderEnd_lasting]

@[simp] theorem hvFail_lasting (s : State) (status : Nat) :
    (s.hvFail status).lasting = s.lasting := by
  unfold hvFail
  split <;> simp only [updH_lasting, hvEnd_lasting, holderEnd_lasting, lasting_ite, ite_self]

@[simp] theorem fxPutAck_lasting (s : State) :
    (s.fxPutAck).lasting = s.lasting := by
  unfold fxPutAck
  split
  · rfl
  next x t h =>
    have ht := takeLocal_lasting _ _ _ h
    simp only [lasting_ite, copyAck_lasting, ht, ite_eq_left_iff]
    intro _ _
    split
    · exact ht
    · simp only [lasting_ite, hvFail_lasting, hvAcked_lasting, releaseAcked_lasting, updH_lasting, ht, ite_self]

@[simp] theorem fxTransferTimeout_lasting (s : State) (hub : Nat) :
    (s.fxTransferTimeout hub).lasting = s.lasting := by
  grind [fxTransferTimeout, hvFail_lasting, copyTimeout_lasting]

@[simp] theorem fxHarvestRingPoll_lasting (s : State) :
    (s.fxHarvestRingPoll).lasting = s.lasting := by
  simp only [fxHarvestRingPoll, memRead_lasting, setRegF_lasting, hvEnd_lasting, updH_lasting, lasting_mk,
    lasting_eta, lasting_ite, ite_self]

@[simp] theorem fxHarvestTokenRelease_lasting (s : State) :
    (s.fxHarvestTokenRelease).lasting = s.lasting := by
  grind [fxHarvestTokenRelease, takeToken_lasting, updH_lasting, setRegF_lasting]

@[simp] theorem fxHarvestTokenTimeout_lasting (s : State) :
    (s.fxHarvestTokenTimeout).lasting = s.lasting := by
  unfold fxHarvestTokenTimeout
  split <;> simp only [hvEnd_lasting, lasting_ite, ite_self]

@[simp] theorem hvRun_lasting (s : State) (op : Nat) (body : State → List W64 → State) (hbody : ∀ s a2,
  (body s a2).lasting = s.lasting) :
    (s.hvRun op body).lasting = s.lasting := by
  unfold hvRun
  split <;> simp only [hvAcked_lasting, hbody, lasting_ite, ite_self]

@[simp] theorem fxEquinox_lasting (s : State) :
    (s.fxEquinox).lasting = s.lasting := by
  simp only [fxEquinox, hvRun_lasting, readManifest_lasting, hvEnd_lasting, memWrite_lasting, updH_lasting,
    setRegF_lasting, collStart_lasting, setTgt_lasting, lasting_ite, ite_self, implies_true]

@[simp] theorem agreed_lasting (s : State) (w : List W64) :
    (s.agreed w).1.lasting = s.lasting := by
  simp only [agreed, memRead_lasting]

@[simp] theorem fxEquinoxAgreed_lasting (s : State) :
    (s.fxEquinoxAgreed).lasting = s.lasting := by
  unfold fxEquinoxAgreed
  split <;> simp only [setTgt_lasting, hvEnd_lasting, agreed_lasting, setRegF_lasting, hvPhase_lasting, updH_lasting,
    lasting_ite, ite_self]

@[simp] theorem fxHarvestCopyCommit_lasting (s : State) :
    (s.fxHarvestCopyCommit).lasting = s.lasting := by
  unfold fxHarvestCopyCommit
  split <;> simp only [hvPhase_lasting, releaseAcked_lasting, lasting_ite, ite_self]

@[simp] theorem fxRecord_lasting (s : State) :
    (s.fxRecord).lasting = s.lasting := by
  simp only [fxRecord, hvRun_lasting, memRead_lasting, hvEnd_lasting, hvPhase_lasting, updH_lasting, lasting_ite,
    ite_self, implies_true]

@[simp] theorem readRanges_lasting (s : State) (w : List W64) :
    (s.readRanges w).1.lasting = s.lasting := by
  simp only [readRanges, memRead_lasting, fst_ite_lasting, ite_self, foldl_fst_lasting, implies_true]

@[simp] theorem fxDigest_lasting (s : State) :
    (s.fxDigest).lasting = s.lasting := by
  simp only [fxDigest, hvRun_lasting, readRanges_lasting, hvEnd_lasting, memWrite_lasting, lasting_ite, ite_self,
    implies_true]

@[simp] theorem fxCapture_lasting (s : State) :
    (s.fxCapture).lasting = s.lasting := by
  simp only [fxCapture, hvRun_lasting, readRanges_lasting, hvEnd_lasting, hostWrite_lasting, memWriteP_lasting,
    lasting_ite, ite_self, implies_true]

@[simp] theorem fxVerify_lasting (s : State) :
    (s.fxVerify).lasting = s.lasting := by
  simp only [fxVerify, hvRun_lasting, memRead_lasting, hvEnd_lasting, memWrite_lasting, lasting_ite, ite_self,
    implies_true]

@[simp] theorem fxList_lasting (s : State) :
    (s.fxList).lasting = s.lasting := by
  simp only [fxList, hvRun_lasting, freeBytes_lasting, hvEnd_lasting, memWrite_lasting, implies_true]

@[simp] theorem restoreHere_lasting (s : State) (w : List W64) (r man : List Byte) (g : Option FlashGen) :
    (s.restoreHere w r man g).lasting = s.lasting := by
  unfold restoreHere
  split <;> simp only [memWrite_lasting, memRead_lasting, memWriteP_lasting, send_lasting, hvEnd_lasting,
    flashBegin_lasting, readSlot_lasting, lasting_ite, fst_ite_lasting, ite_self, foldl_fst_lasting, implies_true]

@[simp] theorem restoreSource_lasting (s : State) (w : List W64) (g : Option FlashGen) :
    (s.restoreSource w g).1.lasting = s.lasting := by
  cases g with
  | some g => rw [restoreSource]
  | none =>
    rw [restoreSource]
    split
    · rfl
    refine Eq.trans ?_ (memRead_lasting s (s.slotBase (dfld w 3 62 62)) 20480 0)
    generalize s.memRead (s.slotBase (dfld w 3 62 62)) 20480 0 = m
    obtain ⟨t, d, p⟩ := m
    dsimp only
    split
    · rfl
    split
    · rfl
    split <;> rfl

@[simp] theorem fxRestore_lasting (s : State) :
    (s.fxRestore).lasting = s.lasting := by
  grind [fxRestore, hvRun_lasting, restoreSource_lasting, hvEnd_lasting, restoreHere_lasting, setBit_lasting,
    hvPhase_lasting, updH_lasting]

@[simp] theorem fxHarvestPut_lasting (s : State) :
    (s.fxHarvestPut).lasting = s.lasting := by
  unfold fxHarvestPut
  split
  · rfl
  next x t h =>
    have ht : t.lasting = s.lasting := by
      split at h
      · cases h
      · exact takeLocal_lasting _ _ _ h
    simp only
    split
    · simp only [send_lasting, payload_lasting, ht]
    · simp only [lasting_ite, send_lasting, flashBegin_lasting, readSlot_lasting, memWriteP_lasting,
      flashAbandon_lasting,
        payload_lasting, ht, ite_self]

@[simp] theorem fxGenerationRecordReread_lasting (s : State) : s.fxGenerationRecordReread.lasting = s.lasting := by
  unfold fxGenerationRecordReread
  split
  · rfl
  · exact foldl_lasting (fun s n => rereadSlot_lasting s n) _ _

@[simp] theorem fence_lasting (s : State) :
    (s.fence).lasting = s.lasting := by
  simp only [fence, setRegF_lasting, hvEnd_lasting]
  refine (foldl_lasting (fun s e => ?_) _ _).trans <| (foldl_lasting (fun s h => ?_) _ _).trans ?_
  · split
    · simp only [lasting_ite, setTgt_lasting, setRegF_lasting, collEnd_lasting, ite_self]
    · rfl
  · split
    · simp only [lasting_ite, endJob_lasting, ite_self]
    · rfl
  · simp only [lasting_ite, upeFail_lasting, fenceCluster_lasting, setBit_lasting, foldl_lasting, implies_true,
    ite_self]

@[simp] theorem fxIsolationTimeout_lasting (s : State) :
    (s.fxIsolationTimeout).lasting = s.lasting := by
  simp only [fxIsolationTimeout, fence_lasting, lasting_ite, ite_self]

@[simp] theorem ringWrite_lasting (s : State) (v : W64) :
    (s.ringWrite v).lasting = s.lasting := by
  simp only [ringWrite, setReg_lasting, setRegF_lasting, lasting_ite, ite_self]

@[simp] theorem fxSnapRingEnable_lasting (s : State) (v : W64) :
    (s.fxSnapRingEnable v).lasting = s.lasting := by
  simp only [fxSnapRingEnable, ringWrite_lasting, lasting_ite, ite_self]

/-! ### Machine/Map -/

@[simp] theorem setHnd_lasting (s : State) (lvl ix : Nat) (h : HandlerSt) :
    (s.setHnd lvl ix h).lasting = s.lasting := by
  simp only [setHnd, lasting_mk, lasting_eta]

@[simp] theorem updEh_lasting (s : State) (lvl ix : Nat) (f : State → Nat → State) (hf : ∀ s a2,
  (f s a2).lasting = s.lasting) :
    (s.updEh lvl ix f).lasting = s.lasting := by
  unfold updEh
  split <;> simp only [hf]

@[simp] theorem showEh_lasting (s : State) (lvl ix : Nat) :
    (s.showEh lvl ix).lasting = s.lasting := by
  simp only [showEh, updEh_lasting, setRegF_lasting, implies_true]

@[simp] theorem countErr_lasting (s : State) (cls : Nat) :
    (s.countErr cls).lasting = s.lasting := by
  unfold countErr
  split <;> simp only [bump_lasting]

@[simp] theorem errRecord_lasting (s : State) (e : Err) (lvl count : Nat) (disc : Bool) :
    (s.errRecord e lvl count disc).lasting = s.lasting := by
  simp only [errRecord, record_lasting, lasting_ite, ite_self]

@[simp] theorem discardErr_lasting (s : State) (e : Err) :
    (s.discardErr e).lasting = s.lasting := by
  simp only [discardErr, errRecord_lasting, countErr_lasting]

@[simp] theorem silence_lasting (s : State) (lvl ix : Nat) :
    (s.silence lvl ix).lasting = s.lasting := by
  simp only [silence, setHnd_lasting, showEh_lasting, discardErr_lasting, lasting_mk, lasting_eta, foldl_lasting,
    implies_true]

@[simp] theorem revive_lasting (s : State) (c : Nat) :
    (s.revive c).lasting = s.lasting := by
  simp only [revive, showEh_lasting, setHnd_lasting, foldl_lasting, implies_true]

@[simp] theorem publish_lasting (s : State) :
    (s.publish).lasting = s.lasting := by
  simp only [publish, setRegF_lasting, setReg_lasting, bump_lasting, lasting_ite, ite_self]

@[simp] theorem setFaults_lasting (s : State) (pu : Nat) (f : List (BitVec 66)) :
    (s.setFaults pu f).lasting = s.lasting := by
  simp only [setFaults, setReg_lasting, bump_lasting, setRegF_lasting, foldl_lasting, implies_true]

@[simp] theorem selfTest_lasting (s : State) (d : Nat) (t : SelfTest) :
    (s.selfTest d t).lasting = s.lasting := by
  simp only [selfTest, setReg_lasting, setFaults_lasting, foldl_lasting, implies_true]

@[simp] theorem emptyCluster_lasting (s : State) (pc : Nat) :
    (s.emptyCluster pc).lasting = s.lasting := by
  simp only [emptyCluster, sendAbort_lasting, setReg_lasting, setUnit_lasting, clrBit_lasting, setClu_lasting,
    lasting_ite, ite_self, foldl_lasting, implies_true]

@[simp] theorem endDead_lasting (s : State) (pc : Nat) (q : Option Nat) :
    (s.endDead pc q).lasting = s.lasting := by
  unfold endDead
  split <;> simp only [endCheck_lasting, updClu_lasting, lasting_mk, lasting_eta, lasting_ite, ite_self]

@[simp] theorem poisonChan_lasting (s : State) (ch : Nat) :
    (s.poisonChan ch).lasting = s.lasting := by
  simp only [poisonChan, lasting_mk, lasting_eta]

@[simp] theorem poisonWait_lasting (s : State) (w : Wait) :
    (s.poisonWait w).lasting = s.lasting := by
  simp only [poisonWait, putSector_lasting, lasting_ite, ite_self, foldl_lasting, implies_true]

/-! ### Machine/Errors -/

@[simp] theorem arriveAt_lasting (x1 : Nat) (x2 : State) (x3 : Nat) (x4 : Err) :
    (arriveAt x1 x2 x3 x4).lasting = x2.lasting := by
  fun_induction arriveAt <;> grind [showEh_lasting, setHnd_lasting, updEh_lasting, bump_lasting, errRecord_lasting,
    countErr_lasting]

@[simp] theorem deliverErr_lasting (s : State) (e : Err) :
    (s.deliverErr e).lasting = s.lasting := by
  simp only [deliverErr, discardErr_lasting, arriveAt_lasting, lasting_ite, ite_self]

@[simp] theorem fatalRecord_lasting (s : State) (e : Err) :
    (s.fatalRecord e).lasting = s.lasting := by
  simp only [fatalRecord, freeWord_lasting, errRecord_lasting, lasting_ite, ite_self]

@[simp] theorem detected_lasting (s : State) (e : Err) :
    (s.detected e).lasting = s.lasting := by
  grind [detected, updUnit_lasting, poisonSector_lasting, bump_lasting, markUe_lasting]

@[simp] theorem seeNow_lasting (s : State) (e : Err) :
    (s.seeNow e).lasting = s.lasting := by
  grind [seeNow, updUnit_lasting, detectNow_lasting]

@[simp] theorem detectErr_lasting (s : State) (defer : Bool) (e : Err) :
    (s.detectErr defer e).lasting = s.lasting := by
  simp only [detectErr]
  split <;> simp only [seeNow_lasting, detected_lasting, raiseSpec_lasting, deliverErr_lasting, lasting_ite, ite_self]

@[simp] theorem errEvent_lasting (s : State) (e : Err) (lvl count alm : Nat) :
    (s.errEvent e lvl count alm).lasting = s.lasting := by
  simp only [errEvent, updMmc_lasting, lasting_mk, lasting_eta]

@[simp] theorem report_lasting (s : State) (e : Err) (lvl count : Nat) :
    (s.report e lvl count).lasting = s.lasting := by
  simp only [report, errEvent_lasting, errRecord_lasting]

@[simp] theorem reportLimited_lasting (s : State) (e : Err) (lvl ix : Nat) :
    (s.reportLimited e lvl ix).lasting = s.lasting := by
  simp only [reportLimited, report_lasting, lasting_mk, lasting_eta, lasting_ite, ite_self]

@[simp] theorem fxRateLimitReport_lasting (s : State) (lvl ix code : Nat) :
    (s.fxRateLimitReport lvl ix code).lasting = s.lasting := by
  simp only [fxRateLimitReport]
  split
  · rfl
  split
  · rfl
  · simp only [report_lasting, lasting_mk, lasting_eta]

@[simp] theorem strikeErr_lasting (s : State) (lvl ix : Nat) :
    (s.strikeErr lvl ix).1.lasting = s.lasting := by
  unfold strikeErr
  split <;> simp only [freeWord_lasting]

@[simp] theorem fxPkgErrInj_lasting (s : State) (v : W64) :
    (s.fxPkgErrInj v).lasting = s.lasting := by
  simp only [fxPkgErrInj, deliverErr_lasting, lasting_ite, ite_self]

@[simp] theorem mirror_lasting (s : State) (whole : Bool) :
    (s.mirror whole).lasting = s.lasting := by
  simp only [mirror, setFlash_lasting, setRegF_lasting, lasting_ite, ite_self]

@[simp] theorem fxAlmanacMirror_lasting (s : State) :
    (s.fxAlmanacMirror).lasting = s.lasting := by
  simp only [fxAlmanacMirror, mirror_lasting, lasting_ite, ite_self]

@[simp] theorem fxAlmanacRestore_lasting (s : State) :
    (s.fxAlmanacRestore).lasting = s.lasting := by
  simp only [fxAlmanacRestore, setRegF_lasting, setBit_lasting, setFlash_lasting, putRecords_lasting, clrBit_lasting,
    lasting_mk, lasting_eta, lasting_ite, ite_self, foldl_lasting, implies_true]

@[simp] theorem fxOpsecTick_lasting (s : State) :
    (s.fxOpsecTick).lasting = s.lasting := by
  simp only [fxOpsecTick, bump_lasting, updChan_lasting, lasting_ite, ite_self, foldl_lasting, implies_true]

@[simp] theorem saveTime_lasting (s : State) :
    (s.saveTime).lasting = s.lasting := by
  simp only [saveTime, updMmc_lasting]

@[simp] theorem fxTimeBaseSave_lasting (s : State) :
    (s.fxTimeBaseSave).lasting = s.lasting := by
  simp only [fxTimeBaseSave, saveTime_lasting, lasting_ite, ite_self]

/-! ### Machine/Power -/

@[simp] theorem setVmv_lasting (s : State) (d p : Nat) :
    (s.setVmv d p).lasting = s.lasting := by
  simp only [setVmv, setRegF_lasting]

@[simp] theorem setF_lasting (s : State) (d p : Nat) :
    (s.setF d p).lasting = s.lasting := by
  simp only [setF, setRegF_lasting]

@[simp] theorem setV_lasting (s : State) (d p : Nat) :
    (s.setV d p).lasting = s.lasting := by
  simp only [setV, setVmv_lasting, setRegF_lasting]

@[simp] theorem opRefuse_lasting (s : State) (d : Nat) :
    (s.opRefuse d).lasting = s.lasting := by
  simp only [opRefuse, bump_lasting]

@[simp] theorem slew_lasting (s : State) (d p : Nat) (ds : List Nat) :
    (s.slew d p ds).lasting = s.lasting := by
  simp only [slew, setVmv_lasting, setBit_lasting, updPwr_lasting]

@[simp] theorem fxPwrOpVWr_lasting (s : State) (d : Nat) (v : W64) :
    (s.fxPwrOpVWr d v).lasting = s.lasting := by
  simp only [fxPwrOpVWr, opRefuse_lasting, slew_lasting, lasting_ite, ite_self]

@[simp] theorem fxPwrOpFWr_lasting (s : State) (d : Nat) (v : W64) :
    (s.fxPwrOpFWr d v).lasting = s.lasting := by
  simp only [fxPwrOpFWr, opRefuse_lasting, setF_lasting, lasting_ite, ite_self, foldl_lasting, implies_true]

@[simp] theorem opTarget_lasting (s : State) (ds : List Nat) (p : Nat) :
    (s.opTarget ds p).lasting = s.lasting := by
  simp only [opTarget, setF_lasting, slew_lasting, lasting_ite, ite_self, foldl_lasting, implies_true]

@[simp] theorem opRequest_lasting (s : State) (d p : Nat) :
    (s.opRequest d p).lasting = s.lasting := by
  simp only [opRequest, opRefuse_lasting, opTarget_lasting, lasting_ite, ite_self]

@[simp] theorem fxPwrOpTWr_lasting (s : State) (d : Nat) (v : W64) :
    (s.fxPwrOpTWr d v).lasting = s.lasting := by
  simp only [fxPwrOpTWr, opRefuse_lasting, opRequest_lasting, lasting_ite, ite_self]

@[simp] theorem fxVoltageSlewDone_lasting (s : State) (d : Nat) :
    (s.fxVoltageSlewDone d).lasting = s.lasting := by
  unfold fxVoltageSlewDone
  split <;> simp only [setV_lasting, updPwr_lasting, clrBit_lasting, setF_lasting, lasting_ite, ite_self,
    foldl_lasting, implies_true]

@[simp] theorem fxPwrStretchWrite_lasting (s : State) (v : W64) :
    (s.fxPwrStretchWrite v).lasting = s.lasting := by
  simp only [fxPwrStretchWrite, setRegF_lasting, lasting_ite, ite_self]

@[simp] theorem untrain_lasting (s : State) :
    (s.untrain).lasting = s.lasting := by
  simp only [untrain, setRegF_lasting, lasting_ite, ite_self, foldl_lasting, implies_true]

@[simp] theorem restoreMargins_lasting (s : State) :
    (s.restoreMargins).lasting = s.lasting := by
  simp only [restoreMargins, setRegF_lasting, setReg_lasting, foldl_lasting, implies_true]

@[simp] theorem toD0_lasting (s : State) :
    (s.toD0).lasting = s.lasting := by
  simp only [toD0, emit_lasting, updPwr_lasting, lasting_ite, ite_self]

@[simp] theorem failFn_lasting (s : State) (b : Nat) :
    (s.failFn b).lasting = s.lasting := by
  simp only [failFn, raiseCode_lasting, setReady_lasting, setBit_lasting, lasting_ite, ite_self]

@[simp] theorem failDown_lasting (s : State) (b : Nat) :
    (s.failDown b).lasting = s.lasting := by
  simp only [failDown, failFn_lasting, foldl_lasting, implies_true]

@[simp] theorem setStage_lasting (s : State) (v : Nat) :
    (s.setStage v).lasting = s.lasting := by
  simp only [setStage, setRegF_lasting, emit_lasting, lasting_ite, ite_self]

@[simp] theorem boot_lasting (s : State) (b : BootVerdict) (last : Nat) (failBefore : W64) :
    (s.boot b last failBefore).lasting = s.lasting := by
  simp only [boot]
  split <;> simp only [setRegF_lasting, record_lasting, updMmc_lasting, failFn_lasting, setStage_lasting,
    publish_lasting, failDown_lasting, lasting_ite, ite_self, foldl_lasting, implies_true]

@[simp] theorem fxPerstDeassert_lasting (s : State) :
    (s.fxPerstDeassert).lasting = s.lasting := by
  simp only [fxPerstDeassert, toD0_lasting, updPwr_lasting, wakeUp_lasting, lasting_ite, ite_self]

@[simp] theorem fxD3hotEntry_lasting (s : State) :
    (s.fxD3hotEntry).lasting = s.lasting := by
  simp only [fxD3hotEntry, updPwr_lasting]

@[simp] theorem fxD3hotToD0_lasting (s : State) :
    (s.fxD3hotToD0).lasting = s.lasting := by
  simp only [fxD3hotToD0, wakeUp_lasting, toD0_lasting, lasting_ite, ite_self]

@[simp] theorem stackFail_lasting (s : State) (d i : Nat) (refused : Bool) :
    (s.stackFail d i refused).lasting = s.lasting := by
  simp only [stackFail, failFn_lasting, lasting_ite, ite_self]

@[simp] theorem defaultTest_lasting (s : State) (c : Nat) :
    (s.defaultTest c).lasting = s.lasting := by
  simp only [defaultTest, freeWord_lasting, setReg_lasting, updChan_lasting]

@[simp] theorem stackReady_lasting (s : State) (d i : Nat) (ch : List (Option (Fin 6))) :
    (s.stackReady d i ch).lasting = s.lasting := by
  grind [stackReady, defaultTest_lasting, setRegF_lasting, retireChan_lasting, setReady_lasting, foldl_lasting]

@[simp] theorem dieReady_lasting (s : State) (d : Nat) (t : SelfTest) :
    (s.dieReady d t).lasting = s.lasting := by
  simp only [dieReady, selfTest_lasting, setFlash_lasting, setVmv_lasting, publish_lasting, setReady_lasting]

@[simp] theorem flashDue_lasting (s : State) (due : List Nat) :
    (due.foldl (fun s n => { s.flashBegin n with flashDue := [] }) s).lasting = s.lasting := by
  refine foldl_lasting (fun s n => ?_) due s
  simp only [lasting_mk, lasting_eta, flashBegin_lasting]

@[simp] theorem journalScan_lasting (s : State) : s.journalScan.lasting = s.lasting := by
  unfold journalScan
  rw [flashDue_lasting, setReady_lasting, foldl_lasting, setFlash_lasting, foldl_lasting]
  · intro s n
    rw [lasting_ite, setRegF_lasting, ite_self]
  · intro s n
    split
    · exact setRegF_lasting ..
    · rfl

@[simp] theorem bootStage_lasting (s : State) :
    (s.bootStage).lasting = s.lasting := by
  simp only [bootStage, setStage_lasting, lasting_ite, ite_self]

@[simp] theorem fxFunctionReady_lasting (s : State) (f : Func) (o : ReadyOutcome) :
    (s.fxFunctionReady f o).lasting = s.lasting := by
  simp only [fxFunctionReady]
  grind [bootStage_lasting, publish_lasting, stackFail_lasting, failDown_lasting, setRegF_lasting, setReady_lasting,
    setStage_lasting, dieReady_lasting, stackReady_lasting, journalScan_lasting]

@[simp] theorem pwrRequest_lasting (s : State) (st bit : Nat) :
    (s.pwrRequest st bit).lasting = s.lasting := by
  simp only [pwrRequest, wakeUp_lasting, setRegF_lasting, updPwr_lasting, fxPortSleep_lasting, lasting_ite, ite_self,
    foldl_lasting, implies_true]

@[simp] theorem fxReqActive_lasting (s : State) :
    (s.fxReqActive).lasting = s.lasting := by
  simp only [fxReqActive, pwrRequest_lasting]

@[simp] theorem fxReqIdle_lasting (s : State) :
    (s.fxReqIdle).lasting = s.lasting := by
  simp only [fxReqIdle, pwrRequest_lasting]

@[simp] theorem fxReqDormant_lasting (s : State) :
    (s.fxReqDormant).lasting = s.lasting := by
  simp only [fxReqDormant, pwrRequest_lasting]

@[simp] theorem fxReqSolstice_lasting (s : State) :
    (s.fxReqSolstice).lasting = s.lasting := by
  simp only [fxReqSolstice, pwrRequest_lasting]

@[simp] theorem stopFns_lasting (s : State) (mask : Nat) :
    (s.stopFns mask).lasting = s.lasting := by
  simp only [stopFns, updPwr_lasting, setReadyWord_lasting]

@[simp] theorem flushAll_lasting (s : State) :
    (s.flushAll).lasting = s.lasting := by
  simp only [flushAll, writeBack_lasting, setRegF_lasting, setSlice_lasting, foldl_lasting, implies_true]

@[simp] theorem enterSolstice_lasting (s : State) :
    (s.enterSolstice).lasting = s.lasting := by
  simp only [enterSolstice, setRegF_lasting, restoreMargins_lasting, lasting_mk, lasting_eta, lasting_ite, ite_self]

@[simp] theorem diesToOp4_lasting (s : State) :
    (s.diesToOp4).lasting = s.lasting := by
  simp only [diesToOp4, clrBit_lasting, setV_lasting, setF_lasting, updPwr_lasting, lasting_ite, ite_self,
    foldl_lasting, implies_true]

@[simp] theorem portsLow_lasting (s : State) :
    (s.portsLow).lasting = s.lasting := by
  simp only [portsLow, lowPower_lasting, lasting_ite, ite_self, foldl_lasting, implies_true]

@[simp] theorem entrySteps_lasting (s : State) (st n : Nat) :
    (s.entrySteps st n).lasting = s.lasting := by
  simp only [entrySteps, stopFns_lasting, portsLow_lasting, flushAll_lasting, diesToOp4_lasting,
    enterSolstice_lasting, lasting_ite, ite_self]

@[simp] theorem fxPowerEntryComplete_lasting (s : State) : s.fxPowerEntryComplete.lasting = s.lasting := by
  unfold fxPowerEntryComplete
  split
  · rfl
  dsimp only
  split
  · simp only [lasting_ite, beginWake_lasting, bump_lasting, stopFns_lasting, entrySteps_lasting, freeWord_lasting,
    ite_self]
  · simp only [lasting_ite, wakeUp_lasting, setRegF_lasting, entrySteps_lasting, ite_self]

@[simp] theorem fxPwrTimerExpiry_lasting (s : State) :
    (s.fxPwrTimerExpiry).lasting = s.lasting := by
  simp only [fxPwrTimerExpiry, wakeUp_lasting, lasting_ite, ite_self]

/-! ### Machine/Monitor -/

@[simp] theorem fxMonitorSample_lasting (s : State) (b n v : Nat) :
    (s.fxMonitorSample b n v).lasting = s.lasting := by
  simp only [fxMonitorSample, raiseCode_lasting, lasting_mk, lasting_eta, lasting_ite, ite_self]

@[simp] theorem closeWindow_lasting (s : State) (b n : Nat) :
    (s.closeWindow b n).lasting = s.lasting := by
  simp only [closeWindow, setReg_lasting, bump_lasting, setRegF_lasting, lasting_mk, lasting_eta, foldl_lasting,
    implies_true]

@[simp] theorem fxWindowClose_lasting (s : State) (b n : Nat) :
    (s.fxWindowClose b n).lasting = s.lasting := by
  simp only [fxWindowClose, closeWindow_lasting, lasting_ite, ite_self]

@[simp] theorem fxMonClose_lasting (s : State) (b n : Nat) :
    (s.fxMonClose b n).lasting = s.lasting := by
  simp only [fxMonClose, closeWindow_lasting, lasting_ite, ite_self]

@[simp] theorem stretchUpdate_lasting (s : State) (d : Nat) :
    (s.stretchUpdate d).lasting = s.lasting := by
  simp only [stretchUpdate, setRegF_lasting]

@[simp] theorem fxThermalControl_lasting (s : State) (d tj hot : Nat) (aged : Bool) :
    (s.fxThermalControl d tj hot aged).lasting = s.lasting := by
  simp only [fxThermalControl, setRegF_lasting, stretchUpdate_lasting, bump_lasting, opRequest_lasting,
    raiseCode_lasting, lasting_ite, ite_self]

@[simp] theorem fxPowerControl_lasting (s : State) (sample avg vin : Nat) (ms tenMs : Bool) :
    (s.fxPowerControl sample avg vin ms tenMs).lasting = s.lasting := by
  simp only [fxPowerControl, setRegF_lasting, stretchUpdate_lasting, raiseCode_lasting, lasting_ite, ite_self,
    foldl_lasting, implies_true]

@[simp] theorem startTest_lasting (s : State) (u : Nat) :
    (s.startTest u).lasting = s.lasting := by
  unfold startTest
  split <;> simp only [setBit_lasting, lasting_ite, ite_self]

@[simp] theorem fxJubileeDue_lasting (s : State) (d : Nat) :
    (s.fxJubileeDue d).lasting = s.lasting := by
  simp only [fxJubileeDue, setBit_lasting, lasting_ite, ite_self]

@[simp] theorem fxJubileeStart_lasting (s : State) (d : Nat) (v : W64) :
    (s.fxJubileeStart d v).lasting = s.lasting := by
  simp only [fxJubileeStart, setRegF_lasting, clrBit_lasting, setBit_lasting, lasting_ite, ite_self]

@[simp] theorem fxJubileeRun_lasting (s : State) (d : Nat) :
    (s.fxJubileeRun d).lasting = s.lasting := by
  simp only [fxJubileeRun, setBit_lasting, clrBit_lasting, updPwr_lasting, setReady_lasting, startTest_lasting,
    lasting_ite, ite_self, foldl_lasting, implies_true]

@[simp] theorem fxJubileeComplete_lasting (s : State) (d : Nat) (runs : List MarginRun) :
    (s.fxJubileeComplete d runs).lasting = s.lasting := by
  simp only [fxJubileeComplete, setReg_lasting, bump_lasting, clrBit_lasting, setRegF_lasting, updMmc_lasting,
    setV_lasting, setF_lasting, updPwr_lasting, publish_lasting, setReady_lasting, raise_lasting, lasting_ite, ite_self]

/-! ### Machine/Bar0 -/

@[simp] theorem setTxn_lasting (s : State) (w : Who) (t : TxnSt) :
    (s.setTxn w t).lasting = s.lasting := by
  unfold setTxn
  split <;> simp only [lasting_mk, lasting_eta]

@[simp] theorem fxPkgTxnBegin_lasting (s : State) (w : Who) (_v : W64) :
    (s.fxPkgTxnBegin w _v).lasting = s.lasting := by
  simp only [fxPkgTxnBegin, setTxn_lasting, setRegF_lasting, lasting_ite, ite_self]

@[simp] theorem stage_lasting (s : State) (w : Who) (k : Nat) (p : Machine.Part) (x : W64) :
    (s.stage w k p x).lasting = s.lasting := by
  simp only [stage, bump_lasting, setTxn_lasting, setRegF_lasting, lasting_ite, ite_self]

@[simp] theorem commitReg_lasting (s : State) (w : Who) (k : Nat) (v : W64) :
    (s.commitReg w k v).lasting = s.lasting := by
  grind [commitReg, setRegF_lasting, setTxn_lasting, setBit_lasting, flashAbandon_lasting, calm_lasting,
    memWrite_lasting, lasting_mk, lasting_eta, foldl_lasting]

@[simp] theorem fxPkgTxnCommit_lasting (s : State) (w : Who) (v : W64) :
    (s.fxPkgTxnCommit w v).lasting = s.lasting := by
  grind [fxPkgTxnCommit, setRegF_lasting, closeTxn_lasting, commitReg_lasting, foldl_lasting]

@[simp] theorem fxPkgTxnRollback_lasting (s : State) (w : Who) (v : W64) :
    (s.fxPkgTxnRollback w v).lasting = s.lasting := by
  simp only [fxPkgTxnRollback, closeTxn_lasting, lasting_ite, ite_self]

@[simp] theorem fxTxnTimeout_lasting (s : State) (w : Who) :
    (s.fxTxnTimeout w).lasting = s.lasting := by
  simp only [fxTxnTimeout, closeTxn_lasting]

@[simp] theorem shadowWrite_lasting (s : State) (pu sl o : Nat) (p : Machine.Part) (x : W64) :
    (s.shadowWrite pu sl o p x).lasting = s.lasting := by
  simp only [shadowWrite, setReg_lasting, updUnit_lasting, setRegF_lasting, lasting_ite, ite_self]

@[simp] theorem activeWrite_lasting (s : State) (pu sl o : Nat) (p : Machine.Part) (x : W64) :
    (s.activeWrite pu sl o p x).lasting = s.lasting := by
  simp only [activeWrite, setRegF_lasting, lasting_ite, ite_self]

@[simp] theorem pstoreWrite_lasting (s : State) (pc o : Nat) (bs : List Byte) :
    (s.pstoreWrite pc o bs).lasting = s.lasting := by
  simp only [pstoreWrite, bump_lasting, setBit_lasting, updClu_lasting, lasting_ite, ite_self]

@[simp] theorem fxShadowBlockWrite_lasting (s : State) (u sl off size : Nat) (v : W64) :
    (s.fxShadowBlockWrite u sl off size v).lasting = s.lasting := by
  unfold fxShadowBlockWrite
  split <;> simp only [gate_lasting, shadowWrite_lasting, implies_true]

@[simp] theorem fxActiveBlockLiveWrite_lasting (s : State) (u sl off size : Nat) (v : W64) :
    (s.fxActiveBlockLiveWrite u sl off size v).lasting = s.lasting := by
  unfold fxActiveBlockLiveWrite
  split <;> simp only [gate_lasting, activeWrite_lasting, implies_true]

@[simp] theorem fxPstoreWindowWrite_lasting (s : State) (c off size : Nat) (v : W64) :
    (s.fxPstoreWindowWrite c off size v).lasting = s.lasting := by
  unfold fxPstoreWindowWrite
  split <;> simp only [gate_lasting, pstoreWrite_lasting, implies_true]

@[simp] theorem queueWrite_lasting (s : State) (n word : Nat) (y : W64) :
    (s.queueWrite n word y).lasting = s.lasting := by
  unfold queueWrite
  split <;> simp only [fxQueueDisable_lasting, qcfgErr_lasting, fxQueueEnable_lasting, qWrite0_lasting,
    setReg_lasting, lasting_ite, ite_self]

@[simp] theorem storePlain_lasting (s : State) (k : Nat) (y : W64) (fs : List RegFld) :
    (s.storePlain k y fs).lasting = s.lasting := by
  grind [storePlain, setRegF_lasting, foldl_lasting]

theorem pkgAct_lasting (s : State) (w : Who) (k : Nat) (p : Machine.Part) (y : W64) :
    ∀ t, (s.pkgAct w k p y) = some t → t.lasting = s.lasting := by
  simp only [pkgAct]
  grind [fxPkgErrInj_lasting, fxPkgTxnBegin_lasting, fxPkgTxnCommit_lasting, fxPkgTxnRollback_lasting,
    setRegF_lasting, pwrRequest_lasting, fxPwrStretchWrite_lasting, fxPwrOpTWr_lasting, fxPwrOpFWr_lasting,
    fxPwrOpVWr_lasting, emit_lasting, clrBit_lasting]

theorem hubAct_lasting (s : State) (w : Who) (k : Nat) (p : Machine.Part) (y : W64) :
    ∀ t, (s.hubAct w k p y) = some t → t.lasting = s.lasting := by
  simp only [hubAct]
  grind [setRegF_lasting, fxClrCnt_lasting, fxLnkEnable_lasting, fxLnkRetrain_lasting, fxLanternSend_lasting,
    ringWrite_lasting, fxVigilStart_lasting, fxFabRetire_lasting, fxFabClrMon_lasting, setRt_lasting, updFab_lasting]

theorem dieAct_lasting (s : State) (k : Nat) (y : W64) :
    ∀ t, (s.dieAct k y) = some t → t.lasting = s.lasting := by
  grind [dieAct, fxUnpinAll_lasting, fxMscFlush_lasting, fxTgStop_lasting, fxTgStart_lasting, fxJubileeStart_lasting,
    fxCcBreak_lasting, fxCcResume_lasting, clrBit_lasting, setBit_lasting]

@[simp] theorem regWriteAt_lasting (s : State) (w : Who) (k : Nat) (p : Machine.Part) (x : W64) :
    (s.regWriteAt w k p x).lasting = s.lasting := by
  grind [regWriteAt, queueWrite_lasting, pkgAct_lasting, hubAct_lasting, dieAct_lasting, stage_lasting,
    storePlain_lasting, fxMonClose_lasting]

@[simp] theorem landed_lasting (s : State) (w : Option Who) (a : Nat) (f : State → State) (hf : ∀ s,
  (f s).lasting = s.lasting) :
    (s.landed w a f).lasting = s.lasting := by
  simp only [landed, bump_lasting, hf, lasting_ite, ite_self]

@[simp] theorem fxRegisterWrite_lasting (s : State) (w : Who) (off size : Nat) (v : W64) :
    (s.fxRegisterWrite w off size v).lasting = s.lasting := by
  grind [fxRegisterWrite, bump_lasting, pstoreWrite_lasting, shadowWrite_lasting, activeWrite_lasting,
    regWriteAt_lasting]

@[simp] theorem fxDieLinkRelock_lasting (s : State) (d : Nat) (longer : Bool) :
    (s.fxDieLinkRelock d longer).lasting = s.lasting := by
  simp only [fxDieLinkRelock, lasting_mk, lasting_eta]

@[simp] theorem fxHbmPhyLockLoss_lasting (s : State) (ch : Nat) :
    (s.fxHbmPhyLockLoss ch).lasting = s.lasting := by
  simp only [fxHbmPhyLockLoss, updChan_lasting, setRegF_lasting, lasting_ite, ite_self]

/-! ### Machine/Mgmt -/

@[simp] theorem answerMgmt_lasting (s : State) (code : Nat) (bs : List Byte) :
    (s.answerMgmt code bs).lasting = s.lasting := by
  simp only [answerMgmt, emit_lasting]

@[simp] theorem plain_lasting (s : State) (f : State → State) (hf : ∀ s, (f s).lasting = s.lasting) :
    (s.plain f).lasting = s.lasting := by
  simp only [plain, answerMgmt_lasting, hf, lasting_ite, ite_self]

@[simp] theorem session_lasting (s : State) (auth : Bool) (f : State → State) (hf : ∀ s, (f s).lasting = s.lasting) :
    (s.session auth f).lasting = s.lasting := by
  simp only [session, plain_lasting, answerMgmt_lasting, hf, lasting_ite, ite_self, implies_true]

@[simp] theorem accept_lasting (s : State) (ok : Bool) (f : State → State) (hf : ∀ s, (f s).lasting = s.lasting) :
    (s.accept ok f).lasting = s.lasting := by
  simp only [accept, answerMgmt_lasting, hf, lasting_ite, ite_self]

@[simp] theorem fxRegRead_lasting (s : State) (off size : Nat) :
    (s.fxRegRead off size).lasting = s.lasting := by
  simp only [fxRegRead, plain_lasting, answerMgmt_lasting, lasting_mk, lasting_eta, implies_true]

@[simp] theorem fxRegWrite_lasting (s : State) (auth : Bool) (off size : Nat) (v : W64) :
    (s.fxRegWrite auth off size v).lasting = s.lasting := by
  simp only [fxRegWrite, session_lasting, accept_lasting, fxRegisterWrite_lasting, implies_true]

@[simp] theorem settleFlash_lasting (s : State) :
    (s.settleFlash).lasting = s.lasting := by
  simp only [settleFlash, segmentDone_lasting, mirror_lasting, lasting_ite, ite_self, foldl_lasting, implies_true]

@[simp] theorem fxPowerState_lasting (s : State) (auth : Bool) (req : Nat) :
    (s.fxPowerState auth req).lasting = s.lasting := by
  simp only [fxPowerState, session_lasting, accept_lasting, pwrRequest_lasting, implies_true]

@[simp] theorem fxWake_lasting (s : State) :
    (s.fxWake).lasting = s.lasting := by
  simp only [fxWake, plain_lasting, accept_lasting, wakeUp_lasting, implies_true]

@[simp] theorem fxAdmitModule_lasting (s : State) (auth : Bool) (gen : Nat) :
    (s.fxAdmitModule auth gen).lasting = s.lasting := by
  unfold fxAdmitModule
  refine session_lasting _ _ _ fun s => accept_lasting _ _ _ fun s => ?_
  dsimp only
  split
  · rw [setRegF_lasting, clrBit_lasting, foldl_lasting fun s pc => resetCluster_lasting s pc, setRegF_lasting]
  · exact setRegF_lasting ..

@[simp] theorem fxRetireNotice_lasting (s : State) (auth : Bool) (gen : Nat) :
    (s.fxRetireNotice auth gen).lasting = s.lasting := by
  grind [fxRetireNotice, session_lasting, accept_lasting, calm_lasting, fence_lasting]

@[simp] theorem fxChannelRetire_lasting (s : State) (auth : Bool) (ch : Nat) :
    (s.fxChannelRetire auth ch).lasting = s.lasting := by
  simp only [fxChannelRetire, session_lasting, accept_lasting, resume_lasting, release_lasting, retireChan_lasting,
    implies_true]

@[simp] theorem fxChannelTest_lasting (s : State) (auth : Bool) (ch : Nat) :
    (s.fxChannelTest auth ch).lasting = s.lasting := by
  simp only [fxChannelTest, session_lasting, accept_lasting, setRegF_lasting, implies_true]

@[simp] theorem fxChannelTrain_lasting (s : State) (auth : Bool) (ch : Nat) (passed : Bool) (spared : Nat) :
    (s.fxChannelTrain auth ch passed spared).lasting = s.lasting := by
  simp only [fxChannelTrain, session_lasting, accept_lasting, setRegF_lasting, retireChan_lasting, resume_lasting,
    release_lasting, lasting_ite, ite_self, implies_true]

@[simp] theorem fxColumnTest_lasting (s : State) (auth : Bool) (u : Option Nat) :
    (s.fxColumnTest auth u).lasting = s.lasting := by
  grind [fxColumnTest, session_lasting, accept_lasting, startTest_lasting, foldl_lasting]

@[simp] theorem fxReadAlmanac_lasting (s : State) (archive : Bool) (ix : Nat) :
    (s.fxReadAlmanac archive ix).lasting = s.lasting := by
  simp only [fxReadAlmanac, plain_lasting, answerMgmt_lasting, lasting_ite, ite_self, implies_true]

@[simp] theorem fxClearAlmanac_lasting (s : State) (auth : Bool) :
    (s.fxClearAlmanac auth).lasting = s.lasting := by
  simp only [fxClearAlmanac, session_lasting, accept_lasting, setFlash_lasting, setReg_lasting, record_lasting,
    lasting_mk, lasting_eta, implies_true]

@[simp] theorem fxReadBringup_lasting (s : State) (n : Nat) :
    (s.fxReadBringup n).lasting = s.lasting := by
  simp only [fxReadBringup, plain_lasting, freeWord_lasting, freeBytes_lasting, answerMgmt_lasting, lasting_ite,
    ite_self, implies_true]

@[simp] theorem fxActivate_lasting (s : State) (auth : Bool) :
    (s.fxActivate auth).lasting = s.lasting := by
  simp only [fxActivate, session_lasting, accept_lasting, setRegF_lasting, updMmc_lasting, implies_true]

@[simp] theorem fxTestAccess_lasting (s : State) (auth : Bool) :
    (s.fxTestAccess auth).lasting = s.lasting := by
  simp only [fxTestAccess, session_lasting, accept_lasting, updMmc_lasting, implies_true]

@[simp] theorem fxSetAnchor_lasting (s : State) (auth : Bool) (digest : BitVec 384) :
    (s.fxSetAnchor auth digest).lasting = s.lasting := by
  simp only [fxSetAnchor, session_lasting, accept_lasting, updMmc_lasting, implies_true]

@[simp] theorem writeImage_lasting (s : State) (bank : Bool) (image svn : Nat) :
    (s.writeImage bank image svn).lasting = s.lasting := by
  simp only [writeImage, updMmc_lasting]

@[simp] theorem fxPldmFirmwareUpdate_lasting (s : State) (image svn : Nat) (activateFirmware : Bool) :
    (s.fxPldmFirmwareUpdate image svn activateFirmware).lasting = s.lasting := by
  simp only [fxPldmFirmwareUpdate, writeImage_lasting, updMmc_lasting, lasting_ite, ite_self]

@[simp] theorem fxPldmSensorRead_lasting (s : State) (id_ : Nat) :
    (s.fxPldmSensorRead id_).lasting = s.lasting := by
  simp only [fxPldmSensorRead, answerMgmt_lasting, lasting_ite, ite_self]

@[simp] theorem fxPldmEventRetrieval_lasting (s : State) :
    (s.fxPldmEventRetrieval).lasting = s.lasting := by
  simp only [fxPldmEventRetrieval]
  split
  · rfl
  split
  · rfl
  · simp only [emit_lasting, updMmc_lasting]

@[simp] theorem spdmAnswer_lasting (s : State) :
    (s.spdmAnswer).lasting = s.lasting := by
  simp only [spdmAnswer, freeWord_lasting, freeBytes_lasting, emit_lasting]

@[simp] theorem fxSpdmRequest_lasting (s : State) (r : SpdmReq) :
    (s.fxSpdmRequest r).lasting = s.lasting := by
  grind [fxSpdmRequest, spdmAnswer_lasting, updMmc_lasting]

@[simp] theorem fxI3cAddressAssign_lasting (s : State) (o : I3cOp) :
    (s.fxI3cAddressAssign o).lasting = s.lasting := by
  simp only [fxI3cAddressAssign, updMmc_lasting, lasting_ite, ite_self]

@[simp] theorem fxXmodemBundle_lasting (s : State) (image svn : Nat) :
    (s.fxXmodemBundle image svn).lasting = s.lasting := by
  simp only [fxXmodemBundle, writeImage_lasting, lasting_ite, ite_self]

@[simp] theorem fxTapIntrusiveInstruction_lasting (s : State) (i : TapInstr) :
    (s.fxTapIntrusiveInstruction i).lasting = s.lasting := by
  simp only [fxTapIntrusiveInstruction, setReadyWord_lasting, updMmc_lasting, lasting_ite, ite_self]

@[simp] theorem fxTrst_lasting (s : State) :
    (s.fxTrst).lasting = s.lasting := by
  simp only [fxTrst]

end Sys2Proof.Machine.State

/-! ### What marks a loss -/

namespace Sys2Proof.Machine

/-- A loss that lasts: of a physical cluster, of a compute die, of hub 1. -/
inductive Loss where
  | cluster (p : Nat)
  | die (d : Nat)
  | hub1

/-- The loss has happened. -/
def Loss.noted (s : State) : Loss → Prop
  | .cluster p => smGet false s.deadClus p = true
  | .die d => smGet false s.lostDies d = true
  | .hub1 => s.hub1Lost = true

/-- A fatal error stays noted, and unless one is noted at the end the loss does too. -/
structure Lasts (l : Loss) (s t : State) : Prop where
  fatal : s.fatal = true → t.fatal = true
  loss : t.fatal = false → l.noted s → l.noted t

namespace Lasts

variable {l : Loss} {s t u : State}

theorem trans (h : Lasts l s t) (g : Lasts l t u) : Lasts l s u where
  fatal hs := g.fatal (h.fatal hs)
  loss hu hs := g.loss hu (h.loss (Bool.eq_false_iff.mpr fun ht => Bool.eq_false_iff.mp hu (g.fatal ht)) hs)

theorem of_eq (h : t.lasting = s.lasting) : Lasts l s t := by
  simp only [State.lasting, Prod.mk.injEq] at h
  obtain ⟨-, hf, hc, hd, hh⟩ := h
  refine ⟨fun hs => hf ▸ hs, fun _ hs => ?_⟩
  cases l <;> simpa only [Loss.noted, hc, hd, hh] using hs

theorem refl (l : Loss) (s : State) : Lasts l s s := of_eq rfl

/-- A step that lasts, then one that touches none of the losses. -/
theorem then_eq (h : Lasts l s t) (g : u.lasting = t.lasting) : Lasts l s u := h.trans (of_eq g)

theorem of_fatal (h : t.fatal = true) : Lasts l s t := ⟨fun _ => h, fun ht => by simp [h] at ht⟩

theorem ite {c : Prop} [Decidable c] (ht : Lasts l s t) (hu : Lasts l s u) : Lasts l s (if c then t else u) := by
  split
  · exact ht
  · exact hu

theorem foldl {α : Type} {f : State → α → State} (hf : ∀ s a, Lasts l s (f s a)) (xs : List α) (s : State) :
    Lasts l s (xs.foldl f s) := by
  induction xs generalizing s with
  | nil => exact refl l s
  | cons a xs ih => exact (hf s a).trans (ih _)

end Lasts

/-! ### What declares clusters dead, loses dies and hub 1 -/

theorem smGet_smSet_true {m : SMap Bool} {j : Nat} (k : Nat) (h : smGet false m j = true) :
    smGet false (smSet false m k true) j = true := by
  rw [smGet_smSet]
  split
  · rfl
  · exact h

namespace State

variable (l : Loss) (s : State)

theorem noteDead_lasts (pc : Nat) : Lasts l s { s with deadClus := smSet false s.deadClus pc true } where
  fatal h := h
  loss _ h := by
    cases l with
    | cluster p => exact smGet_smSet_true pc h
    | die d => exact h
    | hub1 => exact h

theorem noteLostDie_lasts (d : Nat) : Lasts l s { s with lostDies := smSet false s.lostDies d true } where
  fatal h := h
  loss _ h := by
    cases l with
    | cluster p => exact h
    | die x => exact smGet_smSet_true d h
    | hub1 => exact h

theorem declareDead_lasts (c : Nat) (spare : Bool) : Lasts l s (s.declareDead c spare) := by
  unfold declareDead
  split
  · exact .refl l s
  next pc _ =>
    refine Lasts.then_eq ?_ (by simp only [publish_lasting, closeFaults_lasting, endDead_lasting]; rfl)
    have hnote : ∀ s₁ : State, s₁.lasting = s.lasting →
        Lasts l s { s₁ with deadClus := smSet false s₁.deadClus pc true } :=
      fun s₁ h => (Lasts.of_eq h).trans (noteDead_lasts l s₁ pc)
    refine Lasts.trans (hnote _ ?_) (.ite (.of_eq (revive_lasting _ c)) (.refl l _))
    · simp only [bump_lasting, setRegF_lasting, lasting_ite, updClu_lasting, ite_self]
      split <;> simp only [setRegF_lasting, emptyCluster_lasting, silence_lasting]

theorem loseClusters_lasts (r : Nat) (dead : Bool) : Lasts l s (s.loseClusters r dead) := by
  unfold loseClusters
  refine Lasts.then_eq (Lasts.foldl (fun s p => ?_) _ s) (by simp only [closeFaults_lasting, setReg_lasting]; rfl)
  refine Lasts.then_eq ?_ (by simp only [endDead_lasting, updClu_lasting]; rfl)
  exact (Lasts.of_eq (emptyCluster_lasting s _)).trans (.ite (noteDead_lasts l _ _) (.refl l _))


theorem loseRegion_lasts (r : Nat) (readable : Bool) : Lasts l s (s.loseRegion r readable) := by
  unfold loseRegion
  refine .ite (.refl l s) ?_
  refine ((Lasts.of_eq (silence_lasting s 2 r)).trans (loseClusters_lasts l _ r true)).then_eq ?_
  simp only [publish_lasting, setReg_lasting, poisonWait_lasting, writeBack_lasting, poisonChan_lasting, setSlice_lasting,
    lasting_mk, lasting_eta, lasting_ite, foldl_lasting, implies_true, ite_self]

theorem loseDie_lasts (d : Nat) : Lasts l s (s.loseDie d) := by
  unfold loseDie
  refine .ite (.refl l s) ?_
  refine Lasts.then_eq ?_ (foldl_lasting (fun s w => serve_lasting s w) _ _)
  refine Lasts.then_eq ?_ (by simp only [publish_lasting, setReadyWord_lasting]; rfl)
  refine Lasts.trans ?_ (noteLostDie_lasts l _ d)
  refine Lasts.then_eq ?_ (setTgt_lasting _ _ _)
  refine (Lasts.of_eq (silence_lasting s 3 d)).trans (.foldl (fun s g => ?_) _ _)
  exact (loseClusters_lasts l s (4 * d + g) true).then_eq (by simp only [setReg_lasting, setSlice_lasting])

theorem setReadyWord_fatal (w : W64) : (s.setReadyWord w).fatal = s.fatal :=
  congrArg (fun x => x.2.1) (setReadyWord_lasting s w)

theorem loseHub1_lasts : Lasts l s s.loseHub1 := by
  unfold loseHub1
  split
  · exact .refl l s
  extract_lets s₁ s₂ s₃ s₄ s₅ s₆ w
  clear_value s₆
  exact .of_fatal (setReadyWord_fatal _ w)

theorem loseModule_lasts : Lasts l s s.loseModule := .of_fatal rfl

theorem errAction_lasts (e : Err) : Lasts l s (s.errAction e).1 := by
  unfold errAction
  split
  · exact .refl l s
  split
  · dsimp only
    split
    · exact declareDead_lasts l s _ _
    · exact .refl l s
  · exact loseRegion_lasts l s _ _
  · exact loseDie_lasts l s _
  · exact loseHub1_lasts l s
  · exact .ite (loseDie_lasts l s _) (loseHub1_lasts l s)
  · exact .refl l s

theorem fatalRecord_loseModule_lasts (e : Err) : Lasts l s (s.fatalRecord e).loseModule := .of_fatal rfl

theorem fxErrorArrival_lasts (a : Nat ⊕ Err) : Lasts l s (s.fxErrorArrival a) := by
  unfold fxErrorArrival
  split
  · split
    · exact .refl l s
    · exact .of_eq (deliverErr_lasting _ _)
  · split
    · exact .refl l s
    · exact .ite (.of_fatal rfl) (.ite (.refl l s) (.of_eq (detectErr_lasting _ _ _)))

theorem fxErrorHandlingEnd_lasts (lvl ix : Nat) : Lasts l s (s.fxErrorHandlingEnd lvl ix) := by
  unfold fxErrorHandlingEnd
  split
  · exact .refl l s
  next e _ =>
    refine (errAction_lasts l s e).then_eq ?_
    simp only [showEh_lasting, setHnd_lasting, reportLimited_lasting, updEh_lasting, bump_lasting, countErr_lasting, implies_true]

theorem fxHandlerStrike_lasts (lvl : Nat) (x : Strike) : Lasts l s (s.fxHandlerStrike lvl x) := by
  unfold fxHandlerStrike
  refine .ite (.refl l s) (.ite (.of_fatal rfl) (.of_eq ?_))
  simp only [arriveAt_lasting, silence_lasting, strikeErr_lasting, updEh_lasting, setHnd_lasting, bump_lasting, implies_true]
  split <;> simp only [errRecord_lasting, updEh_lasting, bump_lasting, implies_true]

theorem fxColumnTestDone_lasts (u : Nat) (faults : List (BitVec 66)) : Lasts l s (s.fxColumnTestDone u faults) := by
  unfold fxColumnTestDone
  split
  · exact .refl l s
  next pu _ =>
    refine .ite (.refl l s) ?_
    refine Lasts.trans (.of_eq (t := (s.clrBit (rUnit pu 8) 1).setFaults pu faults) ?_) ?_
    · simp only [setFaults_lasting, clrBit_lasting]
    refine .ite (.refl l _) <| .ite ?_ (.of_eq ?_)
    · refine (Lasts.of_eq (setBit_lasting _ _ _)).trans <| (declareDead_lasts l _ _ _).then_eq (raise_lasting _ _)
    · simp only [raiseCode_lasting, publish_lasting, setReg_lasting, setBit_lasting]

theorem fxDieClockLoss_lasts (d : Nat) : Lasts l s (s.fxDieClockLoss d) := by
  unfold fxDieClockLoss
  refine .ite (.refl l s) ?_
  exact ((Lasts.of_eq (setBit_lasting _ _ _)).trans (loseDie_lasts l _ d)).then_eq (raiseCode_lasting _ _ _ _ _)

theorem fxThermalTrip_lasts (dom sensor temp : Nat) : Lasts l s (s.fxThermalTrip dom sensor temp) := by
  unfold fxThermalTrip
  refine .ite (.refl l s) <| .ite ?_ <| .ite (.of_fatal rfl) <| .ite (.refl l s) ?_
  · exact .ite (.refl l s) ((loseDie_lasts l s dom).then_eq (raiseCode_lasting _ _ _ _ _))
  · exact (loseHub1_lasts l s).then_eq (raise_lasting _ _)

theorem fxRootClockLoss_lasts : Lasts l s s.fxRootClockLoss := by
  unfold fxRootClockLoss
  exact .ite (.refl l s) (.of_fatal rfl)

theorem inputLost_lasts (m : InputLoss) (cause : Nat) : Lasts l s (s.inputLost m cause) := by
  unfold inputLost
  refine .ite (.refl l s) (Lasts.then_eq (t := ([0, 1].foldl (fun s n => s.segmentDone n (commit := false)) s).loseModule)
    (.of_fatal rfl) ?_)
  simp only [updPwr_lasting, saveTime_lasting, mirror_lasting, errRecord_lasting, countErr_lasting, lasting_ite, ite_self]

/-! ### Warm resets keep the dead clusters; the end of a wake can forget them (R481, R510) -/

theorem clearModule_lasting (rs : SMap W64) : (s.clearModule rs).lasting = (s.pending, false, [], [], false) := by
  simp only [clearModule, lasting_mk]
  exact congrArg (fun x => (x.1, false, [], [], false)) (toD0_lasting s)

theorem warmClear_lasting : s.warmClear.lasting = (s.pending, s.fatal, s.deadClus, [], false) := by
  have h := clearModule_lasting s (s.regs.filterMap warmReg)
  simp only [lasting, Prod.mk.injEq] at h
  obtain ⟨hq, -, -, hd, hh⟩ := h
  simp only [warmClear, restoreMargins_lasting, untrain_lasting, lasting_ite, setRegF_lasting, ite_self, lasting_mk, hq, hd, hh]

theorem warmReset_lasts (p : Nat) (b : BootVerdict) (last : Nat) : Lasts (.cluster p) s (s.warmReset b last) := by
  refine Lasts.then_eq ?_ (boot_lasting _ _ _ _)
  have h := warmClear_lasting s
  simp only [lasting, Prod.mk.injEq] at h
  obtain ⟨-, hf, hc, -⟩ := h
  exact ⟨fun hs => hf.trans hs, fun _ hs => by simpa only [Loss.noted, hc] using hs⟩

theorem fxPerstAssert_lasts (p : Nat) (b : BootVerdict) : Lasts (.cluster p) s (s.fxPerstAssert b) := by
  unfold fxPerstAssert
  refine .ite (.refl _ s) <| .ite (.of_eq (updPwr_lasting _ _)) ?_
  exact (warmReset_lasts s p b 2).then_eq (updPwr_lasting _ _)

theorem session_lasts (auth : Bool) {f : State → State} (hf : ∀ s, Lasts l s (f s)) : Lasts l s (s.session auth f) := by
  unfold session plain
  exact .ite (.refl l s) <| .ite (.of_eq (answerMgmt_lasting _ _ _)) <| .ite (hf s) (.of_eq (answerMgmt_lasting _ _ _))

theorem fxWarmReset_lasts (p : Nat) (auth : Bool) (b : BootVerdict) : Lasts (.cluster p) s (s.fxWarmReset auth b) := by
  refine session_lasts _ _ _ fun s => Lasts.trans (.of_eq ?_) (warmReset_lasts _ p b 3)
  simp only [settleFlash_lasting, answerMgmt_lasting]

theorem dropKeep_lasting : s.dropKeep.lasting = (s.pending, s.fatal, [], s.lostDies, s.hub1Lost) := by
  simp only [dropKeep, raiseCode_lasting, setBit_lasting, setVmv_lasting, restoreMargins_lasting, setRegF_lasting,
    lasting_ite, lasting_mk, foldl_lasting, implies_true, ite_self]

/-- The keep store holds the dead clusters, and nothing else that a loss leaves. -/
theorem dropKeep_lasts (hl : ∀ p, l ≠ .cluster p) : Lasts l s s.dropKeep := by
  have h := dropKeep_lasting s
  simp only [lasting, Prod.mk.injEq] at h
  obtain ⟨-, hf, -, hd, hh⟩ := h
  refine ⟨fun hs => hf.trans hs, fun _ hs => ?_⟩
  cases l with
  | cluster p => exact absurd rfl (hl p)
  | die d => simpa only [Loss.noted, hd] using hs
  | hub1 => simpa only [Loss.noted, hh] using hs

theorem fxWakeComplete_lasts (copies : Bool × Bool) (h : copies = (false, false) → ∀ p, l ≠ .cluster p) :
    Lasts l s (s.fxWakeComplete copies) := by
  unfold fxWakeComplete
  refine .ite (.refl l s) (Lasts.then_eq ?_ (by simp only [updPwr_lasting, setRegF_lasting]; rfl))
  split
  next hc =>
    obtain ⟨-, h1, h2⟩ := hc
    exact dropKeep_lasts l s (h (by ext <;> simp_all))
  · exact .refl l s

end State
end Sys2Proof.Machine

namespace Sys2Proof

/-- The commands that can note a loss or forget one. -/
def Instr.marksLoss : Instr → Bool
  | .columnTestDone _ _ | .dieClockLoss _ | .errorArrival _ | .errorHandlingEnd _ _ | .handlerStrike _ _
  | .inputCurrentLimit _ | .inputOvervoltage _ | .inputUndervoltage _
  | .perstAssert _ | .powerOnColdReset _ _ | .coldReset _ _ _ | .rootClockLoss | .thermalTrip _ _ _ | .wakeComplete _ | .warmReset _ _ => true
  | _ => false
end Sys2Proof

namespace Sys2Proof.Machine

open State

theorem next_lasting {s t u : State} (h : (.next u : Host.Outcome State Fault Refusal) = .next t)
    (hu : u.lasting = s.lasting) : t.lasting = s.lasting := by
  cases h
  exact hu

theorem exec_lasting (c : Instr) (s t : State) (hc : c.marksLoss = false) (hexec : exec c s = .next t) :
    t.lasting = s.lasting := by
  cases c with
  | cfg c => exact next_lasting hexec (fxCfg_lasting _ _)
  | dcrcCheck u sl => exact next_lasting hexec (orWait_lasting _ _ fun s => fxDcrcCheck_lasting s _ _)
  | patch c => exact next_lasting hexec (fxPatch_lasting _ _)
  | patchTakeEffect c => exact next_lasting hexec (orWait_lasting _ _ fun s => fxPatchTakeEffect_lasting s _)
  | go c => exact next_lasting hexec (fxGo_lasting _ _)
  | goAdmit u sl => exact next_lasting hexec (fxGoAdmit_lasting _ _ _)
  | goPrepare u sl t => exact next_lasting hexec (orWait_lasting _ _ fun s => fxGoPrepare_lasting s _ _ _ _)
  | goStart u sl => exact next_lasting hexec (fxGoStart_lasting _ _ _)
  | strm c => exact next_lasting hexec (fxStrm_lasting _ _)
  | waittok c => exact next_lasting hexec (fxWaittok_lasting _ _)
  | waittokRelease c => exact next_lasting hexec (fxWaittokRelease_lasting _ _)
  | tokenTimeout c => exact next_lasting hexec (fxTokenTimeout_lasting _ _)
  | sigtok c => exact next_lasting hexec (fxSigtok_lasting _ _)
  | tokenAdd j => exact next_lasting hexec (fxTokenAdd_lasting _ _)
  | replay c => exact next_lasting hexec (fxReplay_lasting _ _)
  | swap c => exact next_lasting hexec (fxSwap_lasting _ _)
  | swapTakeEffect c => exact next_lasting hexec (fxSwapTakeEffect_lasting _ _)
  | fence c => exact next_lasting hexec (fxFence_lasting _ _)
  | fenceRelease c => exact next_lasting hexec (fxFenceRelease_lasting _ _)
  | halt c => exact next_lasting hexec (fxHalt_lasting _ _)
  | programEnd c => exact next_lasting hexec (fxProgramEnd_lasting _ _)
  | passStart u e => exact next_lasting hexec (fxPassStart_lasting _ _ _)
  | drainStart u e parity => exact next_lasting hexec (fxDrainStart_lasting _ _ _ _)
  | descriptorComplete u sl => exact next_lasting hexec (fxDescriptorComplete_lasting _ _ _)
  | scaleReport j => exact next_lasting hexec (orWait_lasting _ _ fun s => fxScaleReport_lasting s _)
  | scaleClose j => exact next_lasting hexec (orWait_lasting _ _ fun s => fxScaleClose_lasting s _)
  | chainRowArrive u => exact next_lasting hexec (fxChainRowArrive_lasting _ _)
  | chainAbort u => exact next_lasting hexec (fxChainAbort_lasting _ _)
  | watchdog u => exact next_lasting hexec (fxWatchdog_lasting _ _)
  | streamStart u => exact next_lasting hexec (orWait_lasting _ _ fun s => fxStreamStart_lasting s _)
  | streamIssue u g => exact next_lasting hexec (fxStreamIssue_lasting _ _ _)
  | elementDelivery u g k t => exact next_lasting hexec (fxElementDelivery_lasting _ _ _ _ _)
  | faultTimeout u g k => exact next_lasting hexec (fxFaultTimeout_lasting _ _ _ _)
  | sliceRequest r => exact next_lasting hexec (fxSliceRequest_lasting _ _)
  | lineFill ch line sectors => exact next_lasting hexec (fxLineFill_lasting _ _ _ _)
  | retrainWindowOpen ch => exact next_lasting hexec (fxRetrainWindowOpen_lasting _ _)
  | retrainReopen ch spared => exact next_lasting hexec ((resume_lasting _).trans (fxRetrainReopen_lasting _ _ _))
  | retrainTimeout ch restored => exact next_lasting hexec ((resume_lasting _).trans (fxRetrainTimeout_lasting _ _ _ _))
  | fallbackTrainingDone ch passed => exact next_lasting hexec ((resume_lasting _).trans (fxFallbackTrainingDone_lasting _ _ _ _))
  | migrationUnitMove d => exact next_lasting hexec (fxMigrationUnitMove_lasting _ _ _)
  | patrolRead ch sector o => exact next_lasting hexec (fxPatrolRead_lasting _ _ _ _)
  | tgStart ch v => exact next_lasting hexec (gate_lasting _ _ _ fun s => fxTgStart_lasting s _ _)
  | tgStop ch v => exact next_lasting hexec (gate_lasting _ _ _ fun s => fxTgStop_lasting s _ _ _)
  | tgProgramEnd ch faulty => exact next_lasting hexec (fxTgProgramEnd_lasting _ _ _)
  | mscFlush sl => exact next_lasting hexec (gate_lasting _ _ _ fun s => fxMscFlush_lasting s _)
  | mscFlushDone sl => exact next_lasting hexec (fxMscFlushDone_lasting _ _)
  | unpinAll sl => exact next_lasting hexec (gate_lasting _ _ _ fun s => fxUnpinAll_lasting s _)
  | upeJobTake d => exact next_lasting hexec (orWait_lasting _ _ fun s => fxUpeJobTake_lasting s _)
  | upeTokenRelease d => exact next_lasting hexec (orWait_lasting _ _ fun s => fxUpeTokenRelease_lasting s _)
  | upeTokenTimeout d => exact next_lasting hexec (fxUpeTokenTimeout_lasting _ _)
  | update d => exact next_lasting hexec (orWait_lasting _ _ fun s => fxUpdate_lasting s _)
  | norm d => exact next_lasting hexec (orWait_lasting _ _ fun s => fxNorm_lasting s _)
  | statBlend d => exact next_lasting hexec (orWait_lasting _ _ fun s => fxStatBlend_lasting s _)
  | rootPrep d => exact next_lasting hexec (orWait_lasting _ _ fun s => fxRootPrep_lasting s _)
  | rootT d => exact next_lasting hexec (orWait_lasting _ _ fun s => fxRootT_lasting s _)
  | upeJobComplete d => exact next_lasting hexec (orWait_lasting _ _ fun s => fxUpeJobComplete_lasting s _)
  | linkTrainingDone p => exact next_lasting hexec (fxLinkTrainingDone_lasting _ _)
  | trainFail p => exact next_lasting hexec (fxTrainFail_lasting _ _)
  | initSend p => exact next_lasting hexec (fxInitSend_lasting _ _)
  | initFlit p f => exact next_lasting hexec (fxInitFlit_lasting _ _ _)
  | codewordReceive p cw => exact next_lasting hexec (fxCodewordReceive_lasting _ _ _)
  | linkFlit p f => exact next_lasting hexec (fxLinkFlit_lasting _ _ _)
  | nakRepeat p => exact next_lasting hexec (fxNakRepeat_lasting _ _)
  | ackTimer p => exact next_lasting hexec (fxAckTimer_lasting _ _)
  | replayTimeout p => exact next_lasting hexec (fxReplayTimeout_lasting _ _)
  | lockLoss p => exact next_lasting hexec (fxLockLoss_lasting _ _)
  | partnerSignalLoss p => exact next_lasting hexec (fxPartnerSignalLoss_lasting _ _)
  | reinject p => exact next_lasting hexec (fxReinject_lasting _ _)
  | autoRetrain p => exact next_lasting hexec (fxAutoRetrain_lasting _ _)
  | lnkRetrain p => exact next_lasting hexec (portGate_lasting _ _ _ fun s => fxLnkRetrain_lasting s _)
  | lnkEnable p on => exact next_lasting hexec (portGate_lasting _ _ _ fun s => fxLnkEnable_lasting s _ _)
  | lanternSend p => exact next_lasting hexec (portGate_lasting _ _ _ fun s => fxLanternSend_lasting s _)
  | clrCnt p => exact next_lasting hexec (portGate_lasting _ _ _ fun s => fxClrCnt_lasting s _)
  | portSleep p => exact next_lasting hexec (fxPortSleep_lasting _ _)
  | sleep p => exact next_lasting hexec (fxSleep_lasting _ _)
  | sleepAck p => exact next_lasting hexec (fxSleepAck_lasting _ _)
  | sleepAckTimeout p => exact next_lasting hexec (fxSleepAckTimeout_lasting _ _)
  | signalDetectWake p => exact next_lasting hexec (fxSignalDetectWake_lasting _ _)
  | lanternDetect p bursts => exact next_lasting hexec (fxLanternDetect_lasting _ _ _)
  | autoWakeLantern p => exact next_lasting hexec (fxAutoWakeLantern_lasting _ _)
  | packetRoute src => exact next_lasting hexec (fxPacketRoute_lasting _ _)
  | packetForward src => exact next_lasting hexec (fxPacketForward_lasting _ _)
  | put => exact next_lasting hexec (orWait_lasting _ _ fun s => fxPut_lasting s)
  | putAck => exact next_lasting hexec (orWait_lasting _ _ fun s => fxPutAck_lasting s)
  | msg => exact next_lasting hexec (orWait_lasting _ _ fun s => fxMsg_lasting s)
  | token => exact next_lasting hexec (fxToken_lasting _)
  | coll => exact next_lasting hexec (orWait_lasting _ _ fun s => fxColl_lasting s)
  | collCredit => exact next_lasting hexec (orWait_lasting _ _ fun s => fxCollCredit_lasting s)
  | vigilStart w v => exact next_lasting hexec (gate_lasting _ _ _ fun s => fxVigilStart_lasting s _ _)
  | vigilStop => exact next_lasting hexec (fxVigilStop_lasting _)
  | vigilCount => exact next_lasting hexec (fxVigilCount_lasting _)
  | vigilCommit => exact next_lasting hexec (fxVigilCommit_lasting _)
  | vigilRollback => exact next_lasting hexec (fxVigilRollback_lasting _)
  | vigilResume => exact next_lasting hexec (fxVigilResume_lasting _)
  | vigilReply => exact next_lasting hexec (fxVigilReply_lasting _)
  | vigilStageTimeout => exact next_lasting hexec (fxVigilStageTimeout_lasting _)
  | vigilSelfResume => exact next_lasting hexec (fxVigilSelfResume_lasting _)
  | fabRetire v => exact next_lasting hexec (gate_lasting _ _ _ fun s => fxFabRetire_lasting s _)
  | fabClrMon => exact next_lasting hexec (gate_lasting _ _ _ fun s => fxFabClrMon_lasting s)
  | copyOut h => exact next_lasting hexec (orWait_lasting _ _ fun s => fxCopyOut_lasting s _)
  | transferTimeout h => exact next_lasting hexec (orWait_lasting _ _ fun s => fxTransferTimeout_lasting s _)
  | reduceScatter e => exact next_lasting hexec (orWait_lasting _ _ fun s => fxReduceScatter_lasting s _)
  | allGather e => exact next_lasting hexec (orWait_lasting _ _ fun s => fxAllGather_lasting s _)
  | allReduce e => exact next_lasting hexec (orWait_lasting _ _ fun s => fxAllReduce_lasting s _)
  | ringPass e => exact next_lasting hexec (orWait_lasting _ _ fun s => fxRingPass_lasting s _)
  | collComplete e => exact next_lasting hexec (fxCollComplete_lasting _ _)
  | collTimeout e => exact next_lasting hexec (fxCollTimeout_lasting _ _)
  | bar4Read off len => exact next_lasting hexec (fxBar4Read_lasting _ _ _)
  | bar4Write off data => exact next_lasting hexec (fxBar4Write_lasting _ _ _)
  | doorbell off size v => exact next_lasting hexec (fxDoorbell_lasting _ _ _ _)
  | doorbellArm off size v => exact next_lasting hexec (fxDoorbellArm_lasting _ _ _ _)
  | queueEnable q v => exact next_lasting hexec (gate_lasting _ _ _ fun s => fxQueueEnable_lasting s _ _)
  | queueDisable q v => exact next_lasting hexec (gate_lasting _ _ _ fun s => fxQueueDisable_lasting s _ _)
  | sqFetch q r => exact next_lasting hexec (orWait_lasting _ _ fun s => fxSqFetch_lasting s _ _)
  | sqEntryTake tgt => exact next_lasting hexec (fxSqEntryTake_lasting _ _)
  | completionPost tgt => exact next_lasting hexec (orWait_lasting _ _ fun s => fxCompletionPost_lasting s _)
  | msixSend q => exact next_lasting hexec (fxMsixSend_lasting _ _ _)
  | eventDelivery => exact next_lasting hexec (fxEventDelivery_lasting _)
  | load => exact next_lasting hexec (orWait_lasting _ _ fun s => fxLoad_lasting s)
  | slotMapApply t => exact next_lasting hexec (fxSlotMapApply_lasting _ _)
  | start => exact next_lasting hexec (fxStart_lasting _)
  | programStart => exact next_lasting hexec (fxProgramStart_lasting _)
  | grant => exact next_lasting hexec (fxGrant_lasting _)
  | revoke => exact next_lasting hexec (fxRevoke_lasting _)
  | pageRefuse => exact next_lasting hexec (fxPageRefuse_lasting _)
  | clusterReset => exact next_lasting hexec (fxClusterReset_lasting _)
  | unload => exact next_lasting hexec (fxUnload_lasting _)
  | atsTranslationResponse u g k r w logSize => exact next_lasting hexec (fxAtsTranslationResponse_lasting _ _ _ _ _ _ _)
  | pageRequestResponse u g k r => exact next_lasting hexec (fxPageRequestResponse_lasting _ _ _ _ _)
  | atsInvalidation addr len => exact next_lasting hexec (fxAtsInvalidation_lasting _ _ _)
  | priEnableClear => exact next_lasting hexec (fxPriEnableClear_lasting _)
  | hostInterfaceReset => exact next_lasting hexec (fxHostInterfaceReset_lasting _)
  | harvestRingPoll => exact next_lasting hexec (orWait_lasting _ _ fun s => fxHarvestRingPoll_lasting s)
  | harvestTokenRelease => exact next_lasting hexec (orWait_lasting _ _ fun s => fxHarvestTokenRelease_lasting s)
  | equinox => exact next_lasting hexec (orWait_lasting _ _ fun s => fxEquinox_lasting s)
  | equinoxAgreed => exact next_lasting hexec (orWait_lasting _ _ fun s => fxEquinoxAgreed_lasting s)
  | harvestCopyCommit => exact next_lasting hexec (orWait_lasting _ _ fun s => fxHarvestCopyCommit_lasting s)
  | record => exact next_lasting hexec (orWait_lasting _ _ fun s => fxRecord_lasting s)
  | digest => exact next_lasting hexec (orWait_lasting _ _ fun s => fxDigest_lasting s)
  | restore => exact next_lasting hexec (orWait_lasting _ _ fun s => fxRestore_lasting s)
  | verify => exact next_lasting hexec (orWait_lasting _ _ fun s => fxVerify_lasting s)
  | capture => exact next_lasting hexec (orWait_lasting _ _ fun s => fxCapture_lasting s)
  | list => exact next_lasting hexec (orWait_lasting _ _ fun s => fxList_lasting s)
  | harvestPut => exact next_lasting hexec (orWait_lasting _ _ fun s => fxHarvestPut_lasting s)
  | generationRecordReread => exact next_lasting hexec (orWait_lasting _ _ fun s => fxGenerationRecordReread_lasting s)
  | flashSegmentStart slot eCap pHold => exact next_lasting hexec (fxFlashSegmentStart_lasting _ _ _ _)
  | holdupRecheck slot eCap pHold => exact next_lasting hexec (fxHoldupRecheck_lasting _ _ _ _)
  | flashSegmentDone d => exact next_lasting hexec (fxFlashSegmentDone_lasting _ _ _)
  | isolationTimeout => exact next_lasting hexec (orWait_lasting _ _ fun s => fxIsolationTimeout_lasting s)
  | perstDeassert => exact next_lasting hexec (fxPerstDeassert_lasting _)
  | functionReady f o => exact next_lasting hexec (fxFunctionReady_lasting _ _ _)
  | pwrOpVWr d v => exact next_lasting hexec (landed_lasting _ _ _ _ fun s => fxPwrOpVWr_lasting s _ _)
  | pwrOpFWr d v => exact next_lasting hexec (landed_lasting _ _ _ _ fun s => fxPwrOpFWr_lasting s _ _)
  | pwrOpTWr d v => exact next_lasting hexec (landed_lasting _ _ _ _ fun s => fxPwrOpTWr_lasting s _ _)
  | voltageSlewDone d => exact next_lasting hexec (fxVoltageSlewDone_lasting _ _)
  | pwrStretchWrite v => exact next_lasting hexec (landed_lasting _ _ _ _ fun s => fxPwrStretchWrite_lasting s _)
  | reqActive => exact next_lasting hexec (landed_lasting _ _ _ _ fun s => fxReqActive_lasting s)
  | reqIdle => exact next_lasting hexec (landed_lasting _ _ _ _ fun s => fxReqIdle_lasting s)
  | reqDormant => exact next_lasting hexec (landed_lasting _ _ _ _ fun s => fxReqDormant_lasting s)
  | reqSolstice => exact next_lasting hexec (landed_lasting _ _ _ _ fun s => fxReqSolstice_lasting s)
  | powerEntryComplete => exact next_lasting hexec (fxPowerEntryComplete_lasting _)
  | d3hotToD0 => exact next_lasting hexec (fxD3hotToD0_lasting _)
  | pwrTimerExpiry => exact next_lasting hexec (fxPwrTimerExpiry_lasting _)
  | rateLimitReport lvl ix code => exact next_lasting hexec (fxRateLimitReport_lasting _ _ _ _)
  | pkgErrInj v => exact next_lasting hexec (fxPkgErrInj_lasting _ _)
  | almanacMirror => exact next_lasting hexec (fxAlmanacMirror_lasting _)
  | almanacRestore => exact next_lasting hexec (fxAlmanacRestore_lasting _)
  | opsecTick => exact next_lasting hexec (fxOpsecTick_lasting _)
  | timeBaseSave => exact next_lasting hexec (fxTimeBaseSave_lasting _)
  | monitorSample b n v => exact next_lasting hexec (fxMonitorSample_lasting _ _ _ _)
  | windowClose b n => exact next_lasting hexec (fxWindowClose_lasting _ _ _)
  | monClose b n => exact next_lasting hexec (gate_lasting _ _ _ fun s => fxMonClose_lasting s _ _)
  | thermalControl d tj hot aged => exact next_lasting hexec (fxThermalControl_lasting _ _ _ _ _)
  | powerControl sample avg10 vin msDue tenMsDue => exact next_lasting hexec (fxPowerControl_lasting _ _ _ _ _ _)
  | jubileeDue d => exact next_lasting hexec (fxJubileeDue_lasting _ _)
  | jubileeStart d v => exact next_lasting hexec (gate_lasting _ _ _ fun s => fxJubileeStart_lasting s _ _)
  | jubileeRun d => exact next_lasting hexec (fxJubileeRun_lasting _ _)
  | jubileeComplete d runs => exact next_lasting hexec (fxJubileeComplete_lasting _ _ _)
  | regRead off size => exact next_lasting hexec (fxRegRead_lasting _ _ _)
  | regWrite auth off size v => exact next_lasting hexec (fxRegWrite_lasting _ _ _ _ _)
  | powerState auth req => exact next_lasting hexec (fxPowerState_lasting _ _ _)
  | wake => exact next_lasting hexec (fxWake_lasting _)
  | admitModule auth gen => exact next_lasting hexec (fxAdmitModule_lasting _ _ _)
  | retireNotice auth gen => exact next_lasting hexec (fxRetireNotice_lasting _ _ _)
  | channelRetire auth ch => exact next_lasting hexec (fxChannelRetire_lasting _ _ _)
  | channelTest auth ch => exact next_lasting hexec (fxChannelTest_lasting _ _ _)
  | columnTest auth u => exact next_lasting hexec (fxColumnTest_lasting _ _ _)
  | readAlmanac archive ix => exact next_lasting hexec (fxReadAlmanac_lasting _ _ _)
  | clearAlmanac auth => exact next_lasting hexec (fxClearAlmanac_lasting _ _)
  | readBringup n => exact next_lasting hexec (fxReadBringup_lasting _ _)
  | activate auth => exact next_lasting hexec (fxActivate_lasting _ _)
  | testAccess auth => exact next_lasting hexec (fxTestAccess_lasting _ _)
  | setAnchor auth digest => exact next_lasting hexec (fxSetAnchor_lasting _ _ _)
  | channelTrain auth ch passed spared => exact next_lasting hexec (fxChannelTrain_lasting _ _ _ _ _)
  | pldmFirmwareUpdate image svn activateFirmware => exact next_lasting hexec (fxPldmFirmwareUpdate_lasting _ _ _ _)
  | pldmSensorRead id => exact next_lasting hexec (fxPldmSensorRead_lasting _ _)
  | spdmRequest r => exact next_lasting hexec (fxSpdmRequest_lasting _ _)
  | i3cAddressAssign o => exact next_lasting hexec (fxI3cAddressAssign_lasting _ _)
  | xmodemBundle image svn => exact next_lasting hexec (fxXmodemBundle_lasting _ _ _)
  | tapIntrusiveInstruction j => exact next_lasting hexec (fxTapIntrusiveInstruction_lasting _ _)
  | trst => exact next_lasting hexec (fxTrst_lasting _)
  | pkgTxnBegin w v => exact next_lasting hexec (landed_lasting _ _ _ _ fun s => fxPkgTxnBegin_lasting s _ _)
  | pkgTxnCommit w v => exact next_lasting hexec (landed_lasting _ _ _ _ fun s => fxPkgTxnCommit_lasting s _ _)
  | pkgTxnRollback w v => exact next_lasting hexec (landed_lasting _ _ _ _ fun s => fxPkgTxnRollback_lasting s _ _)
  | txnTimeout w => exact next_lasting hexec (fxTxnTimeout_lasting _ _)
  | shadowBlockWrite u sl off size v => exact next_lasting hexec (fxShadowBlockWrite_lasting _ _ _ _ _ _)
  | activeBlockLiveWrite u sl off size v => exact next_lasting hexec (fxActiveBlockLiveWrite_lasting _ _ _ _ _ _)
  | pstoreWindowWrite c off size v => exact next_lasting hexec (fxPstoreWindowWrite_lasting _ _ _ _ _)
  | swapReq c => exact next_lasting hexec (gate_lasting _ _ _ fun s => fxSwapReq_lasting s _)
  | ccBreak c => exact next_lasting hexec (gate_lasting _ _ _ fun s => fxCcBreak_lasting s _)
  | ccResume c => exact next_lasting hexec (gate_lasting _ _ _ fun s => fxCcResume_lasting s _)
  | snapRingEnable v => exact next_lasting hexec (gate_lasting _ _ _ fun s => fxSnapRingEnable_lasting s _)
  | registerWrite w off size v => exact next_lasting hexec (fxRegisterWrite_lasting _ _ _ _ _)
  | dieLinkRelock d longer => exact next_lasting hexec (fxDieLinkRelock_lasting _ _ _)
  | hbmPhyLockLoss ch => exact next_lasting hexec (fxHbmPhyLockLoss_lasting _ _)
  | harvestTokenTimeout => exact next_lasting hexec (orWait_lasting _ _ fun s => fxHarvestTokenTimeout_lasting s)
  | transferTokenTimeout h => exact next_lasting hexec (fxTransferTokenTimeout_lasting _ _)
  | d3hotEntry => exact next_lasting hexec (fxD3hotEntry_lasting _)
  | pldmEventRetrieval => exact next_lasting hexec (fxPldmEventRetrieval_lasting _)
  | columnTestDone _ _ => cases hc
  | dieClockLoss _ => cases hc
  | errorArrival _ => cases hc
  | errorHandlingEnd _ _ => cases hc
  | handlerStrike _ _ => cases hc
  | inputCurrentLimit _ => cases hc
  | inputOvervoltage _ => cases hc
  | inputUndervoltage _ => cases hc
  | perstAssert _ => cases hc
  | powerOnColdReset _ _ => cases hc
  | coldReset _ _ _ => cases hc
  | rootClockLoss => cases hc
  | thermalTrip _ _ _ => cases hc
  | wakeComplete _ => cases hc
  | warmReset _ _ => cases hc

theorem next_lasts {l : Loss} {s t u : State} (h : (.next u : Host.Outcome State Fault Refusal) = .next t)
    (hu : Lasts l s u) : Lasts l s t := by
  cases h
  exact hu

/-- A loss lasts over every command but a cold reset; one of a cluster also but for the end of a wake without
a keep store, one of a die or of hub 1 also but for a warm reset. -/
theorem exec_lasts (l : Loss) (c : Instr) (s t : State) (hexec : exec c s = .next t)
    (hon : ∀ b m, c ≠ .powerOnColdReset b m) (hcold : ∀ a b m, c ≠ .coldReset a b m)
    (hwake : c = .wakeComplete (false, false) → ∀ p, l ≠ .cluster p)
    (hwarm : (∃ a b, c = .warmReset a b) ∨ (∃ b, c = .perstAssert b) → ∃ p, l = .cluster p) : Lasts l s t := by
  by_cases hc : c.marksLoss = false
  · exact .of_eq (exec_lasting c s t hc hexec)
  rw [Bool.not_eq_false] at hc
  cases c with
  | columnTestDone => exact next_lasts hexec (fxColumnTestDone_lasts l s _ _)
  | dieClockLoss => exact next_lasts hexec (fxDieClockLoss_lasts l s _)
  | errorArrival => exact next_lasts hexec (fxErrorArrival_lasts l s _)
  | errorHandlingEnd => exact next_lasts hexec (fxErrorHandlingEnd_lasts l s _ _)
  | handlerStrike => exact next_lasts hexec (fxHandlerStrike_lasts l s _ _)
  | inputCurrentLimit => exact next_lasts hexec (inputLost_lasts l s _ _)
  | inputOvervoltage => exact next_lasts hexec (inputLost_lasts l s _ _)
  | inputUndervoltage => exact next_lasts hexec (inputLost_lasts l s _ _)
  | rootClockLoss => exact next_lasts hexec (fxRootClockLoss_lasts l s)
  | thermalTrip => exact next_lasts hexec (fxThermalTrip_lasts l s _ _ _)
  | powerOnColdReset b m => exact absurd rfl (hon b m)
  | coldReset a b m => exact absurd rfl (hcold a b m)
  | wakeComplete copies =>
    exact next_lasts hexec (fxWakeComplete_lasts l s copies fun h => hwake (congrArg _ h))
  | perstAssert b =>
    obtain ⟨p, rfl⟩ := hwarm (.inr ⟨b, rfl⟩)
    exact next_lasts hexec (fxPerstAssert_lasts s p b)
  | warmReset a b =>
    obtain ⟨p, rfl⟩ := hwarm (.inl ⟨a, b, rfl⟩)
    exact next_lasts hexec (fxWarmReset_lasts s p a b)
  | _ => cases hc

end Sys2Proof.Machine

namespace Sys2Proof

open Machine

/-- Settles O49: a loss is a fact about four fields that no command but those of `marksLoss` writes, and each of
these only adds to them, loses the whole module, or is one of the resets and the wake that are left out. -/
theorem lossesLastUntilAReset : Obligations.LossesLastUntilAReset := by
  intro s t c cs hq hstep hon hcold
  have hexec : exec c (s.withQueue cs) = .next t := by simpa only [step, hq] using hstep
  have hlasts := fun (l : Loss) => exec_lasts l c (s.withQueue cs) t hexec hon hcold
  have hbig : ∀ l : Loss, (∀ p, l ≠ .cluster p) → ¬ ((∃ a b, c = .warmReset a b) ∨ ∃ b, c = .perstAssert b) →
      Lasts l (s.withQueue cs) t := fun l hl hw => hlasts l (fun _ => hl) (fun h => absurd h hw)
  refine ⟨?_, fun ht => ⟨fun hw p => ?_, fun hwarm hperst => ?_⟩⟩
  · by_cases hw : (∃ a b, c = .warmReset a b) ∨ ∃ b, c = .perstAssert b
    · refine (hlasts (.cluster 0) ?_ fun _ => ⟨0, rfl⟩).fatal
      rintro rfl
      rcases hw with ⟨a, b, h⟩ | ⟨b, h⟩ <;> cases h
    · exact (hbig .hub1 nofun hw).fatal
  · exact (hlasts (.cluster p) (fun h => absurd h hw) fun _ => ⟨p, rfl⟩).loss ht
  · have hw : ¬ ((∃ a b, c = .warmReset a b) ∨ ∃ b, c = .perstAssert b) := by
      rintro (⟨a, b, h⟩ | ⟨b, h⟩)
      · exact hwarm a b h
      · exact hperst b h
    exact ⟨fun d => (hbig (.die d) nofun hw).loss ht, (hbig .hub1 nofun hw).loss ht⟩

end Sys2Proof

/-! ## Obligation O37: CLUSTER_DEAD with a lower-numbered cluster's death in the same handler's queue -/

namespace Sys2Proof.Refuted
open Sys2Proof Sys2Proof.Machine Sys2Proof.Claims

/-- CLUSTER_DEAD of logical cluster `c`, which stands on physical cluster `p` of region 0. -/
def clusterDead (c p : Nat) : Err := mkErr 0x0201 3 c (BitVec.ofNat 64 (p * 256))

/-- Region 0 maps its logical clusters 0 to 5 to the physical clusters 0, 1, 3, 4, 5 and 6 and has physical cluster 2 as
its spare; its handler has cluster 1's death in hand and cluster 0's in its queue. -/
def twoDead : State :=
  { regs := [(rRgn 0 0, 0x5ff58c8#64)], handlers := [(2000, { cur := some (clusterDead 1 1), q := [clusterDead 0 0] })] }

/-- What the clause of CLUSTER_DEAD with a spare supposes, for cluster 1 of `twoDead`. -/
theorem twoDead_supposes : handles twoDead 2 (1 / 6) (rRgn 0 0x10) (clusterDead 1 1) ∧ (clusterDead 1 1).cls = 4 ∧
    twoDead.regF (rRgn (1 / 6) 0) 5 3 = 1 ∧ fld (clusterDead 1 1).detail 10 8 = 1 ∧
    twoDead.regF (rRgn (1 / 6) 0) 27 25 = 2 := by decide +kernel

/-- R15 keeps the spare for cluster 0, the lowest of those the handler declares dead: cluster 1 becomes absent. -/
theorem twoDead_end_absent : (twoDead.fxErrorHandlingEnd 2 0).regF (rRgn 0 0) 5 3 = 7 := by decide +kernel

end Sys2Proof.Refuted

namespace Sys2Proof
open Machine Claims Refuted

/-- Refutes O37: its clause of CLUSTER_DEAD with a spare says nothing of the handler's queue. In `twoDead` the queue
holds the death of the lower-numbered cluster 0, to which R15 gives the spare, so that cluster 1 becomes absent. -/
theorem not_errorsQueueEscalateAndReport : ¬ Obligations.ErrorsQueueEscalateAndReport := by
  unfold Obligations.ErrorsQueueEscalateAndReport
  intro ⟨_, _, _, _, _, _, _, _, _, withSpare, _⟩
  obtain ⟨hh, hcls, hp, hd, hs⟩ := twoDead_supposes
  obtain ⟨t, ht, hmap, _⟩ := withSpare twoDead 1 1 2 (rRgn 0 0x10) (clusterDead 1 1) (by decide) hh hcls rfl rfl rfl hp
    (by decide) hd hs (by decide) (by decide)
  have hnext : twoDead.fxErrorHandlingEnd 2 0 = t := by injection ht
  have hseven : t.regF (rRgn 0 0) 5 3 = 7 := hnext ▸ twoDead_end_absent
  have htwo : t.regF (rRgn 0 0) 5 3 = 2 := hmap
  omega

end Sys2Proof

/-! ## Obligation O36: FUNCTION_READY of the flash while a slot waits for FLASH -/

namespace Sys2Proof.Refuted
open Sys2Proof Sys2Proof.Machine Sys2Proof.Claims

/-! ### The generation record -/

/-- The nonzero bytes of a COMPLETE generation record without segments that asks for flash (R441). Bytes 6 to 9 bring
the register of its checksum to 0, where the zeros after them leave it. -/
def recordBytes : List (Nat × Byte) :=
  [(0, 0x48#8), (1, 0x52#8), (2, 0x53#8), (3, 0x56#8), (4, 2#8), (5, 2#8), (6, 0xF4#8), (7, 0x08#8), (8, 0x2B#8),
   (9, 0xA9#8), (4092, 0xFF#8), (4093, 0xFF#8), (4094, 0xFF#8), (4095, 0xFF#8)]

/-- The record. -/
def record : List Byte := smGetL 0#8 recordBytes 0 4096

theorem recordBytes_middle (i : Nat) (h : i < 4082) : smGet 0#8 recordBytes (0 + 10 + i) = 0#8 := by
  unfold recordBytes
  simp only [smGet]
  repeat rw [if_neg (by omega)]

theorem smGetL_add {α : Type} (d : α) (m : List (Nat × α)) (k i j : Nat) :
    smGetL d m k (i + j) = smGetL d m k i ++ smGetL d m (k + i) j := by
  simp only [smGetL, List.range_add, List.map_append, List.map_map, Function.comp_def, Nat.add_assoc]

theorem smGetL_length {α : Type} (d : α) (m : List (Nat × α)) (k n : Nat) : (smGetL d m k n).length = n := by
  rw [smGetL, List.length_map, List.length_range]

theorem record_parts : record =
    smGetL 0#8 recordBytes 0 10 ++ (List.replicate 4082 0#8 ++ smGetL 0#8 recordBytes 4092 4) := by
  have hmid : smGetL 0#8 recordBytes (0 + 10) 4082 = List.replicate 4082 0#8 :=
    List.eq_replicate_iff.2 ⟨by simp [smGetL], fun b hb => by
      obtain ⟨i, hi, rfl⟩ := List.mem_map.1 hb
      exact recordBytes_middle i (List.mem_range.1 hi)⟩
  rw [record, show 4096 = 10 + (4082 + 4) from rfl, smGetL_add, smGetL_add, hmid]

theorem crc_zeros (n : Nat) :
    (List.replicate n (0#8 : Byte)).foldl (fun c b => crcBits 8 (c ^^^ b.setWidth 32)) 0#32 = 0#32 := by
  induction n with
  | zero => rfl
  | succ n ih => rw [List.replicate_succ, List.foldl_cons,
    show crcBits 8 (0#32 ^^^ (0#8).setWidth 32) = 0#32 from by decide, ih]

/-- The head of the record, byte 4 taken as 0 (R441). -/
def crcHead : List Byte := splice (smGetL 0#8 recordBytes 0 10) 4 [0#8]

theorem crcHead_crc : crcHead.foldl (fun c b => crcBits 8 (c ^^^ b.setWidth 32)) 0xFFFFFFFF#32 = 0#32 := by
  decide +kernel

theorem record_crc : recCrc record = 0xFFFFFFFF := by
  have hrest : splice (record.take 4092) 4 [0#8] = crcHead ++ List.replicate 4082 0#8 := by
    rw [record_parts, ← List.append_assoc, List.take_left' (by
      rw [List.length_append, smGetL_length, List.length_replicate])]
    have hlen : (smGetL 0#8 recordBytes 0 10).length = 10 := smGetL_length ..
    simp only [crcHead, splice, List.append_assoc]
    rw [List.take_append_of_le_length (by omega), List.drop_append_of_le_length (by rw [hlen]; decide)]
  unfold recCrc crc32c
  rw [hrest, List.foldl_append, crcHead_crc, crc_zeros]
  decide

theorem record_complete : recComplete record = true := by
  unfold recComplete
  rw [record_crc]
  decide +kernel
theorem record_rest : bitAt (imgNat record 5 1) 1 = true ∧ recSegs record = 0 := by decide +kernel


/-! ### The slot -/

/-- HUB1 and MMC ready, 4 KiB interleave, and 1 GiB of partner memory in one slot. -/
def slotRegs : List (Nat × W64) := [(0x18, 9#64), (0x30, 0#64), (rSnap 0, 1#64)]

/-- Slot 0 waits for FLASH (R484). -/
def flashDueFirst : State := { regs := slotRegs, flashDue := [0] }

/-- The record at offset `o` of channel 384. -/
def recordAt (o : Nat) : SMap Byte := recordBytes.map fun e => (384 * 2 ^ 31 + o + e.1, e.2)

/-- Slot 0 waits for FLASH with the record at offset `o` of channel 384. -/
def flashWaits (o : Nat) : State := { flashDueFirst with chanBytes := recordAt o }

theorem slotBase_of_one (s : State) (h : s.regF (rSnap 0) 8 0 = 1) : s.slotBase 0 = State.spareBase - 2 ^ 30 := by
  unfold State.slotBase State.partnerBase
  rw [h, Nat.zero_mul, Nat.one_mul, Nat.add_zero]

/-- The address split of 4 KiB interleave (R285). -/
theorem chanAddr_of_coarse (s : State) (h : s.reg 0x30 = 0#64) (a : Nat) : s.chanAddr a =
    (64 * (a % 2 ^ 36 / 2 ^ 33) + a % 2 ^ 36 % 2 ^ 33 / 4096 % 64,
      a / 2 ^ 36 * 2 ^ 27 + a % 2 ^ 36 % 2 ^ 33 / 4096 / 64 * 4096 + a % 2 ^ 36 % 2 ^ 33 % 4096) := by
  have hbit : ∀ sl, bitAt (0#64).toNat sl = false := fun sl => by
    simp only [bitAt, BitVec.toNat_ofNat, Nat.zero_mod, Nat.zero_div]
    rfl
  unfold State.chanAddr
  simp only [h, hbit, Bool.false_eq_true, if_false]

theorem spareBase_cases : State.spareBase = 0x7E00000000 ∨ State.spareBase = 0xBD00000000 := by
  unfold State.spareBase
  cases Config.order768
  · exact Or.inl rfl
  · exact Or.inr rfl

/-- The slot's first 4 KiB lie in channel 384, one after the other. -/
theorem exists_slotOffset : ∃ o, ∀ s : State, s.reg 0x30 = 0#64 → s.regF (rSnap 0) 8 0 = 1 → ∀ i < 4096,
    s.chanAddr (s.slotBase 0 + 0 + i) = (384, o + i) := by
  rcases spareBase_cases with hb | hb
  · refine ⟨0x3F000000, fun s h30 h1 i hi => ?_⟩
    rw [slotBase_of_one s h1, hb, chanAddr_of_coarse s h30, Prod.mk.injEq]
    constructor <;> omega
  · refine ⟨0x5B000000, fun s h30 h1 i hi => ?_⟩
    rw [slotBase_of_one s h1, hb, chanAddr_of_coarse s h30, Prod.mk.injEq]
    constructor <;> omega

theorem smGet_shift {α : Type} (d : α) (m : List (Nat × α)) (k i : Nat) :
    smGet d (m.map fun e => (k + e.1, e.2)) (k + i) = smGet d m i := by
  induction m with
  | nil => rfl
  | cons e m ih => simp only [List.map_cons, smGet, ih, Nat.add_left_cancel_iff]

theorem getSector_of_active (s : State) (ch o : Nat) (hr : s.retired ch = false) (h5 : (s.chState ch == 5) = false)
    (hp : s.chanPoison = []) : s.getSector ch o = (smGetL 0#8 s.chanBytes (ch * 2 ^ 31 + o) 32, false) := by
  unfold State.getSector State.home
  simp only [hr, h5, hp, smGet, Bool.false_and, Bool.false_eq_true, if_false, Bool.or_false]

theorem peekByte_of_absent (s : State) (a ch o : Nat) (ha : s.chanAddr a = (ch, o)) (hl : s.chLost ch = false)
    (hf : ∀ ln, (s.slice (sliceOf ch)).find ch ln = none) (hr : s.retired ch = false) (h5 : (s.chState ch == 5) = false)
    (hp : s.chanPoison = []) : s.peekByte a = (smGet 0#8 s.chanBytes (ch * 2 ^ 31 + o), false) := by
  have hlt : o % 32 < 32 := Nat.mod_lt _ (by decide)
  have hkey : ch * 2 ^ 31 + o / 32 * 32 + o % 32 = ch * 2 ^ 31 + o := by omega
  unfold State.peekByte
  simp only [ha, hl, hf, getSector_of_active s ch _ hr h5 hp, Bool.false_eq_true, if_false]
  simp only [smGetL, List.getD_eq_getElem?_getD, List.getElem?_map, List.getElem?_range hlt, Option.map_some,
    Option.getD_some, hkey]

theorem peekSlot_of_clean (s : State) (n o k : Nat) (f : Nat → Byte)
    (h : ∀ i < k, s.peekByte (s.slotBase n + o + i) = (f i, false)) :
    s.peekSlot n o k = (s, (List.range k).map f, false) := by
  have hbytes : (List.range k).map (fun i => s.peekByte (s.slotBase n + o + i)) = (List.range k).map fun i => (f i, false) :=
    List.map_congr_left fun i hi => h i (List.mem_range.1 hi)
  have hany : ((List.range k).map fun i => (f i, false)).any (·.2) = false :=
    List.any_eq_false.2 fun x hx => by
      obtain ⟨i, _, rfl⟩ := List.mem_map.1 hx
      exact Bool.false_ne_true
  unfold State.peekSlot
  simp only [hbytes, hany, Bool.false_eq_true, if_false, List.map_map, Function.comp_def]


theorem slotRecord_of_recordAt (s : State) (o : Nat) (ha : ∀ i < 4096, s.chanAddr (s.slotBase 0 + 0 + i) = (384, o + i))
    (hl : s.chLost 384 = false) (hf : ∀ ln, (s.slice (sliceOf 384)).find 384 ln = none) (hr : s.retired 384 = false)
    (h5 : (s.chState 384 == 5) = false) (hp : s.chanPoison = []) (hb : s.chanBytes = recordAt o) :
    s.slotRecord 0 = (s, record, false) := by
  have hpeek : ∀ i < 4096, s.peekByte (s.slotBase 0 + 0 + i) = (smGet 0#8 recordBytes (0 + i), false) := fun i hi => by
    rw [peekByte_of_absent s _ 384 (o + i) (ha i hi) hl hf hr h5 hp, hb, recordAt, ← Nat.add_assoc, smGet_shift,
      Nat.zero_add]
  unfold State.slotRecord record smGetL
  exact peekSlot_of_clean s 0 0 4096 _ hpeek

/-! ### FUNCTION_READY of the flash -/

/-- A COMPLETE record that asks for flash begins an uncommitted generation. -/
theorem flashBegin_appends (s : State) (n : Nat) (r : List Byte) (hr : (s.slotRecord n).2 = (r, false))
    (hc : recComplete r = true)
    (hb : bitAt (imgNat r 5 1) 1 = true) (hseg : recSegs r = 0) (ho : s.flashOpen n = none) (h4 : s.isReady 4 = true) :
    ∃ g ∈ (s.flashBegin n).flash.gens, g.committed = false := by
  unfold State.flashBegin
  simp only [hr, hc, hb, hseg, ho, h4, List.take_zero, List.length_nil, Bool.not_false, Bool.and_self, Bool.not_true,
    Option.isSome_none, Bool.or_self, Bool.false_eq_true,
    if_false, ne_eq, not_true_eq_false]
  exact ⟨_, List.mem_append_right _ (List.mem_singleton_self _), rfl⟩


theorem journalScan_of_no_gens (s : State) (hg : s.flash.gens = []) (hd : s.flashDue = [0]) :
    s.journalScan.flash = ((s.setReady 4 true).flashBegin 0).flash := by
  have ho : ∀ n, s.flashOpen n = none := fun n => by rw [State.flashOpen, hg]; rfl
  have hflash : ({ s.flash with gens := s.flash.gens.filter (·.committed) } : FlashSt) = s.flash := by
    rw [show s.flash.gens.filter (·.committed) = s.flash.gens from by rw [hg]; rfl]
  have hs : s.setFlash (fun f => { f with gens := f.gens.filter (·.committed) }) = s := by
    rw [State.setFlash, hflash]
  have hdue : (s.setReady 4 true).flashDue = [0] := by
    unfold State.setReady State.setReadyWord
    simp only [apply_ite State.flashDue, State.setReg, hd, ite_self]
  unfold State.journalScan
  simp only [List.foldl_cons, List.foldl_nil, ho, Option.isSome_none, Bool.false_eq_true, if_false, hs, hg,
    List.filter_nil,
    List.getLast?_nil, hdue]

/-- FUNCTION_READY of the flash when every guard passes (R484, R485). -/
theorem functionReady_flash (s : State) (x : SelfTest) (c : List (Option (Fin 6))) (h : canReport s 4) (h3 : s.bit 0x18 3 = true)
    (hl : s.hub1Lost = false) : s.fxFunctionReady .flash (.ready x c) = s.journalScan := by
  obtain ⟨hoff, hmod, htap, hrec, hr, hf⟩ := h
  unfold State.fxFunctionReady
  simp only [hoff, hmod, htap, hr, hf, h3, hl, beq_eq_false_iff_ne.2 hrec, State.reported, State.funcFree,
    State.isReady, State.funcBit, State.funcLost,
    Bool.or_self, Bool.not_true, Bool.false_and, Bool.false_eq_true, if_false]

theorem setReady_chanBytes (s : State) (b : SMap Byte) (n : Nat) (on : Bool) :
    State.setReady { s with chanBytes := b } n on = { s.setReady n on with chanBytes := b } := by
  unfold State.setReady State.setReadyWord
  have hreg : State.reg { s with chanBytes := b } 0x18 = s.reg 0x18 := rfl
  rw [hreg]
  by_cases hsame : setFld (s.reg 0x18) n n (if on then 1 else 0) = s.reg 0x18
  · simp only [if_pos hsame]
  · simp only [if_neg hsame]
    rfl

/-- `flashDueFirst` once FLASH is set. -/
def flashReady : State := flashDueFirst.setReady 4 true

theorem flashWaits_setReady (o : Nat) : (flashWaits o).setReady 4 true = { flashReady with chanBytes := recordAt o } :=
  setReady_chanBytes flashDueFirst (recordAt o) 4 true

theorem flashReady_facts : flashReady.reg 0x30 = 0#64 ∧ flashReady.regF (rSnap 0) 8 0 = 1 ∧ flashReady.chLost 384 = false ∧
    flashReady.retired 384 = false ∧ (flashReady.chState 384 == 5) = false ∧ flashReady.isReady 4 = true ∧
    flashReady.chanPoison = [] := by decide +kernel

theorem flashReady_uncommitted (o : Nat) (ho : ∀ s : State, s.reg 0x30 = 0#64 → s.regF (rSnap 0) 8 0 = 1 → ∀ i < 4096,
    s.chanAddr (s.slotBase 0 + 0 + i) = (384, o + i)) :
    ∃ g ∈ (State.flashBegin { flashReady with chanBytes := recordAt o } 0).flash.gens, g.committed = false := by
  obtain ⟨h30, hsnap, hl, hr, h5, h4, hp⟩ := flashReady_facts
  have hrec := slotRecord_of_recordAt { flashReady with chanBytes := recordAt o } o (ho _ h30 hsnap) hl
    (fun _ => rfl) hr h5 hp rfl
  exact flashBegin_appends _ 0 record (by rw [hrec]) record_complete record_rest.1 record_rest.2 rfl h4

theorem flashWaits_canReport (o : Nat) :
    canReport (flashWaits o) 4 ∧ (flashWaits o).bit 0x18 3 = true ∧ (flashWaits o).hub1Lost = false :=
  show canReport flashDueFirst 4 ∧ flashDueFirst.bit 0x18 3 = true ∧ flashDueFirst.hub1Lost = false by decide +kernel

/-- FUNCTION_READY of the flash begins a generation, which is not committed. -/
theorem functionReady_uncommitted : ∃ o, ∀ x c,
    ∃ g ∈ ((flashWaits o).fxFunctionReady .flash (.ready x c)).flash.gens, g.committed = false := by
  obtain ⟨o, ho⟩ := exists_slotOffset
  refine ⟨o, fun x c => ?_⟩
  obtain ⟨hcan, h3, hl⟩ := flashWaits_canReport o
  rw [functionReady_flash _ x c hcan h3 hl, journalScan_of_no_gens _ rfl rfl, flashWaits_setReady]
  exact flashReady_uncommitted o ho

end Sys2Proof.Refuted

namespace Sys2Proof
open Machine Claims Refuted

/-- Refutes O36: its clause of the flash says nothing of the slots that wait for FLASH. A COMPLETE record of slot 0 that
asks for flash waits for FLASH (R484), and FUNCTION_READY begins its generation, which is not committed. -/
theorem not_functionsComeUpOrFail : ¬ Obligations.FunctionsComeUpOrFail := by
  unfold Obligations.FunctionsComeUpOrFail
  intro ⟨_, _, _, ofFlash, _⟩
  obtain ⟨o, huncommitted⟩ := functionReady_uncommitted
  obtain ⟨hcan, h3, hl⟩ := flashWaits_canReport o
  let x : SelfTest := { clusterOk := [], colFaults := [] }
  obtain ⟨t, ht, _, hgens, _⟩ := ofFlash (flashWaits o) x [] hcan h3 hl
  have hnext : (flashWaits o).fxFunctionReady .flash (.ready x []) = t := by injection ht
  obtain ⟨g, hg, hc⟩ := huncommitted x []
  rw [hnext] at hg
  exact Bool.false_ne_true (hc.symm.trans (hgens g hg).2)

end Sys2Proof

/-! ## Obligation O45: the management protocols and the loss of the input -/

namespace Sys2Proof.Machine.State

/-! ### What the recorder and the Almanac mirror change -/

/-- Of `s`, only the Almanac, its register ALM_STAT, the flash, what left the module and the counter of free values have
changed. -/
def AlmanacOnly (s t : State) : Prop :=
  (∃ regs ctr out almanac stage flash,
    t = { s with regs := regs, ctr := ctr, out := out, almanac := almanac, almStage := stage, flash := flash }) ∧
  ∀ a, a ≠ rAlm → t.reg a = s.reg a

namespace AlmanacOnly

variable {s t u : State}

theorem refl (s : State) : AlmanacOnly s s := ⟨⟨_, _, _, _, _, _, rfl⟩, fun _ _ => rfl⟩

theorem trans (h : AlmanacOnly s t) (g : AlmanacOnly t u) : AlmanacOnly s u := by
  obtain ⟨⟨_, _, _, _, _, _, rfl⟩, hreg⟩ := h
  obtain ⟨⟨_, _, _, _, _, _, rfl⟩, hreg'⟩ := g
  exact ⟨⟨_, _, _, _, _, _, rfl⟩, fun a ha => (hreg' a ha).trans (hreg a ha)⟩

theorem ite {c : Prop} [Decidable c] (ht : AlmanacOnly s t) (hu : AlmanacOnly s u) : AlmanacOnly s (if c then t else u) := by
  split
  · exact ht
  · exact hu

theorem of_setRegF (s : State) (hi lo v : Nat) : AlmanacOnly s (s.setRegF rAlm hi lo v) :=
  ⟨⟨_, _, _, _, _, _, rfl⟩, fun _ ha => reg_setRegF_ne s hi lo v ha⟩

theorem of_emit (s : State) (o : Out) : AlmanacOnly s (s.emit o) := ⟨⟨_, _, _, _, _, _, rfl⟩, fun _ _ => rfl⟩

theorem of_setFlash (s : State) (f : FlashSt → FlashSt) : AlmanacOnly s (s.setFlash f) :=
  ⟨⟨_, _, _, _, _, _, rfl⟩, fun _ _ => rfl⟩

theorem of_almanac (s : State) (ctr : Nat) (almanac : SMap (List W64)) (stage : List (List (List W64))) :
    AlmanacOnly s { s with ctr := ctr, almanac := almanac, almStage := stage } :=
  ⟨⟨_, _, _, _, _, _, rfl⟩, fun _ _ => rfl⟩

theorem foldl {α : Type} {f : State → α → State} (hf : ∀ s a, AlmanacOnly s (f s a)) (xs : List α) (s : State) :
    AlmanacOnly s (xs.foldl f s) := by
  induction xs generalizing s with
  | nil => exact refl s
  | cons a xs ih => exact (hf s a).trans (ih _)

end AlmanacOnly

theorem putRecords_almanacOnly (s : State) (rs : List (List W64)) : AlmanacOnly s (s.putRecords rs) := by
  unfold putRecords
  cases rs with
  | nil => exact .refl s
  | cons r more =>
    refine .ite (.of_setRegF ..) ?_
    dsimp only
    have hput := fun almanac rs => AlmanacOnly.trans (.of_almanac s s.ctr almanac s.almStage)
      (.foldl (f := fun s r => s.emit (.uart r)) (fun s r => .of_emit s _) rs _)
    exact .ite (.trans (.trans (hput ..) (.of_setRegF ..)) (.of_setRegF ..)) (.trans (hput ..) (.of_setRegF ..))

theorem record_almanacOnly (s : State) (type cls reason scope index : Nat) (w2 w3 : W64) :
    AlmanacOnly s (s.record type cls reason scope index w2 w3) := by
  unfold record now freeWord
  dsimp only
  generalize (if type = 1 ∨ type = 2 ∨ type = 0x10 then _ else _ : List W64 × Bool) = snap
  refine .ite (.ite (.of_almanac ..) (.trans (.of_almanac s _ s.almanac s.almStage) (.of_setRegF ..))) ?_
  exact .trans (.of_almanac s _ s.almanac s.almStage) (putRecords_almanacOnly ..)

theorem mirror_almanacOnly (s : State) (whole : Bool) : AlmanacOnly s (s.mirror whole) := by
  unfold mirror
  exact .ite (.trans (.of_setFlash ..) (.of_setRegF ..)) (.of_setFlash ..)


/-! ### The record of a lost input -/

/-- No trigger entry of the reset table takes an error's record (R536). -/
theorem resetTrig_not_error : ∀ n < 64, (fld (regReset (0x41000 + 0x40 * n)) 63 63 == 1 &&
    fld (regReset (0x41000 + 0x40 * n)) 55 48 == 2) = false := by decide +kernel

theorem snapshot_of_resetTrig (s : State) (code cls reason scope index : Nat)
    (h : ∀ n < 64, s.reg (0x41000 + 0x40 * n) = regReset (0x41000 + 0x40 * n)) :
    s.snapshot 2 code cls reason scope index = ([], false) := by
  have hnone : (List.range 64).find? (fun n => s.trigMatch n 2 code cls reason scope) = none :=
    List.find?_eq_none.2 fun n hn => by
      unfold trigMatch
      simp only [h n (List.mem_range.1 hn), resetTrig_not_error n (List.mem_range.1 hn), Bool.false_and,
        Bool.false_eq_true, not_false_eq_true]
  unfold snapshot
  rw [hnone]

theorem putRecords_one (s : State) (r : List W64) (hn : s.regF rAlm 60 44 < 65535) :
    s.putRecords [r] = (emit { s with almanac := smSetL [] s.almanac (s.regF rAlm 60 44) [r] } (.uart r)).setRegF rAlm 60 44
      (s.regF rAlm 60 44 + 1) := by
  have h1 : ¬ 65536 ≤ s.regF rAlm 60 44 := by omega
  have h2 : ¬ s.regF rAlm 60 44 = 65535 := by omega
  have h3 : ¬ s.regF rAlm 60 44 + 1 = 65536 := by omega
  unfold putRecords
  simp only [if_neg h1, if_neg h2, List.length_cons, List.length_nil, Nat.zero_add, if_neg h3, List.isEmpty_nil,
    Bool.not_true,
    Bool.false_and, Bool.false_eq_true, if_false, List.foldl_cons, List.foldl_nil]

/-- The words of a record without a snapshot at time `time` (R534). -/
def plainRecord (type cls reason scope index : Nat) (time w2 w3 : W64) : List W64 :=
  [BitVec.ofNat 64 (type * 2 ^ 56 + cls * 2 ^ 48 + reason * 2 ^ 40 + scope * 2 ^ 32 + index * 2 ^ 12), time, w2, w3,
    0#64, 0#64, 0#64, 0#64]

theorem record_of_no_snapshot (s : State) (cls reason scope index : Nat) (w2 w3 : W64)
    (hsnap : s.snapshot 2 (fld w2 63 48) cls reason scope index = ([], false)) (hb : s.bit rAlm 62 = false) :
    s.record 2 cls reason scope index w2 w3 = s.now.2.putRecords [plainRecord 2 cls reason scope index s.now.1 w2 w3] := by
  have hb' : s.now.2.bit rAlm 62 = false := hb
  unfold record
  simp only [or_true, true_or, if_true, hsnap, hb', Bool.false_eq_true, if_false, Nat.add_zero]
  rfl

/-- Such a record takes the index of COUNT, which advances (R533, R541). -/
theorem record_next (s : State) (cls reason scope index : Nat) (w2 w3 : W64)
    (hsnap : s.snapshot 2 (fld w2 63 48) cls reason scope index = ([], false))
    (hb : s.bit rAlm 62 = false) (hn : s.regF rAlm 60 44 < 65535) :
    smGet [] (s.record 2 cls reason scope index w2 w3).almanac (s.regF rAlm 60 44) =
      plainRecord 2 cls reason scope index s.now.1 w2 w3 ∧
    (s.record 2 cls reason scope index w2 w3).regF rAlm 60 44 = s.regF rAlm 60 44 + 1 ∧
    (s.record 2 cls reason scope index w2 w3).flash = s.flash := by
  have halm : s.now.2.almanac = s.almanac := rfl
  have hcount : s.now.2.regF rAlm 60 44 = s.regF rAlm 60 44 := rfl
  rw [record_of_no_snapshot s cls reason scope index w2 w3 hsnap hb, putRecords_one s.now.2 _ hn, setRegF_almanac,
    emit_almanac,
    setRegF_flash, emit_flash, hcount]
  refine ⟨?_, ?_, rfl⟩
  · dsimp only [smSetL]
    rw [smGet_smSet_same]
  rw [regF_setRegF _ _ _ _ _ (by decide) (by decide)]
  exact Nat.mod_eq_of_lt (Nat.lt_of_le_of_lt (Nat.succ_le_of_lt hn) (by decide))

/-! ### The mirror -/

/-- The copy of the Almanac that the mirror writes (R542). -/
def almCopy (s : State) (whole : Bool) : AlmCopy :=
  { recs := (List.range (s.regF rAlm 60 44)).map fun i => smGet [] s.almanac i
    clears := s.regF rAlm 10 0
    sound := whole }

theorem mirror_flash (s : State) (whole : Bool) : (s.mirror whole).flash =
    if s.flash.last5 then { s.flash with copy4 := s.almCopy whole, last5 := false }
    else { s.flash with copy5 := s.almCopy whole, last5 := true } := by
  unfold mirror
  cases whole
  · rw [if_neg Bool.false_ne_true]
    rfl
  · rw [if_pos rfl, setRegF_flash]
    rfl

theorem mirror_almanac (s : State) (whole : Bool) : (s.mirror whole).almanac = s.almanac := by
  unfold mirror
  cases whole
  · rw [if_neg Bool.false_ne_true]
    rfl
  · rw [if_pos rfl, setRegF_almanac]
    rfl

/-- The mirror writes over the older copy, which becomes the newer one. -/
theorem newerCopy_mirror (s : State) (whole : Bool) : Claims.newerCopy (s.mirror whole).flash = s.almCopy whole := by
  rw [mirror_flash]
  cases s.flash.last5 <;> rfl

theorem olderCopy_mirror (s : State) (whole : Bool) :
    Claims.olderCopy (s.mirror whole).flash = Claims.newerCopy s.flash := by
  rw [mirror_flash, Claims.newerCopy]
  cases s.flash.last5 <;> rfl

/-! ### The sequence of R577 -/

/-- A flash segment that completes without its commit record leaves all but the flash, and the Almanac's copies. -/
theorem segmentDone_uncommitted (s : State) (n : Nat) : ∃ f : FlashSt, s.segmentDone n false = { s with flash := f } ∧
    f.copy4 = s.flash.copy4 ∧ f.copy5 = s.flash.copy5 ∧ f.last5 = s.flash.last5 := by
  unfold segmentDone
  cases s.flashOpen n with
  | none => exact ⟨_, rfl, rfl, rfl, rfl⟩
  | some g =>
    dsimp only
    split
    · exact ⟨_, rfl, rfl, rfl, rfl⟩
    · exact ⟨_, rfl, rfl, rfl, rfl⟩

theorem segmentsDone_uncommitted (s : State) : ∃ f : FlashSt,
    [0, 1].foldl (fun s n => s.segmentDone n (commit := false)) s = { s with flash := f } ∧
    Claims.newerCopy f = Claims.newerCopy s.flash := by
  obtain ⟨f, hf, h4, h5, hl⟩ := segmentDone_uncommitted s 0
  obtain ⟨g, hg, g4, g5, gl⟩ := segmentDone_uncommitted { s with flash := f } 1
  refine ⟨g, ?_, ?_⟩
  · rw [List.foldl_cons, hf, List.foldl_cons, hg, List.foldl_nil]
  · simp only [Claims.newerCopy, g4, g5, gl, h4, h5, hl]

theorem smGet_filter {α : Type} (d : α) (p : Nat → Bool) (m : List (Nat × α)) (k : Nat) :
    smGet d (m.filter fun e => p e.1) k = if p k then smGet d m k else d := by
  induction m with
  | nil => simp only [List.filter_nil, smGet, ite_self]
  | cons e m ih =>
    rw [List.filter_cons]
    split
    next hp =>
      rw [smGet, smGet, ih]
      split
      next he => rw [← he, if_pos hp]
      next => rfl
    next hp =>
      rw [ih, smGet]
      by_cases he : e.1 = k
      · rw [if_neg (he ▸ hp), if_neg (he ▸ hp)]
      · rw [if_neg he]

theorem loseModule_reg (s : State) (a : Nat) : s.loseModule.reg a = if alwaysOn a then s.reg a else regReset a :=
  smGet_filter (regReset a) alwaysOn s.regs a

theorem loseModule_snapshot (s : State) (code cls reason scope index : Nat) :
    s.loseModule.snapshot 2 code cls reason scope index = ([], false) :=
  snapshot_of_resetTrig _ _ _ _ _ _ fun n hn => by
    rw [loseModule_reg, if_neg]
    simp only [alwaysOn, Bool.or_eq_true, beq_iff_eq]
    omega

open Claims (flashUp restoring almCount newerCopy olderCopy recordedNext)

/-- DETAIL of the record INPUT_LOST (R577). -/
def inputDetail (s : State) (m : InputLoss) (cause : Nat) : Nat :=
  m.vmin.toNat * 2 ^ 48 + s.regF 0x150000 15 0 * 2 ^ 32 + m.vhold.toNat * 2 ^ 16 + cause * 2 +
    if ∃ g ∈ s.flash.gens, g.run = true then 1 else 0

/-- INPUT_LOST in the Almanac of `s`. -/
def recordInputLost (s : State) (detail : Nat) : State :=
  s.record 2 5 0 0 0 (errWord2 (mkErr 0x0508 0 0 0#64) 4 1 false) (BitVec.ofNat 64 detail)

/-- The flash takes the flush of the mirror. -/
def mirrors (s : State) : Bool := s.isReady 4 && !s.hub1Lost && !s.bit rAlm 62

theorem mirrors_iff (s : State) : s.mirrors = true ↔ flashUp s ∧ ¬ restoring s := by
  simp only [mirrors, isReady, Bool.and_eq_true, Bool.not_eq_true', Bool.not_eq_true]
  rfl

theorem errRecord_inputLost (s : State) (detail : Nat) :
    (s.countErr 5).errRecord (mkErr 0x0508 0 0 (BitVec.ofNat 64 detail)) 4 1 false = s.recordInputLost detail := by
  unfold errRecord
  rw [show (mkErr 0x0508 0 0 (BitVec.ofNat 64 detail)).cls = 5 from rfl, if_neg (by decide)]
  rfl

/-- R577 in its order: the segments, the loss, the record, the mirror, the time. -/
theorem inputLost_of_on (s : State) (m : InputLoss) (cause : Nat) (h : s.pwr.off = false) : ∃ f : FlashSt,
    newerCopy f = newerCopy s.flash ∧
    s.inputLost m cause = ((if s.mirrors then
        ((loseModule { s with flash := f }).recordInputLost (s.inputDetail m cause)).mirror m.flushed
      else (loseModule { s with flash := f }).recordInputLost (s.inputDetail m cause)).saveTime.updPwr
        fun w => { w with off := true }) := by
  obtain ⟨f, hf, hcopy⟩ := segmentsDone_uncommitted s
  refine ⟨f, hcopy, ?_⟩
  have hseg : (if s.flash.gens.any (·.run) then 1 else 0) = if ∃ g ∈ s.flash.gens, g.run = true then 1 else 0 :=
    if_congr List.any_eq_true rfl rfl
  unfold inputLost inputDetail
  rw [if_neg (by rw [h]; exact Bool.false_ne_true), hf]
  dsimp only
  rw [hseg, errRecord_inputLost]
  rfl

/-- What the sequence leaves once everything outside the always-on and flash domains is lost (R29, R577). -/
theorem facts_of_loseModule {s u : State} {f : FlashSt} (h : AlmanacOnly (loseModule { s with flash := f }) u) :
    let t := u.saveTime.updPwr fun w => { w with off := true }
    t.pwr.off = true ∧ t.fatal = true ∧ t.healthyLow = false ∧ t.reg 0x18 = 0#64 ∧ t.units = [] ∧ t.clus = [] ∧
    t.program = none ∧ t.chanBytes = [] ∧ t.pages = [] ∧ t.evtFlight = [] ∧
    t.mmc.savedTime = setFld (s.reg 0x40000) 15 0 0 ∧ t.mmc.fuse = s.mmc.fuse ∧ t.mmc.anchor = s.mmc.anchor := by
  obtain ⟨⟨_, _, _, _, _, _, rfl⟩, hreg⟩ := h
  have hready := (hreg 0x18 (by decide)).trans (loseModule_reg _ _)
  have htime := (hreg 0x40000 (by decide)).trans (loseModule_reg _ _)
  refine ⟨rfl, rfl, rfl, hready, rfl, rfl, rfl, rfl, rfl, rfl, ?_, rfl, rfl⟩
  exact congrArg (setFld · 15 0 0) htime


theorem loseModule_alm (s : State) (f : FlashSt) : (loseModule { s with flash := f }).reg rAlm = s.reg rAlm :=
  (loseModule_reg _ _).trans (if_pos (by decide))

/-- INPUT_LOST takes the index of COUNT. -/
theorem recordInputLost_next (s : State) (f : FlashSt) (detail : Nat) (hb : s.bit rAlm 62 = false)
    (hn : s.regF rAlm 60 44 < 65535) :
    let u := (loseModule { s with flash := f }).recordInputLost detail
    (∃ time, smGet [] u.almanac (s.regF rAlm 60 44) =
      plainRecord 2 5 0 0 0 time (errWord2 (mkErr 0x0508 0 0 0#64) 4 1 false) (BitVec.ofNat 64 detail)) ∧
    u.regF rAlm 60 44 = s.regF rAlm 60 44 + 1 ∧ u.flash = f := by
  have hreg := loseModule_alm s f
  have hb' : (loseModule { s with flash := f }).bit rAlm 62 = false := by rw [bit, regF, hreg]; exact hb
  have hcount : (loseModule { s with flash := f }).regF rAlm 60 44 = s.regF rAlm 60 44 := by rw [regF, hreg]; rfl
  obtain ⟨hrec, hnext, hflash⟩ := record_next _ 5 0 0 0 (errWord2 (mkErr 0x0508 0 0 0#64) 4 1 false) (BitVec.ofNat 64 detail)
    (loseModule_snapshot { s with flash := f } _ _ _ _ _) hb' (hcount.trans_lt hn)
  rw [hcount] at hrec hnext
  exact ⟨⟨_, hrec⟩, hnext, hflash⟩

theorem almCopy_recs_length (s : State) (whole : Bool) : (s.almCopy whole).recs.length = s.regF rAlm 60 44 := by
  rw [almCopy, List.length_map, List.length_range]

theorem almCopy_recs_getLast (s : State) (whole : Bool) (n : Nat) (h : s.regF rAlm 60 44 = n + 1) :
    (s.almCopy whole).recs.getLast? = some (smGet [] s.almanac n) := by
  rw [almCopy, h, List.range_succ, List.map_append, List.map_singleton, List.getLast?_concat]

/-- Word 0 of INPUT_LOST has no CONT. -/
theorem inputLost_word0 (time w2 w3 : W64) : setFld (wordAt (plainRecord 2 5 0 0 0 time w2 w3) 0) 11 11 0 =
    BitVec.ofNat 64 (2 * 2 ^ 56 + 5 * 2 ^ 48 + 0 * 2 ^ 40 + 0 * 2 ^ 32 + 0 * 2 ^ 12) := by
  show setFld (BitVec.ofNat 64 (2 * 2 ^ 56 + 5 * 2 ^ 48 + 0 * 2 ^ 40 + 0 * 2 ^ 32 + 0 * 2 ^ 12)) 11 11 0 = _
  decide +kernel

end Sys2Proof.Machine.State

namespace Sys2Proof.Machine
open State Claims

/-- The input loss sequence of R577, for any of its causes. -/
theorem losesInput_of_exec (c : InputLoss → Instr) (cause : Nat)
    (hc : ∀ m s, exec (c m) s = .next (s.inputLost m cause)) : losesInput c cause := by
  refine ⟨fun s m h => ?_, fun s m h => ?_⟩
  · rw [hc, inputLost, if_pos h]
  obtain ⟨f, hcopy, hlost⟩ := inputLost_of_on s m cause h
  have honly : AlmanacOnly (loseModule { s with flash := f })
      (if s.mirrors then ((loseModule { s with flash := f }).recordInputLost (s.inputDetail m cause)).mirror m.flushed
        else (loseModule { s with flash := f }).recordInputLost (s.inputDetail m cause)) :=
    .ite (.trans (record_almanacOnly ..) (mirror_almanacOnly ..)) (record_almanacOnly ..)
  have hnext := recordInputLost_next s f (s.inputDetail m cause)
  have hfacts := facts_of_loseModule honly
  dsimp only at hfacts
  rw [← hlost] at hfacts
  obtain ⟨hoff, hfatal, hlow, hready, hunits, hclus, hprog, hbytes, hpages, hevt, htime, hfuse, hanchor⟩ := hfacts
  refine ⟨_, hc m s, hoff, hfatal, hlow, hready, hunits, hclus, hprog, hbytes, hpages, hevt, htime, hfuse, hanchor,
    fun hb hn => ?_, fun hup hres hn => ?_⟩
  · obtain ⟨⟨time, hrec⟩, -, -⟩ := hnext hb hn
    have halm : (s.inputLost m cause).almanac =
        ((loseModule { s with flash := f }).recordInputLost (s.inputDetail m cause)).almanac := by
      rw [hlost]
      split
      · exact mirror_almanac ..
      · rfl
    have hword : smGet [] (s.inputLost m cause).almanac (s.regF 0x40008 60 44) = _ := (congrArg (smGet [] · _) halm).trans hrec
    dsimp only
    rw [hword]
    exact ⟨inputLost_word0 .., rfl, rfl⟩
  · obtain ⟨-, hcount, hflash⟩ := hnext (Bool.eq_false_iff.2 hres) hn
    rw [if_pos ((mirrors_iff s).2 ⟨hup, hres⟩)] at hlost
    have hf : (s.inputLost m cause).flash = _ := congrArg State.flash hlost
    have ha : (s.inputLost m cause).almanac = _ := congrArg State.almanac hlost
    rw [hf, ha]
    refine ⟨?_, ?_, ?_, ?_⟩
    · exact congrArg AlmCopy.sound (newerCopy_mirror ..)
    · exact (olderCopy_mirror ..).trans ((congrArg newerCopy hflash).trans hcopy)
    · exact (congrArg (·.recs.length) (newerCopy_mirror ..)).trans ((almCopy_recs_length ..).trans hcount)
    · refine (congrArg (·.recs.getLast?) (newerCopy_mirror ..)).trans ((almCopy_recs_getLast _ _ _ hcount).trans ?_)
      exact congrArg (fun m => some (smGet [] m _)) (mirror_almanac ..).symm

end Sys2Proof.Machine

namespace Sys2Proof.Machine.State

/-! ### Sensors -/

theorem rMon_of_die {b : Nat} (hb : b < 8) (n off : Nat) : rMon b n off = 0x1000000 * (b + 1) + 0x3E0000 + 0x80 * n + off := by
  rw [rMon, if_pos hb, rDie, rRgn]
  omega

theorem rMon_of_hub {b : Nat} (hb : ¬ b < 8) (n off : Nat) : rMon b n off = 0x100000 * (b - 7) + 0x60000 + 0x80 * n + off :=
  if_neg hb

/-- Only state holds a monitor's registers. -/
theorem view_rMon (s : State) {b n off : Nat} (hb : b < 10) (hn : n < 128) (ho : off < 128) :
    s.view (rMon b n off) = s.reg (rMon b n off) := by
  unfold view timed
  by_cases h : b < 8
  · rw [rMon_of_die h]
    rw [if_neg (by omega), if_neg (by omega), if_neg (by omega), if_neg (by omega), if_neg (by omega)]
  · rw [rMon_of_hub h]
    rw [if_neg (by omega), if_neg (by omega), if_neg (by omega), if_pos (by omega)]
    dsimp only
    rw [if_neg (by omega)]

/-- A monitor's registers are of one function. -/
theorem regFunc_rMon {b n off : Nat} (hb : b < 10) (hn : n < 128) (ho : off < 128) :
    regFunc (rMon b n off) = if b < 8 then some (8 + b) else if b = 9 then some 3 else some 0 := by
  unfold regFunc
  by_cases h : b < 8
  · rw [rMon_of_die h, if_pos h]
    rw [if_neg (by omega), if_neg (by omega), if_neg (by omega), if_neg (by omega), if_neg (by omega),
      if_pos (by omega)]
    dsimp only
    rw [if_neg (by omega)]
    exact congrArg some (by omega)
  · rw [rMon_of_hub h, if_neg h]
    rw [if_neg (by omega), if_neg (by omega), if_neg (by omega), if_pos (by omega)]
    dsimp only
    rw [if_neg (by omega), if_neg (by omega : ¬ (0x20000 ≤ _ ∧ _ < 0x30000))]
    exact if_congr (by omega) rfl rfl

theorem regReady_rMon (s : State) {b n off : Nat} (hb : b < 10) (hn : n < 128) (ho : off < 128) (hrec : s.recovery = false) :
    s.regReady (rMon b n off) = s.regReady (rMon b n 0) := by
  unfold regReady
  rw [hrec, regFunc_rMon hb hn ho, regFunc_rMon hb hn (by decide)]
  rfl

theorem regLost_rMon (s : State) {b n off : Nat} (hb : b < 10) (hn : n < 128) (ho : off < 128) :
    s.regLost (rMon b n off) = s.regLost (rMon b n 0) := by
  have hdie : (0x1000000 ≤ rMon b n off ∧ rMon b n off < 0x9000000) ↔ (0x1000000 ≤ rMon b n 0 ∧ rMon b n 0 < 0x9000000) := by
    by_cases h : b < 8
    · rw [rMon_of_die h, rMon_of_die h]
      omega
    · rw [rMon_of_hub h, rMon_of_hub h]
      omega
  have hwin : rMon b n off / 0x1000000 = rMon b n 0 / 0x1000000 := by
    by_cases h : b < 8
    · rw [rMon_of_die h, rMon_of_die h]
      omega
    · rw [rMon_of_hub h, rMon_of_hub h]
      omega
  unfold regLost
  rw [regFunc_rMon hb hn ho, regFunc_rMon hb hn (by decide), hwin]
  simp only [hdie]

/-- A monitor's register reads as it is held, once its function is ready and not lost. -/
theorem shown_rMon (s : State) {b n off : Nat} (hb : b < 10) (hn : n < 128) (ho : off < 128) (hrec : s.recovery = false)
    (hr : s.regReady (rMon b n 0) = true) (hl : s.regLost (rMon b n 0) = false) :
    s.shown (rMon b n off) = s.reg (rMon b n off) := by
  unfold shown
  rw [regLost_rMon s hb hn ho, regReady_rMon s hb hn ho hrec, hr, hl, if_neg Bool.false_ne_true, if_pos rfl,
    view_rMon s hb hn ho]

open Claims (mmcServes sensorOf sensorMax onlyRegs)

/-! ### The protocols -/

theorem mmcUp_of_ready {s : State} (hoff : s.pwr.off = false) (hr : s.bit 0x18 0 = true) : s.mmcUp = true := by
  rw [mmcUp, isReady, hoff, hr]
  rfl

/-- What the MMC's protocols ask of a state in which it serves. -/
theorem served {s : State} (h : mmcServes s) : s.mmcUp = true ∧ s.recovery = false := by
  obtain ⟨hoff, hr, hrec⟩ := h
  exact ⟨mmcUp_of_ready hoff hr, beq_eq_false_iff_ne.2 hrec⟩

theorem fxPldmFirmwareUpdate_of_serves {s : State} (h : mmcServes s) (image svn : Nat) (act : Bool) :
    s.fxPldmFirmwareUpdate image svn act =
      (let t := s.writeImage (!s.bit 0x28 55) image svn
       if act then t.updMmc fun m => { m with sel := !s.bit 0x28 55 } else t) := by
  obtain ⟨hup, hrec⟩ := served h
  have hbank : s.updateBank = !s.bit 0x28 55 := by
    have hlt : s.regF 0x28 55 55 < 2 := regF_lt s 0x28 55 55
    rw [updateBank, hrec, if_neg Bool.false_ne_true, bit]
    interval_cases s.regF 0x28 55 55 <;> rfl
  unfold fxPldmFirmwareUpdate
  rw [hup, hbank]
  rfl

/-- PLDM_FIRMWARE_UPDATE writes the bank that did not boot (R584). -/
theorem pldmFirmwareUpdate_writes (s : State) (image : Nat) (svn : BitVec 16) (act : Bool) (h : mmcServes s) :
    ∃ t, exec (.pldmFirmwareUpdate image svn act) s = .next t ∧
      (s.bit 0x28 55 = true → t.mmc.imgA = image ∧ t.mmc.svnA = svn.toNat ∧ t.mmc.imgB = s.mmc.imgB ∧ t.mmc.svnB = s.mmc.svnB) ∧
      (s.bit 0x28 55 = false → t.mmc.imgB = image ∧ t.mmc.svnB = svn.toNat ∧ t.mmc.imgA = s.mmc.imgA ∧ t.mmc.svnA = s.mmc.svnA) ∧
      t.mmc.sel = (if act then !s.bit 0x28 55 else s.mmc.sel) ∧ t.mmc.fuse = s.mmc.fuse ∧ t = { s with mmc := t.mmc } := by
  refine ⟨_, congrArg Host.Outcome.next (fxPldmFirmwareUpdate_of_serves h image svn.toNat act), ?_⟩
  cases s.bit 0x28 55 <;> cases act <;> simp [writeImage, updMmc]

/-- PLDM_SENSOR_READ (R583). -/
theorem pldmSensorRead_answers (s : State) (id : BitVec 16) (h : mmcServes s) :
    (id.toNat < 0x1000 ∨ 0x1500 ≤ id.toNat → exec (.pldmSensorRead id) s = .next (s.emit (.mgmt 0x80 []))) ∧
    (0x1000 ≤ id.toNat → id.toNat < 0x1500 → s.regReady (sensorOf id.toNat) = true → s.regLost (sensorOf id.toNat) = false →
      (s.bit (sensorOf id.toNat) 63 = true → exec (.pldmSensorRead id) s =
        .next (s.emit (.mgmt 0 (0#8 :: leBytes 4 (s.regF (sensorMax id.toNat) 63 32))))) ∧
      (s.bit (sensorOf id.toNat) 63 = false → exec (.pldmSensorRead id) s = .next (s.emit (.mgmt 0 [2#8])))) := by
  obtain ⟨hup, hrec⟩ := served h
  have hexec : exec (.pldmSensorRead id) s = .next (s.fxPldmSensorRead id.toNat) := rfl
  rw [hexec, fxPldmSensorRead, hup, hrec, Bool.not_true, Bool.or_self, if_neg Bool.false_ne_true]
  refine ⟨fun hout => by rw [if_pos hout]; rfl, fun hlo hhi hr hl => ?_⟩
  have hb : (id.toNat - 0x1000) / 128 < 10 := by omega
  have hn : (id.toNat - 0x1000) % 128 < 128 := Nat.mod_lt _ (by decide)
  rw [if_neg (by omega)]
  dsimp only
  rw [shown_rMon s hb hn (by decide) hrec hr hl, shown_rMon s hb hn (by decide) hrec hr hl, hl]
  refine ⟨fun hen => ?_, fun hen => ?_⟩
  · rw [if_pos ⟨beq_iff_eq.1 hen, rfl⟩]
    rfl
  · rw [if_neg fun hc => beq_eq_false_iff_ne.1 hen hc.1]
    rfl

/-- PLDM_EVENT_RETRIEVAL (R583). -/
theorem pldmEventRetrieval_answers (s : State) (h : mmcServes s) :
    (∀ e es, s.mmc.events = e :: es → ∃ t, exec .pldmEventRetrieval s = .next t ∧
      t = { s.emit (.pldmEvent e) with mmc := { s.mmc with events := es } }) ∧
    (s.mmc.events = [] → exec .pldmEventRetrieval s = .next s) := by
  obtain ⟨hup, hrec⟩ := served h
  have hexec : exec .pldmEventRetrieval s = .next s.fxPldmEventRetrieval := rfl
  rw [hexec, fxPldmEventRetrieval, hup, hrec, Bool.not_true, Bool.or_self, if_neg Bool.false_ne_true]
  refine ⟨fun e es he => ⟨_, rfl, ?_⟩, fun he => ?_⟩
  · rw [he]
    rfl
  · rw [he]

/-- I3C_ADDRESS_ASSIGN (R581). -/
theorem i3cAddressAssign_sets (s : State) (a : BitVec 7) (hoff : s.pwr.off = false) (hr : s.bit 0x18 0 = true) :
    (∃ t, exec (.i3cAddressAssign (.setdasa a)) s = .next t ∧ t = { s with mmc := { s.mmc with i3c := some a.toNat } } ∧
      t.alertLow = false) ∧
    (∃ t, exec (.i3cAddressAssign (.entdaa a)) s = .next t ∧ t = { s with mmc := { s.mmc with i3c := some a.toNat } }) ∧
    (∃ t, exec (.i3cAddressAssign .rstdaa) s = .next t ∧ t = { s with mmc := { s.mmc with i3c := none } }) := by
  have hexec : ∀ o, exec (.i3cAddressAssign o) s = .next (s.updMmc fun m => { m with i3c := match o with
      | .setdasa a => some a.toNat
      | .entdaa a => some a.toNat
      | .rstdaa => none }) := fun o => by
    show Host.Outcome.next (s.fxI3cAddressAssign o) = _
    unfold fxI3cAddressAssign
    rw [mmcUp_of_ready hoff hr]
    rfl
  refine ⟨⟨_, hexec _, rfl, ?_⟩, ⟨_, hexec _, rfl⟩, ⟨_, hexec _, rfl⟩⟩
  rw [alertLow, updMmc, Option.isNone_some, Bool.and_false, Bool.false_and]

/-- XMODEM_BUNDLE (R589). -/
theorem xmodemBundle_writes (s : State) (image : Nat) (svn : BitVec 16) (hoff : s.pwr.off = false) :
    (s.regF 0x28 63 56 = 0xE0 → ∃ t, exec (.xmodemBundle image svn) s = .next t ∧
      (if s.mmc.sel then t.mmc = { s.mmc with imgB := image, svnB := svn.toNat }
        else t.mmc = { s.mmc with imgA := image, svnA := svn.toNat }) ∧ t = { s with mmc := t.mmc }) ∧
    (s.regF 0x28 63 56 ≠ 0xE0 → exec (.xmodemBundle image svn) s = .next s) := by
  have hexec : exec (.xmodemBundle image svn) s = .next (s.fxXmodemBundle image svn.toNat) := rfl
  rw [hexec, fxXmodemBundle, recovery, hoff, Bool.false_or]
  refine ⟨fun hrec => ?_, fun hrec => ?_⟩
  · rw [hrec]
    refine ⟨_, rfl, ?_, rfl⟩
    cases h : s.mmc.sel <;> simp [writeImage, updMmc, h]
  · rw [beq_eq_false_iff_ne.2 hrec]
    rfl

theorem setReadyWord_onlyRegs (s : State) (v : W64) :
    (s.setReadyWord v).reg 0x18 = v ∧ (s.setReadyWord v).mmc = s.mmc ∧
    onlyRegs { s with evtFlight := (s.setReadyWord v).evtFlight } (s.setReadyWord v) [0x18] := by
  unfold setReadyWord
  split
  next h => exact ⟨h.symm, rfl, fun _ _ => rfl, rfl⟩
  next => exact ⟨reg_setReg .., rfl, fun a ha => reg_setReg_ne s v fun h => ha (List.mem_singleton.2 h), rfl⟩

/-- TAP_INTRUSIVE_INSTRUCTION (R590). -/
theorem tapIntrusiveInstruction_acts (s : State) (i : TapInstr) (hoff : s.pwr.off = false) :
    (i = .bypass ∨ i = .idcode ∨ i = .sample ∨ s.mmc.testAccess = false → exec (.tapIntrusiveInstruction i) s = .next s) ∧
    (i = .extest ∨ i = .intest ∨ i = .clamp ∨ i = .highz → s.mmc.testAccess = true → s.mmc.tapUsed = false →
      ∃ t, exec (.tapIntrusiveInstruction i) s = .next t ∧ t.reg 0x18 = s.reg 0x18 &&& 3#64 ∧
        t.mmc = { s.mmc with tapUsed := true } ∧ onlyRegs { s with mmc := t.mmc, evtFlight := t.evtFlight } t [0x18]) := by
  refine ⟨fun h => ?_, fun h hacc hused => ?_⟩
  · show Host.Outcome.next (s.fxTapIntrusiveInstruction i) = _
    unfold fxTapIntrusiveInstruction
    rcases h with rfl | rfl | rfl | hacc
    · rfl
    · rfl
    · rfl
    · cases i <;> simp only [hacc] <;> rfl
  · refine ⟨(s.updMmc fun m => { m with tapUsed := true }).setReadyWord (s.reg 0x18 &&& 3#64), ?_, ?_⟩
    · show Host.Outcome.next (s.fxTapIntrusiveInstruction i) = _
      unfold fxTapIntrusiveInstruction
      rw [hused, hoff]
      rcases h with rfl | rfl | rfl | rfl <;> simp only [hacc] <;> rfl
    · obtain ⟨hreg, hmmc, hother, hall⟩ :=
        setReadyWord_onlyRegs (s.updMmc fun m => { m with tapUsed := true }) (s.reg 0x18 &&& 3#64)
      refine ⟨hreg, hmmc, hother, ?_⟩
      rw [hmmc]
      exact hall


/-! ### Sessions -/

/-- With fewer than four sessions open one of the four numbers is free. -/
theorem freeSession_unused (l : List (Nat × Bool)) (h : l.length < 4) :
    freeSession l ∈ [0, 1, 2, 3] ∧ ∀ x ∈ l, x.1 ≠ freeSession l := by
  unfold freeSession
  cases hfind : (List.range 4).find? fun i => !(l.any fun x => x.1 == i) with
  | some n =>
    have hfree : ∀ x ∈ l, x.1 ≠ n := by
      simpa only [Bool.not_eq_true', List.any_eq_false, beq_iff_eq] using List.find?_some hfind
    exact ⟨List.mem_of_find?_eq_some hfind, hfree⟩
  | none =>
    have hused : List.range 4 ⊆ l.map Prod.fst := fun i hi => by
      have hany := List.find?_eq_none.1 hfind i hi
      simp only [Bool.not_eq_true', Bool.not_eq_false, List.any_eq_true, beq_iff_eq] at hany
      exact List.mem_map.2 hany
    have hle := (List.subperm_of_subset List.nodup_range hused).length_le
    rw [List.length_range, List.length_map] at hle
    omega

theorem spdmAnswer_eq (s : State) : ∃ ctr o, s.spdmAnswer = { s with ctr := ctr, out := o :: s.out } := ⟨_, _, rfl⟩

theorem exec_spdmRequest_of_serves {s : State} (h : mmcServes s) (r : SpdmReq) : ∃ ctr o,
    exec (.spdmRequest r) s = .next (match r with
      | .keyExchange chained =>
        if s.mmc.sessions.length < 4 then
          { s with ctr := ctr, out := o :: s.out,
                   mmc := { s.mmc with sessions := s.mmc.sessions ++ [(freeSession s.mmc.sessions, chained)] } }
        else { s with ctr := ctr, out := o :: s.out }
      | .endSession n => { s with ctr := ctr, out := o :: s.out,
                                  mmc := { s.mmc with sessions := s.mmc.sessions.filter fun x => x.1 != n } }
      | _ => { s with ctr := ctr, out := o :: s.out }) := by
  obtain ⟨hup, hrec⟩ := served h
  obtain ⟨ctr, o, hanswer⟩ := spdmAnswer_eq s
  refine ⟨ctr, o, ?_⟩
  show Host.Outcome.next (s.fxSpdmRequest r) = _
  unfold fxSpdmRequest
  rw [hup, hrec, Bool.not_true, Bool.or_self, if_neg Bool.false_ne_true, hanswer]
  cases r <;> rfl

/-- A key exchange opens one of at most four sessions (R585). -/
theorem keyExchange_opens (s : State) (chained : Bool) (h : mmcServes s) :
    ∃ t, exec (.spdmRequest (.keyExchange chained)) s = .next t ∧ t.out.tail = s.out ∧
      (s.mmc.sessions.length < 4 → ∃ n ∈ [0, 1, 2, 3], t.mmc.sessions = s.mmc.sessions ++ [(n, chained)] ∧
        ∀ x ∈ s.mmc.sessions, x.1 ≠ n) ∧
      (4 ≤ s.mmc.sessions.length → t.mmc.sessions = s.mmc.sessions) ∧
      t = { s with out := t.out, ctr := t.ctr, mmc := { s.mmc with sessions := t.mmc.sessions } } := by
  obtain ⟨ctr, o, hexec⟩ := exec_spdmRequest_of_serves h (.keyExchange chained)
  refine ⟨_, hexec, ?_⟩
  dsimp only
  by_cases hlen : s.mmc.sessions.length < 4
  · rw [if_pos hlen]
    obtain ⟨hmem, hfree⟩ := freeSession_unused _ hlen
    exact ⟨rfl, fun _ => ⟨_, hmem, rfl, hfree⟩, fun hge => absurd hlen (by omega), rfl⟩
  · rw [if_neg hlen]
    exact ⟨rfl, fun hlt => absurd hlt hlen, fun _ => rfl, rfl⟩

/-- END_SESSION closes a session. -/
theorem endSession_closes (s : State) (n : Nat) (h : mmcServes s) :
    ∃ t, exec (.spdmRequest (.endSession n)) s = .next t ∧ t.out.tail = s.out ∧
      (∀ x, x ∈ t.mmc.sessions ↔ x ∈ s.mmc.sessions ∧ x.1 ≠ n) ∧
      t = { s with out := t.out, ctr := t.ctr, mmc := { s.mmc with sessions := t.mmc.sessions } } := by
  obtain ⟨ctr, o, hexec⟩ := exec_spdmRequest_of_serves h (.endSession n)
  refine ⟨_, hexec, rfl, fun x => ?_, rfl⟩
  simp only [List.mem_filter, bne_iff_ne]

/-- The other requests are only answered. -/
theorem spdmRequest_answers (s : State) (i nonce : Nat) (h : mmcServes s) :
    ∀ r ∈ ([.getCertificate, .challenge nonce, .getMeasurements i nonce] : List SpdmReq),
      ∃ t, exec (.spdmRequest r) s = .next t ∧ t.out.tail = s.out ∧ t = { s with out := t.out, ctr := t.ctr } := by
  intro r hr
  obtain ⟨ctr, o, hexec⟩ := exec_spdmRequest_of_serves h r
  simp only [List.mem_cons, List.not_mem_nil, or_false] at hr
  rcases hr with rfl | rfl | rfl <;> exact ⟨_, hexec, rfl, rfl⟩

end Sys2Proof.Machine.State

namespace Sys2Proof
open Machine State Claims

/-- Settles O45, protocol by protocol; the three causes of an input loss share `losesInput_of_exec`. -/
theorem managementProtocolsAndInputLoss : Obligations.ManagementProtocolsAndInputLoss := by
  unfold Obligations.ManagementProtocolsAndInputLoss
  exact ⟨losesInput_of_exec _ 0 fun _ _ => rfl, losesInput_of_exec _ 1 fun _ _ => rfl, losesInput_of_exec _ 2 fun _ _ => rfl,
    pldmFirmwareUpdate_writes, pldmSensorRead_answers, pldmEventRetrieval_answers, keyExchange_opens, endSession_closes,
    spdmRequest_answers, i3cAddressAssign_sets, xmodemBundle_writes, tapIntrusiveInstruction_acts, fun _ => rfl⟩

end Sys2Proof

/-! ## Obligation O14: passes, drains, completion and the watchdog -/

namespace Sys2Proof.Machine

/-! ### Addresses of unit registers -/

theorem rUnit_ne (pu : Nat) {a b : Nat} (h : a ≠ b) : rUnit pu a ≠ rUnit pu b := by
  unfold rUnit
  omega

theorem rRgn_ne_rUnit (r pu : Nat) {off : Nat} (h : off < 0x10000) : rRgn r 0 ≠ rUnit pu off := by
  unfold rRgn rUnit regClu0
  omega

open Claims in
theorem unitReg_rUnit (pu : Nat) {off : Nat} (h : off < 0x10000) : unitReg (pu / 4) (rUnit pu off) := by
  unfold unitReg rUnit
  omega

/-! ### Folds over work that may be refused -/

@[simp] theorem firstHalt_eq_none {a b : Option HaltInfo} : firstHalt a b = none ↔ a = none ∧ b = none := by
  cases a with
  | none => simp [firstHalt]
  | some x =>
    cases b with
    | none => simp [firstHalt]
    | some y => simp only [firstHalt]; split <;> simp

/-- A fold that ends without a refusal had none before, and every step stands in the relation `R`. -/
theorem foldl_quiet {α β : Type} {f : β → α → β} {halt : β → Option HaltInfo} {R : β → β → Prop} (refl : ∀ z, R z z)
    (trans : ∀ {x y z}, R x y → R y z → R x z) (step : ∀ z a, halt (f z a) = none → halt z = none ∧ R z (f z a))
    (l : List α) (z : β) (h : halt (l.foldl f z) = none) : halt z = none ∧ R z (l.foldl f z) := by
  induction l generalizing z with
  | nil => exact ⟨h, refl z⟩
  | cons a l ih =>
    obtain ⟨h1, r1⟩ := ih _ h
    obtain ⟨h0, r0⟩ := step z a h1
    exact ⟨h0, trans r0 r1⟩

namespace State

/-! ### Accesses to owned ports that meet no other and are not refused -/

/-- What accesses to owned ports and counts change on unit `pu`: the registers of `A`, and of the unit itself the
remembered accesses, the held effects and the next cycles of its banks. -/
structure PortOnly (A : List Nat) (pu : Nat) (s t : State) : Prop where
  reg    : ∀ a, a ∉ A → t.reg a = s.reg a
  unit   : t.unit pu = { s.unit pu with slips := (t.unit pu).slips, held := (t.unit pu).held, bankNext := (t.unit pu).bankNext }
  others : ∀ k, k ≠ pu → t.unit k = s.unit k
  rest   : t = { s with regs := t.regs, units := t.units }

namespace PortOnly

variable {A : List Nat} {pu : Nat} {s t v : State}

theorem refl (A : List Nat) (pu : Nat) (s : State) : PortOnly A pu s s := ⟨fun _ _ => rfl, rfl, fun _ _ => rfl, rfl⟩

theorem trans (h : PortOnly A pu s t) (g : PortOnly A pu t v) : PortOnly A pu s v where
  reg a ha := (g.reg a ha).trans (h.reg a ha)
  unit := g.unit.trans (congrArg (fun x : UnitSt => { x with slips := (v.unit pu).slips, held := (v.unit pu).held,
                                                             bankNext := (v.unit pu).bankNext }) h.unit)
  others k hk := (g.others k hk).trans (h.others k hk)
  rest := g.rest.trans (congrArg (fun x : State => { x with regs := v.regs, units := v.units }) h.rest)

theorem updUnit (A : List Nat) (s : State) {f : UnitSt → UnitSt}
    (hf : ∀ x, f x = { x with slips := (f x).slips, held := (f x).held, bankNext := (f x).bankNext }) :
    PortOnly A pu s (s.updUnit pu f) where
  reg _ _ := rfl
  unit := by rw [unit_updUnit]; exact hf _
  others k hk := unit_updUnit_ne s f hk
  rest := rfl

theorem setRegF (s : State) {a : Nat} (hi lo x : Nat) (h : a ∈ A) : PortOnly A pu s (s.setRegF a hi lo x) where
  reg _ hb := reg_setRegF_ne s hi lo x fun hba => hb (hba ▸ h)
  unit := rfl
  others _ _ := rfl
  rest := rfl

theorem bumpSpec (s : State) (spec : Bool) {a : Nat} (hi lo n : Nat) (h : a ∈ A) :
    PortOnly A pu s (s.bumpSpec pu spec a hi lo n) := by
  unfold State.bumpSpec
  split
  · exact refl A pu s
  split
  · exact updUnit A s fun _ => rfl
  · exact setRegF s hi lo _ h

theorem setSpec (s : State) (spec : Bool) {a : Nat} (hi lo x : Nat) (h : a ∈ A) :
    PortOnly A pu s (s.setSpec pu spec a hi lo x) := by
  unfold State.setSpec
  split
  · exact updUnit A s fun _ => rfl
  · exact setRegF s hi lo x h

theorem noteUse (A : List Nat) (s : State) (x : SlipRec) : PortOnly A pu s (s.noteUse pu x) := updUnit A s fun _ => rfl

theorem notePlace (A : List Nat) (s : State) (bank owner c : Nat) (w : Window) :
    PortOnly A pu s (s.notePlace pu bank owner c w) := by
  unfold State.notePlace
  split
  · exact refl A pu s
  · exact updUnit A s fun _ => rfl

/-- The engine that a change of the ports leaves. -/
theorem eng (h : PortOnly A pu s t) (e : Nat) : t.eng pu e = s.eng pu e := by
  unfold State.eng
  rw [h.unit]

end PortOnly

theorem meetUse_ne_none (s : State) (pu pos who : Nat) (y : SlipRec) (h : HaltInfo) : (s.meetUse pu pos who y h).2 ≠ none := by
  simp only [meetUse]
  split <;> simp

variable {A : List Nat} {pu u : Nat}

/-- An access that is not refused is the owner's own or a slip. -/
theorem portUse_quiet (hA : rUnit pu 0x60 ∈ A) (s : State) (port agent cyc word : Nat) (k : Cmd)
    (undo : List (Nat × Byte)) (pois : Bool) (seg : Option Nat)
    (h : (s.portUse pu u port agent cyc word k undo pois seg).2 = none) :
    PortOnly A pu s (s.portUse pu u port agent cyc word k undo pois seg).1 := by
  simp only [portUse] at h ⊢
  split at h
  · exact absurd h (meetUse_ne_none _ _ _ _ _ _)
  · exact PortOnly.noteUse A s _
  · cases h
  · exact ((PortOnly.bumpSpec s _ _ _ _ hA).trans (PortOnly.setSpec _ _ _ _ _ hA)).trans (PortOnly.noteUse A _ _)

theorem readWords_quiet (hA : rUnit pu 0x60 ∈ A) (s : State) (agent : Nat) (k : Cmd) (w : Window) (ws : List Nat)
    (h : (s.readWords pu u agent k w ws).2.2 = none) : PortOnly A pu s (s.readWords pu u agent k w ws).1 := by
  refine (foldl_quiet (halt := fun z : State × Nat × Option HaltInfo => z.2.2)
    (R := fun x y : State × Nat × Option HaltInfo => PortOnly A pu x.1 y.1)
    (fun z => .refl A pu z.1) .trans (fun z x hx => ?_) ws _ h).2
  obtain ⟨h0, h1⟩ := firstHalt_eq_none.1 hx
  exact ⟨h0, (portUse_quiet hA _ _ _ _ _ _ _ _ _ h1).trans (.notePlace A _ _ _ _ _)⟩

/-! ### The feed of a pass (R80, R204) -/

/-- One staging read of a feed that starts in cycle `c`, needed two slots before `slot`. -/
def stageStep (pu u : Nat) (k : Cmd) (c slot : Nat) (z : State × Option HaltInfo) (x : StageRd) : State × Option HaltInfo :=
  let y := z.1.readWords pu u x.agent k
    { lo := max x.free (c - (z.1.slotMap.frameLen + 2)), hi := c + slot - 2, due := c + slot - 2 } x.words
  (y.1, firstHalt z.2 y.2.2)

theorem stageStep_quiet (hA : rUnit pu 0x60 ∈ A) (k : Cmd) (c slot : Nat) (l : List StageRd) (z : State × Option HaltInfo)
    (h : (l.foldl (stageStep pu u k c slot) z).2 = none) :
    z.2 = none ∧ PortOnly A pu z.1 (l.foldl (stageStep pu u k c slot) z).1 := by
  refine foldl_quiet (halt := Prod.snd) (R := fun x y : State × Option HaltInfo => PortOnly A pu x.1 y.1)
    (fun z => .refl A pu z.1) .trans (fun z x hx => ?_) l z h
  obtain ⟨h0, h1⟩ := firstHalt_eq_none.1 hx
  exact ⟨h0, readWords_quiet hA _ _ _ _ _ h1⟩

/-- A fill slot of a feed: the staging reads that are due, then the vector on the broadcast bus. -/
def fillStep (pu u e : Nat) (k : Cmd) (c : Nat) (rds : List StageRd) (z : State × Option HaltInfo) (i : Nat) :
    State × Option HaltInfo :=
  match z.2 with
  | some _ => z
  | none =>
    let a := (rds.filter fun x => x.slot == i + 2).foldl (stageStep pu u k c (i + 2)) z
    let y := a.1.portUse pu u (0x1000 + e) (if e = 0 then 0x001 else 0x004) (c + i) 0 k [] false
    (y.1, firstHalt a.2 y.2)

theorem fillStep_quiet (hA : rUnit pu 0x60 ∈ A) (e : Nat) (k : Cmd) (c : Nat) (rds : List StageRd)
    (z : State × Option HaltInfo) (i : Nat) (h : (fillStep pu u e k c rds z i).2 = none) :
    z.2 = none ∧ PortOnly A pu z.1 (fillStep pu u e k c rds z i).1 := by
  unfold fillStep at h ⊢
  split at h
  · next hz => rw [hz] at h; cases h
  · next hz =>
    obtain ⟨h0, h1⟩ := firstHalt_eq_none.1 h
    obtain ⟨-, hs⟩ := stageStep_quiet hA _ _ _ _ _ h0
    exact ⟨hz, hs.trans (portUse_quiet hA _ _ _ _ _ _ _ _ _ h1)⟩

/-- A feed without a refused access changes, beside the ports of the engine, only what its accesses do. -/
theorem feed_quiet (hA : rUnit pu 0x60 ∈ A) (s : State) (e : Nat) (r : RunSt) (c : Nat)
    (h : (s.feed pu u e r c).2 = none) :
    ∃ ports, PortOnly A pu (s.setEng pu e { s.eng pu e with ports := ports }) (s.feed pu u e r c).1 := by
  have fill := fun rds l z => foldl_quiet (halt := Prod.snd) (R := fun x y : State × Option HaltInfo => PortOnly A pu x.1 y.1)
    (fun z => .refl A pu z.1) .trans (fillStep_quiet (u := u) hA e r.cmd c rds) l z
  obtain ⟨h2, hfill⟩ := fill _ _ _ h
  obtain ⟨h1, hs1⟩ := stageStep_quiet hA _ _ _ _ _ h2
  obtain ⟨-, hs0⟩ := stageStep_quiet hA _ _ _ _ _ h1
  exact ⟨_, (hs0.trans hs1).trans hfill⟩

end State
end Sys2Proof.Machine

namespace Sys2Proof.Machine.State
variable {A : List Nat} {pu u : Nat}

/-! ### Engines and runs of a unit -/

@[simp] theorem eng_setEng (s : State) (pu e : Nat) (x : EngSt) : (s.setEng pu e x).eng pu e = x := by
  unfold eng setEng
  split <;> simp

@[simp] theorem eng_setRun (s : State) (pu e : Nat) (r : RunSt) : (s.setRun pu r).eng pu e = s.eng pu e := by
  simp [eng, setRun]

/-- An engine replaced leaves everything else of its unit alone. -/
theorem unit_setEng (s : State) (pu e : Nat) (x : EngSt) :
    (s.setEng pu e x).unit pu =
      { s.unit pu with fwd := ((s.setEng pu e x).unit pu).fwd, bwd := ((s.setEng pu e x).unit pu).bwd } := by
  unfold setEng
  rw [unit_updUnit]
  split <;> rfl

@[simp] theorem runs_setRun (s : State) (pu : Nat) (r : RunSt) : ((s.setRun pu r).unit pu).runs =
    (s.unit pu).runs.map fun q => if q.prov.ticket == r.prov.ticket then r else q := by
  simp [setRun]

/-! ### PASS_START -/

/-- The place of the pass that run `r` starts next in engine `e` (R40). -/
def nextRec (s : State) (pu e : Nat) (r : RunSt) : PassRec :=
  { ticket := r.prov.ticket, index := r.fed, page := (s.eng pu e).count % 2, rb := (r.passAt r.fed).1,
    cols := r.slices (r.passAt r.fed).2, s := (passStartCyc (s.eng pu e) r.cyc0).1
    fin := Claims.endOf (s.eng pu e) r (passStartCyc (s.eng pu e) r.cyc0).1 }

/-- A pass whose feed meets no refused access enters the engine's history, is counted, and fills its page. -/
theorem runPass_of_feed (s : State) (e : Nat) (r : RunSt)
    (h : (s.feed pu u e r (passStartCyc (s.eng pu e) r.cyc0).1).2 = none) :
    ∃ t page poison, s.runPass pu u e r = (t, none) ∧
      PortOnly [rUnit pu (0x40 + 8 * e), rUnit pu 0x50, rUnit pu 0x60] pu
        (((s.feed pu u e r (passStartCyc (s.eng pu e) r.cyc0).1).1.setEng pu e
          { (s.feed pu u e r (passStartCyc (s.eng pu e) r.cyc0).1).1.eng pu e with
            count := (s.eng pu e).count + 1, page := page, poison := poison
            hist := (s.nextRec pu e r :: (s.eng pu e).hist).take 3 }).setRun pu { r with fed := r.fed + 1 }) t := by
  simp only [runPass, h]
  exact ⟨_, _, _, rfl, ((PortOnly.bumpSpec _ _ _ _ _ (by simp)).trans (.bumpSpec _ _ _ _ _ (by simp))).trans
    (.bumpSpec _ _ _ _ _ (by simp))⟩

open Claims in
/-- PASS_START without a refused access. -/
theorem passStart_enters (s : State) (u : UnitIx) (pu : Nat) (e : Eng) (r : RunSt) (hpu : s.physUnit u.val = some pu)
    (hr : s.nextPass pu (engIx e) = some r) (hfeed : (s.feed pu u.val (engIx e) r (startOf s pu e r).1).2 = none) :
    ∃ t, exec (.passStart u e) s = .next t ∧ (t.eng pu (engIx e)).count = (s.eng pu (engIx e)).count + 1 ∧
      (∃ p ∈ (t.eng pu (engIx e)).hist.head?, p.ticket = r.prov.ticket ∧ p.index = r.fed ∧
        p.page = (s.eng pu (engIx e)).count % 2 ∧ p.s = (startOf s pu e r).1 ∧
        p.fin = endOf (s.eng pu (engIx e)) r (startOf s pu e r).1 ∧ p.d = none) ∧
      (t.unit pu).runs = (s.unit pu).runs.map (fun q => if q.prov.ticket == r.prov.ticket
        then { r with fed := r.fed + 1 } else q) ∧
      (t.unit pu).tile = (s.unit pu).tile ∧ (t.unit pu).tpoison = (s.unit pu).tpoison ∧
      (∀ a, a ≠ rUnit pu (0x40 + 8 * engIx e) → a ≠ rUnit pu 0x50 → a ≠ rUnit pu 0x60 → t.reg a = s.reg a) ∧
      (∀ k, k ≠ pu → t.unit k = s.unit k) ∧ t = { s with regs := t.regs, units := t.units } := by
  obtain ⟨t, page, poison, hrun, ht⟩ := runPass_of_feed s (engIx e) r hfeed
  obtain ⟨ports, hf⟩ := feed_quiet (A := [rUnit pu 0x60]) (by simp) s (engIx e) r _ hfeed
  have hexec : exec (.passStart u e) s = .next t := by
    show Host.Outcome.next (s.fxPassStart u.val (engIx e)) = _
    simp only [fxPassStart, hpu, hr, hrun, orHalt]
  have heng := ht.eng (engIx e)
  rw [eng_setRun, eng_setEng] at heng
  have hunit := hf.unit
  rw [unit_setEng] at hunit
  refine ⟨t, hexec, ?_, ⟨s.nextRec pu (engIx e) r, ?_, rfl, rfl, rfl, rfl, rfl, rfl⟩, ?_, ?_, ?_, ?_, ?_, ?_⟩
  · rw [heng]
  · rw [heng]; rfl
  · rw [ht.unit]
    show ((_ : State).unit pu).runs = _
    rw [runs_setRun, unit_setEng, hunit]
  · rw [ht.unit, setRun, unit_updUnit, unit_setEng, hunit]
  · rw [ht.unit, setRun, unit_updUnit, unit_setEng, hunit]
  · intro a h1 h2 h3
    exact (ht.reg a (by simp [h1, h2, h3])).trans (hf.reg a (by simpa using h3))
  · intro k hk
    exact (ht.others k hk).trans ((unit_updUnit_ne _ _ hk).trans ((unit_updUnit_ne _ _ hk).trans
      ((hf.others k hk).trans (unit_updUnit_ne _ _ hk))))
  · rw [ht.rest, setRun, setEng, hf.rest]; rfl

end Sys2Proof.Machine.State

namespace Sys2Proof.Machine

/-! ### What a drain leaves as it is -/

/-- What the rows of a drain leave of a unit: the passes of its engines, and for each ticket the number of passes that
its run has drained. -/
def UnitSt.drainView (v : UnitSt) : List PassRec × List PassRec × (Nat → Option Nat) :=
  (v.fwd.hist, v.bwd.hist, fun k => (v.runs.find? fun r => r.prov.ticket == k).map (·.drained))

theorem UnitSt.drainView_writeWord (v : UnitSt) (w : Nat) (bs : List (Nat × Byte)) (poison : Bool) :
    (v.writeWord w bs poison).drainView = v.drainView := rfl

theorem UnitSt.drainView_writeWords (gs : List (Nat × List (Nat × Byte))) (poison : Bool) (v : UnitSt) :
    (gs.foldl (fun u g => u.writeWord g.1 g.2 poison) v).drainView = v.drainView := by
  induction gs generalizing v with
  | nil => rfl
  | cons g gs ih => exact (ih _).trans (drainView_writeWord v g.1 g.2 poison)

/-- A run replaced by one of its ticket, as the search for a ticket finds it. -/
theorem find?_replaceRun (l : List RunSt) (r : RunSt) (k : Nat) :
    (l.map fun q => if q.prov.ticket == r.prov.ticket then r else q).find? (fun q => q.prov.ticket == k) =
      (l.find? fun q => q.prov.ticket == k).map fun q => if q.prov.ticket == r.prov.ticket then r else q := by
  rw [List.find?_map]
  congr 2
  funext q
  by_cases h : q.prov.ticket = r.prov.ticket <;> simp [h]

namespace State

/-- A reading of LOG_TO_PHYS is one of the region's first register. -/
theorem physUnit_congr {s t : State} (h : ∀ r, t.reg (rRgn r 0) = s.reg (rRgn r 0)) (v : Nat) :
    t.physUnit v = s.physUnit v := by
  unfold physUnit physClu regF
  rw [h]

/-- What the rows of a drain change: the accumulation, chain and slip registers of the unit, of the unit itself neither
an engine's passes nor what its runs have drained, of the others only the chain successor. -/
structure DrainOnly (pu u : Nat) (s t : State) : Prop where
  reg    : ∀ a, a ∉ [rUnit pu 0x50, rUnit pu 0x58, rUnit pu 0x60] → t.reg a = s.reg a
  view   : (t.unit pu).drainView = (s.unit pu).drainView
  others : ∀ k, k ≠ pu → some k ≠ s.physUnit (u + 1) → t.unit k = s.unit k

namespace DrainOnly

variable {pu u : Nat} {s t v : State}

theorem refl (pu u : Nat) (s : State) : DrainOnly pu u s s := ⟨fun _ _ => rfl, rfl, fun _ _ _ => rfl⟩

theorem physUnit (h : DrainOnly pu u s t) (v : Nat) : t.physUnit v = s.physUnit v :=
  physUnit_congr (fun r => h.reg _ (by simp [rRgn_ne_rUnit])) v

theorem trans (h : DrainOnly pu u s t) (g : DrainOnly pu u t v) : DrainOnly pu u s v where
  reg a ha := (g.reg a ha).trans (h.reg a ha)
  view := g.view.trans h.view
  others k hk hs := (g.others k hk (h.physUnit _ ▸ hs)).trans (h.others k hk hs)

/-- A state with the same registers and units. -/
theorem of_eq (hr : t.regs = s.regs) (hu : t.units = s.units) : DrainOnly pu u s t where
  reg a _ := by unfold State.reg; rw [hr]
  view := by unfold State.unit; rw [hu]
  others k _ _ := by unfold State.unit; rw [hu]

theorem ofPort (h : PortOnly [rUnit pu 0x50, rUnit pu 0x58, rUnit pu 0x60] pu s t) : DrainOnly pu u s t where
  reg := h.reg
  view := by rw [h.unit]; rfl
  others k hk _ := h.others k hk

theorem updUnit (s : State) {f : UnitSt → UnitSt} (hf : (f (s.unit pu)).drainView = (s.unit pu).drainView) :
    DrainOnly pu u s (s.updUnit pu f) where
  reg _ _ := rfl
  view := by rw [unit_updUnit, hf]
  others k hk _ := unit_updUnit_ne s f hk

/-- The chain side of the successor changed. -/
theorem updSuccessor (s : State) {q : Nat} (hq : s.physUnit (u + 1) = some q) {f : UnitSt → UnitSt}
    (hf : ∀ v, f v = { v with chain := (f v).chain }) : DrainOnly pu u s (s.updUnit q f) where
  reg _ _ := rfl
  view := by
    by_cases h : pu = q
    · subst h; rw [unit_updUnit, hf]; rfl
    · rw [unit_updUnit_ne s _ h]
  others k _ hs := unit_updUnit_ne s _ fun h => hs (by rw [h, hq])

theorem noteWrote (s : State) (p : Prov) (off : Nat) : DrainOnly pu u s (s.noteWrote pu p off) := by
  unfold State.noteWrote
  split
  · exact refl pu u s
  · exact updUnit s rfl

theorem tileWrite (s : State) (bs : List (Nat × Byte)) (poison : Bool) : DrainOnly pu u s (s.tileWrite pu bs poison) := by
  unfold State.tileWrite
  refine trans (t := if poison then (s.freeBytes bs.length).2 else s) ?_ (updUnit _ (UnitSt.drainView_writeWords _ _ _))
  split
  · exact of_eq rfl rfl
  · exact refl pu u s

/-- An engine replaced by one with its passes. -/
theorem setEng (s : State) (e : Nat) {x : EngSt} (h : x.hist = (s.eng pu e).hist) : DrainOnly pu u s (s.setEng pu e x) := by
  refine updUnit s ?_
  unfold eng at h
  split at h
  · next he => rw [if_pos he]; exact Prod.ext h rfl
  · next he => rw [if_neg he]; exact Prod.ext rfl (Prod.ext h rfl)

/-- A run replaced by one that has drained as much. -/
theorem setRun (s : State) {r : RunSt}
    (h : ((s.unit pu).runs.find? fun q => q.prov.ticket == r.prov.ticket).map (·.drained) = some r.drained) :
    DrainOnly pu u s (s.setRun pu r) := by
  refine updUnit s (Prod.ext rfl (Prod.ext rfl (funext fun k => ?_)))
  show ((List.map _ _).find? _).map _ = ((s.unit pu).runs.find? _).map _
  rw [find?_replaceRun]
  cases hq : (s.unit pu).runs.find? fun q => q.prov.ticket == k with
  | none => rfl
  | some q =>
    have ht : q.prov.ticket = k := by simpa using List.find?_some hq
    by_cases hk : k = r.prov.ticket
    · subst hk
      rw [hq] at h
      simpa [ht] using h.symm
    · simp [ht, hk]

/-- The run that a ticket finds afterwards has drained as much as the one it found before. -/
theorem find_drained (h : DrainOnly pu u s t) (k : Nat) :
    ((t.unit pu).runs.find? fun q => q.prov.ticket == k).map (·.drained) =
      ((s.unit pu).runs.find? fun q => q.prov.ticket == k).map (·.drained) :=
  congrFun (congrArg (fun x => x.2.2) h.view) k

end DrainOnly

variable {pu u : Nat}

/-- Work on unit `pu` that is not refused changes what the rows of a drain change. -/
def DrainQuiet (pu u : Nat) (s : State) (z : State × Option HaltInfo) : Prop := z.2 = none → DrainOnly pu u s z.1

/-- What the RRU keeps of a run: its provenance and the passes it has drained. -/
def RunKept (r q : RunSt) : Prop := q.prov = r.prov ∧ q.drained = r.drained

theorem RunKept.trans {r q p : RunSt} (h : RunKept r q) (g : RunKept q p) : RunKept r p :=
  ⟨g.1.trans h.1, g.2.trans h.2⟩

/-- The same of work that hands on its run. -/
def RruQuiet (pu u : Nat) (s : State) (r : RunSt) (z : State × RunSt × Option HaltInfo) : Prop :=
  z.2.2 = none → DrainOnly pu u s z.1 ∧ RunKept r z.2.1

/-! ### Rows written to the tile store -/

theorem portUse_drain (s : State) (port agent cyc word : Nat) (k : Cmd) (undo : List (Nat × Byte)) (pois : Bool)
    (seg : Option Nat) : DrainQuiet pu u s (s.portUse pu u port agent cyc word k undo pois seg) :=
  fun h => .ofPort (portUse_quiet (by simp) s _ _ _ _ _ _ _ _ h)

/-- A fold of accesses of which none is refused. -/
theorem foldl_drain {α : Type} {f : State × Option HaltInfo → α → State × Option HaltInfo}
    (step : ∀ z a, (f z a).2 = none → z.2 = none ∧ DrainOnly pu u z.1 (f z a).1) (l : List α) (s : State)
    (o : Option HaltInfo) : DrainQuiet pu u s (l.foldl f (s, o)) :=
  fun h => (foldl_quiet (halt := Prod.snd) (R := fun x y : State × Option HaltInfo => DrainOnly pu u x.1 y.1)
    (fun z => .refl pu u z.1) .trans step l _ h).2

theorem writeWords_drain (s : State) (agent : Nat) (k : Cmd) (w : Window) (bs : List (Nat × Byte)) (poison : Bool)
    (seg : Option Nat) : DrainQuiet pu u s (s.writeWords pu u agent k w bs poison seg) := by
  refine foldl_drain (fun z g hz => ?_) _ _ _
  simp only at hz ⊢
  split at hz
  · simp at hz
  · next hp =>
    exact ⟨hz, (((portUse_drain _ _ _ _ _ _ _ _ _ hp).trans (.ofPort (.notePlace _ _ _ _ _ _))).trans
      (.noteWrote _ _ _)).trans (.tileWrite _ _ _)⟩

theorem rowWrite_drain (s : State) (r : RunSt) (agent : Nat → Nat) (bs : List OutByte) (cyc : Nat) :
    DrainQuiet pu u s (s.rowWrite pu u r agent bs cyc) := by
  refine foldl_drain (fun z w hz => ?_) _ _ _
  simp only at hz ⊢
  split at hz
  · simp at hz
  next hc =>
  rw [if_neg hc]
  split at hz
  · simp at hz
  · next hp =>
    exact ⟨hz, ((portUse_drain _ _ _ _ _ _ _ _ _ hp).trans (.noteWrote _ _ _)).trans (.tileWrite _ _ _)⟩

/-! ### Rows through the RRU -/

theorem rruRow_drain (s : State) (r : RunSt) (m cyc : Nat) (xs : List (Nat × W32)) (poison : Bool) :
    RruQuiet pu u s r (s.rruRow pu u r m cyc xs poison) := by
  unfold rruRow
  extract_lets d op act fy my tEn ns grad win rd
  split
  · nofun
  next s1 _ _ _ _ _ _ _ _ w2 w1 _ w3 _ _ _ _ hrd =>
  intro hh
  obtain ⟨h12, h3⟩ := firstHalt_eq_none.1 hh
  obtain ⟨h1, h2⟩ := firstHalt_eq_none.1 h12
  have hread : DrainOnly pu u s s1 := .ofPort (readWords_quiet (by simp) s _ _ _ _ hrd)
  have hw3 : DrainQuiet pu u w1.1 w3 := by
    show DrainQuiet pu u w1.1 (if op = 0x0A then _ else _)
    split
    · exact writeWords_drain _ _ _ _ _ _ _
    · exact fun _ => .refl pu u _
  have hwrite := ((writeWords_drain _ _ _ _ _ _ _ h2).trans (writeWords_drain _ _ _ _ _ _ _ h1)).trans (hw3 h3)
  exact ⟨((hread.trans hwrite).trans (.ofPort (.bumpSpec _ _ _ _ _ (by simp)))).trans
    (.ofPort (.bumpSpec _ _ _ _ _ (by simp))), rfl, rfl⟩

theorem rruFeed_drain (s : State) (r : RunSt) (m cyc : Nat) (at_ : SMap (Option Nat)) (xs : List (Nat × W32 × Bool)) :
    RruQuiet pu u s r (s.rruFeed pu u r m cyc at_ xs) := by
  unfold rruFeed
  extract_lets go
  have step : ∀ z c ys, (go z c ys).2.2 = none →
      z.2.2 = none ∧ DrainOnly pu u z.1 (go z c ys).1 ∧ RunKept z.2.1 (go z c ys).2.1 := by
    intro z c ys hz
    obtain ⟨h0, h1⟩ := firstHalt_eq_none.1 hz
    exact ⟨h0, rruRow_drain _ _ _ _ _ _ h1⟩
  split
  · intro h
    exact (foldl_quiet (halt := fun z : State × RunSt × Option HaltInfo => z.2.2)
      (R := fun x y : State × RunSt × Option HaltInfo => DrainOnly pu u x.1 y.1 ∧ RunKept x.2.1 y.2.1)
      (fun z => ⟨.refl _ _ _, rfl, rfl⟩) (fun h g => ⟨h.1.trans g.1, h.2.trans g.2⟩) (fun z b => step z _ _) _ _ h).2
  · exact fun h => (step _ _ _ h).2

theorem rruDrain_drain (s : State) (r : RunSt) (m g cyc : Nat) (cs : List ColVal) :
    RruQuiet pu u s r (s.rruDrain pu u r m g cyc cs) := by
  unfold rruDrain
  extract_lets N r1 last lim isDue cols tile rd xs r2
  split
  · nofun
  next hrd =>
  have hread : DrainOnly pu u s rd.1 := by
    revert hrd
    show (if tile = true then _ else _ : State × Nat × Option HaltInfo).2.2 = none →
      DrainOnly pu u s (if tile = true then _ else _ : State × Nat × Option HaltInfo).1
    split
    · exact fun h => .ofPort (readWords_quiet (by simp) s _ _ _ _ h)
    · exact fun _ => .refl pu u s
  split
  · exact fun _ => ⟨hread, rfl, rfl⟩
  · intro h
    obtain ⟨hfeed, hkept⟩ := rruFeed_drain _ _ _ _ _ _ h
    exact ⟨hread.trans hfeed, hkept⟩

/-! ### A drained row at its target -/

/-- The run of a ticket replaced by what the row has made of it. -/
theorem DrainOnly.then_setRun {s t : State} (h : DrainOnly pu u s t) {ticket : Nat} {r q : RunSt}
    (hr : (s.unit pu).runs.find? (fun r => r.prov.ticket == ticket) = some r) (hq : RunKept r q) :
    DrainOnly pu u s (t.setRun pu q) := by
  refine h.trans (.setRun t ?_)
  have ht : r.prov.ticket = ticket := by simpa using List.find?_some hr
  rw [h.find_drained, hq.1, ht, hr, hq.2]
  rfl

theorem deliver_drain (s : State) (ticket target m g : Nat) (cols : List (Nat × Nat)) (vs : List W32) (ps : List Bool)
    (agent : Nat → Nat) (cyc : Nat) : DrainQuiet pu u s (s.deliver pu u ticket target m g cols vs ps agent cyc) := by
  unfold deliver
  split
  · exact fun _ => .refl pu u s
  next r hr =>
  split
  · exact fun _ => .refl pu u s
  extract_lets cs arr y z o e x s1 x2 s2 s3
  split
  · split
    · nofun
    next hy =>
    have hport : DrainOnly pu u s y.1 := portUse_drain _ _ _ _ _ _ _ _ _ hy
    split
    · exact fun _ => hport
    · intro h
      obtain ⟨hz, hkept⟩ := rruDrain_drain _ _ _ _ _ _ h
      exact (hport.trans hz).then_setRun hr hkept
  split
  · exact rowWrite_drain _ _ _ _ _
  have h1 : DrainOnly pu u s s1 := .setEng s r.slot rfl
  have h2 : DrainOnly pu u s s2 := (DrainOnly.refl pu u s).then_setRun hr ⟨rfl, rfl⟩
  have h3 : DrainOnly pu u s s3 := h2.trans (.ofPort (.bumpSpec _ _ _ _ _ (by simp)))
  split
  · exact fun h => h1.trans (rowWrite_drain s1 _ _ _ _ h)
  · exact fun h => h3.trans (rowWrite_drain s3 _ _ _ _ h)

/-! ### Rows through the chain (R130 to R137) -/

theorem chainOut_drain (s : State) (r : RunSt) (x : ChainRow) (cyc : Nat) :
    DrainQuiet pu u s (s.chainOut pu u r x cyc) := by
  unfold chainOut
  extract_lets n s1 s2 s3 mine s4 rg tgt z
  have h1 : DrainOnly pu u s s1 := .ofPort (.setSpec _ _ _ _ _ (by simp))
  have h2 : DrainOnly pu u s s2 := h1.trans (.ofPort (.bumpSpec _ _ _ _ _ (by simp)))
  have h3 : DrainOnly pu u s s3 := h1.trans (.updUnit _ rfl)
  split
  · split
    · exact fun _ => h2
    · next q hq =>
      intro _
      refine h2.trans ?_
      dsimp only
      exact .updSuccessor s2 hq fun _ => rfl
  split
  · exact fun _ => h3
  have hz : DrainQuiet pu u s4 z := by
    refine foldl_drain (fun z y hz => ?_) _ _ _
    obtain ⟨h0, hd⟩ := firstHalt_eq_none.1 hz
    exact ⟨h0, deliver_drain _ _ _ _ _ _ _ _ _ _ hd⟩
  have h4 : z.2 = none → DrainOnly pu u s z.1 := fun h => (h3.trans (.updUnit _ rfl)).trans (hz h)
  split
  · exact h4
  · next q hq =>
    intro h
    exact (h4 h).trans ((DrainOnly.refl pu u _).then_setRun hq ⟨rfl, rfl⟩)

theorem chainMatch_drain (e fuel : Nat) (s : State) : DrainQuiet pu u s (s.chainMatch pu u e fuel) := by
  induction fuel generalizing s with
  | zero => exact fun _ => .refl pu u s
  | succ fuel ih =>
    unfold chainMatch
    extract_lets c
    split
    next b o _ _ =>
      split
      · exact fun _ => .refl pu u s
      extract_lets bad rewr lost s1 y rg m sl sum pois s2 s3 z w
      split
      · nofun
      have hy : DrainQuiet pu u s1 y := by
        refine foldl_drain (fun z i hz => ?_) _ _ _
        split at hz
        · next hi => rw [if_pos hi]; exact ⟨hz, .refl pu u z.1⟩
        · next hi =>
          rw [if_neg hi]
          obtain ⟨h0, hp⟩ := firstHalt_eq_none.1 hz
          exact ⟨h0, portUse_drain _ _ _ _ _ _ _ _ _ hp⟩
      split
      · exact fun h => absurd (firstHalt_eq_none.1 h).1 (by simp)
      next hy0 =>
      have hsum : DrainOnly pu u y.1 sum.1 := by
        refine (foldl_quiet (halt := fun _ => none)
          (R := fun x y : State × List (List W32) × Nat × Nat => DrainOnly pu u x.1 y.1) (fun z => .refl pu u z.1) .trans
          (fun z a _ => ?_) (o.vals.zip (b.vals.zip sl)) (y.1, [], 0, 0) rfl).2
        exact ⟨rfl, .of_eq rfl rfl⟩
      have h3 : DrainOnly pu u s s3 := ((((DrainOnly.updUnit s rfl).trans (hy hy0)).trans hsum).trans
        (.ofPort (.bumpSpec _ _ _ _ _ (by simp)))).trans (.ofPort (.bumpSpec _ _ _ _ _ (by simp)))
      intro h
      obtain ⟨hz, hw⟩ := firstHalt_eq_none.1 h
      exact (h3.trans (chainOut_drain _ _ _ _ hz)).trans (ih _ hw)
    · exact fun _ => .refl pu u s

theorem chainOwn_drain (s : State) (r : RunSt) (x : ChainRow) : DrainQuiet pu u s (s.chainOwn pu u r x) := by
  unfold chainOwn
  extract_lets arr y
  split
  · nofun
  next hy =>
  have hport : DrainOnly pu u s y.1 := portUse_drain _ _ _ _ _ _ _ _ _ hy
  split
  · exact fun h => hport.trans (chainOut_drain _ _ _ _ h)
  · exact fun h => (hport.trans (.updUnit _ rfl)).trans (chainMatch_drain _ _ _ h)

end State
end Sys2Proof.Machine

namespace Sys2Proof.Machine.State
variable {pu u : Nat}

@[simp] theorem eng_bump (s : State) (a hi lo n pu e : Nat) : (s.bump a hi lo n).eng pu e = s.eng pu e := by
  simp only [eng, bump_acc_unit]

theorem setEng_acc_reg (s : State) (pu e : Nat) (x : EngSt) (a : Nat) : (s.setEng pu e x).reg a = s.reg a := rfl

theorem setEng_acc_physUnit (s : State) (pu e : Nat) (x : EngSt) (v : Nat) :
    (s.setEng pu e x).physUnit v = s.physUnit v := rfl

/-! ### DRAIN_START -/

/-- The passes of an engine once the drain of `p` has started in cycle `dc.1`, held by `dc.2` cycles (R40, R247). -/
def drainedHist (x : EngSt) (p : PassRec) (dc : Nat × Nat) : List PassRec :=
  (if dc.2 = 0 then x.hist else x.hist.map (shiftPass dc.1 dc.2)).map fun q =>
    if q.s == p.s && q.index == p.index && q.ticket == p.ticket then { q with d := some (dc.1 + dc.2), fin := p.fin } else q

/-- A pass that has been filled is not shifted by the freeze that holds its drain. -/
theorem shiftPass_filled {p : PassRec} {a : Nat} (k : Nat) (hs : p.s ≤ p.fin) (ha : p.fin < a) : shiftPass a k p = p := by
  unfold shiftPass
  rw [if_neg (show ¬ a ≤ p.s by omega), if_neg (show ¬ a < p.fin by omega), ite_self]

theorem mem_drainedHist {x : EngSt} {p : PassRec} {dc : Nat × Nat} (hp : p ∈ x.hist) (hs : p.s ≤ p.fin)
    (hfin : p.fin < dc.1) : { p with d := some (dc.1 + dc.2) } ∈ drainedHist x p dc := by
  refine List.mem_map.2 ⟨p, ?_, by simp⟩
  split
  · exact hp
  · exact List.mem_map.2 ⟨p, hp, shiftPass_filled _ hs hfin⟩

/-- A drain of which no row is refused: what its rows change, then the drain counter and the run's count. -/
theorem drainPass_of_quiet (s : State) (e : Nat) {p : PassRec} {r : RunSt} (dc : Nat × Nat)
    (hr : ((s.unit pu).runs.find? fun r => r.prov.ticket == p.ticket) = some r) (hspec : r.prov.spec = false)
    (h : (s.drainPass pu u e p r dc []).2 = none) :
    ∃ x z q n ref, x.hist = drainedHist (s.eng pu e) p dc ∧ DrainOnly pu u (s.setEng pu e x) z ∧
      ((z.unit pu).runs.find? fun r => r.prov.ticket == p.ticket) = some q ∧ q.drained = r.drained ∧
      (s.drainPass pu u e p r dc []).1 = (z.bump (rUnit pu (0x40 + 8 * e)) 63 40 1).setRun pu
        { q with drained := q.drained + 1, endCyc := n, refused := ref } := by
  revert h
  unfold drainPass
  extract_lets x D rest hist s1 base phys hit bad sec s2 tgt z s3 s4
  intro h
  have hz : DrainQuiet pu u s1 z := by
    refine foldl_drain (fun z i hz => ?_) _ _ _
    obtain ⟨h0, hd⟩ := firstHalt_eq_none.1 hz
    refine ⟨h0, ?_⟩
    dsimp only at hd ⊢
    split at hd
    · next ht => rw [if_pos ht]; exact chainOwn_drain _ _ _ hd
    · next ht => rw [if_neg ht]; exact deliver_drain _ _ _ _ _ _ _ _ _ _ hd
  have hd := hz h
  have hs1 : ((s1.unit pu).runs.find? fun r => r.prov.ticket == p.ticket) = some r := by
    rw [← hr]
    show (((s.setEng pu e _).unit pu).runs.find? _) = _
    rw [unit_setEng]
  have hdrained := hd.find_drained p.ticket
  rw [hs1] at hdrained
  obtain ⟨q, hq, hqd⟩ := Option.map_eq_some_iff.1 hdrained
  have hs3 : s3 = z.1.bump (rUnit pu (0x40 + 8 * e)) 63 40 1 := by
    show z.1.bumpSpec _ _ _ _ _ _ = _
    simp [bumpSpec, hspec]
  refine ⟨_, z.1, q, max q.endCyc (D + 66), q.refused || z.2.isSome, rfl, hd, hq, hqd, ?_⟩
  show s4 = _
  show (match (s3.unit pu).runs.find? _ with | none => _ | some q => _) = _
  rw [hs3, bump_acc_unit, hq]

theorem hist_of_drainView {s t : State} (h : (t.unit pu).drainView = (s.unit pu).drainView) (e : Nat) :
    (t.eng pu e).hist = (s.eng pu e).hist := by
  unfold eng
  split
  · exact congrArg Prod.fst h
  · exact congrArg (fun x => x.2.1) h

open Claims in
/-- DRAIN_START without a parity error and with no refused row. -/
theorem drainStart_drains (s : State) (u : UnitIx) (pu : Nat) (e : Eng) (p : PassRec) (r : RunSt)
    (hpu : s.physUnit u.val = some pu)
    (hlast : ((s.eng pu (engIx e)).hist.filter fun p => p.d.isNone).getLast? = some p) (hfin : p.s ≤ p.fin)
    (hr : ((s.unit pu).runs.find? fun r => r.prov.ticket == p.ticket) = some r) (hhalt : s.unitHalted pu = false)
    (hdead : r.dead = false) (hspec : r.prov.spec = false) (hhold : (s.serialHold pu u.val r p).1 = true)
    (h : (s.drainPass pu u.val (engIx e) p r (drainOf s pu u e p r) []).2 = none) :
    ∃ t, exec (.drainStart u e []) s = .next t ∧
      t.regF (rUnit pu (0x40 + 8 * engIx e)) 63 40 = (s.regF (rUnit pu (0x40 + 8 * engIx e)) 63 40 + 1) % 2 ^ 24 ∧
      (∃ q ∈ (t.eng pu (engIx e)).hist, q.ticket = p.ticket ∧ q.index = p.index ∧
        q.d = some ((drainOf s pu u e p r).1 + (drainOf s pu u e p r).2)) ∧
      (drainOf s pu u e p r).1 = max (p.fin + 3) (drainFree (s.eng pu (engIx e))) ∧
      (s.serialise = false → (drainOf s pu u e p r).2 = 0) ∧
      (∃ q ∈ (t.unit pu).runs, q.prov.ticket = p.ticket ∧ q.drained = r.drained + 1) ∧
      (∀ k, k ≠ pu → some k ≠ s.physUnit (u.val + 1) → t.unit k = s.unit k) := by
  obtain ⟨x, z, q, n, ref, hx, hz, hq, hqd, ht⟩ := drainPass_of_quiet s (engIx e) _ hr hspec h
  have hnext : s.nextDrain pu u.val (engIx e) = some (p, r, drainOf s pu u e p r) := by
    simp [nextDrain, hlast, hr, hhalt, hdead, hhold]
  have hexec : exec (.drainStart u e []) s = .next (s.drainPass pu u.val (engIx e) p r (drainOf s pu u e p r) []).1 := by
    show Host.Outcome.next (s.fxDrainStart u.val (engIx e) []) = _
    simp only [fxDrainStart, hpu, hnext, orHalt, h]
  have hstart : (drainOf s pu u e p r).1 = max (p.fin + 3) (drainFree (s.eng pu (engIx e))) := rfl
  have hqt : q.prov.ticket = p.ticket := by simpa using List.find?_some hq
  rw [ht] at hexec
  refine ⟨_, hexec, ?_, ⟨{ p with d := some _ }, ?_, rfl, rfl, rfl⟩, hstart, ?_,
    ⟨{ q with drained := q.drained + 1, endCyc := n, refused := ref }, ?_, hqt, congrArg (· + 1) hqd⟩, ?_⟩
  · have he : engIx e ≤ 1 := by cases e <;> decide
    have hne : ∀ b, 0x50 ≤ b → rUnit pu (0x40 + 8 * engIx e) ≠ rUnit pu b := fun b hb => rUnit_ne pu (by omega)
    have hreg : z.reg (rUnit pu (0x40 + 8 * engIx e)) = s.reg (rUnit pu (0x40 + 8 * engIx e)) :=
      (hz.reg _ (by simp [hne])).trans (setEng_acc_reg s pu _ x _)
    rw [setRun, updUnit_acc_regF, regF_bump _ _ _ _ _ (by omega) (by omega), regF, hreg, regF]
  · rw [eng_setRun, eng_bump, hist_of_drainView hz.view, eng_setEng, hx]
    exact mem_drainedHist (List.mem_of_mem_filter (List.mem_of_getLast? hlast)) hfin (by rw [hstart]; omega)
  · intro hser
    simp [drainCyc, serialHold, hser]
  · rw [runs_setRun, bump_acc_unit]
    exact List.mem_map.2 ⟨q, List.mem_of_find?_eq_some hq, by simp⟩
  · intro k hk hs
    rw [setRun, unit_updUnit_ne _ _ hk, bump_acc_unit, hz.others k hk (by rwa [setEng_acc_physUnit]), setEng,
      unit_updUnit_ne _ _ hk]

end Sys2Proof.Machine.State

namespace Sys2Proof.Machine

/-! ### The scoreboard -/

/-- A unit that differs in its scoreboard and stale regions only, and whose scoreboard holds no new ticket. -/
def UnitSt.SbKept (v w : UnitSt) : Prop :=
  w = { v with sb := w.sb, stale := w.stale } ∧ ∀ x ∈ w.sb, ∃ y ∈ v.sb, y.ticket = x.ticket

namespace UnitSt.SbKept

theorem refl (v : UnitSt) : SbKept v v := ⟨rfl, fun x hx => ⟨x, hx, rfl⟩⟩

theorem trans {v w x : UnitSt} (h : SbKept v w) (g : SbKept w x) : SbKept v x := by
  refine ⟨g.1.trans (congrArg (fun z : UnitSt => { z with sb := x.sb, stale := x.stale }) h.1), fun z hz => ?_⟩
  obtain ⟨y, hy, hyz⟩ := g.2 z hz
  obtain ⟨y', hy', hyy⟩ := h.2 y hy
  exact ⟨y', hy', hyy.trans hyz⟩

theorem foldl {α : Type} {f : UnitSt → α → UnitSt} (hf : ∀ v a, SbKept v (f v a)) (l : List α) (v : UnitSt) :
    SbKept v (l.foldl f v) := by
  induction l generalizing v with
  | nil => exact refl v
  | cons a l ih => exact (hf v a).trans (ih _)

/-- A declaration changes no ticket. -/
theorem declare (v : UnitSt) (t : Nat) (rw : Nat × Nat) : SbKept v (v.declare t rw) := by
  refine ⟨rfl, fun x hx => ?_⟩
  obtain ⟨y, hy, rfl⟩ := List.mem_map.1 hx
  exact ⟨y, hy, by split <;> rfl⟩

end UnitSt.SbKept

namespace State

/-- A change of unit `pu` alone that keeps `UnitSt.SbKept`. -/
structure SbOnly (pu : Nat) (s t : State) : Prop where
  unit   : (s.unit pu).SbKept (t.unit pu)
  others : ∀ k, k ≠ pu → t.unit k = s.unit k
  rest   : t = { s with units := t.units }

namespace SbOnly

variable {pu : Nat} {s t v : State}

theorem refl (pu : Nat) (s : State) : SbOnly pu s s := ⟨.refl _, fun _ _ => rfl, rfl⟩

theorem trans (h : SbOnly pu s t) (g : SbOnly pu t v) : SbOnly pu s v where
  unit := h.unit.trans g.unit
  others k hk := (g.others k hk).trans (h.others k hk)
  rest := g.rest.trans (congrArg (fun x : State => { x with units := v.units }) h.rest)

theorem updUnit (s : State) {f : UnitSt → UnitSt} (hf : (s.unit pu).SbKept (f (s.unit pu))) :
    SbOnly pu s (s.updUnit pu f) where
  unit := by rwa [unit_updUnit]
  others k hk := unit_updUnit_ne s f hk
  rest := rfl

theorem foldl {α : Type} {f : State → α → State} (hf : ∀ s a, SbOnly pu s (f s a)) (l : List α) (s : State) :
    SbOnly pu s (l.foldl f s) := by
  induction l generalizing s with
  | nil => exact refl pu s
  | cons a l ih => exact (hf s a).trans (ih _)

end SbOnly

theorem declareAll_sb (s : State) (pu : Nat) : SbOnly pu s (s.declareAll pu) := by
  unfold declareAll
  refine (SbOnly.updUnit s (.foldl (fun v e => ?_) _ _)).trans
    (.foldl (fun s sl => .foldl (fun s e => .updUnit s (.declare _ _ _)) _ _) _ _)
  split
  · exact .declare _ _ _
  · exact .refl v

/-- A confirmed command that completes leaves the scoreboard. -/
theorem complete_confirmed (s : State) (pu : Nat) {p : Prov} (h : p.spec = false) :
    SbOnly pu s (s.complete pu p) ∧ ∀ x ∈ ((s.complete pu p).unit pu).sb, x.ticket ≠ p.ticket := by
  unfold complete
  extract_lets t
  have ht : t.unit pu = _ := unit_updUnit s pu _
  simp only [h, Bool.false_eq_true, if_false] at ht
  have hkept : (s.unit pu).SbKept (t.unit pu) := by
    rw [ht]
    exact ⟨rfl, fun x hx => ⟨x, List.mem_of_mem_filter hx, rfl⟩⟩
  have hall := declareAll_sb t pu
  refine ⟨SbOnly.trans ⟨hkept, fun k hk => unit_updUnit_ne s _ hk, rfl⟩ hall, fun x hx => ?_⟩
  obtain ⟨y, hy, hyx⟩ := hall.unit.2 x hx
  rw [ht] at hy
  simpa [hyx] using (List.mem_filter.1 hy).2

/-- Signals flushed change the tokens in flight and the cluster's signals. -/
theorem flushSigs_rest (s : State) (pc : Nat) :
    (∀ k, k ≠ pc → (s.flushSigs pc).clu k = s.clu k) ∧
      s.flushSigs pc = { s with clus := (s.flushSigs pc).clus, tokens := (s.flushSigs pc).tokens } := by
  have send : ∀ (l : List SigSt) (t : State), l.foldl (fun s g => s.sendTok pc g.dest g.ctr g.add g.seq) t =
      { t with tokens := (l.foldl (fun s g => s.sendTok pc g.dest g.ctr g.add g.seq) t).tokens } := by
    intro l
    induction l with
    | nil => exact fun t => rfl
    | cons g l ih =>
      intro t
      rw [List.foldl_cons, ih]
      have : t.sendTok pc g.dest g.ctr g.add g.seq = { t with tokens := (t.sendTok pc g.dest g.ctr g.add g.seq).tokens } := by
        unfold sendTok
        extract_lets
        split <;> rfl
      rw [this]
  unfold flushSigs
  extract_lets c find isDue rest t
  rw [send]
  exact ⟨fun k hk => clu_setClu_ne s _ hk, rfl⟩

/-! ### DESCRIPTOR_COMPLETE -/

/-- The LAST field of a slot: register, high bit, low bit (R242). -/
def lastField : Slot → Nat × Nat × Nat
  | .fwd => (0x108, 31, 0)
  | .bwd => (0x108, 63, 32)
  | .rru => (0x110, 63, 32)

/-- The serial recorded, the updates sent and the run taken away, before the scoreboard hears of it. -/
def landRun (s : State) (pu u : Nat) (sl : Slot) (r : RunSt) : State :=
  let t := s.setRegF (rUnit pu (lastField sl).1) (lastField sl).2.1 (lastField sl).2.2 (dSerial r.desc)
  { t with scaleQ := t.scaleQ ++ scaleUpds r u (pu / 4) }.updUnit pu fun v =>
    { v with runs := v.runs.filter fun q => q.prov.ticket != r.prov.ticket }

/-- CHAIN stays as long as the unit runs a chain descriptor (R147). -/
def dropChain (s : State) (pu : Nat) : State := if s.chainRuns pu then s else s.clrBit (rUnit pu 0x58) 0

theorem fxDescriptorComplete_eq {s : State} {u pu : Nat} {sl : Slot} {r : RunSt} (hpu : s.physUnit u = some pu)
    (hr : ((s.unit pu).runs.find? fun r => r.slot == slotIx sl) = some r) (hland : runLanded r u = true)
    (hspec : r.prov.spec = false) :
    s.fxDescriptorComplete u (slotIx sl) =
      (((s.landRun pu u sl r).dropChain pu).complete pu r.prov).flushSigs (pu / 4) := by
  unfold fxDescriptorComplete
  simp only [hpu, hr, hland, hspec, setSpec, Bool.not_true, Bool.false_eq_true, if_false]
  cases sl <;> rfl

theorem dropChain_rest (s : State) (pu : Nat) :
    (∀ a, a ≠ rUnit pu 0x58 → (s.dropChain pu).reg a = s.reg a) ∧
      s.dropChain pu = { s with regs := (s.dropChain pu).regs } := by
  unfold dropChain
  split
  · exact ⟨fun _ _ => rfl, rfl⟩
  · exact ⟨fun _ ha => reg_clrBit_ne s 0 ha, rfl⟩

/-- What `landRun` leaves. -/
theorem landRun_leaves (s : State) (pu u : Nat) (sl : Slot) (r : RunSt) :
    (∀ a, (s.landRun pu u sl r).reg a =
      (s.setRegF (rUnit pu (lastField sl).1) (lastField sl).2.1 (lastField sl).2.2 (dSerial r.desc)).reg a) ∧
      ((s.landRun pu u sl r).unit pu).runs = (s.unit pu).runs.filter (fun q => q.prov.ticket != r.prov.ticket) ∧
      (∀ k, k ≠ pu → (s.landRun pu u sl r).unit k = s.unit k) ∧
      s.landRun pu u sl r = { s with
        regs := (s.landRun pu u sl r).regs, units := (s.landRun pu u sl r).units
        scaleQ := s.scaleQ ++ scaleUpds r u (pu / 4) } := by
  unfold landRun
  extract_lets t
  refine ⟨fun _ => rfl, ?_, fun k hk => unit_updUnit_ne _ _ hk, rfl⟩
  rw [unit_updUnit]
  rfl

open Claims in
/-- DESCRIPTOR_COMPLETE of a confirmed descriptor that has landed what it writes. -/
theorem descriptorComplete_lands (s : State) (u : UnitIx) (pu : Nat) (sl : Slot) (r : RunSt)
    (hpu : s.physUnit u.val = some pu) (hr : ((s.unit pu).runs.find? fun r => r.slot == slotIx sl) = some r)
    (hland : State.runLanded r u.val = true) (hspec : r.prov.spec = false) :
    ∃ t, exec (.descriptorComplete u sl) s = .next t ∧
      (if sl = .fwd then t.regF (rUnit pu 0x108) 31 0 else if sl = .bwd then t.regF (rUnit pu 0x108) 63 32
        else t.regF (rUnit pu 0x110) 63 32) = dSerial r.desc ∧
      t.scaleQ = s.scaleQ ++ State.scaleUpds r u.val (pu / 4) ∧
      (t.unit pu).runs = (s.unit pu).runs.filter (fun q => q.prov.ticket != r.prov.ticket) ∧
      (∀ x ∈ (t.unit pu).sb, x.ticket ≠ r.prov.ticket) ∧
      (∀ a, a ≠ rUnit pu 0x58 → a ≠ rUnit pu 0x108 → a ≠ rUnit pu 0x110 → t.reg a = s.reg a) ∧
      (∀ k, k ≠ pu → t.unit k = s.unit k) ∧ (∀ k, k ≠ pu / 4 → t.clu k = s.clu k) ∧
      t = { s with regs := t.regs, units := t.units, clus := t.clus, scaleQ := t.scaleQ, tokens := t.tokens } := by
  obtain ⟨hreg1, hruns1, hothers1, hrest1⟩ := landRun_leaves s pu u.val sl r
  generalize h1 : s.landRun pu u.val sl r = s1 at hreg1 hruns1 hothers1 hrest1
  obtain ⟨hreg2, hrest2⟩ := dropChain_rest s1 pu
  generalize h2 : s1.dropChain pu = s2 at hreg2 hrest2
  obtain ⟨hsb3, hgone⟩ := complete_confirmed s2 pu hspec
  generalize h3 : s2.complete pu r.prov = s3 at hsb3 hgone
  obtain ⟨hclu4, hrest4⟩ := flushSigs_rest s3 (pu / 4)
  generalize h4 : s3.flushSigs (pu / 4) = t at hclu4 hrest4
  have hexec : exec (.descriptorComplete u sl) s = .next t := by
    show Host.Outcome.next (s.fxDescriptorComplete u.val (slotIx sl)) = _
    rw [fxDescriptorComplete_eq hpu hr hland hspec, h1, h2, h3, h4]
  have hreg : ∀ a, a ≠ rUnit pu 0x58 → t.reg a = s1.reg a := fun a ha => by
    rw [hrest4]
    show s3.reg a = _
    rw [hsb3.rest]
    exact hreg2 a ha
  have hunit : ∀ k, t.unit k = s3.unit k := fun k => by rw [hrest4]; rfl
  have hunit2 : ∀ k, s2.unit k = s1.unit k := fun k => by rw [hrest2]; rfl
  have hlast : t.regF (rUnit pu (lastField sl).1) (lastField sl).2.1 (lastField sl).2.2 = dSerial r.desc := by
    have hne : rUnit pu (lastField sl).1 ≠ rUnit pu 0x58 := rUnit_ne pu (by cases sl <;> decide)
    have hval : s1.regF (rUnit pu (lastField sl).1) (lastField sl).2.1 (lastField sl).2.2 = dSerial r.desc := by
      unfold regF
      rw [hreg1]
      exact (regF_setRegF s _ _ _ _ (by cases sl <;> decide) (by cases sl <;> decide)).trans
        (Nat.mod_eq_of_lt (by cases sl <;> exact fld_lt _ 31 0))
    unfold regF at hval ⊢
    rw [hreg _ hne, hval]
  refine ⟨t, hexec, ?_, ?_, ?_, ?_, ?_, ?_, ?_, ?_⟩
  · cases sl <;> exact hlast
  · rw [hrest4, hsb3.rest, hrest2, hrest1]
  · rw [hunit, hsb3.unit.1]
    show (s2.unit pu).runs = _
    rw [hunit2, hruns1]
  · rwa [hunit]
  · intro a h58 h108 h110
    rw [hreg a h58, hreg1]
    refine reg_setRegF_ne s _ _ _ ?_
    cases sl
    · exact h108
    · exact h108
    · exact h110
  · intro k hk
    rw [hunit, hsb3.others k hk, hunit2, hothers1 k hk]
  · intro k hk
    rw [hclu4 k hk, hsb3.rest]
    show s2.clu k = _
    rw [hrest2]
    show s1.clu k = _
    rw [hrest1]
    rfl
  · rw [hrest4, hsb3.rest, hrest2, hrest1]

end State
end Sys2Proof.Machine

namespace Sys2Proof.Machine

/-! ### The watchdog -/

/-- The earliest of a list is what the search began with or one of the list. -/
theorem earliest_mem (l : List HaltInfo) {a : Option HaltInfo} {h : HaltInfo}
    (hl : l.foldl (fun (a : Option HaltInfo) h => match a with
      | some b => if h.prov.ticket < b.prov.ticket then some h else some b
      | none => some h) a = some h) : a = some h ∨ h ∈ l := by
  induction l generalizing a with
  | nil => exact .inl hl
  | cons b l ih =>
    rcases ih hl with hb | hmem
    · cases a with
      | none => exact .inr (List.mem_cons.2 (.inl (Option.some.inj hb).symm))
      | some c =>
        simp only at hb
        split at hb
        · exact .inr (List.mem_cons.2 (.inl (Option.some.inj hb).symm))
        · exact .inl hb
    · exact .inr (List.mem_cons_of_mem _ hmem)

namespace State

/-- Every command that `watchdogName` can name carries the reason WATCHDOG. -/
theorem watchdogName_reason {v : UnitSt} {h : HaltInfo} (hv : watchdogName v = some h) : h.reason = 0x0D := by
  unfold watchdogName at hv
  extract_lets heads works first at hv
  have hheads : ∀ x ∈ heads, x.reason = 0x0D := by
    intro x hx
    simp only [heads, List.mem_append, List.mem_filterMap, Option.map_eq_some_iff, Option.mem_toList] at hx
    rcases hx with ⟨_, _, _, _, rfl⟩ | ⟨_, _, rfl⟩ <;> rfl
  have hworks : ∀ x ∈ works, x.reason = 0x0D := by
    intro x hx
    simp only [works, List.mem_append, List.mem_map, List.mem_filterMap] at hx
    rcases hx with ⟨_, _, rfl⟩ | ⟨y, _, hy⟩
    · rfl
    · split at hy
      · split at hy
        · cases hy
        · cases hy
          rfl
      · cases hy
  split at hv
  · next g hg =>
    cases hv
    exact hheads _ ((earliest_mem heads hg).resolve_left (by simp))
  · exact hworks _ ((earliest_mem works hv).resolve_left (by simp))

/-- What UNIT_HALT0 records of a halt (R242). -/
def haltWord (h : HaltInfo) : W64 :=
  BitVec.ofNat 64 (h.reason * 2 ^ 56 + h.source * 2 ^ 53 + h.task * 2 ^ 50 + h.prov.bank * 2 ^ 49 + 0 * 2 ^ 48 +
    h.prov.pc * 2 ^ 32 + h.serial)

open Claims in
/-- Values that fit their fields are read back. -/
theorem haltWord_fields {h : HaltInfo} (hr : h.reason < 256) (hp : provFits h.prov) (ht : h.task < 8)
    (hs : h.serial < 2 ^ 32) (hsrc : h.source < 8) :
    fld (haltWord h) 63 56 = h.reason ∧ fld (haltWord h) 55 53 = h.source ∧ fld (haltWord h) 46 32 = h.prov.pc := by
  obtain ⟨_, hbank, hpc⟩ := hp
  simp only [fld, bitsOf, haltWord, BitVec.toNat_ofNat]
  omega

/-- A change of unit registers and units that keeps the queues and the tile of unit `pu`. -/
structure UnitWrites (pu : Nat) (s t : State) : Prop where
  reg    : ∀ a, ¬Claims.unitReg (pu / 4) a → t.reg a = s.reg a
  queues : (t.unit pu).queues = (s.unit pu).queues
  squeue : (t.unit pu).squeue = (s.unit pu).squeue
  tile   : (t.unit pu).tile = (s.unit pu).tile
  rest   : t = { s with regs := t.regs, units := t.units }

namespace UnitWrites

variable {pu : Nat} {s t v : State}

theorem refl (pu : Nat) (s : State) : UnitWrites pu s s := ⟨fun _ _ => rfl, rfl, rfl, rfl, rfl⟩

theorem trans (h : UnitWrites pu s t) (g : UnitWrites pu t v) : UnitWrites pu s v where
  reg a ha := (g.reg a ha).trans (h.reg a ha)
  queues := g.queues.trans h.queues
  squeue := g.squeue.trans h.squeue
  tile := g.tile.trans h.tile
  rest := g.rest.trans (congrArg (fun x : State => { x with regs := v.regs, units := v.units }) h.rest)

theorem errFlight (h : UnitWrites pu s t) : t.errFlight = s.errFlight := by rw [h.rest]

theorem setReg (pu : Nat) (s : State) (w : W64) {off : Nat} (h : off < 0x10000) :
    UnitWrites pu s (s.setReg (rUnit pu off) w) where
  reg _ ha := reg_setReg_ne s w fun heq => ha (heq ▸ unitReg_rUnit pu h)
  queues := rfl
  squeue := rfl
  tile := rfl
  rest := rfl

end UnitWrites

/-- What the later steps of a halt keep: UNIT_HALT0 too. -/
structure HaltKept (pu : Nat) (s t : State) : Prop extends UnitWrites pu s t where
  halt0 : t.reg (rUnit pu 0x100) = s.reg (rUnit pu 0x100)

namespace HaltKept

variable {pu : Nat} {s t v : State}

theorem refl (pu : Nat) (s : State) : HaltKept pu s s := ⟨.refl pu s, rfl⟩

theorem trans (h : HaltKept pu s t) (g : HaltKept pu t v) : HaltKept pu s v :=
  ⟨h.toUnitWrites.trans g.toUnitWrites, g.halt0.trans h.halt0⟩

/-- A write to another register of the unit. -/
theorem setReg (pu : Nat) (s : State) (w : W64) {off : Nat} (h : off < 0x10000) (hne : off ≠ 0x100) :
    HaltKept pu s (s.setReg (rUnit pu off) w) :=
  ⟨.setReg pu s w h, reg_setReg_ne s w (rUnit_ne pu hne.symm)⟩

theorem setRegF (pu : Nat) (s : State) (hi lo v : Nat) {off : Nat} (h : off < 0x10000) (hne : off ≠ 0x100) :
    HaltKept pu s (s.setRegF (rUnit pu off) hi lo v) := setReg pu s _ h hne

end HaltKept

theorem settlePending_kept (s : State) (pu : Nat) : HaltKept pu s (s.settlePending pu) := by
  have hclr : HaltKept pu s (s.setRegF (rUnit pu 0x140) 54 54 0) := .setRegF pu s _ _ _ (by decide) (by decide)
  unfold settlePending
  dsimp only
  split
  · split
    · exact .refl pu s
    · exact hclr
  · exact hclr

theorem dropChain_kept (s : State) (pu : Nat) : HaltKept pu s (s.dropChain pu) := by
  unfold dropChain
  split
  · exact .refl pu s
  · exact .setReg pu s _ (by decide) (by decide)

theorem sendAbort_kept (s : State) (pu u : Nat) : HaltKept pu s (s.sendAbort u) := by
  unfold sendAbort
  split
  · next q _ =>
    by_cases hq : pu = q
    · subst hq
      exact ⟨⟨fun _ _ => rfl, by rw [unit_updUnit], by rw [unit_updUnit], by rw [unit_updUnit], rfl⟩, rfl⟩
    · have hu := unit_updUnit_ne (j := pu) s (fun x => { x with chain := { x.chain with abort := true } }) hq
      exact ⟨⟨fun _ _ => rfl, by rw [hu], by rw [hu], by rw [hu], rfl⟩, rfl⟩
  · exact .refl pu s

/-- UNIT_HALT0 takes the halt's word, and only registers of the unit are written. -/
theorem setHaltRegs_kept (s : State) (pu : Nat) (h : HaltInfo) :
    HaltKept pu (s.setReg (rUnit pu 0x100) (haltWord h)) (s.setHaltRegs pu h false) := by
  unfold setHaltRegs
  refine HaltKept.trans ?_ (HaltKept.setReg pu _ _ (off := 0x118) (by decide) (by decide))
  refine HaltKept.trans (HaltKept.setRegF pu _ 31 0 (h.prov.iter % 65536 * 65536 + h.port) (off := 0x110) (by decide)
    (by decide)) ?_
  split
  · exact .setRegF pu _ _ _ _ (by decide) (by decide)
  · exact .refl pu _

theorem setHaltRegs_leaves (s : State) (pu : Nat) (h : HaltInfo) :
    ∃ t, s.setHaltRegs pu h false = t ∧ t.reg (rUnit pu 0x100) = haltWord h ∧ UnitWrites pu s t := by
  have hkept := setHaltRegs_kept s pu h
  have hword : UnitWrites pu s (s.setReg (rUnit pu 0x100) (haltWord h)) := .setReg pu s _ (by decide)
  exact ⟨_, rfl, hkept.halt0.trans (reg_setReg s _ _), hword.trans hkept.toUnitWrites⟩

/-- A stopped unit has empty queues and keeps its tile. -/
theorem stopUnit_leaves (s : State) (pu tick : Nat) (keep : RunSt → Bool) :
    ∃ t, s.stopUnit pu tick keep = t ∧ (t.unit pu).queues = [] ∧ (t.unit pu).squeue = [] ∧
      (t.unit pu).tile = (s.unit pu).tile ∧ (∀ a, t.reg a = s.reg a) ∧ t = { s with units := t.units } := by
  unfold stopUnit
  refine ⟨_, rfl, ?_, ?_, ?_, fun a => updUnit_acc_reg s _ _ a, rfl⟩ <;> (rw [unit_updUnit]; rfl)

/-- A halt from the stopped unit on to the error it raises. -/
def leaveWork (s : State) (pu : Nat) (chained : Bool) : State :=
  let s := (s.settlePending pu).dropChain pu
  if chained then s.sendAbort (s.logUnit pu) else s

theorem leaveWork_kept (s : State) (pu : Nat) (chained : Bool) : HaltKept pu s (s.leaveWork pu chained) := by
  refine ((settlePending_kept s pu).trans (dropChain_kept _ pu)).trans ?_
  cases chained
  · exact .refl pu _
  · exact sendAbort_kept _ _ _

/-- The error of a halt is raised, and the fault slots that no stream waits in are closed. -/
def reportHalt (s : State) (e : Err) : State := (s.raise e).closeFaults

@[simp] theorem reportHalt_reg (s : State) (e : Err) (a : Nat) : (s.reportHalt e).reg a = s.reg a := rfl

@[simp] theorem reportHalt_unit (s : State) (e : Err) (k : Nat) : (s.reportHalt e).unit k = s.unit k := rfl

theorem reportHalt_rest (s : State) (e : Err) : (s.reportHalt e).errFlight = s.errFlight ++ [e] ∧
    s.reportHalt e = { s with errFlight := (s.reportHalt e).errFlight, faults := (s.reportHalt e).faults } := ⟨rfl, rfl⟩

theorem haltUnit_eq {s : State} {pu : Nat} (h : HaltInfo) (hrun : s.unitHalted pu = false) :
    s.haltUnit pu h = (((s.setHaltRegs pu h false).stopUnit pu h.prov.ticket (survives h)).leaveWork pu
      (s.runsChain pu)).reportHalt (s.haltErr pu h false) := by
  simp only [haltUnit, hrun, Bool.false_eq_true, if_false]
  rfl

/-- A running unit halts: its halt word, its emptied queues, the error raised and what is left alone. -/
theorem haltUnit_halts (s : State) {pu : Nat} (h : HaltInfo) (hrun : s.unitHalted pu = false) :
    ∃ t, s.haltUnit pu h = t ∧ t.reg (rUnit pu 0x100) = haltWord h ∧ (t.unit pu).queues = [] ∧
      (t.unit pu).squeue = [] ∧ (t.unit pu).tile = (s.unit pu).tile ∧
      t.errFlight = s.errFlight ++ [s.haltErr pu h false] ∧
      (∀ a, ¬Claims.unitReg (pu / 4) a → t.reg a = s.reg a) ∧
      t = { s with regs := t.regs, units := t.units, errFlight := t.errFlight, faults := t.faults } := by
  obtain ⟨s1, h1, hword, hset⟩ := setHaltRegs_leaves s pu h
  obtain ⟨s2, h2, hq, hsq, htile, hreg2, hstop⟩ := stopUnit_leaves s1 pu h.prov.ticket (survives h)
  have hkept := leaveWork_kept s2 pu (s.runsChain pu)
  generalize h3 : s2.leaveWork pu (s.runsChain pu) = s3 at hkept
  obtain ⟨herr, hrep⟩ := reportHalt_rest s3 (s.haltErr pu h false)
  have hreg : ∀ a, (s3.reportHalt (s.haltErr pu h false)).reg a = s3.reg a := reportHalt_reg _ _
  have hunit : (s3.reportHalt (s.haltErr pu h false)).unit pu = s3.unit pu := reportHalt_unit _ _ _
  have heq : s.haltUnit pu h = s3.reportHalt (s.haltErr pu h false) := by rw [haltUnit_eq h hrun, h1, h2, h3]
  have hflight : s3.errFlight = s.errFlight := by rw [hkept.errFlight, hstop, hset.errFlight]
  generalize s3.reportHalt (s.haltErr pu h false) = t at herr hrep hreg hunit heq
  refine ⟨t, heq, ?_, ?_, ?_, ?_, ?_, fun a ha => ?_, ?_⟩
  · rw [hreg, hkept.halt0, hreg2, hword]
  · rw [hunit, hkept.queues, hq]
  · rw [hunit, hkept.squeue, hsq]
  · rw [hunit, hkept.tile, htile, hset.tile]
  · rw [herr, hflight]
  · rw [hreg, hkept.reg a ha, hreg2, hset.reg a ha]
  · rw [hrep, hkept.rest, hstop, hset.rest]

theorem fxWatchdog_of_named {s : State} {u pu : Nat} {h : HaltInfo} (hpu : s.physUnit u = some pu)
    (hrun : s.unitHalted pu = false) (hlimit : s.regF (rUnit pu 0x70) 15 0 ≠ 0)
    (hname : watchdogName (s.unit pu) = some h) (hspec : h.prov.spec = false) :
    s.fxWatchdog u = s.haltUnit pu h := by
  simp [fxWatchdog, hpu, hrun, hlimit, hname, haltWork, hspec]

open Claims in
/-- WATCHDOG on a running unit whose limit has passed over confirmed work. -/
theorem watchdog_halts (s : State) (u : UnitIx) (pu : Nat) (h : HaltInfo) (hpu : s.physUnit u.val = some pu)
    (hrun : s.unitHalted pu = false) (hlimit : s.regF (rUnit pu 0x70) 15 0 ≠ 0)
    (hname : State.watchdogName (s.unit pu) = some h) (hprov : provFits h.prov) (htask : h.task < 8)
    (hserial : h.serial < 2 ^ 32) (hsource : h.source < 8) :
    ∃ t, exec (.watchdog u) s = .next t ∧ t.regF (rUnit pu 0x100) 63 56 = 0x0D ∧
      t.regF (rUnit pu 0x100) 55 53 = h.source ∧ t.regF (rUnit pu 0x100) 46 32 = h.prov.pc ∧
      (t.unit pu).queues = [] ∧ (t.unit pu).squeue = [] ∧ (t.unit pu).tile = (s.unit pu).tile ∧
      (t.errFlight.map fun e => (e.cls, e.reason, e.scope)) =
        (s.errFlight.map fun e => (e.cls, e.reason, e.scope)) ++ [(3, 0x0D, 4)] ∧
      (∀ a, ¬unitReg (pu / 4) a → t.reg a = s.reg a) ∧
      t = { s with regs := t.regs, units := t.units, errFlight := t.errFlight, faults := t.faults } := by
  obtain ⟨t, ht, hword, hq, hsq, htile, herr, hreg, hrest⟩ := haltUnit_halts s h hrun
  have hreason := watchdogName_reason hname
  obtain ⟨hr, hsrc, hpc⟩ := haltWord_fields (by omega) hprov htask hserial hsource
  refine ⟨t, ?_, ?_, ?_, ?_, hq, hsq, htile, ?_, hreg, hrest⟩
  · show Host.Outcome.next (s.fxWatchdog u.val) = _
    rw [fxWatchdog_of_named hpu hrun hlimit hname hprov.1, ht]
  · rw [regF, hword, hr, hreason]
  · rw [regF, hword, hsrc]
  · rw [regF, hword, hpc]
  · rw [herr, List.map_append, ← hreason]
    rfl

end State
end Sys2Proof.Machine

namespace Sys2Proof
open Machine State Claims

/-- Settles O14: a clause each for the pass, the drain, the descriptor and the watchdog. -/
theorem passesStartDrainAndDescriptorsComplete : Obligations.PassesStartDrainAndDescriptorsComplete := by
  unfold Obligations.PassesStartDrainAndDescriptorsComplete
  exact ⟨fun s u pu e r hpu hnext _ _ hfeed => passStart_enters s u pu e r hpu hnext hfeed, drainStart_drains,
    descriptorComplete_lands, watchdog_halts⟩

end Sys2Proof

/-! ## Obligation O41: a die that is lost while its Jubilee runs -/

namespace Sys2Proof.Machine.State

/-- The Jubilee of a lost die does not end (R311). -/
theorem fxJubileeComplete_of_lost {s : State} {d : Nat} (h : smGet false s.lostDies d = true) (runs : List MarginRun) :
    s.fxJubileeComplete d runs = s := by
  simp [fxJubileeComplete, h]

end Sys2Proof.Machine.State

namespace Sys2Proof.Refuted
open Sys2Proof Sys2Proof.Machine Sys2Proof.Claims

/-- Die 0 was lost in its Jubilee, as a thermal trip leaves it (R557): MON_JUB keeps BUSY and the target of 15 ps, and no
logical unit stands on the die. -/
def lostInJubilee : State := { regs := [(jub 0, 0xF02#64)], lostDies := [(0, true)] }

/-- What the clause of JUBILEE_COMPLETE supposes, for die 0 of `lostInJubilee`. -/
theorem lostInJubilee_supposes : lostInJubilee.bit (jub 0) 1 = true ∧ testsOver lostInJubilee 0 ∧
    ∀ p, p < 5 → offsetOf lostInJubilee 0 p ≤ 10 := by decide +kernel

end Sys2Proof.Refuted

namespace Sys2Proof
open Machine Claims Refuted

/-- Refutes O41: its clause of JUBILEE_COMPLETE does not suppose that the die is there. In `lostInJubilee` the die has
been lost, so that the command changes nothing and BUSY stays. -/
theorem not_jubileesRaiseMarginsAndTestColumns : ¬ Obligations.JubileesRaiseMarginsAndTestColumns := by
  unfold Obligations.JubileesRaiseMarginsAndTestColumns
  intro ⟨_, _, _, _, complete, _⟩
  obtain ⟨hbusy, hover, hoff⟩ := lostInJubilee_supposes
  obtain ⟨t, ht, hidle, _⟩ := complete lostInJubilee 0 [] hbusy hover hoff
  have hstays : lostInJubilee.fxJubileeComplete 0 [] = lostInJubilee := State.fxJubileeComplete_of_lost rfl []
  have hnext : lostInJubilee.fxJubileeComplete 0 [] = t := by injection ht
  rw [← hnext, hstays] at hidle
  exact absurd (hbusy.symm.trans hidle) (by decide)

end Sys2Proof

/-! ## Obligation O6: every step keeps every memory of the module canonical

A function of the model that touches no memory gets the lemma `f_canonical_iff`; one that writes a memory, or reads it
through the cache, gets `f_canonical`, from the laws of the memory operations. Both follow the model's own files in order. -/

namespace Sys2Proof.Machine

/-- The memories of a module in canonical form, as `Memory.wf` has it. -/
def MemoriesOk (chanBytes : SMap Byte) (chanPoison : SMap Bool) (hostMem : SMap Byte) (pages : SMap Nat) (flash : SMap Byte)
    (units : SMap UnitSt) (clus : SMap CluSt) : Prop :=
  smWf 0#8 chanBytes = true ∧ smWf false chanPoison = true ∧ smWf 0#8 hostMem = true ∧ smWf 0 pages = true ∧
  smWf 0#8 flash = true ∧ (units.all fun x => smWf 0#8 x.2.tile && smWf false x.2.tpoison) = true ∧
  (clus.all fun x => smWf 0#8 x.2.store && smWf false x.2.spoison) = true

/-! ### Tables and the memories of a unit -/

/-- Entries written one by one keep the canonical form. -/
theorem smWf_foldl_smSet {α β : Type} [DecidableEq β] (d : β) (key : α → Nat) (val : α → β) (l : List α) {m : List (Nat × β)}
    (h : smWf d m = true) : smWf d (l.foldl (fun m x => smSet d m (key x) (val x)) m) = true := by
  induction l generalizing m with
  | nil => exact h
  | cons x l ih => exact ih (smWf_smSet d _ _ h)

@[simp] theorem UnitSt.setQueue_wf (u : UnitSt) (sl : Nat) (q : List QEnt) : (u.setQueue sl q).wf ↔ u.wf := Iff.rfl

@[simp] theorem UnitSt.declare_wf (u : UnitSt) (t : Nat) (rw : Nat × Nat) : (u.declare t rw).wf ↔ u.wf := Iff.rfl

@[simp] theorem UnitSt.kill_wf (u : UnitSt) (t : Nat) : (u.kill t).wf ↔ u.wf := Iff.rfl

theorem UnitSt.foldl_wf {α : Type} {f : UnitSt → α → UnitSt} (hf : ∀ u a, u.wf → (f u a).wf) (l : List α) {u : UnitSt}
    (hu : u.wf) : (l.foldl f u).wf := by
  induction l generalizing u with
  | nil => exact hu
  | cons a l ih => exact ih (hf u a hu)

/-- An access undone leaves the tile store in canonical form. -/
theorem putBack_wf {u : UnitSt} (hu : u.wf) (x : SlipRec) : (State.putBack u x).wf := by
  obtain ⟨htile, hpoison⟩ := hu
  refine ⟨smWf_foldl x.undo htile, ?_⟩
  unfold State.putBack
  dsimp only
  split
  · exact hpoison
  · exact smWf_smSet false _ _ hpoison

namespace State

/-- The memories of the state are in canonical form. -/
def Canonical (s : State) : Prop :=
  MemoriesOk s.chanBytes s.chanPoison s.hostMem s.pages s.flash.data s.units s.clus

theorem canonical_iff (s : State) : s.Canonical ↔ Memory.wf s = true := (Memory.wf_iff s).symm

@[simp] theorem canonical_eta (s : State) :
    MemoriesOk s.chanBytes s.chanPoison s.hostMem s.pages s.flash.data s.units s.clus ↔ s.Canonical := Iff.rfl

@[simp] theorem canonical_mk
    (pending regs ctr out units clus tokens scaleQ slotMap staged program running frame0 relock slices chans
    chanBytes chanPoison chanUnseen lostDies pages targets queues faults reqSeq atc invals ats pri priStop
    flashDue msixEn msixMask hostMem errFlight evtFlight almanac almStage ports fab cles hjob flash mmc pwr
    handlers rates mons txnHost txnMgmt hostQ waited evtBuf evtLost evtSeq hub1Lost fatal modLost lostRegions
    deadClus gwDrops fabDrops) :
    (State.mk pending regs ctr out units clus tokens scaleQ slotMap staged program running frame0 relock slices chans
      chanBytes chanPoison chanUnseen lostDies pages targets queues faults reqSeq atc invals ats pri priStop
      flashDue msixEn msixMask hostMem errFlight evtFlight almanac almStage ports fab cles hjob flash mmc pwr
      handlers rates mons txnHost txnMgmt hostQ waited evtBuf evtLost evtSeq hub1Lost fatal modLost lostRegions
      deadClus gwDrops fabDrops).Canonical ↔ MemoriesOk chanBytes chanPoison hostMem pages flash.data units clus := Iff.rfl

variable {s : State}

/-- What keeps the memories keeps their canonical form. -/
theorem Canonical.keeps {t : State} (hs : s.Canonical) (h : KeepsMemory s t) : t.Canonical :=
  (canonical_iff t).2 (h ((canonical_iff s).1 hs))

theorem hostMem_canonical {s : State} (hs : s.Canonical) {m : SMap Byte}
    (hm : smWf 0#8 s.hostMem = true → smWf 0#8 m = true) : ({ s with hostMem := m }).Canonical := by
  obtain ⟨hbytes, hpoison, hhost, hrest⟩ := hs
  exact ⟨hbytes, hpoison, hm hhost, hrest⟩

theorem pages_canonical {s : State} (hs : s.Canonical) (p : Nat) (vs : List Nat) :
    ({ s with pages := smSetL 0 s.pages p vs }).Canonical := hs.keeps (pages_keep s p vs)

theorem orElse_canonical {a : Option State} {b : Unit → Option State} {t : State}
    (ha : ∀ t, a = some t → t.Canonical) (hb : ∀ t, b () = some t → t.Canonical)
    (h : a.orElse b = some t) : t.Canonical := by
  cases a with
  | none => exact hb t h
  | some u => exact ha t h

@[simp] theorem canonical_ite (c : Prop) [Decidable c] (s t : State) :
    (if c then s else t).Canonical ↔ if c then s.Canonical else t.Canonical := by split <;> rfl

@[simp] theorem fst_ite_canonical {β : Type} (c : Prop) [Decidable c] (p q : State × β) :
    (if c then p else q).1.Canonical ↔ if c then p.1.Canonical else q.1.Canonical := by split <;> rfl

@[simp] theorem foldl_canonical_iff {α : Type} {f : State → α → State} (hf : ∀ s a, (f s a).Canonical ↔ s.Canonical)
    (l : List α) (s : State) : (l.foldl f s).Canonical ↔ s.Canonical := by
  induction l generalizing s with
  | nil => rfl
  | cons a l ih => exact (ih _).trans (hf s a)

theorem getD_canonical_iff {s : State} {o : Option State} (h : ∀ t, o = some t → (t.Canonical ↔ s.Canonical)) :
    (o.getD s).Canonical ↔ s.Canonical := by
  cases o with
  | none => rfl
  | some t => exact h t rfl

theorem Canonical.ite {c : Prop} [Decidable c] {t : State} (hs : s.Canonical) (ht : t.Canonical) :
    (if c then s else t).Canonical := by
  split
  · exact hs
  · exact ht

theorem Canonical.foldl {α : Type} {f : State → α → State} (hs : s.Canonical) (hf : ∀ s a, s.Canonical → (f s a).Canonical)
    (l : List α) : (l.foldl f s).Canonical := by
  induction l generalizing s with
  | nil => exact hs
  | cons a l ih => exact ih (hf s a hs)

theorem Canonical.foldl_fst {α β : Type} {f : State × β → α → State × β} {p : State × β} (hp : p.1.Canonical)
    (hf : ∀ p a, p.1.Canonical → (f p a).1.Canonical) (l : List α) : (l.foldl f p).1.Canonical := by
  induction l generalizing p with
  | nil => exact hp
  | cons a l ih => exact ih (hf p a hp)

/-! ### Machine/Ops -/

@[simp] theorem setReg_canonical_iff (s : State) (a : Nat) (v : W64) : (s.setReg a v).Canonical ↔ s.Canonical := by
  simp only [setReg, canonical_mk, canonical_eta]

@[simp] theorem setRegF_canonical_iff (s : State) (a hi lo v : Nat) : (s.setRegF a hi lo v).Canonical ↔ s.Canonical := by
  simp only [setRegF, setReg_canonical_iff]

theorem setUnit_canonical {s : State} (hs : s.Canonical) (pu : Nat) {u : UnitSt} (hu : (s.unit pu).wf → u.wf) :
    (s.setUnit pu u).Canonical := hs.keeps (setUnit_keeps s pu hu)

theorem updUnit_canonical {s : State} (hs : s.Canonical) (pu : Nat) {f : UnitSt → UnitSt} (hf : ∀ u, u.wf → (f u).wf) :
    (s.updUnit pu f).Canonical := hs.keeps (updUnit_keeps s pu hf)

theorem setClu_canonical {s : State} (hs : s.Canonical) (pc : Nat) {c : CluSt} (hc : (s.clu pc).wf → c.wf) :
    (s.setClu pc c).Canonical := hs.keeps (setClu_keeps s pc hc)

theorem updClu_canonical {s : State} (hs : s.Canonical) (pc : Nat) {f : CluSt → CluSt} (hf : ∀ c, c.wf → (f c).wf) :
    (s.updClu pc f).Canonical := hs.keeps (updClu_keeps s pc hf)

@[simp] theorem setSlice_canonical_iff (s : State) (r : Nat) (x : SliceSt) : (s.setSlice r x).Canonical ↔ s.Canonical := by
  simp only [setSlice, canonical_mk, canonical_eta]

@[simp] theorem setChan_canonical_iff (s : State) (ch : Nat) (x : ChanSt) : (s.setChan ch x).Canonical ↔ s.Canonical := by
  simp only [setChan, canonical_mk, canonical_eta]

@[simp] theorem updChan_canonical_iff (s : State) (ch : Nat) (f : ChanSt → ChanSt) :
    (s.updChan ch f).Canonical ↔ s.Canonical := by
  simp only [updChan, setChan_canonical_iff]

@[simp] theorem setTgt_canonical_iff (s : State) (k : Nat) (x : TgtSt) : (s.setTgt k x).Canonical ↔ s.Canonical := by
  simp only [setTgt, canonical_mk, canonical_eta]

@[simp] theorem updJob_canonical_iff (s : State) (k : Nat) (f : Job → Job) : (s.updJob k f).Canonical ↔ s.Canonical := by
  unfold updJob
  split <;> simp only [setTgt_canonical_iff]

@[simp] theorem setPort_canonical_iff (s : State) (p : Nat) (x : PortSt) : (s.setPort p x).Canonical ↔ s.Canonical := by
  simp only [setPort, canonical_mk, canonical_eta]

@[simp] theorem updPort_canonical_iff (s : State) (p : Nat) (f : PortSt → PortSt) : (s.updPort p f).Canonical ↔ s.Canonical := by
  simp only [updPort, setPort_canonical_iff]

@[simp] theorem setCle_canonical_iff (s : State) (e : Nat) (x : CleSt) : (s.setCle e x).Canonical ↔ s.Canonical := by
  simp only [setCle, canonical_mk, canonical_eta]

@[simp] theorem updFab_canonical_iff (s : State) (f : FabSt → FabSt) : (s.updFab f).Canonical ↔ s.Canonical := by
  simp only [updFab, canonical_mk, canonical_eta]

@[simp] theorem updMmc_canonical_iff (s : State) (f : MmcSt → MmcSt) : (s.updMmc f).Canonical ↔ s.Canonical := by
  simp only [updMmc, canonical_mk, canonical_eta]

@[simp] theorem updPwr_canonical_iff (s : State) (f : PwrSt → PwrSt) : (s.updPwr f).Canonical ↔ s.Canonical := by
  simp only [updPwr, canonical_mk, canonical_eta]

@[simp] theorem setQueueSt_canonical_iff (s : State) (q : Nat) (x : QueueSt) : (s.setQueueSt q x).Canonical ↔ s.Canonical := by
  simp only [setQueueSt, canonical_mk, canonical_eta]

@[simp] theorem emit_canonical_iff (s : State) (o : Out) : (s.emit o).Canonical ↔ s.Canonical := by
  simp only [emit, canonical_mk, canonical_eta]

@[simp] theorem raise_canonical_iff (s : State) (e : Err) : (s.raise e).Canonical ↔ s.Canonical := by
  simp only [raise, canonical_mk, canonical_eta]

@[simp] theorem freeBytes_canonical_iff (s : State) (n : Nat) : (s.freeBytes n).2.Canonical ↔ s.Canonical := by
  simp only [freeBytes, canonical_mk, canonical_eta]

@[simp] theorem freeWord_canonical_iff (s : State) : s.freeWord.2.Canonical ↔ s.Canonical := by
  simp only [freeWord, canonical_mk, canonical_eta]

@[simp] theorem now_canonical_iff (s : State) : s.now.2.Canonical ↔ s.Canonical := by
  simp only [now, freeWord_canonical_iff]

/-! ### Machine/Flags -/

@[simp] theorem bump_canonical_iff (s : State) (a hi lo n : Nat) : (s.bump a hi lo n).Canonical ↔ s.Canonical := by
  simp only [bump, setRegF_canonical_iff]

@[simp] theorem setBit_canonical_iff (s : State) (a i : Nat) : (s.setBit a i).Canonical ↔ s.Canonical := by
  simp only [setBit, setRegF_canonical_iff]

@[simp] theorem clrBit_canonical_iff (s : State) (a i : Nat) : (s.clrBit a i).Canonical ↔ s.Canonical := by
  simp only [clrBit, setRegF_canonical_iff]

@[simp] theorem maxF_canonical_iff (s : State) (a hi lo v : Nat) : (s.maxF a hi lo v).Canonical ↔ s.Canonical := by
  simp only [maxF, setRegF_canonical_iff]

theorem gate_canonical {s : State} (hs : s.Canonical) (b : Nat) (f : State → State) (hf : ∀ s, s.Canonical → (f s).Canonical) :
    (s.gate b f).Canonical := by
  grind [gate, bump_canonical_iff]

/-! ### Machine/Operands -/

@[simp] theorem raiseCode_canonical_iff (s : State) (code scope index detail : Nat) :
    (s.raiseCode code scope index detail).Canonical ↔ s.Canonical := by
  simp only [raiseCode, raise_canonical_iff]

/-! ### Machine/Mem -/

theorem putSector_canonical {s : State} (hs : s.Canonical) (ch off : Nat) (bs : List Byte) (poison : Bool) :
    (s.putSector ch off bs poison).Canonical := hs.keeps (putSector_keeps s ch off bs poison)

@[simp] theorem countPins_canonical_iff (s : State) (r : Nat) : (s.countPins r).Canonical ↔ s.Canonical := by
  simp only [countPins, setRegF_canonical_iff]

theorem moveUnit_canonical {s : State} (hs : s.Canonical) (ch x : Nat) (bad : List Bool) : (s.moveUnit ch x bad).Canonical := by
  unfold moveUnit
  split
  · exact hs
  · simp only [canonical_ite, bump_canonical_iff, updChan_canonical_iff, ite_self]
    exact hs.keeps (channels_keep (smWf_smSetL _ _ _) (smWf_smSetL _ _ _))

theorem writeBack_canonical {s : State} (hs : s.Canonical) (l : Line) : (s.writeBack l).Canonical :=
  hs.keeps (writeBack_keeps s l)

theorem makeRoom_canonical {s : State} (hs : s.Canonical) (ch ln : Nat) : ∀ t, (s.makeRoom ch ln) = some t → t.Canonical :=
  fun _ h => hs.keeps (makeRoom_keeps h)

theorem place_canonical {s : State} (hs : s.Canonical) (l : Line) (hint : Nat) (who : Option Nat) :
    (s.place l hint who).Canonical := by
  grind [place, setSlice_canonical_iff, countPins_canonical_iff, bump_canonical_iff, updUnit_canonical, UnitSt.wf]

theorem hit_canonical {s : State} (hs : s.Canonical) (l : Line) (hint : Nat) (who : Option Nat) :
    (s.hit l hint who).Canonical := by
  grind [hit, place_canonical]

theorem dropLine_canonical {s : State} (hs : s.Canonical) (l : Line) : (s.dropLine l).Canonical := hs.keeps (dropLine_keeps s l)

@[simp] theorem hold_canonical_iff (s : State) (b : Bool) : (s.hold b).Canonical ↔ s.Canonical := by
  simp only [hold, canonical_mk, canonical_eta, canonical_ite, ite_self]

theorem orWait_canonical {s : State} (hs : s.Canonical) (f : State → State) (hf : ∀ s, s.Canonical → (f s).Canonical) :
    (s.orWait f).Canonical := by
  grind [orWait, canonical_mk, canonical_eta]

theorem calm_canonical {s : State} (hs : s.Canonical) (f : State → State) (hf : ∀ s, s.Canonical → (f s).Canonical) :
    (s.calm f).Canonical := by
  grind [calm, canonical_mk, canonical_eta]

theorem access_canonical {s : State} (hs : s.Canonical) (ch ln hint : Nat) (who : Option Nat) :
    (s.access ch ln hint who).1.Canonical := by
  grind [access, hit_canonical, makeRoom_canonical, hold_canonical_iff, place_canonical]

@[simp] theorem seen_canonical_iff (s : State) (bs : List Byte) (poison : Bool) :
    (s.seen bs poison).1.Canonical ↔ s.Canonical := by
  simp only [seen, freeBytes_canonical_iff, fst_ite_canonical, ite_self]

theorem readLine_canonical {s : State} (hs : s.Canonical) (ch ln lo n hint : Nat) (who : Option Nat) :
    (s.readLine ch ln lo n hint who).1.Canonical := by
  grind [readLine, freeBytes_canonical_iff, dropLine_canonical, hold_canonical_iff, access_canonical, seen_canonical_iff,
    Canonical.foldl_fst]

theorem writeLine_canonical {s : State} (hs : s.Canonical) (ch ln lo : Nat) (bs : List Byte) (ps : List Bool) (hint : Nat) :
    (s.writeLine ch ln lo bs ps hint).Canonical := hs.keeps (writeLine_keeps s ch ln lo bs ps hint)

theorem memRead_canonical {s : State} (hs : s.Canonical) (a n hint : Nat) : (s.memRead a n hint).1.Canonical :=
  hs.keeps (memRead_keeps s a n hint)

theorem memWriteP_canonical {s : State} (hs : s.Canonical) (a : Nat) (bs : List Byte) (ps : List Bool) (hint : Nat) :
    (s.memWriteP a bs ps hint).Canonical := hs.keeps (memWriteP_keeps s a bs ps hint)

theorem memWrite_canonical {s : State} (hs : s.Canonical) (a : Nat) (bs : List Byte) (hint : Nat) :
    (s.memWrite a bs hint).Canonical := hs.keeps (memWrite_keeps s a bs hint)

theorem hostWrite_canonical {s : State} (hs : s.Canonical) (pasid : Option Nat) (a : Nat) (bs : List Byte) :
    (s.hostWrite pasid a bs).Canonical := hs.keeps (hostWrite_keeps s pasid a bs)

/-! ### Machine/Tile -/

theorem tileWrite_canonical {s : State} (hs : s.Canonical) (pu : Nat) (bs : List (Nat × Byte)) (poison : Bool) :
    (s.tileWrite pu bs poison).Canonical := hs.keeps (tileWrite_keeps s pu bs poison)

/-! ### Machine/Slots -/

theorem bumpSpec_canonical {s : State} (hs : s.Canonical) (pu : Nat) (spec : Bool) (a hi lo n : Nat) :
    (s.bumpSpec pu spec a hi lo n).Canonical := by
  grind [bumpSpec, updUnit_canonical, bump_canonical_iff, UnitSt.wf]

theorem setSpec_canonical {s : State} (hs : s.Canonical) (pu : Nat) (spec : Bool) (a hi lo v : Nat) :
    (s.setSpec pu spec a hi lo v).Canonical := by
  grind [setSpec, updUnit_canonical, setRegF_canonical_iff, UnitSt.wf]

theorem raiseSpec_canonical {s : State} (hs : s.Canonical) (pu : Nat) (spec : Bool) (e : Err) :
    (s.raiseSpec pu spec e).Canonical := by
  grind [raiseSpec, updUnit_canonical, raise_canonical_iff, UnitSt.wf]

theorem countSlip_canonical {s : State} (hs : s.Canonical) (pu : Nat) (spec : Bool) (a pos : Nat) :
    (s.countSlip pu spec a pos).Canonical := by
  grind [countSlip, setSpec_canonical, bumpSpec_canonical]

/-! ### Machine/Halt -/

theorem sendAbort_canonical {s : State} (hs : s.Canonical) (u : Nat) : (s.sendAbort u).Canonical := by
  unfold sendAbort
  split
  · exact updUnit_canonical hs _ fun _ hu => hu
  · exact hs

@[simp] theorem setHaltRegs_canonical_iff (s : State) (pu : Nat) (h : HaltInfo) (deferred : Bool) :
    (s.setHaltRegs pu h deferred).Canonical ↔ s.Canonical := by
  simp only [setHaltRegs, setReg_canonical_iff, setRegF_canonical_iff, canonical_ite, ite_self]

theorem stopUnit_canonical {s : State} (hs : s.Canonical) (pu t : Nat) (keep : RunSt → Bool) :
    (s.stopUnit pu t keep).Canonical := updUnit_canonical hs pu fun _ hu => hu

@[simp] theorem settlePending_canonical_iff (s : State) (pu : Nat) : (s.settlePending pu).Canonical ↔ s.Canonical := by
  simp only [settlePending]
  split <;> simp only [setRegF_canonical_iff, canonical_ite, ite_self]

@[simp] theorem closeFaults_canonical_iff (s : State) : s.closeFaults.Canonical ↔ s.Canonical := by
  simp only [closeFaults, canonical_mk, canonical_eta]

theorem haltUnit_canonical {s : State} (hs : s.Canonical) (pu : Nat) (h : HaltInfo) (deferred : Bool) :
    (s.haltUnit pu h deferred).Canonical := by
  grind [haltUnit, setHaltRegs_canonical_iff, settlePending_canonical_iff, stopUnit_canonical, clrBit_canonical_iff,
    sendAbort_canonical, closeFaults_canonical_iff, raise_canonical_iff]

theorem haltWork_canonical {s : State} (hs : s.Canonical) (pu : Nat) (h : HaltInfo) : (s.haltWork pu h).Canonical := by
  grind [haltWork, updUnit_canonical, haltUnit_canonical, UnitSt.wf]

theorem squashUnit_canonical {s : State} (hs : s.Canonical) (pu : Nat) : (s.squashUnit pu).Canonical := by
  unfold squashUnit
  refine updUnit_canonical (Canonical.foldl (Canonical.foldl hs (fun s sl hs => ?_) _) (fun s e hs => ?_) _) pu fun _ hu => hu
  · split
    · exact hs
    · refine updUnit_canonical ?_ pu fun _ hu => hu
      simpa only [foldl_canonical_iff, setReg_canonical_iff, implies_true] using hs
  · split
    · exact (canonical_mk ..).2 hs
    · exact (canonical_mk ..).2 hs
    · exact .ite (updUnit_canonical hs pu fun _ hu => hu) hs
    · exact hs

theorem squash_canonical {s : State} (hs : s.Canonical) (pc : Nat) : (s.squash pc).Canonical := by
  grind [squash, squashUnit_canonical, Canonical.foldl]

@[simp] theorem endCheck_canonical_iff (s : State) : s.endCheck.Canonical ↔ s.Canonical := by
  unfold endCheck
  split <;> simp only [canonical_mk, canonical_eta, canonical_ite, ite_self]

theorem clusterEnd_canonical {s : State} (hs : s.Canonical) (pc reason : Nat) : (s.clusterEnd pc reason).Canonical := by
  grind [clusterEnd, endCheck_canonical_iff, updClu_canonical, CluSt.wf]

theorem haltCc_canonical {s : State} (hs : s.Canonical) (pc reason word : Nat) (at_ : Option Nat) :
    (s.haltCc pc reason word at_).Canonical := by
  grind [haltCc, setRegF_canonical_iff, squash_canonical, updClu_canonical, raise_canonical_iff, clusterEnd_canonical, CluSt.wf]

theorem fenceCluster_canonical {s : State} (hs : s.Canonical) (pc : Nat) : (s.fenceCluster pc).Canonical := by
  grind [fenceCluster, haltUnit_canonical, haltCc_canonical, Canonical.foldl]

/-! ### Machine/Fault -/

theorem setStream_canonical {s : State} (hs : s.Canonical) (pu g t : Nat) (x : Option StreamSt) :
    (s.setStream pu g t x).Canonical := by
  grind [setStream, updUnit_canonical, UnitSt.wf]

theorem updStream_canonical {s : State} (hs : s.Canonical) (pu g t : Nat) (f : StreamSt → StreamSt) :
    (s.updStream pu g t f).Canonical := by
  grind [updStream, setStream_canonical]

@[simp] theorem setSflt_canonical_iff (s : State) (pu g t : Nat) (st : StreamSt) (addr : Nat) (blocking : Bool) :
    (s.setSflt pu g t st addr blocking).Canonical ↔ s.Canonical := by
  simp only [setSflt, setReg_canonical_iff]

@[simp] theorem clearSflt_canonical_iff (s : State) (pu : Nat) : (s.clearSflt pu).Canonical ↔ s.Canonical := by
  simp only [clearSflt, setReg_canonical_iff, setRegF_canonical_iff]

@[simp] theorem clearPending_canonical_iff (s : State) (pu g t : Nat) : (s.clearPending pu g t).Canonical ↔ s.Canonical := by
  simp only [clearPending, setRegF_canonical_iff, canonical_ite, ite_self]

theorem streamHalt_canonical {s : State} (hs : s.Canonical) (pu g t : Nat) (st : StreamSt) (addr sub : Nat) (deferred : Bool) :
    (s.streamHalt pu g t st addr sub deferred).Canonical := by
  grind [streamHalt, closeFaults_canonical_iff, settlePending_canonical_iff, setStream_canonical, haltUnit_canonical,
    setSflt_canonical_iff]

theorem blockDevice_canonical {s : State} (hs : s.Canonical) (pu g t : Nat) (st : StreamSt) (deferred : Bool) :
    (s.blockDevice pu g t st deferred).Canonical := by
  simp only [blockDevice]
  repeat' split
  all_goals grind [setSflt_canonical_iff, setStream_canonical, streamHalt_canonical, canonical_mk, canonical_eta]

theorem sendPageReq_canonical {s : State} (hs : s.Canonical) (pu g t : Nat) : (s.sendPageReq pu g t).Canonical := by
  grind [sendPageReq, setStream_canonical, emit_canonical_iff]

theorem blockHost_canonical {s : State} (hs : s.Canonical) (pu g t : Nat) (st : StreamSt) (deferred : Bool) :
    (s.blockHost pu g t st deferred).Canonical := by
  grind [blockHost, streamHalt_canonical, setSflt_canonical_iff, sendPageReq_canonical, setStream_canonical]

theorem failXlat_canonical {s : State} (hs : s.Canonical) (pu g t : Nat) (st : StreamSt) (code : Nat) (deferred : Bool) :
    (s.failXlat pu g t st code deferred).Canonical := by
  grind [failXlat, setStream_canonical, blockDevice_canonical, blockHost_canonical, streamHalt_canonical]

@[simp] theorem retireChan_canonical_iff (s : State) (ch : Nat) (dead empty : Bool) :
    (s.retireChan ch dead empty).Canonical ↔ s.Canonical := by
  simp only [retireChan, updChan_canonical_iff, setRegF_canonical_iff, raiseCode_canonical_iff, canonical_ite, ite_self]

@[simp] theorem countUe_canonical_iff (s : State) (h : Nat) : (s.countUe h).Canonical ↔ s.Canonical := by
  simp only [countUe, bump_canonical_iff, updChan_canonical_iff, retireChan_canonical_iff, canonical_ite, ite_self]

theorem noteParity_canonical {s : State} (hs : s.Canonical) (pu key sec : Nat) : (s.noteParity pu key sec).Canonical := by
  grind [noteParity, updUnit_canonical, UnitSt.wf]

theorem applyHeld_canonical {s : State} (hs : s.Canonical) (pu : Nat) (x1 : HeldEff) : (s.applyHeld pu x1).Canonical := by
  unfold applyHeld
  repeat' split
  all_goals grind [bump_canonical_iff, setRegF_canonical_iff, raise_canonical_iff, countUe_canonical_iff, noteParity_canonical,
    haltUnit_canonical, canonical_mk, canonical_eta]

theorem raisePend_canonical {s : State} (hs : s.Canonical) (pu k : Nat) : (s.raisePend pu k).Canonical := by
  grind [raisePend, failXlat_canonical]

theorem confirmUnit_canonical {s : State} (hs : s.Canonical) (pu : Nat) : (s.confirmUnit pu).Canonical := by
  grind [confirmUnit, updUnit_canonical, applyHeld_canonical, raisePend_canonical, Canonical.foldl, UnitSt.wf]

/-! ### Machine/Almanac -/

@[simp] theorem putRecords_canonical_iff (s : State) (rs : List (List W64)) : (s.putRecords rs).Canonical ↔ s.Canonical := by
  unfold putRecords
  split <;> simp only [bump_canonical_iff, emit_canonical_iff, setRegF_canonical_iff, setBit_canonical_iff, canonical_mk,
    canonical_eta,
    canonical_ite, ite_self, foldl_canonical_iff, implies_true]

@[simp] theorem record_canonical_iff (s : State) (type cls reason scope index : Nat) (w2 w3 : W64) :
    (s.record type cls reason scope index w2 w3).Canonical ↔ s.Canonical := by
  simp only [record, now_canonical_iff, bump_canonical_iff, putRecords_canonical_iff, canonical_mk, canonical_eta, canonical_ite,
    ite_self]

theorem gatewayDrop_canonical {s : State} (hs : s.Canonical) (pc tag : Nat) : (s.gatewayDrop pc tag).Canonical := by
  grind [gatewayDrop, record_canonical_iff, fenceCluster_canonical, canonical_mk, canonical_eta]

/-! ### Machine/Control -/

theorem declareAll_canonical {s : State} (hs : s.Canonical) (pu : Nat) : (s.declareAll pu).Canonical := by
  refine Canonical.foldl (updUnit_canonical hs pu fun u hu => UnitSt.foldl_wf (fun u e hu => ?_) _ hu) (fun s sl hs => ?_) _
  · split
    · exact hu
    · exact hu
  · refine Canonical.foldl hs (fun s e hs => ?_) _
    exact updUnit_canonical hs pu (f := fun u => u.declare _ _) fun _ hu => hu

theorem complete_canonical {s : State} (hs : s.Canonical) (pu : Nat) (p : Prov) : (s.complete pu p).Canonical := by
  grind [complete, updUnit_canonical, declareAll_canonical, UnitSt.wf]

@[simp] theorem addToken_canonical_iff (s : State) (pc ctr n : Nat) : (s.addToken pc ctr n).Canonical ↔ s.Canonical := by
  simp only [addToken, setBit_canonical_iff, setRegF_canonical_iff, canonical_ite, ite_self]

@[simp] theorem sendTok_canonical_iff (s : State) (pc : Nat) (dest : TokDest) (ctr n seq : Nat) :
    (s.sendTok pc dest ctr n seq).Canonical ↔ s.Canonical := by
  simp only [sendTok, canonical_mk, canonical_eta, canonical_ite, ite_self]

theorem flushSigs_canonical {s : State} (hs : s.Canonical) (pc : Nat) : (s.flushSigs pc).Canonical := by
  grind [flushSigs, setClu_canonical, sendTok_canonical_iff, Canonical.foldl, CluSt.wf]

theorem advance_canonical {s : State} (hs : s.Canonical) (pc x1 : Nat) : (s.advance pc x1).Canonical := by
  fun_induction advance <;> grind [setClu_canonical, setRegF_canonical_iff, CluSt.wf]

theorem moveOn_canonical {s : State} (hs : s.Canonical) (pc : Nat) : (s.moveOn pc).Canonical := by
  grind [moveOn, advance_canonical]

theorem breakNow_canonical {s : State} (hs : s.Canonical) (pc : Nat) : (s.breakNow pc).Canonical := by
  grind [breakNow, haltCc_canonical, updClu_canonical, CluSt.wf]

theorem executed_canonical {s : State} (hs : s.Canonical) (pc n : Nat) : (s.executed pc n).Canonical := by
  grind [executed, updClu_canonical, bump_canonical_iff, breakNow_canonical, moveOn_canonical, CluSt.wf]

@[simp] theorem running1_canonical_iff (s : State) (pc : Nat) : (s.running1 pc).Canonical ↔ s.Canonical := by
  simp only [running1, setRegF_canonical_iff, canonical_ite, ite_self]

@[simp] theorem stall_canonical_iff (s : State) (pc : Nat) : (s.stall pc).Canonical ↔ s.Canonical := by
  simp only [stall, setRegF_canonical_iff, canonical_ite, ite_self]

theorem command_canonical {s : State} (hs : s.Canonical) (c op : Nat) (two : W64 → Bool) (bad : State → Nat → W64 → W64 → Bool)
    (body : State → Nat → W64 → W64 → Nat → State) (hbody : ∀ s a2 a3 a4 a5, s.Canonical → (body s a2 a3 a4 a5).Canonical) :
    (s.command c op two bad body).Canonical := by
  unfold command
  split
  · exact hs
  next pc _ =>
  split
  · exact hs
  next f _ _ =>
    have hhalt : ∀ r w i, (s.haltCc pc r w i).Canonical := haltCc_canonical hs pc
    have hupd : ∀ f : CluSt → CluSt, (∀ c, c.wf → (f c).wf) → (s.updClu pc f).Canonical :=
      fun f hf => updClu_canonical hs pc hf
    have hstop := hupd (fun c => { c with specStop := true }) fun _ hc => hc
    have htake : ((s.setRegF (rClu pc 0) 46 32 (f.list + f.pos)).updClu pc fun c => { c with pcIter := f.run }).Canonical :=
      updClu_canonical ((setRegF_canonical_iff ..).2 hs) pc fun _ hc => hc
    have hstart := Canonical.ite (c := s.speculating pc = true) hs htake
    simp only [canonical_ite, hs, hhalt, hstop, ite_self, hbody _ _ _ _ _ hstart]

theorem enqueue_canonical {s : State} (hs : s.Canonical) (pc : Nat) (w0 : W64) (word n : Nat) (cmd : QCmd) :
    (s.enqueue pc w0 word n cmd).Canonical := by
  unfold enqueue
  repeat' split
  all_goals grind [stall_canonical_iff, updUnit_canonical, declareAll_canonical, updClu_canonical, executed_canonical,
    running1_canonical_iff, Canonical.foldl, UnitSt.wf, CluSt.wf, UnitSt.setQueue_wf]

theorem fxCfg_canonical {s : State} (hs : s.Canonical) (c : Nat) : (s.fxCfg c).Canonical := by
  grind [fxCfg, command_canonical, enqueue_canonical]

theorem cfgSource_canonical {s : State} (hs : s.Canonical) (pc bank src addr : Nat) :
    (s.cfgSource pc bank src addr).1.Canonical := by
  grind [cfgSource, memRead_canonical]

@[simp] theorem setRegs_canonical_iff (s : State) (a : Nat) (ws : List W64) : (s.setRegs a ws).Canonical ↔ s.Canonical := by
  simp only [setRegs, setReg_canonical_iff, foldl_canonical_iff, implies_true]

theorem fxDcrcCheck_canonical {s : State} (hs : s.Canonical) (u sl : Nat) : (s.fxDcrcCheck u sl).Canonical := by
  unfold fxDcrcCheck
  split
  · exact hs
  next pu _ =>
  split
  next src addr p _ rest _ =>
    refine .ite hs ?_
    extract_lets x words ok t old popped marked written shadowed checked
    have hread : t.Canonical := cfgSource_canonical hs (pu / 4) p.bank src addr
    have hpopped : popped.Canonical := updUnit_canonical hread pu fun _ hv => hv
    have hmarked : marked.Canonical := .ite hpopped (updUnit_canonical hpopped pu fun _ hv => hv)
    have hwritten : written.Canonical := (setRegs_canonical_iff ..).2 hmarked
    have hshadowed : shadowed.Canonical := updUnit_canonical hwritten pu fun _ hv => ⟨hv.1, hv.2⟩
    have hchecked : checked.Canonical := .ite hshadowed (haltCc_canonical hshadowed ..)
    exact .ite hs (.ite (declareAll_canonical (haltCc_canonical hmarked ..) pu) (declareAll_canonical hchecked pu))
  · exact hs

theorem fxPatch_canonical {s : State} (hs : s.Canonical) (c : Nat) : (s.fxPatch c).Canonical := by
  grind [fxPatch, command_canonical, bump_canonical_iff, updClu_canonical, setRegF_canonical_iff, CluSt.wf]

theorem fxPatchTakeEffect_canonical {s : State} (hs : s.Canonical) (c : Nat) : (s.fxPatchTakeEffect c).Canonical := by
  grind [fxPatchTakeEffect, updClu_canonical, memRead_canonical, haltCc_canonical, setReg_canonical_iff, setRegF_canonical_iff,
    breakNow_canonical, moveOn_canonical, Canonical.foldl, CluSt.wf]

theorem fxReplay_canonical {s : State} (hs : s.Canonical) (c : Nat) : (s.fxReplay c).Canonical := by
  refine command_canonical hs _ _ _ _ _ fun s pc w0 w1 w hs => ?_
  have hclu := clu_wf ((canonical_iff s).1 hs) pc
  dsimp only
  split
  · exact haltCc_canonical hs ..
  · refine breakNow_canonical ((setRegF_canonical_iff ..).2 ?_) pc
    exact setClu_canonical ((bump_canonical_iff ..).2 hs) pc fun _ => ⟨hclu.1, hclu.2⟩

theorem fxGo_canonical {s : State} (hs : s.Canonical) (c : Nat) : (s.fxGo c).Canonical := by
  grind [fxGo, command_canonical, enqueue_canonical]

theorem fxStrm_canonical {s : State} (hs : s.Canonical) (c : Nat) : (s.fxStrm c).Canonical := by
  grind [fxStrm, command_canonical, stall_canonical_iff, updUnit_canonical, updClu_canonical, executed_canonical,
    running1_canonical_iff, Canonical.foldl, UnitSt.wf, CluSt.wf]

theorem fxGoAdmit_canonical {s : State} (hs : s.Canonical) (u sl : Nat) : (s.fxGoAdmit u sl).Canonical := by
  grind [fxGoAdmit, updUnit_canonical, UnitSt.wf, UnitSt.setQueue_wf]

theorem advanceSpec_canonical {s : State} (hs : s.Canonical) (pc : Nat) : (s.advanceSpec pc).Canonical := by
  grind [advanceSpec, moveOn_canonical, updClu_canonical, CluSt.wf]

theorem fxWaittok_canonical {s : State} (hs : s.Canonical) (c : Nat) : (s.fxWaittok c).Canonical := by
  grind [fxWaittok, command_canonical, executed_canonical, running1_canonical_iff, updClu_canonical, bump_canonical_iff,
    advanceSpec_canonical, setRegF_canonical_iff, CluSt.wf]

theorem fxWaittokRelease_canonical {s : State} (hs : s.Canonical) (c : Nat) : (s.fxWaittokRelease c).Canonical := by
  grind [fxWaittokRelease, setRegF_canonical_iff, bump_canonical_iff, updClu_canonical, confirmUnit_canonical,
    declareAll_canonical, breakNow_canonical, moveOn_canonical, flushSigs_canonical, Canonical.foldl, CluSt.wf]

theorem fxTokenTimeout_canonical {s : State} (hs : s.Canonical) (c : Nat) : (s.fxTokenTimeout c).Canonical := by
  grind [fxTokenTimeout, haltCc_canonical]

theorem fxSigtok_canonical {s : State} (hs : s.Canonical) (c : Nat) : (s.fxSigtok c).Canonical := by
  grind [fxSigtok, command_canonical, sendTok_canonical_iff, flushSigs_canonical, updClu_canonical, executed_canonical,
    running1_canonical_iff, CluSt.wf]

theorem fxTokenAdd_canonical {s : State} (hs : s.Canonical) (i : Nat) : (s.fxTokenAdd i).Canonical := by
  unfold fxTokenAdd
  repeat' split
  all_goals grind [gatewayDrop_canonical, addToken_canonical_iff, canonical_mk, canonical_eta]

theorem fxSwap_canonical {s : State} (hs : s.Canonical) (c : Nat) : (s.fxSwap c).Canonical := by
  grind [fxSwap, command_canonical, haltCc_canonical, executed_canonical, running1_canonical_iff, setBit_canonical_iff]

@[simp] theorem fxSwapTakeEffect_canonical_iff (s : State) (c : Nat) : (s.fxSwapTakeEffect c).Canonical ↔ s.Canonical := by
  unfold fxSwapTakeEffect
  split <;> simp only [setRegF_canonical_iff, clrBit_canonical_iff, canonical_ite, ite_self]

theorem fxFence_canonical {s : State} (hs : s.Canonical) (c : Nat) : (s.fxFence c).Canonical := by
  grind [fxFence, command_canonical, bump_canonical_iff, updClu_canonical, setRegF_canonical_iff, CluSt.wf]

theorem fxFenceRelease_canonical {s : State} (hs : s.Canonical) (c : Nat) : (s.fxFenceRelease c).Canonical := by
  grind [fxFenceRelease, updClu_canonical, breakNow_canonical, moveOn_canonical, setRegF_canonical_iff, CluSt.wf]

theorem fxHalt_canonical {s : State} (hs : s.Canonical) (c : Nat) : (s.fxHalt c).Canonical := by
  grind [fxHalt, command_canonical, bump_canonical_iff, setRegF_canonical_iff, updClu_canonical, haltCc_canonical,
    executed_canonical, running1_canonical_iff, CluSt.wf]

theorem fxProgramEnd_canonical {s : State} (hs : s.Canonical) (c : Nat) : (s.fxProgramEnd c).Canonical := by
  grind [fxProgramEnd, setRegF_canonical_iff, clusterEnd_canonical]

theorem fxCcBreak_canonical {s : State} (hs : s.Canonical) (c : Nat) : (s.fxCcBreak c).Canonical := by
  grind [fxCcBreak, haltCc_canonical, breakNow_canonical, updClu_canonical, CluSt.wf]

@[simp] theorem fxCcResume_canonical_iff (s : State) (c : Nat) : (s.fxCcResume c).Canonical ↔ s.Canonical := by
  unfold fxCcResume
  split <;> simp only [setRegF_canonical_iff, canonical_ite, ite_self]

@[simp] theorem fxSwapReq_canonical_iff (s : State) (c : Nat) : (s.fxSwapReq c).Canonical ↔ s.Canonical := by
  unfold fxSwapReq
  split <;> simp only [setBit_canonical_iff]

/-! ### Machine/Access -/

theorem noteWrote_canonical {s : State} (hs : s.Canonical) (pu : Nat) (p : Prov) (off : Nat) :
    (s.noteWrote pu p off).Canonical := by
  grind [noteWrote, updUnit_canonical, UnitSt.wf]

theorem uncountSlip_canonical {s : State} (hs : s.Canonical) (pu pos : Nat) (x : SlipRec) :
    (s.uncountSlip pu pos x).Canonical := by
  simp only [uncountSlip]
  repeat' split
  all_goals grind [updUnit_canonical, bump_canonical_iff, setRegF_canonical_iff, UnitSt.wf]

theorem undoSlip_canonical {s : State} (hs : s.Canonical) (pu pos : Nat) (x : SlipRec) : (s.undoSlip pu pos x).Canonical := by
  unfold undoSlip
  have hcount : (if x.slip = true then s.uncountSlip pu pos x else s).Canonical := (uncountSlip_canonical hs pu pos x).ite hs
  have hback := fun (l : List SlipRec) (u : UnitSt) (hu : u.wf) =>
    UnitSt.foldl_wf (fun _ y hu => putBack_wf hu y) l (putBack_wf hu x)
  dsimp only
  split
  · exact updUnit_canonical hcount pu fun u hu => hback _ u hu
  · refine updUnit_canonical (updUnit_canonical hcount pu fun u hu => ?_) _ fun v hv => ?_
    · exact hback _ u hu
    · exact hv

theorem noteUse_canonical {s : State} (hs : s.Canonical) (pu : Nat) (x : SlipRec) : (s.noteUse pu x).Canonical := by
  grind [noteUse, updUnit_canonical, UnitSt.wf]

theorem meetUse_canonical {s : State} (hs : s.Canonical) (pu pos who : Nat) (y : SlipRec) (h : HaltInfo) :
    (s.meetUse pu pos who y h).1.Canonical := by
  grind [meetUse, undoSlip_canonical, haltWork_canonical]

theorem portUse_canonical {s : State} (hs : s.Canonical) (pu u port agent cyc word : Nat) (k : Cmd) (undo : List (Nat × Byte))
    (pois : Bool) (seg : Option Nat) :
    (s.portUse pu u port agent cyc word k undo pois seg).1.Canonical := by
  grind [portUse, meetUse_canonical, noteUse_canonical, countSlip_canonical]

theorem streamUse_canonical {s : State} (hs : s.Canonical) (pu u who : Nat) (k : Cmd) (agent cyc off : Nat)
    (undo : List (Nat × Byte)) :
    (s.streamUse pu u who k agent cyc off undo).1.Canonical := by
  grind [streamUse, meetUse_canonical, noteUse_canonical]

theorem notePlace_canonical {s : State} (hs : s.Canonical) (pu bank owner c : Nat) (w : State.Window) :
    (s.notePlace pu bank owner c w).Canonical := by
  grind [notePlace, updUnit_canonical, UnitSt.wf]

theorem readWords_canonical {s : State} (hs : s.Canonical) (pu u agent : Nat) (k : Cmd) (w : State.Window) (ws : List Nat) :
    (s.readWords pu u agent k w ws).1.Canonical := by
  grind [readWords, portUse_canonical, notePlace_canonical, Canonical.foldl_fst]

theorem writeWords_canonical {s : State} (hs : s.Canonical) (pu u agent : Nat) (k : Cmd) (w : State.Window)
    (bs : List (Nat × Byte)) (poison : Bool) (seg : Option Nat) :
    (s.writeWords pu u agent k w bs poison seg).1.Canonical := by
  grind [writeWords, portUse_canonical, notePlace_canonical, tileWrite_canonical, noteWrote_canonical, Canonical.foldl_fst]

theorem enterRru_canonical {s : State} (hs : s.Canonical) (pu u : Nat) (k : Cmd) (cyc : Nat) :
    (s.enterRru pu u k cyc).1.Canonical := by
  grind [enterRru, portUse_canonical]

/-! ### Machine/Rru -/

theorem rruRow_canonical {s : State} (hs : s.Canonical) (pu u : Nat) (r : RunSt) (m cyc : Nat) (xs : List (Nat × W32))
    (poison : Bool) :
    (s.rruRow pu u r m cyc xs poison).1.Canonical := by
  grind [rruRow, readWords_canonical, writeWords_canonical, bumpSpec_canonical]

theorem rruFeed_canonical {s : State} (hs : s.Canonical) (pu u : Nat) (r : RunSt) (m cyc : Nat) (at_ : Machine.SMap (Option Nat))
    (xs : List (Nat × W32 × Bool)) :
    (s.rruFeed pu u r m cyc at_ xs).1.Canonical := by
  grind [rruFeed, rruRow_canonical, Canonical.foldl_fst]

theorem rruRun_canonical {s : State} (hs : s.Canonical) (pu u : Nat) (r : RunSt) : (s.rruRun pu u r).1.Canonical := by
  grind [rruRun, readWords_canonical, enterRru_canonical, rruFeed_canonical, Canonical.foldl_fst]

/-! ### Machine/GoPrep -/

theorem readRecord_canonical {s : State} (hs : s.Canonical) (pu sel : Nat) (f : Machine.Format) :
    (s.readRecord pu sel f).1.Canonical := by
  grind [readRecord, memRead_canonical]

theorem prepRead_canonical {s : State} (hs : s.Canonical) (pu u sl : Nat) (d : List W64) (p : Prov) :
    (s.prepRead pu u sl d p).1.Canonical := by
  grind [prepRead, readRecord_canonical]

theorem fxGoPrepare_canonical {s : State} (hs : s.Canonical) (u sl t0 t : Nat) : (s.fxGoPrepare u sl t0 t).Canonical := by
  unfold fxGoPrepare
  repeat' split
  all_goals grind [updUnit_canonical, setRegs_canonical_iff, haltWork_canonical, prepRead_canonical, UnitSt.wf,
    UnitSt.setQueue_wf]

/-! ### Machine/Engine -/

theorem setEng_canonical {s : State} (hs : s.Canonical) (pu e : Nat) (x : EngSt) : (s.setEng pu e x).Canonical := by
  grind [setEng, updUnit_canonical, UnitSt.wf]

theorem setRun_canonical {s : State} (hs : s.Canonical) (pu : Nat) (r : RunSt) : (s.setRun pu r).Canonical := by
  grind [setRun, updUnit_canonical, UnitSt.wf]

theorem rowWrite_canonical {s : State} (hs : s.Canonical) (pu u : Nat) (r : RunSt) (agent : Nat → Nat) (bs : List OutByte)
    (cyc : Nat) :
    (s.rowWrite pu u r agent bs cyc).1.Canonical := by
  grind [rowWrite, portUse_canonical, tileWrite_canonical, noteWrote_canonical, Canonical.foldl_fst]

theorem rruDrain_canonical {s : State} (hs : s.Canonical) (pu u : Nat) (r : RunSt) (m g cyc : Nat) (cs : List ColVal) :
    (s.rruDrain pu u r m g cyc cs).1.Canonical := by
  grind [rruDrain, readWords_canonical, rruFeed_canonical]

theorem deliver_canonical {s : State} (hs : s.Canonical) (pu u ticket target m g : Nat) (cols : List (Nat × Nat)) (vs : List W32)
    (ps : List Bool) (agent : Nat → Nat) (cyc : Nat) :
    (s.deliver pu u ticket target m g cols vs ps agent cyc).1.Canonical := by
  grind [deliver, portUse_canonical, rruDrain_canonical, setRun_canonical, rowWrite_canonical, setEng_canonical,
    bumpSpec_canonical]

theorem chainOut_canonical {s : State} (hs : s.Canonical) (pu u : Nat) (r : RunSt) (x : ChainRow) (cyc : Nat) :
    (s.chainOut pu u r x cyc).1.Canonical := by
  grind [chainOut, setSpec_canonical, bumpSpec_canonical, updUnit_canonical, deliver_canonical, setRun_canonical,
    Canonical.foldl_fst, UnitSt.wf]

theorem chainMatch_canonical {s : State} (hs : s.Canonical) (pu u e x1 : Nat) : (s.chainMatch pu u e x1).1.Canonical := by
  fun_induction chainMatch <;> grind [setSpec_canonical, updUnit_canonical, portUse_canonical, freeBytes_canonical_iff,
    bumpSpec_canonical, chainOut_canonical, Canonical.foldl_fst, UnitSt.wf]

theorem chainOwn_canonical {s : State} (hs : s.Canonical) (pu u : Nat) (r : RunSt) (x : ChainRow) :
    (s.chainOwn pu u r x).1.Canonical := by
  grind [chainOwn, portUse_canonical, chainOut_canonical, chainMatch_canonical, updUnit_canonical, UnitSt.wf]

theorem drainPass_canonical {s : State} (hs : s.Canonical) (pu u e : Nat) (p : PassRec) (r : RunSt) (dc : Nat × Nat)
    (parity : List (Nat × Nat × Nat)) :
    (s.drainPass pu u e p r dc parity).1.Canonical := by
  grind [drainPass, setEng_canonical, raiseSpec_canonical, updUnit_canonical, noteParity_canonical, chainOwn_canonical,
    deliver_canonical, bumpSpec_canonical, setRun_canonical, Canonical.foldl, Canonical.foldl_fst, UnitSt.wf]

theorem feed_canonical {s : State} (hs : s.Canonical) (pu u e : Nat) (r : RunSt) (c : Nat) : (s.feed pu u e r c).1.Canonical := by
  grind [feed, setEng_canonical, readWords_canonical, portUse_canonical, Canonical.foldl_fst]

theorem runPass_canonical {s : State} (hs : s.Canonical) (pu u e : Nat) (r : RunSt) : (s.runPass pu u e r).1.Canonical := by
  grind [runPass, feed_canonical, setEng_canonical, setRun_canonical, bumpSpec_canonical]

theorem startGo_canonical {s : State} (hs : s.Canonical) (pu u sl : Nat) (g : RunSt × Nat × List QEnt) :
    (s.startGo pu u sl g).1.Canonical := by
  grind [startGo, updUnit_canonical, bumpSpec_canonical, countSlip_canonical, setBit_canonical_iff, rruRun_canonical,
    declareAll_canonical, UnitSt.wf, UnitSt.setQueue_wf]

theorem dueWork_canonical {s : State} (hs : s.Canonical) (pu u e c : Nat) :
    ∀ t, (s.dueWork pu u e c) = some t → t.1.Canonical := by
  grind [dueWork, drainPass_canonical, runPass_canonical, startGo_canonical]

theorem toHalt_canonical {s : State} (hs : s.Canonical) (pu u x1 : Nat) (x2 : HaltInfo) : (s.toHalt pu u x1 x2).1.Canonical := by
  fun_induction toHalt <;> grind [dueWork_canonical]

theorem haltAt_canonical {s : State} (hs : s.Canonical) (pu u : Nat) (h : HaltInfo) : (s.haltAt pu u h).Canonical := by
  grind [haltAt, toHalt_canonical, haltWork_canonical]

theorem orHalt_canonical {z : State × Option HaltInfo} (hs : z.1.Canonical) (pu u : Nat) : (orHalt z pu u).Canonical := by
  grind [orHalt, haltAt_canonical]

theorem fxDrainStart_canonical {s : State} (hs : s.Canonical) (u e : Nat) (parity : List (Nat × Nat × Nat)) :
    (s.fxDrainStart u e parity).Canonical := by
  grind [fxDrainStart, orHalt_canonical, drainPass_canonical]

theorem fxPassStart_canonical {s : State} (hs : s.Canonical) (u e : Nat) : (s.fxPassStart u e).Canonical := by
  grind [fxPassStart, orHalt_canonical, runPass_canonical]

theorem fxGoStart_canonical {s : State} (hs : s.Canonical) (u sl : Nat) : (s.fxGoStart u sl).Canonical := by
  grind [fxGoStart, orHalt_canonical, startGo_canonical]

/-! ### Machine/Complete -/

theorem fxDescriptorComplete_canonical {s : State} (hs : s.Canonical) (u sl : Nat) : (s.fxDescriptorComplete u sl).Canonical := by
  grind [fxDescriptorComplete, setSpec_canonical, updUnit_canonical, clrBit_canonical_iff, flushSigs_canonical,
    complete_canonical, UnitSt.wf, canonical_mk, canonical_eta]

theorem putRecord_canonical {s : State} (hs : s.Canonical) (addr lo hi : Nat) (bs : List Byte) :
    (s.putRecord addr lo hi bs).Canonical := by
  grind [putRecord, memWrite_canonical]

theorem fxScaleReport_canonical {s : State} (hs : s.Canonical) (i : Nat) : (s.fxScaleReport i).Canonical := by
  grind [fxScaleReport, memRead_canonical, putRecord_canonical, canonical_mk, canonical_eta]

theorem fxScaleClose_canonical {s : State} (hs : s.Canonical) (i : Nat) : (s.fxScaleClose i).Canonical := by
  grind [fxScaleClose, memRead_canonical, freeBytes_canonical_iff, putRecord_canonical, bump_canonical_iff, canonical_mk,
    canonical_eta]

theorem fxChainRowArrive_canonical {s : State} (hs : s.Canonical) (u : Nat) : (s.fxChainRowArrive u).Canonical := by
  unfold fxChainRowArrive
  repeat' split
  all_goals grind [updUnit_canonical, gatewayDrop_canonical, portUse_canonical, haltAt_canonical, orHalt_canonical,
    chainMatch_canonical, Canonical.foldl_fst, UnitSt.wf]

theorem fxChainAbort_canonical {s : State} (hs : s.Canonical) (u : Nat) : (s.fxChainAbort u).Canonical := by
  grind [fxChainAbort, updUnit_canonical, setBit_canonical_iff, clearSflt_canonical_iff, haltUnit_canonical, UnitSt.wf]

theorem fxWatchdog_canonical {s : State} (hs : s.Canonical) (u : Nat) : (s.fxWatchdog u).Canonical := by
  grind [fxWatchdog, haltWork_canonical]

/-! ### Machine/Stream -/

theorem progWords_canonical {s : State} (hs : s.Canonical) (pc : Nat) (e : SEnt) (i n : Nat) :
    (s.progWords pc e i n).1.Canonical := by
  grind [progWords, memRead_canonical]

theorem readProg_canonical {s : State} (hs : s.Canonical) (pu u : Nat) (e : SEnt) : (s.readProg pu u e).1.Canonical := by
  grind [readProg, progWords_canonical, updUnit_canonical, UnitSt.wf, UnitSt.declare_wf]

theorem startHalt_canonical {s : State} (hs : s.Canonical) (pu : Nat) (e : SEnt) (sub : Nat) :
    (s.startHalt pu e sub).Canonical := by
  grind [startHalt, updUnit_canonical, setRegF_canonical_iff, clearSflt_canonical_iff, haltWork_canonical, UnitSt.wf,
    UnitSt.kill_wf]

theorem fxStreamStart_canonical {s : State} (hs : s.Canonical) (u : Nat) : (s.fxStreamStart u).Canonical := by
  unfold fxStreamStart
  repeat' split
  all_goals grind [readProg_canonical, startHalt_canonical, updUnit_canonical, UnitSt.wf]

theorem issueElem_canonical {s : State} (hs : s.Canonical) (pu u g t : Nat) (st : StreamSt) :
    (s.issueElem pu u g t st).Canonical := by
  grind [issueElem, updUnit_canonical, setStream_canonical, emit_canonical_iff, failXlat_canonical, gatewayDrop_canonical,
    UnitSt.wf, canonical_mk, canonical_eta]

theorem fxStreamIssue_canonical {s : State} (hs : s.Canonical) (u g : Nat) : (s.fxStreamIssue u g).Canonical := by
  grind [fxStreamIssue, updUnit_canonical, setRegF_canonical_iff, issueElem_canonical, UnitSt.wf]

theorem doHost_canonical {s : State} (hs : s.Canonical) (pu u g t E : Nat) : (s.doHost pu u g t E).Canonical := by
  unfold doHost
  split
  · exact hs
  · refine Canonical.foldl hs (fun s q hs => ?_) _
    dsimp only
    split
    · exact updStream_canonical (hostMem_canonical hs (smWf_foldl_smSet _ _ _ q.got)) ..
    · exact updStream_canonical hs ..

@[simp] theorem settleInvals_canonical_iff (s : State) : s.settleInvals.Canonical ↔ s.Canonical := by
  simp only [settleInvals, emit_canonical_iff, canonical_mk, canonical_eta, foldl_canonical_iff, implies_true]

theorem streamWords_canonical {s : State} (hs : s.Canonical) (pu u who : Nat) (k : Cmd) (agent : Nat)
    (ws : List ((Nat × List (Nat × Byte) × Bool) × Nat)) :
    (s.streamWords pu u who k agent ws).1.Canonical := by
  grind [streamWords, streamUse_canonical, tileWrite_canonical, noteWrote_canonical, Canonical.foldl_fst]

theorem delivered_canonical {s : State} (hs : s.Canonical) (pu g t : Nat) (st : StreamSt) :
    (s.delivered pu g t st).Canonical := by
  grind [delivered, bumpSpec_canonical, flushSigs_canonical, complete_canonical, setStream_canonical]

theorem afterWords_canonical {z : State × Option HaltInfo} (hs : z.1.Canonical) (pu u g t : Nat) (st : StreamSt) :
    (afterWords z pu u g t st).Canonical := by
  grind [afterWords, haltAt_canonical, updStream_canonical, delivered_canonical]

theorem deliverLoad_canonical {s : State} (hs : s.Canonical) (pu u g t : Nat) (st : StreamSt) (p : State.Path) :
    (s.deliverLoad pu u g t st p).Canonical := by
  grind [deliverLoad, afterWords_canonical, streamWords_canonical]

theorem deliverStore_canonical {s : State} (hs : s.Canonical) (pu u g t : Nat) (st : StreamSt) (p : State.Path) :
    (s.deliverStore pu u g t st p).Canonical := by
  grind [deliverStore, afterWords_canonical, streamWords_canonical]

theorem deliverPush_canonical {s : State} (hs : s.Canonical) (pu u g t : Nat) (st : StreamSt) (p : State.Path) :
    (s.deliverPush pu u g t st p).Canonical := by
  grind [deliverPush, gatewayDrop_canonical, streamHalt_canonical, streamWords_canonical, afterWords_canonical]

theorem fxElementDelivery_canonical {s : State} (hs : s.Canonical) (u g t cyc : Nat) :
    (s.fxElementDelivery u g t cyc).Canonical := by
  unfold fxElementDelivery
  repeat' split
  all_goals grind [settleInvals_canonical_iff, doHost_canonical, deliverLoad_canonical, deliverStore_canonical,
    deliverPush_canonical]

theorem fxFaultTimeout_canonical {s : State} (hs : s.Canonical) (u g t : Nat) : (s.fxFaultTimeout u g t).Canonical := by
  grind [fxFaultTimeout, streamHalt_canonical]

theorem fxAtsTranslationResponse_canonical {s : State} (hs : s.Canonical) (u g t : Nat) (r w : Bool) (logSize : Nat) :
    (s.fxAtsTranslationResponse u g t r w logSize).Canonical := by
  grind [fxAtsTranslationResponse, setStream_canonical, failXlat_canonical, canonical_mk, canonical_eta]

theorem sendWaiting_canonical {s : State} (hs : s.Canonical) : s.sendWaiting.Canonical := by
  grind [sendWaiting, sendPageReq_canonical, Canonical.foldl]

theorem refuseHost_canonical {s : State} (hs : s.Canonical) (pu g t : Nat) : (s.refuseHost pu g t).Canonical := by
  grind [refuseHost, setStream_canonical, streamHalt_canonical]

theorem fxPageRequestResponse_canonical {s : State} (hs : s.Canonical) (u g t : Nat) (r : PageResp) :
    (s.fxPageRequestResponse u g t r).Canonical := by
  unfold fxPageRequestResponse
  split
  · exact hs
  split
  · exact hs
  split
  · exact hs
  split
  · exact sendWaiting_canonical ((clearPending_canonical_iff ..).2 (setStream_canonical hs ..))
  · exact sendWaiting_canonical (refuseHost_canonical hs ..)
  · refine Canonical.foldl ((canonical_mk ..).2 hs) (fun s x hs => ?_) _
    split
    · exact (refuseHost_canonical hs ..).ite hs
    · exact hs

@[simp] theorem fxAtsInvalidation_canonical_iff (s : State) (addr len : Nat) :
    (s.fxAtsInvalidation addr len).Canonical ↔ s.Canonical := by
  simp only [fxAtsInvalidation, settleInvals_canonical_iff, canonical_mk, canonical_eta]

theorem refuseBlocked_canonical {s : State} (hs : s.Canonical) : s.refuseBlocked.Canonical := by
  grind [refuseBlocked, refuseHost_canonical, Canonical.foldl]

theorem fxPriEnableClear_canonical {s : State} (hs : s.Canonical) : s.fxPriEnableClear.Canonical := by
  grind [fxPriEnableClear, refuseBlocked_canonical, canonical_mk, canonical_eta]

/-! ### Machine/Hbm -/

theorem answer_canonical {s : State} (hs : s.Canonical) (w : Wait) (bs : List (Byte × Bool)) : (s.answer w bs).Canonical := by
  grind [answer, updStream_canonical]

theorem serveAs_canonical {s : State} (hs : s.Canonical) (w : Wait) (hint : Nat) : (s.serveAs w hint).Canonical := by
  grind [serveAs, calm_canonical, answer_canonical, writeLine_canonical, readLine_canonical]

theorem serve_canonical {s : State} (hs : s.Canonical) (w : Wait) : (s.serve w).Canonical := by
  grind [serve, serveAs_canonical]

@[simp] theorem addHeld_canonical_iff (s : State) (w : Wait) : (s.addHeld w).Canonical ↔ s.Canonical := by
  simp only [addHeld, bump_canonical_iff, setSlice_canonical_iff]

@[simp] theorem addFill_canonical_iff (s : State) (w : Wait) : (s.addFill w).Canonical ↔ s.Canonical := by
  simp only [addFill, setSlice_canonical_iff]

theorem present1_canonical {s : State} (hs : s.Canonical) (w : Wait) : (s.present1 w).Canonical := by
  grind [present1, serve_canonical, addFill_canonical_iff, addHeld_canonical_iff]

theorem takeReq_canonical {s : State} (hs : s.Canonical) (ws : List Wait) : (s.takeReq ws).Canonical := by
  grind [takeReq, present1_canonical, Canonical.foldl]

theorem fxSliceRequest_canonical {s : State} (hs : s.Canonical) (r : SliceReq) : (s.fxSliceRequest r).Canonical := by
  cases r with
  | read => simp only [fxSliceRequest, canonical_ite, takeReq_canonical hs, hs, ite_self]
  | write => simp only [fxSliceRequest, canonical_ite, takeReq_canonical hs, hs, ite_self]
  | stream u g t i =>
    simp only [fxSliceRequest]
    split
    · exact hs
    · refine .ite hs (.ite hs ?_)
      exact Canonical.foldl (updStream_canonical hs ..) (fun s w hs => present1_canonical hs w) _

theorem poisonSector_canonical {s : State} (hs : s.Canonical) (ch off : Nat) : (s.poisonSector ch off).Canonical := by
  grind [poisonSector, setSlice_canonical_iff, putSector_canonical]

theorem withHeld_canonical {s : State} (hs : s.Canonical) (who : Option Nat) (es : List HeldEff) (now : State)
    (hnow : now.Canonical) : (s.withHeld who es now).Canonical := by
  unfold withHeld
  repeat' split
  all_goals grind [updUnit_canonical, UnitSt.wf]

theorem hbmCe_canonical {s : State} (hs : s.Canonical) (ch off : Nat) (who : Option Nat) : (s.hbmCe ch off who).Canonical := by
  grind [hbmCe, withHeld_canonical, raise_canonical_iff, bump_canonical_iff]

theorem markUe_canonical {s : State} (hs : s.Canonical) (ch off : Nat) : (s.markUe ch off).Canonical := by
  grind [markUe, countUe_canonical_iff, putSector_canonical]

theorem hbmUe_canonical {s : State} (hs : s.Canonical) (ch off : Nat) (who : Option Nat) : (s.hbmUe ch off who).Canonical := by
  grind [hbmUe, putSector_canonical, withHeld_canonical, countUe_canonical_iff, raise_canonical_iff]

@[simp] theorem detectNow_canonical_iff (s : State) (ch off : Nat) : (s.detectNow ch off).Canonical ↔ s.Canonical := by
  simp only [detectNow, canonical_mk, canonical_eta]

theorem fillSector_canonical {s : State} (hs : s.Canonical) (ch off : Nat) (o : SectorOutcome) (who : Option Nat) :
    (s.fillSector ch off o who).1.Canonical := by
  unfold fillSector
  repeat' split
  all_goals grind [hbmUe_canonical, detectNow_canonical_iff, hbmCe_canonical, putSector_canonical, withHeld_canonical,
    raise_canonical_iff]

theorem fillSectors_canonical {s : State} (hs : s.Canonical) (ch off n : Nat) (os : List SectorOutcome) (who : Option Nat) :
    (s.fillSectors ch off n os who).1.Canonical := by
  grind [fillSectors, fillSector_canonical, Canonical.foldl_fst]

theorem fxMigrationUnitMove_canonical {s : State} (hs : s.Canonical) (d : Nat) (os : List SectorOutcome) :
    (s.fxMigrationUnitMove d os).Canonical := by
  grind [fxMigrationUnitMove, fillSectors_canonical, moveUnit_canonical, setRegF_canonical_iff, updChan_canonical_iff]

theorem fillPlace_canonical {s : State} (hs : s.Canonical) (l : Line) (hint : Nat) (who : Option Nat) :
    (s.fillPlace l hint who).Canonical := by
  grind [fillPlace, makeRoom_canonical, place_canonical]

theorem serveLine_canonical {s : State} (hs : s.Canonical) (w : Wait) (l : Line) : (s.serveLine w l).1.Canonical := by
  grind [serveLine, answer_canonical, writeBack_canonical]

theorem fxLineFill_canonical {s : State} (hs : s.Canonical) (ch line : Nat) (os : List SectorOutcome) :
    (s.fxLineFill ch line os).Canonical := by
  grind [fxLineFill, setSlice_canonical_iff, fillSectors_canonical, serve_canonical, serveLine_canonical, fillPlace_canonical,
    serveAs_canonical, Canonical.foldl_fst]

theorem fxPatrolRead_canonical {s : State} (hs : s.Canonical) (ch sector : Nat) (o : SectorOutcome) :
    (s.fxPatrolRead ch sector o).Canonical := by
  unfold fxPatrolRead
  repeat' split
  all_goals grind [hbmCe_canonical, hbmUe_canonical]

@[simp] theorem fxRetrainWindowOpen_canonical_iff (s : State) (ch : Nat) :
    (s.fxRetrainWindowOpen ch).Canonical ↔ s.Canonical := by
  simp only [fxRetrainWindowOpen, setRegF_canonical_iff, canonical_ite, ite_self]

theorem release_canonical {s : State} (hs : s.Canonical) (ch : Nat) : (s.release ch).Canonical := by
  grind [release, setSlice_canonical_iff, setRegF_canonical_iff, present1_canonical, Canonical.foldl]

theorem fxRetrainReopen_canonical {s : State} (hs : s.Canonical) (ch spared : Nat) : (s.fxRetrainReopen ch spared).Canonical := by
  grind [fxRetrainReopen, setRegF_canonical_iff, bump_canonical_iff, updChan_canonical_iff, release_canonical,
    retireChan_canonical_iff]

theorem fxRetrainTimeout_canonical {s : State} (hs : s.Canonical) (ch : Nat) (restored lanes : Bool) :
    (s.fxRetrainTimeout ch restored lanes).Canonical := by
  grind [fxRetrainTimeout, bump_canonical_iff, setRegF_canonical_iff, updChan_canonical_iff, retireChan_canonical_iff,
    release_canonical]

theorem fxFallbackTrainingDone_canonical {s : State} (hs : s.Canonical) (ch spared : Nat) (passed : Bool) :
    (s.fxFallbackTrainingDone ch spared passed).Canonical := by
  grind [fxFallbackTrainingDone, setRegF_canonical_iff, release_canonical, retireChan_canonical_iff]

@[simp] theorem fxMscFlush_canonical_iff (s : State) (r : Nat) : (s.fxMscFlush r).Canonical ↔ s.Canonical := by
  simp only [fxMscFlush, setBit_canonical_iff, setSlice_canonical_iff, canonical_ite, ite_self]

theorem flushLine_canonical {s : State} (hs : s.Canonical) (r ch line : Nat) : (s.flushLine r ch line).Canonical := by
  grind [flushLine, writeBack_canonical, setSlice_canonical_iff]

theorem fxMscFlushDone_canonical {s : State} (hs : s.Canonical) (r : Nat) : (s.fxMscFlushDone r).Canonical := by
  grind [fxMscFlushDone, flushLine_canonical, clrBit_canonical_iff, setSlice_canonical_iff, Canonical.foldl]

@[simp] theorem unpin_canonical_iff (s : State) (r : Nat) : (s.unpin r).Canonical ↔ s.Canonical := by
  simp only [unpin, setRegF_canonical_iff, setSlice_canonical_iff]

@[simp] theorem fxUnpinAll_canonical_iff (s : State) (r : Nat) : (s.fxUnpinAll r).Canonical ↔ s.Canonical := by
  simp only [fxUnpinAll, unpin_canonical_iff]

@[simp] theorem fxTgStart_canonical_iff (s : State) (ch : Nat) (v : W64) : (s.fxTgStart ch v).Canonical ↔ s.Canonical := by
  simp only [fxTgStart, setReg_canonical_iff, setRegF_canonical_iff, updChan_canonical_iff, canonical_ite, ite_self]

@[simp] theorem tgFail_canonical_iff (s : State) (ch sec : Nat) (lanes : W64) :
    (s.tgFail ch sec lanes).Canonical ↔ s.Canonical := by
  simp only [tgFail, updChan_canonical_iff, setRegF_canonical_iff, bump_canonical_iff, setReg_canonical_iff, canonical_ite,
    ite_self]

theorem tgSector_canonical {s : State} (hs : s.Canonical) (ch : Nat) (w : W64) (faulty : List (Nat × W64)) (sec : Nat) :
    (s.tgSector ch w faulty sec).1.Canonical := by
  grind [tgSector, putSector_canonical, tgFail_canonical_iff]

theorem tgRun_canonical {s : State} (hs : s.Canonical) (ch : Nat) (faulty : List (Nat × W64)) (cut : Nat) :
    (s.tgRun ch faulty cut).1.Canonical := by
  grind [tgRun, tgSector_canonical, setRegF_canonical_iff, Canonical.foldl_fst]

theorem fxTgProgramEnd_canonical {s : State} (hs : s.Canonical) (ch : Nat) (faulty : List (Nat × W64)) :
    (s.fxTgProgramEnd ch faulty).Canonical := by
  grind [fxTgProgramEnd, tgRun_canonical, setRegF_canonical_iff]

theorem fxTgStop_canonical {s : State} (hs : s.Canonical) (ch : Nat) (v : W64) (faulty : List (Nat × W64)) :
    (s.fxTgStop ch v faulty).Canonical := by
  grind [fxTgStop, setReg_canonical_iff, freeWord_canonical_iff, tgRun_canonical, setRegF_canonical_iff]

/-! ### Machine/Wake -/

@[simp] theorem setLnk_canonical_iff (s : State) (p v : Nat) : (s.setLnk p v).Canonical ↔ s.Canonical := by
  simp only [setLnk, setRegF_canonical_iff]

@[simp] theorem setReadyWord_canonical_iff (s : State) (v : W64) : (s.setReadyWord v).Canonical ↔ s.Canonical := by
  simp only [setReadyWord, setReg_canonical_iff, canonical_mk, canonical_eta, canonical_ite, ite_self]

@[simp] theorem setReady_canonical_iff (s : State) (b : Nat) (on : Bool) : (s.setReady b on).Canonical ↔ s.Canonical := by
  simp only [setReady, setReadyWord_canonical_iff]

@[simp] theorem portWake_canonical_iff (s : State) (p : Nat) : (s.portWake p).Canonical ↔ s.Canonical := by
  simp only [portWake, setLnk_canonical_iff, canonical_ite, ite_self]

@[simp] theorem resetRecord_canonical_iff (s : State) : s.resetRecord.Canonical ↔ s.Canonical := by
  simp only [resetRecord, record_canonical_iff]

@[simp] theorem beginWake_canonical_iff (s : State) (bit from_ : Nat) : (s.beginWake bit from_).Canonical ↔ s.Canonical := by
  simp only [beginWake, setRegF_canonical_iff, bump_canonical_iff, updPwr_canonical_iff, portWake_canonical_iff,
    freeWord_canonical_iff,
    resetRecord_canonical_iff, emit_canonical_iff, canonical_mk, canonical_eta, canonical_ite, ite_self, foldl_canonical_iff,
      implies_true]

@[simp] theorem wakeUp_canonical_iff (s : State) (bit : Nat) : (s.wakeUp bit).Canonical ↔ s.Canonical := by
  simp only [wakeUp, updPwr_canonical_iff, beginWake_canonical_iff, canonical_ite, ite_self]

/-! ### Machine/Update -/

@[simp] theorem upeFail_canonical_iff (s : State) (d status : Nat) : (s.upeFail d status).Canonical ↔ s.Canonical := by
  simp only [upeFail, bump_canonical_iff, setRegF_canonical_iff, updJob_canonical_iff]

end State

section

open State

/-! ### What UPE_JOB_TAKE reads while it checks a job -/

/-- The memories of the state a check has reached are in canonical form. -/
def UpeChk.Canonical (c : UpeChk) : Prop := c.s.Canonical

/-- So are those of the check that comes with a result. -/
def UpeChk.Leaves {α : Type} (x : UpeChk × α) : Prop := x.1.Canonical

namespace UpeChk

theorem Leaves.fst {α : Type} {x : UpeChk × α} (hx : Leaves x) : x.1.Canonical := hx

theorem Canonical.leaves {α : Type} {c : UpeChk} (hc : c.Canonical) (v : α) : Leaves (c, v) := hc

theorem canonical_mk {s : State} (hs : s.Canonical) (range incons index poison : Bool) (scale : Option Nat) :
    (UpeChk.mk s range incons index poison scale).Canonical := hs

theorem leaves_ite {α : Type} {p : Prop} [Decidable p] {x y : UpeChk × α} (hx : Leaves x) (hy : Leaves y) :
    Leaves (if p then x else y) := by
  split
  · exact hx
  · exact hy

theorem canonical_ite {p : Prop} [Decidable p] {c d : UpeChk} (hc : c.Canonical) (hd : d.Canonical) :
    (if p then c else d).Canonical := by
  split
  · exact hc
  · exact hd

theorem leaves_foldl {α β : Type} {f : UpeChk × β → α → UpeChk × β} {c : UpeChk × β} (hc : Leaves c)
    (hf : ∀ c a, Leaves c → Leaves (f c a)) (l : List α) : Leaves (l.foldl f c) := by
  induction l generalizing c with
  | nil => exact hc
  | cons a l ih => exact ih (hf c a hc)

theorem canonical_foldl {α : Type} {f : UpeChk → α → UpeChk} {c : UpeChk} (hc : c.Canonical)
    (hf : ∀ c a, c.Canonical → (f c a).Canonical) (l : List α) : (l.foldl f c).Canonical := by
  induction l generalizing c with
  | nil => exact hc
  | cons a l ih => exact ih (hf c a hc)

variable {c : UpeChk} (hc : c.Canonical)
include hc

theorem bad_canonical (b : Bool) : (c.bad b).Canonical := hc

theorem plane_canonical (a n : Nat) : (c.plane a n).Canonical := hc

theorem read_leaves (a n : Nat) : Leaves (c.read a n) := by
  unfold UpeChk.read
  split
  · exact hc
  split
  · exact hc
  · exact memRead_canonical hc a n 0

theorem scaleRec_leaves (a : Nat) (f : Format) : Leaves (c.scaleRec a f) := by
  unfold UpeChk.scaleRec
  split
  · exact hc
  · exact memRead_canonical hc a 64 0

theorem coef_leaves (w : W64) (used : Bool) (step : Nat) : Leaves (c.coef w used step) := by
  have hbad := bad_canonical hc
  unfold UpeChk.coef
  extract_lets h n p pts q
  have hh : Leaves h := read_leaves hc ..
  clear_value h
  have hp : Leaves p := read_leaves hh.fst ..
  clear_value p
  have hq : q.Canonical := bad_canonical hp.fst _
  clear_value q
  exact leaves_ite ((hbad _).leaves _) (leaves_ite ((hbad _).leaves _) (leaves_ite ((hbad _).leaves _)
    (leaves_ite ((bad_canonical hh.fst _).leaves _) ((canonical_mk hq ..).leaves _))))

theorem entry_leaves (e : List W64) : Leaves (c.entry e) := by
  unfold UpeChk.entry
  extract_lets L sp g bad c1 x idx c2 y z
  have hc1 : c1.Canonical := plane_canonical hc ..
  clear_value c1
  have hx : Leaves x := leaves_ite (read_leaves hc1 ..) (hc1.leaves _)
  clear_value x
  have hy : y.Canonical := canonical_mk hx.fst ..
  clear_value y
  have hz : Leaves z := leaves_ite (scaleRec_leaves hy ..) (hy.leaves _)
  clear_value z
  exact leaves_ite ((bad_canonical hc true).leaves _) (hz.fst.leaves _)

theorem tensor_leaves (e : List W64) (step : Nat) : Leaves (c.tensor e step) := by
  unfold UpeChk.tensor
  extract_lets x n gr g rule c1 c2 c3 c4 c5 c6 c7 c8 lr wd b1 b2 w src
  have hx : Leaves x := entry_leaves hc e
  clear_value x
  have hgr : Leaves gr := read_leaves hx.fst ..
  clear_value gr
  have hc1 : c1.Canonical := bad_canonical hgr.fst _
  clear_value c1
  have hc2 : c2.Canonical := canonical_mk hc1 ..
  clear_value c2
  have hc4 : c4.Canonical := plane_canonical (plane_canonical hc2 ..) ..
  clear_value c4
  have hc5 : c5.Canonical := canonical_ite hc4 (plane_canonical hc4 ..)
  clear_value c5
  have hc6 : c6.Canonical := canonical_ite (plane_canonical hc5 ..) hc5
  clear_value c6
  have hc7 : c7.Canonical := canonical_ite (plane_canonical hc6 ..) hc6
  clear_value c7
  have hlr : Leaves lr := coef_leaves (bad_canonical hc7 _) ..
  clear_value lr
  have hwd : Leaves wd := coef_leaves hlr.fst ..
  clear_value wd
  have hb1 : Leaves b1 := coef_leaves hwd.fst ..
  clear_value b1
  have hb2 : Leaves b2 := coef_leaves hb1.fst ..
  clear_value b2
  have hw : Leaves w := leaves_ite (scaleRec_leaves hb2.fst ..) (hb2.fst.leaves _)
  clear_value w
  exact leaves_ite hx (leaves_ite (hgr.fst.leaves _) (hw.fst.leaves _))

end UpeChk

theorem upeCheck_leaves {s : State} (hs : s.Canonical) (j : Job) : UpeChk.Leaves (upeCheck s j) := by
  unfold upeCheck
  extract_lets w op c c1 nt r f r2 p n c2
  have hc : c.Canonical := hs
  clear_value c
  have hc1 : c1.Canonical := UpeChk.canonical_ite (UpeChk.bad_canonical hc _) hc
  clear_value c1
  have hr : UpeChk.Leaves r := UpeChk.read_leaves hc1 ..
  clear_value r
  have hf : UpeChk.Leaves f := by
    refine UpeChk.leaves_foldl (hr.fst.leaves []) (fun a k ha => ?_) _
    dsimp only
    split
    · exact (UpeChk.tensor_leaves ha.fst ..).fst.leaves _
    · exact (UpeChk.entry_leaves (UpeChk.bad_canonical ha.fst _) _).fst.leaves _
  clear_value f
  have hr2 : UpeChk.Leaves r2 := UpeChk.read_leaves hc ..
  clear_value r2
  have hc2 : c2.Canonical := UpeChk.bad_canonical hr2.fst _
  clear_value c2
  refine UpeChk.leaves_ite ((UpeChk.bad_canonical hc _).leaves _) (UpeChk.leaves_ite
    (UpeChk.leaves_ite (hr.fst.leaves _) (hf.fst.leaves _)) (UpeChk.leaves_ite (hc2.leaves _) (.leaves ?_ _)))
  exact UpeChk.canonical_foldl hc2 (fun _ _ ha => UpeChk.plane_canonical ha ..) _

theorem upeCheck_canonical {s : State} (hs : s.Canonical) (j : Job) : (upeCheck s j).1.s.Canonical := upeCheck_leaves hs j

end

namespace State

theorem upeStart_canonical {s : State} (hs : s.Canonical) (d : Nat) : (s.upeStart d).Canonical := by
  grind [upeStart, upeCheck_canonical, updJob_canonical_iff, setRegF_canonical_iff, upeFail_canonical_iff]

theorem fxUpeJobTake_canonical {s : State} (hs : s.Canonical) (d : Nat) : (s.fxUpeJobTake d).Canonical := by
  grind [fxUpeJobTake, wakeUp_canonical_iff, setRegF_canonical_iff, updJob_canonical_iff, upeStart_canonical]

theorem fxUpeTokenRelease_canonical {s : State} (hs : s.Canonical) (d : Nat) : (s.fxUpeTokenRelease d).Canonical := by
  grind [fxUpeTokenRelease, upeStart_canonical, setRegF_canonical_iff]

@[simp] theorem fxUpeTokenTimeout_canonical_iff (s : State) (d : Nat) : (s.fxUpeTokenTimeout d).Canonical ↔ s.Canonical := by
  unfold fxUpeTokenTimeout
  split <;> simp only [upeFail_canonical_iff, canonical_ite, ite_self]

@[simp] theorem upeDone_canonical_iff (s : State) (d : Nat) (c : List Nat) : (s.upeDone d c).Canonical ↔ s.Canonical := by
  simp only [upeDone, bump_canonical_iff, updJob_canonical_iff, setRegF_canonical_iff]

@[simp] theorem fxUpeJobComplete_canonical_iff (s : State) (d : Nat) : (s.fxUpeJobComplete d).Canonical ↔ s.Canonical := by
  unfold fxUpeJobComplete
  split <;> simp only [bump_canonical_iff, setRegF_canonical_iff, updJob_canonical_iff, canonical_mk, canonical_eta,
    canonical_ite, ite_self]

theorem readCodes_canonical {s : State} (hs : s.Canonical) (a z n hint : Nat) : (s.readCodes a z n hint).1.Canonical := by
  grind [readCodes, memRead_canonical]

theorem writeCodes_canonical {s : State} (hs : s.Canonical) (a z : Nat) (cs : List (Nat × Bool)) (hint : Nat) :
    (s.writeCodes a z cs hint).Canonical := by
  grind [writeCodes, memWriteP_canonical]

theorem upeRow_canonical {s : State} (hs : s.Canonical) (T : UpeTensor) (gmul : W32) (step k row n : Nat) (bad : Bool) :
    (s.upeRow T gmul step k row n bad).1.Canonical := by
  grind [upeRow, readCodes_canonical, writeCodes_canonical]

theorem upeTensor_canonical {s : State} (hs : s.Canonical) (d : Nat) (T : UpeTensor) (ta : Nat) (gmul : W32) (step : Nat) :
    (s.upeTensor d T ta gmul step).1.Canonical := by
  grind [upeTensor, readCodes_canonical, writeCodes_canonical, upeRow_canonical, memWrite_canonical, Canonical.foldl_fst,
    canonical_mk, canonical_eta]

theorem upeGroup_canonical {s : State} (hs : s.Canonical) (T : UpeTensor) (step : Nat) : (s.upeGroup T step).Canonical := by
  grind [upeGroup, memWrite_canonical]

theorem fxUpdate_canonical {s : State} (hs : s.Canonical) (d : Nat) : (s.fxUpdate d).Canonical := by
  grind [fxUpdate, upeTensor_canonical, upeDone_canonical_iff, upeGroup_canonical, Canonical.foldl, Canonical.foldl_fst]

theorem fxNorm_canonical {s : State} (hs : s.Canonical) (d : Nat) : (s.fxNorm d).Canonical := by
  grind [fxNorm, readCodes_canonical, upeDone_canonical_iff, writeCodes_canonical, Canonical.foldl_fst]

theorem readMat_canonical {s : State} (hs : s.Canonical) (a n : Nat) : (s.readMat a n).1.Canonical := by
  grind [readMat, readCodes_canonical]

theorem writeMat_canonical {s : State} (hs : s.Canonical) (a : Nat) (m : List (W32 × Bool)) : (s.writeMat a m).Canonical := by
  grind [writeMat, writeCodes_canonical]

theorem fxStatBlend_canonical {s : State} (hs : s.Canonical) (d : Nat) : (s.fxStatBlend d).Canonical := by
  grind [fxStatBlend, readMat_canonical, writeMat_canonical, upeDone_canonical_iff, memWrite_canonical]

theorem fxRootPrep_canonical {s : State} (hs : s.Canonical) (d : Nat) : (s.fxRootPrep d).Canonical := by
  unfold fxRootPrep
  split
  · exact hs
  next j _ =>
    extract_lets p n damp S A bad ss a refuse
    have hread : S.1.Canonical := readMat_canonical hs ..
    have hrefuse : ∀ s : State, s.Canonical → (refuse s).Canonical := fun s hs =>
      (upeDone_canonical_iff ..).2 (memWrite_canonical (memWrite_canonical hs ..) ..)
    split
    · extract_lets q M X t t'
      refine (hrefuse _ hread).ite ?_
      have ht : t.Canonical := writeMat_canonical (writeMat_canonical hread ..) ..
      exact (upeDone_canonical_iff ..).2 (memWrite_canonical (memWriteP_canonical ht ..) ..)
    · exact hrefuse _ hread

theorem fxRootT_canonical {s : State} (hs : s.Canonical) (d : Nat) : (s.fxRootT d).Canonical := by
  grind [fxRootT, readMat_canonical, upeDone_canonical_iff, writeMat_canonical]

/-! ### Machine/Link -/

@[simp] theorem sendCtrl_canonical_iff (s : State) (p : Nat) (c : Ctrl) : (s.sendCtrl p c).Canonical ↔ s.Canonical := by
  simp only [sendCtrl, emit_canonical_iff]

@[simp] theorem linkOut_canonical_iff (s : State) (p : Nat) (ack nak rep : Option (BitVec 12)) :
    (s.linkOut p ack nak rep).Canonical ↔ s.Canonical := by
  simp only [linkOut, sendCtrl_canonical_iff]

@[simp] theorem clearHeld_canonical_iff (s : State) (d : Nat) : (s.clearHeld d).Canonical ↔ s.Canonical := by
  simp only [clearHeld, updFab_canonical_iff]

@[simp] theorem launch_canonical_iff (s : State) (p : Nat) (q : Packet) : (s.launch p q).Canonical ↔ s.Canonical := by
  simp only [launch, emit_canonical_iff, setReg_canonical_iff, updFab_canonical_iff, setPort_canonical_iff, canonical_ite,
    ite_self]

@[simp] theorem drainReinj_canonical_iff (s : State) (p : Nat) : (s.drainReinj p).Canonical ↔ s.Canonical := by
  simp only [drainReinj, updPort_canonical_iff, launch_canonical_iff, bump_canonical_iff, canonical_ite, ite_self,
    foldl_canonical_iff,
    implies_true]

@[simp] theorem portDown_canonical_iff (s : State) (p cause : Nat) : (s.portDown p cause).Canonical ↔ s.Canonical := by
  simp only [portDown, setRegF_canonical_iff, setLnk_canonical_iff, bump_canonical_iff, updPort_canonical_iff,
    raiseCode_canonical_iff,
    setReady_canonical_iff, canonical_ite, ite_self]

@[simp] theorem lowPower_canonical_iff (s : State) (p : Nat) : (s.lowPower p).Canonical ↔ s.Canonical := by
  simp only [lowPower, setLnk_canonical_iff, updPort_canonical_iff, setReady_canonical_iff, updPwr_canonical_iff, canonical_ite,
    ite_self]

@[simp] theorem sleepStep_canonical_iff (s : State) (p : Nat) : (s.sleepStep p).Canonical ↔ s.Canonical := by
  simp only [sleepStep, sendCtrl_canonical_iff, updPort_canonical_iff, lowPower_canonical_iff, canonical_ite, ite_self]

@[simp] theorem fxPortSleep_canonical_iff (s : State) (p : Nat) : (s.fxPortSleep p).Canonical ↔ s.Canonical := by
  simp only [fxPortSleep, sleepStep_canonical_iff, updPort_canonical_iff, canonical_ite, ite_self]

@[simp] theorem freeTo_canonical_iff (s : State) (p l : Nat) : (s.freeTo p l).Canonical ↔ s.Canonical := by
  simp only [freeTo, updPort_canonical_iff, canonical_ite, ite_self]

@[simp] theorem replay_canonical_iff (s : State) (p : Nat) : (s.replay p).Canonical ↔ s.Canonical := by
  simp only [replay, linkOut_canonical_iff, portDown_canonical_iff, updPort_canonical_iff, maxF_canonical_iff, bump_canonical_iff,
    setReg_canonical_iff,
    emit_canonical_iff, canonical_ite, ite_self, foldl_canonical_iff, implies_true]

@[simp] theorem fxLinkFlit_canonical_iff (s : State) (p : Nat) (f : LinkFlit) : (s.fxLinkFlit p f).Canonical ↔ s.Canonical := by
  grind [fxLinkFlit, portDown_canonical_iff, updPort_canonical_iff, freeTo_canonical_iff, replay_canonical_iff,
    sleepStep_canonical_iff,
    drainReinj_canonical_iff]

@[simp] theorem goUp_canonical_iff (s : State) (p : Nat) : (s.goUp p).Canonical ↔ s.Canonical := by
  simp only [goUp, setLnk_canonical_iff, updPort_canonical_iff, drainReinj_canonical_iff, setReady_canonical_iff,
    clearHeld_canonical_iff,
    fxPortSleep_canonical_iff, canonical_ite, ite_self]

@[simp] theorem initDone_canonical_iff (s : State) (p : Nat) : (s.initDone p).Canonical ↔ s.Canonical := by
  simp only [initDone, goUp_canonical_iff, canonical_ite, ite_self]

@[simp] theorem newPartner_canonical_iff (s : State) (p : Nat) (id : W64) (gen : Nat) :
    (s.newPartner p id gen).Canonical ↔ s.Canonical := by
  simp only [newPartner, updFab_canonical_iff, clearHeld_canonical_iff, updPort_canonical_iff, bump_canonical_iff, canonical_ite,
    ite_self,
    foldl_canonical_iff, implies_true]

@[simp] theorem fxInitFlit_canonical_iff (s : State) (p : Nat) (f : InitFlit) : (s.fxInitFlit p f).Canonical ↔ s.Canonical := by
  simp only [fxInitFlit, newPartner_canonical_iff, portDown_canonical_iff, setRegF_canonical_iff, setReg_canonical_iff,
    setReady_canonical_iff,
    setLnk_canonical_iff, initDone_canonical_iff, updPort_canonical_iff, canonical_ite, ite_self]

@[simp] theorem fxInitSend_canonical_iff (s : State) (p : Nat) : (s.fxInitSend p).Canonical ↔ s.Canonical := by
  simp only [fxInitSend, sendCtrl_canonical_iff, initDone_canonical_iff, updPort_canonical_iff, canonical_ite, ite_self]

@[simp] theorem fxSleep_canonical_iff (s : State) (p : Nat) : (s.fxSleep p).Canonical ↔ s.Canonical := by
  simp only [fxSleep, sleepStep_canonical_iff, updPort_canonical_iff, canonical_ite, ite_self]

@[simp] theorem fxSleepAck_canonical_iff (s : State) (p : Nat) : (s.fxSleepAck p).Canonical ↔ s.Canonical := by
  simp only [fxSleepAck, lowPower_canonical_iff, canonical_ite, ite_self]

@[simp] theorem setDepth_canonical_iff (s : State) (p v n : Nat) : (s.setDepth p v n).Canonical ↔ s.Canonical := by
  simp only [setDepth, setRegF_canonical_iff, maxF_canonical_iff]

@[simp] theorem setInp_canonical_iff (s : State) (p v : Nat) (l : List RxPkt) : (s.setInp p v l).Canonical ↔ s.Canonical := by
  simp only [setInp, setDepth_canonical_iff, updPort_canonical_iff]

@[simp] theorem packetIn_canonical_iff (s : State) (p : Nat) (fl : List (List Byte)) :
    (s.packetIn p fl).Canonical ↔ s.Canonical := by
  simp only [packetIn, updFab_canonical_iff, setInp_canonical_iff, canonical_ite, ite_self]

@[simp] theorem sendAck_canonical_iff (s : State) (p : Nat) : (s.sendAck p).Canonical ↔ s.Canonical := by
  simp only [sendAck, updPort_canonical_iff, linkOut_canonical_iff]

@[simp] theorem flitIn_canonical_iff (s : State) (p : Nat) (head : Bool) (b : List Byte) :
    (s.flitIn p head b).Canonical ↔ s.Canonical := by
  grind [flitIn, updPort_canonical_iff, sendAck_canonical_iff, setReg_canonical_iff, packetIn_canonical_iff]

@[simp] theorem ctrlIn_canonical_iff (s : State) (p : Nat) (c : Ctrl) : (s.ctrlIn p c).Canonical ↔ s.Canonical := by
  unfold ctrlIn
  split <;> simp only [fxLinkFlit_canonical_iff, fxInitFlit_canonical_iff, fxSleep_canonical_iff, fxSleepAck_canonical_iff]

@[simp] theorem slotIn_canonical_iff (s : State) (p : Nat) (x : SlotIn) : (s.slotIn p x).Canonical ↔ s.Canonical := by
  unfold slotIn
  split <;> simp only [ctrlIn_canonical_iff, bump_canonical_iff, flitIn_canonical_iff, canonical_ite, ite_self]

@[simp] theorem fxCodewordReceive_canonical_iff (s : State) (p : Nat) (cw : CodewordIn) :
    (s.fxCodewordReceive p cw).Canonical ↔ s.Canonical := by
  unfold fxCodewordReceive
  split
  · rfl
  cases cw with
  | align => rfl
  | decoded n slots => simp only [canonical_ite, bump_canonical_iff, slotIn_canonical_iff, foldl_canonical_iff, implies_true,
    ite_self]
  | uncorrectable => simp only [canonical_ite, bump_canonical_iff, linkOut_canonical_iff, updPort_canonical_iff, ite_self]

@[simp] theorem fxNakRepeat_canonical_iff (s : State) (p : Nat) : (s.fxNakRepeat p).Canonical ↔ s.Canonical := by
  simp only [fxNakRepeat, linkOut_canonical_iff, canonical_ite, ite_self]

@[simp] theorem fxAckTimer_canonical_iff (s : State) (p : Nat) : (s.fxAckTimer p).Canonical ↔ s.Canonical := by
  simp only [fxAckTimer, sendAck_canonical_iff, canonical_ite, ite_self]

@[simp] theorem fxReplayTimeout_canonical_iff (s : State) (p : Nat) : (s.fxReplayTimeout p).Canonical ↔ s.Canonical := by
  simp only [fxReplayTimeout, replay_canonical_iff, canonical_ite, ite_self]

@[simp] theorem fxLinkTrainingDone_canonical_iff (s : State) (p : Nat) : (s.fxLinkTrainingDone p).Canonical ↔ s.Canonical := by
  simp only [fxLinkTrainingDone, updPort_canonical_iff, setLnk_canonical_iff, canonical_ite, ite_self]

@[simp] theorem fxTrainFail_canonical_iff (s : State) (p : Nat) : (s.fxTrainFail p).Canonical ↔ s.Canonical := by
  simp only [fxTrainFail, portDown_canonical_iff, canonical_ite, ite_self]

@[simp] theorem fxLockLoss_canonical_iff (s : State) (p : Nat) : (s.fxLockLoss p).Canonical ↔ s.Canonical := by
  simp only [fxLockLoss, portDown_canonical_iff, canonical_ite, ite_self]

@[simp] theorem fxPartnerSignalLoss_canonical_iff (s : State) (p : Nat) : (s.fxPartnerSignalLoss p).Canonical ↔ s.Canonical := by
  simp only [fxPartnerSignalLoss, portDown_canonical_iff, canonical_ite, ite_self]

@[simp] theorem fxAutoRetrain_canonical_iff (s : State) (p : Nat) : (s.fxAutoRetrain p).Canonical ↔ s.Canonical := by
  simp only [fxAutoRetrain, setLnk_canonical_iff, canonical_ite, ite_self]

@[simp] theorem fxLnkRetrain_canonical_iff (s : State) (p : Nat) : (s.fxLnkRetrain p).Canonical ↔ s.Canonical := by
  simp only [fxLnkRetrain, setLnk_canonical_iff, portDown_canonical_iff, canonical_ite, ite_self]

theorem portGate_canonical {s : State} (hs : s.Canonical) (p : Nat) (f : State → State)
    (hf : ∀ s, s.Canonical → (f s).Canonical) :
    (s.portGate p f).Canonical := by
  grind [portGate, gate_canonical]

@[simp] theorem fxLnkEnable_canonical_iff (s : State) (p : Nat) (on : Bool) : (s.fxLnkEnable p on).Canonical ↔ s.Canonical := by
  simp only [fxLnkEnable, setBit_canonical_iff, setLnk_canonical_iff, clrBit_canonical_iff, portDown_canonical_iff, canonical_ite,
    ite_self]

@[simp] theorem fxClrCnt_canonical_iff (s : State) (p : Nat) : (s.fxClrCnt p).Canonical ↔ s.Canonical := by
  simp only [fxClrCnt, setReg_canonical_iff, foldl_canonical_iff, implies_true]

@[simp] theorem fxReinject_canonical_iff (s : State) (p : Nat) : (s.fxReinject p).Canonical ↔ s.Canonical := by
  grind [fxReinject, updPort_canonical_iff, drainReinj_canonical_iff, updFab_canonical_iff]

@[simp] theorem fxSleepAckTimeout_canonical_iff (s : State) (p : Nat) : (s.fxSleepAckTimeout p).Canonical ↔ s.Canonical := by
  simp only [fxSleepAckTimeout, portDown_canonical_iff, canonical_ite, ite_self]

@[simp] theorem fxSignalDetectWake_canonical_iff (s : State) (p : Nat) : (s.fxSignalDetectWake p).Canonical ↔ s.Canonical := by
  simp only [fxSignalDetectWake, portWake_canonical_iff, wakeUp_canonical_iff, updPort_canonical_iff, canonical_ite, ite_self]

@[simp] theorem fxLanternDetect_canonical_iff (s : State) (p bursts : Nat) :
    (s.fxLanternDetect p bursts).Canonical ↔ s.Canonical := by
  simp only [fxLanternDetect, setBit_canonical_iff, portWake_canonical_iff, wakeUp_canonical_iff, canonical_ite, ite_self]

@[simp] theorem fxLanternSend_canonical_iff (s : State) (p : Nat) : (s.fxLanternSend p).Canonical ↔ s.Canonical := by
  simp only [fxLanternSend, emit_canonical_iff, canonical_ite, ite_self]

/-! ### Machine/Rings -/

@[simp] theorem qcfgErr_canonical_iff (s : State) (n code : Nat) : (s.qcfgErr n code).Canonical ↔ s.Canonical := by
  simp only [qcfgErr, setReg_canonical_iff]

@[simp] theorem queueErr_canonical_iff (s : State) (n err : Nat) : (s.queueErr n err).Canonical ↔ s.Canonical := by
  simp only [queueErr, setRegF_canonical_iff, canonical_mk, canonical_eta]

theorem putEntry_canonical {s : State} (hs : s.Canonical) (q : Nat) (ws : List W64) : (s.putEntry q ws).Canonical := by
  grind [putEntry, memWrite_canonical, hostWrite_canonical, setRegF_canonical_iff, bump_canonical_iff, setQueueSt_canonical_iff]

@[simp] theorem stamp_canonical_iff (s : State) (e : Evt) : (s.stamp e).2.Canonical ↔ s.Canonical := by
  simp only [stamp, now_canonical_iff, canonical_mk, canonical_eta]

@[simp] theorem countHeld_canonical_iff (s : State) : s.countHeld.Canonical ↔ s.Canonical := by
  simp only [countHeld, setRegF_canonical_iff]

theorem flushEvents_canonical (q x1 : Nat) {x2 : State} (hs : x2.Canonical) : (flushEvents q x1 x2).Canonical := by
  fun_induction flushEvents <;> grind [stamp_canonical_iff, putEntry_canonical, countHeld_canonical_iff, canonical_mk,
    canonical_eta]

theorem flushEq_canonical {s : State} (hs : s.Canonical) (q : Nat) : (s.flushEq q).Canonical := by
  grind [flushEq, calm_canonical, flushEvents_canonical]

theorem fxEventDelivery_canonical {s : State} (hs : s.Canonical) : s.fxEventDelivery.Canonical := by
  grind [fxEventDelivery, stamp_canonical_iff, calm_canonical, putEntry_canonical, countHeld_canonical_iff, bump_canonical_iff,
    canonical_mk, canonical_eta]

@[simp] theorem sendVector_canonical_iff (s : State) (v : Nat) : (s.sendVector v).Canonical ↔ s.Canonical := by
  simp only [sendVector, setBit_canonical_iff, emit_canonical_iff, canonical_ite, ite_self]

@[simp] theorem fxMsixSend_canonical_iff (s : State) (q : Nat) (late : Bool) : (s.fxMsixSend q late).Canonical ↔ s.Canonical := by
  simp only [fxMsixSend, clrBit_canonical_iff, setQueueSt_canonical_iff, sendVector_canonical_iff, canonical_ite, ite_self]

@[simp] theorem qWrite0_canonical_iff (s : State) (n : Nat) (v : W64) : (s.qWrite0 n v).Canonical ↔ s.Canonical := by
  simp only [qWrite0, setReg_canonical_iff]

theorem fxQueueEnable_canonical {s : State} (hs : s.Canonical) (n : Nat) (v : W64) : (s.fxQueueEnable n v).Canonical := by
  grind [fxQueueEnable, qcfgErr_canonical_iff, qWrite0_canonical_iff, setRegF_canonical_iff, setReg_canonical_iff,
    setQueueSt_canonical_iff, flushEq_canonical]

@[simp] theorem fxQueueDisable_canonical_iff (s : State) (n : Nat) (v : W64) :
    (s.fxQueueDisable n v).Canonical ↔ s.Canonical := by
  simp only [fxQueueDisable, qcfgErr_canonical_iff, clrBit_canonical_iff, setQueueSt_canonical_iff, countHeld_canonical_iff,
    canonical_mk,
    canonical_eta, canonical_ite, ite_self]

theorem ring_canonical {s : State} (hs : s.Canonical) (n : Nat) (v : W64) : (s.ring n v).Canonical := by
  grind [ring, bump_canonical_iff, queueErr_canonical_iff, setRegF_canonical_iff, setQueueSt_canonical_iff, setBit_canonical_iff,
    flushEq_canonical]

@[simp] theorem bar4Err_canonical_iff (s : State) (kind a : Nat) : (s.bar4Err kind a).Canonical ↔ s.Canonical := by
  simp only [bar4Err, setRegF_canonical_iff, bump_canonical_iff]

theorem bar4Data_canonical {s : State} (hs : s.Canonical) (a n : Nat) : (s.bar4Data a n).Canonical := by
  grind [bar4Data, memRead_canonical, bar4Err_canonical_iff, emit_canonical_iff]

theorem hostAct_canonical {s : State} (hs : s.Canonical) (x1 : HostReq) : (s.hostAct x1).Canonical := by
  unfold hostAct
  repeat' split
  all_goals grind [memWrite_canonical, bar4Data_canonical, ring_canonical]

theorem hostRequest_canonical {s : State} (hs : s.Canonical) (r : HostReq) : (s.hostRequest r).Canonical := by
  grind [hostRequest, calm_canonical, hostAct_canonical, canonical_mk, canonical_eta]

theorem hostDrain_canonical (x1 : Nat) {x2 : State} (hs : x2.Canonical) : (hostDrain x1 x2).Canonical := by
  fun_induction hostDrain <;> grind [hostAct_canonical, canonical_mk, canonical_eta]

theorem resume_canonical {s : State} (hs : s.Canonical) : s.resume.Canonical := by
  grind [resume, calm_canonical, hostDrain_canonical, flushEq_canonical, Canonical.foldl]

theorem fxBar4Read_canonical {s : State} (hs : s.Canonical) (off n : Nat) : (s.fxBar4Read off n).Canonical := by
  grind [fxBar4Read, emit_canonical_iff, bar4Err_canonical_iff, hostRequest_canonical]

theorem fxBar4Write_canonical {s : State} (hs : s.Canonical) (off : Nat) (data : List Byte) :
    (s.fxBar4Write off data).Canonical := by
  grind [fxBar4Write, bar4Err_canonical_iff, hostRequest_canonical]

theorem fxDoorbell_canonical {s : State} (hs : s.Canonical) (off size : Nat) (v : W64) : (s.fxDoorbell off size v).Canonical := by
  grind [fxDoorbell, hostRequest_canonical]

theorem fxDoorbellArm_canonical {s : State} (hs : s.Canonical) (off size : Nat) (v : W64) :
    (s.fxDoorbellArm off size v).Canonical := by
  grind [fxDoorbellArm, fxDoorbell_canonical]

theorem fxSqFetch_canonical {s : State} (hs : s.Canonical) (n : Nat) (r : RingRead) : (s.fxSqFetch n r).Canonical := by
  grind [fxSqFetch, memRead_canonical, queueErr_canonical_iff, setQueueSt_canonical_iff, Canonical.foldl_fst]

@[simp] theorem fxSqEntryTake_canonical_iff (s : State) (k : Nat) : (s.fxSqEntryTake k).Canonical ↔ s.Canonical := by
  grind [fxSqEntryTake, setQueueSt_canonical_iff, setRegF_canonical_iff, bump_canonical_iff, setTgt_canonical_iff]

theorem fxCompletionPost_canonical {s : State} (hs : s.Canonical) (k : Nat) : (s.fxCompletionPost k).Canonical := by
  grind [fxCompletionPost, setTgt_canonical_iff, putEntry_canonical]

/-! ### Machine/Fabric -/

@[simp] theorem setRt_canonical_iff (s : State) (bank e : Nat) (v : W64) : (s.setRt bank e v).Canonical ↔ s.Canonical := by
  simp only [setRt, updFab_canonical_iff]

@[simp] theorem fabDrop_canonical_iff (s : State) (k : Nat) (q : Packet) (port : Nat) :
    (s.fabDrop k q port).Canonical ↔ s.Canonical := by
  simp only [fabDrop, bump_canonical_iff, updFab_canonical_iff, record_canonical_iff, raiseCode_canonical_iff, canonical_mk,
    canonical_eta,
    canonical_ite, ite_self]

@[simp] theorem injectForm_canonical_iff (s : State) (q : Packet) (hub : Nat) :
    (s.injectForm q hub).2.Canonical ↔ s.Canonical := by
  grind [injectForm, updFab_canonical_iff]

@[simp] theorem takeWaiting_canonical_iff (s : State) (x : Packet × Nat × Option Nat) :
    (s.takeWaiting x).Canonical ↔ s.Canonical := by
  unfold takeWaiting
  split <;> simp only [updFab_canonical_iff, canonical_mk, canonical_eta, canonical_ite, ite_self]

@[simp] theorem handOver_canonical_iff (s : State) (q : Packet) (port : Nat) : (s.handOver q port).Canonical ↔ s.Canonical := by
  simp only [handOver, updFab_canonical_iff, canonical_ite, ite_self]

@[simp] theorem placeOn_canonical_iff (s : State) (o d : Nat) (q : Packet) : (s.placeOn o d q).Canonical ↔ s.Canonical := by
  simp only [placeOn, updFab_canonical_iff, launch_canonical_iff]

@[simp] theorem send_canonical_iff (s : State) (hub : Nat) (q : Packet) : (s.send hub q).Canonical ↔ s.Canonical := by
  grind [send, updFab_canonical_iff]

@[simp] theorem freeBuf_canonical_iff (s : State) (p v : Nat) : (s.freeBuf p v).Canonical ↔ s.Canonical := by
  simp only [freeBuf, updPort_canonical_iff]

@[simp] theorem judge_canonical_iff (s : State) (p : Nat) (q : Packet) : (s.judge p q).2.Canonical ↔ s.Canonical := by
  unfold judge
  extract_lets k E seen d
  split
  · rfl
  split
  · rfl
  split
  · rfl
  · exact updFab_canonical_iff s _

@[simp] theorem routeIn_canonical_iff (s : State) (p v : Nat) : (s.routeIn p v).Canonical ↔ s.Canonical := by
  simp only [routeIn]
  split
  · rfl
  split
  · rfl
  next x _ =>
  have hj := judge_canonical_iff s p x.pkt
  generalize s.judge p x.pkt = j at hj
  simp only [canonical_ite, freeBuf_canonical_iff, setInp_canonical_iff, bump_canonical_iff, updFab_canonical_iff,
    portDown_canonical_iff, ite_self, hj]
  split
  · rfl
  split
  · rfl
  split
  · simp only [freeBuf_canonical_iff, setInp_canonical_iff, fabDrop_canonical_iff, setReg_canonical_iff, hj]
  · split
    · simp only [freeBuf_canonical_iff, setInp_canonical_iff, fabDrop_canonical_iff, setReg_canonical_iff, hj]
    · simp only [freeBuf_canonical_iff, setInp_canonical_iff, handOver_canonical_iff, setReg_canonical_iff, hj]
    · simp only [setInp_canonical_iff, setReg_canonical_iff, hj]

@[simp] theorem routeOwn_canonical_iff (s : State) : s.routeOwn.Canonical ↔ s.Canonical := by
  refine getD_canonical_iff fun t h => ?_
  obtain ⟨x, -, hx⟩ := List.exists_of_findSome?_eq_some h
  simp only at hx
  split at hx
  · cases hx
  split at hx
  · cases hx
    simp only [fabDrop_canonical_iff, takeWaiting_canonical_iff, injectForm_canonical_iff]
  · split at hx <;> cases hx
    · simp only [fabDrop_canonical_iff, takeWaiting_canonical_iff, injectForm_canonical_iff]
    · simp only [handOver_canonical_iff, takeWaiting_canonical_iff, injectForm_canonical_iff]

@[simp] theorem fxPacketRoute_canonical_iff (s : State) (src : RouteSrc) : (s.fxPacketRoute src).Canonical ↔ s.Canonical := by
  simp only [fxPacketRoute]
  grind [routeIn_canonical_iff, routeOwn_canonical_iff]

@[simp] theorem forwardIn_canonical_iff (s : State) (p v : Nat) : (s.forwardIn p v).Canonical ↔ s.Canonical := by
  grind [forwardIn, freeBuf_canonical_iff, setInp_canonical_iff, fabDrop_canonical_iff, handOver_canonical_iff,
    placeOn_canonical_iff]

@[simp] theorem forwardOwn_canonical_iff (s : State) : s.forwardOwn.Canonical ↔ s.Canonical := by
  refine getD_canonical_iff fun t h => ?_
  obtain ⟨x, -, hx⟩ := List.exists_of_findSome?_eq_some h
  simp only at hx
  split at hx
  · cases hx
  split at hx
  · cases hx
  split at hx
  · split at hx
    · split at hx <;> cases hx
      simp only [placeOn_canonical_iff, takeWaiting_canonical_iff, injectForm_canonical_iff]
    · cases hx
  · cases hx

@[simp] theorem fxPacketForward_canonical_iff (s : State) (src : RouteSrc) : (s.fxPacketForward src).Canonical ↔ s.Canonical := by
  simp only [fxPacketForward]
  grind [forwardIn_canonical_iff, forwardOwn_canonical_iff]

@[simp] theorem fxAutoWakeLantern_canonical_iff (s : State) (p : Nat) : (s.fxAutoWakeLantern p).Canonical ↔ s.Canonical := by
  simp only [fxAutoWakeLantern, emit_canonical_iff, updPort_canonical_iff, setBit_canonical_iff, canonical_ite, ite_self]

theorem takeLocal_canonical_iff (s : State) (want : Packet → Bool) :
    ∀ t, (s.takeLocal want) = some t → (t.2.Canonical ↔ s.Canonical) := by
  grind [takeLocal, updFab_canonical_iff]

@[simp] theorem payload_canonical_iff (s : State) (x : Packet × Nat) : (s.payload x).2.Canonical ↔ s.Canonical := by
  simp only [payload]
  split <;> simp only [raiseCode_canonical_iff]

theorem fxPut_canonical {s : State} (hs : s.Canonical) : s.fxPut.Canonical := by
  unfold fxPut
  split
  · exact hs
  next x t h =>
    have hpay := (payload_canonical_iff t x).2 ((takeLocal_canonical_iff s _ _ h).2 hs)
    exact (send_canonical_iff ..).2 (.ite (memWriteP_canonical hpay ..) hpay)

theorem fxMsg_canonical {s : State} (hs : s.Canonical) : s.fxMsg.Canonical := by
  unfold fxMsg
  split
  · exact hs
  next x t h =>
    have hpay := (payload_canonical_iff t x).2 ((takeLocal_canonical_iff s _ _ h).2 hs)
    refine .ite ((bump_canonical_iff ..).2 hpay) (.ite ((bump_canonical_iff ..).2 hpay) ?_)
    exact Canonical.foldl ((stamp_canonical_iff ..).2 hpay) (fun s i hs => putEntry_canonical hs ..) _

@[simp] theorem fxToken_canonical_iff (s : State) : s.fxToken.Canonical ↔ s.Canonical := by
  unfold fxToken
  split
  · rfl
  next x t h =>
    have ht := takeLocal_canonical_iff _ _ _ h
    simp only
    split
    · exact ht
    · exact (addToken_canonical_iff _ _ _ _).trans ht

@[simp] theorem updVigil_canonical_iff (s : State) (f : VigilSt → VigilSt) : (s.updVigil f).Canonical ↔ s.Canonical := by
  simp only [updVigil, updFab_canonical_iff]

@[simp] theorem pauseCles_canonical_iff (s : State) (on : Bool) : (s.pauseCles on).Canonical ↔ s.Canonical := by
  simp only [pauseCles, setRegF_canonical_iff, canonical_ite, ite_self, foldl_canonical_iff, implies_true]

@[simp] theorem vigilStopHere_canonical_iff (s : State) : s.vigilStopHere.Canonical ↔ s.Canonical := by
  simp only [vigilStopHere, pauseCles_canonical_iff, setRegF_canonical_iff, updFab_canonical_iff, clearHeld_canonical_iff,
    record_canonical_iff,
    updVigil_canonical_iff, canonical_ite, ite_self, foldl_canonical_iff, implies_true]

@[simp] theorem exchange_canonical_iff (s : State) : s.exchange.Canonical ↔ s.Canonical := by
  simp only [exchange, setRegF_canonical_iff]

@[simp] theorem vigilAct_canonical_iff (s : State) (stage : Nat) : (s.vigilAct stage).Canonical ↔ s.Canonical := by
  unfold vigilAct
  split <;> simp only [vigilStopHere_canonical_iff, setRegF_canonical_iff, exchange_canonical_iff, updVigil_canonical_iff,
    pauseCles_canonical_iff,
    canonical_ite, ite_self]

@[simp] theorem vigilStage_canonical_iff (s : State) (stage : Nat) : (s.vigilStage stage).Canonical ↔ s.Canonical := by
  simp only [vigilStage, updVigil_canonical_iff, vigilAct_canonical_iff, send_canonical_iff, foldl_canonical_iff, implies_true]

@[simp] theorem vigilCounts_canonical_iff (s : State) : s.vigilCounts.2.Canonical ↔ s.Canonical := by
  simp only [vigilCounts, updFab_canonical_iff]

@[simp] theorem vigilFailed_canonical_iff (s : State) (result : Nat) : (s.vigilFailed result).Canonical ↔ s.Canonical := by
  simp only [vigilFailed, record_canonical_iff, canonical_mk, canonical_eta]

@[simp] theorem vigilEnd_canonical_iff (s : State) (result : Nat) : (s.vigilEnd result).Canonical ↔ s.Canonical := by
  simp only [vigilEnd, vigilStage_canonical_iff, updVigil_canonical_iff, vigilFailed_canonical_iff, canonical_ite, ite_self]

@[simp] theorem vigilRoot_canonical_iff (s : State) : s.vigilRoot.Canonical ↔ s.Canonical := by
  simp only [vigilRoot]
  split <;> simp only [vigilStage_canonical_iff, vigilCounts_canonical_iff, updVigil_canonical_iff, vigilEnd_canonical_iff,
    canonical_ite,
    ite_self]

@[simp] theorem vigilAnswer_canonical_iff (s : State) : s.vigilAnswer.Canonical ↔ s.Canonical := by
  simp only [vigilAnswer]
  split <;> simp only [updVigil_canonical_iff, vigilCounts_canonical_iff, send_canonical_iff]

@[simp] theorem vigilSettle_canonical_iff (x1 : Nat) (x2 : State) : (vigilSettle x1 x2).Canonical ↔ x2.Canonical := by
  fun_induction vigilSettle <;> grind [vigilRoot_canonical_iff, vigilAnswer_canonical_iff]

@[simp] theorem fxVigilStart_canonical_iff (s : State) (_w : Who) (v : W64) : (s.fxVigilStart _w v).Canonical ↔ s.Canonical := by
  simp only [fxVigilStart, setRegF_canonical_iff, vigilSettle_canonical_iff, vigilStage_canonical_iff, updVigil_canonical_iff,
    canonical_ite,
    ite_self]

theorem takeVigil_canonical_iff (s : State) (stage : Nat → Bool) :
    ∀ t, (s.takeVigil stage) = some t → (t.2.Canonical ↔ s.Canonical) := by
  exact takeLocal_canonical_iff _ _

@[simp] theorem vigilDown_canonical_iff (s : State) (stage : Nat) : (s.vigilDown stage).Canonical ↔ s.Canonical := by
  unfold vigilDown
  split
  · rfl
  next x t h =>
    have ht := takeVigil_canonical_iff _ _ _ h
    simp only [canonical_ite, vigilSettle_canonical_iff, vigilStage_canonical_iff, updVigil_canonical_iff, ite_self, ht]

@[simp] theorem fxVigilStop_canonical_iff (s : State) : s.fxVigilStop.Canonical ↔ s.Canonical := by
  simp only [fxVigilStop, vigilDown_canonical_iff]

@[simp] theorem fxVigilCommit_canonical_iff (s : State) : s.fxVigilCommit.Canonical ↔ s.Canonical := by
  simp only [fxVigilCommit, vigilDown_canonical_iff]

@[simp] theorem fxVigilRollback_canonical_iff (s : State) : s.fxVigilRollback.Canonical ↔ s.Canonical := by
  simp only [fxVigilRollback, vigilDown_canonical_iff]

@[simp] theorem fxVigilResume_canonical_iff (s : State) : s.fxVigilResume.Canonical ↔ s.Canonical := by
  simp only [fxVigilResume, vigilDown_canonical_iff]

@[simp] theorem fxVigilCount_canonical_iff (s : State) : s.fxVigilCount.Canonical ↔ s.Canonical := by
  simp only [fxVigilCount, vigilSettle_canonical_iff, vigilDown_canonical_iff, canonical_ite, ite_self]

@[simp] theorem fxVigilReply_canonical_iff (s : State) : s.fxVigilReply.Canonical ↔ s.Canonical := by
  unfold fxVigilReply
  split
  · rfl
  next x t h =>
    have ht := takeLocal_canonical_iff _ _ _ h
    simp only [canonical_ite, vigilSettle_canonical_iff, updVigil_canonical_iff, payload_canonical_iff, ite_self, ht]

@[simp] theorem fxVigilStageTimeout_canonical_iff (s : State) : s.fxVigilStageTimeout.Canonical ↔ s.Canonical := by
  simp only [fxVigilStageTimeout, vigilEnd_canonical_iff, vigilSettle_canonical_iff, vigilStage_canonical_iff, canonical_ite,
    ite_self]

@[simp] theorem fxVigilSelfResume_canonical_iff (s : State) : s.fxVigilSelfResume.Canonical ↔ s.Canonical := by
  simp only [fxVigilSelfResume, vigilAct_canonical_iff, updVigil_canonical_iff, canonical_ite, ite_self]

@[simp] theorem fxFabRetire_canonical_iff (s : State) (v : W64) : (s.fxFabRetire v).Canonical ↔ s.Canonical := by
  simp only [fxFabRetire, updFab_canonical_iff]

@[simp] theorem fxFabClrMon_canonical_iff (s : State) : s.fxFabClrMon.Canonical ↔ s.Canonical := by
  simp only [fxFabClrMon, setRegF_canonical_iff, foldl_canonical_iff, implies_true]

/-! ### Machine/Collect -/

theorem takeToken_canonical_iff (s : State) (c ctr v : Nat) :
    ∀ t, (s.takeToken c ctr v) = some t → (t.Canonical ↔ s.Canonical) := by
  grind [takeToken, setRegF_canonical_iff]

@[simp] theorem signal_canonical_iff (s : State) (c ctr add : Nat) : (s.signal c ctr add).Canonical ↔ s.Canonical := by
  simp only [signal, canonical_mk, canonical_eta]

@[simp] theorem endJob_canonical_iff (s : State) (k status : Nat) (res : List W64) :
    (s.endJob k status res).Canonical ↔ s.Canonical := by
  simp only [endJob, updJob_canonical_iff]

theorem copySend_canonical (h x1 : Nat) {x2 : State} (hs : x2.Canonical) : (copySend h x1 x2).Canonical := by
  fun_induction copySend <;> grind [memRead_canonical, updJob_canonical_iff, send_canonical_iff]

theorem copyStart_canonical {s : State} (hs : s.Canonical) (h : Nat) (j : Job) : (s.copyStart h j).Canonical := by
  grind [copyStart, copySend_canonical, updJob_canonical_iff, endJob_canonical_iff]

theorem fxCopyOut_canonical {s : State} (hs : s.Canonical) (h : Nat) : (s.fxCopyOut h).Canonical := by
  grind [fxCopyOut, copySend_canonical, endJob_canonical_iff, copyStart_canonical, takeToken_canonical_iff, updJob_canonical_iff]

@[simp] theorem fxTransferTokenTimeout_canonical_iff (s : State) (h : Nat) :
    (s.fxTransferTokenTimeout h).Canonical ↔ s.Canonical := by
  unfold fxTransferTokenTimeout
  split <;> simp only [endJob_canonical_iff, canonical_ite, ite_self]

@[simp] theorem copyTimeout_canonical_iff (s : State) (h : Nat) : (s.copyTimeout h).Canonical ↔ s.Canonical := by
  unfold copyTimeout
  split <;> simp only [endJob_canonical_iff, canonical_ite, ite_self]

theorem copyAck_canonical {s : State} (hs : s.Canonical) (h : Nat) (q : Packet) : (s.copyAck h q).Canonical := by
  grind [copyAck, endJob_canonical_iff, updJob_canonical_iff, send_canonical_iff, signal_canonical_iff, copySend_canonical]

@[simp] theorem updCle_canonical_iff (s : State) (e : Nat) (f : CleSt → CleSt) : (s.updCle e f).Canonical ↔ s.Canonical := by
  simp only [updCle, setCle_canonical_iff]

@[simp] theorem segSend_canonical_iff (s : State) (e : Nat) (w : List W64) (toNext : Bool) (x : Seg) :
    (s.segSend e w toNext x).Canonical ↔ s.Canonical := by
  simp only [segSend, send_canonical_iff, bump_canonical_iff, updCle_canonical_iff]

@[simp] theorem segFree_canonical_iff (s : State) (e : Nat) (w : List W64) (fromNext : Bool) (kind tc : Nat) :
    (s.segFree e w fromNext kind tc).Canonical ↔ s.Canonical := by
  simp only [segFree, updCle_canonical_iff, send_canonical_iff]

theorem readIn_canonical {s : State} (hs : s.Canonical) (w : List W64) (g : Nat) : (s.readIn w g).1.Canonical := by
  grind [readIn, readCodes_canonical]

theorem writeOut_canonical {s : State} (hs : s.Canonical) (e : Nat) (w : List W64) (g : Nat) (vs : List (W32 × Bool)) :
    (s.writeOut e w g vs).Canonical := by
  grind [writeOut, writeCodes_canonical, updCle_canonical_iff]

theorem sumOn_canonical {s : State} (hs : s.Canonical) (e : Nat) (w : List W64) (g : Nat) (vs : List (W32 × Bool)) :
    ∀ t, (s.sumOn e w g vs) = some t → t.Canonical := by
  grind [sumOn, segSend_canonical_iff, writeOut_canonical]

theorem writeRaw_canonical {s : State} (hs : s.Canonical) (e a n : Nat) (x : Seg) : (s.writeRaw e a n x).Canonical := by
  grind [writeRaw, memWriteP_canonical, updCle_canonical_iff]

theorem segStep_canonical {s : State} (hs : s.Canonical) (e : Nat) (w : List W64) (fromNext : Bool) (x : Seg) :
    ∀ t, s.segStep e w fromNext x = some t → t.Canonical := by
  intro t h
  simp only [segStep, Option.map_eq_some_iff] at h
  obtain ⟨u, hu, rfl⟩ := h
  rw [segFree_canonical_iff]
  split at hu
  · exact sumOn_canonical (readIn_canonical hs ..) _ _ _ _ _ hu
  · grind only [writeOut_canonical, segSend_canonical_iff]
  · grind only [writeRaw_canonical, segSend_canonical_iff]
  · grind only [writeRaw_canonical, updCle_canonical_iff]

theorem heldStep_canonical {s : State} (hs : s.Canonical) (e : Nat) (w : List W64) :
    ∀ t, s.heldStep e w = some t → t.Canonical := by
  intro t h
  obtain ⟨i, -, hi⟩ := List.exists_of_findSome?_eq_some h
  split at hi
  · cases hi
  next x _ =>
    simp only at hi
    split at hi
    · cases hi
    next u hu =>
      cases hi
      rw [updCle_canonical_iff]
      split at hu
      · exact segStep_canonical hs _ _ _ _ _ hu
      · cases hu

theorem rawSeg_canonical {s : State} (hs : s.Canonical) (kind g a n : Nat) : (s.rawSeg kind g a n).1.Canonical := by
  grind [rawSeg, memRead_canonical]

theorem gatherOn_canonical {s : State} (hs : s.Canonical) (e : Nat) (w : List W64) :
    ∀ t, (s.gatherOn e w) = some t → t.Canonical := by
  grind [gatherOn, rawSeg_canonical, updCle_canonical_iff, writeRaw_canonical, segSend_canonical_iff]

theorem gatherBack_canonical {s : State} (hs : s.Canonical) (e : Nat) (w : List W64) :
    ∀ t, (s.gatherBack e w) = some t → t.Canonical := by
  grind [gatherBack, rawSeg_canonical, updCle_canonical_iff, segSend_canonical_iff]

theorem ownStep_canonical {s : State} (hs : s.Canonical) (e : Nat) (w : List W64) : ∀ t, s.ownStep e w = some t →
    t.Canonical := by
  intro t h
  unfold ownStep at h
  dsimp only at h
  split at h
  · exact orElse_canonical (gatherOn_canonical hs e w) (gatherBack_canonical hs e w) h
  · split at h
    · cases h
      exact (updCle_canonical_iff ..).2 ((segSend_canonical_iff ..).2 (rawSeg_canonical hs ..))
    · cases h
  · split at h
    · obtain ⟨u, hu, rfl⟩ := Option.map_eq_some_iff.mp h
      exact (updCle_canonical_iff ..).2 (sumOn_canonical (readIn_canonical hs ..) _ _ _ _ _ hu)
    · cases h

theorem passStep_canonical_iff (s : State) (e : Nat) (w : List W64) :
    ∀ t, s.passStep e w = some t → (t.Canonical ↔ s.Canonical) := by
  intro t h
  simp only [passStep] at h
  split at h
  · cases h
  split at h
  · obtain ⟨u, hu, rfl⟩ := Option.map_eq_some_iff.mp h
    exact (updCle_canonical_iff _ _ _).trans (takeToken_canonical_iff _ _ _ _ _ hu)
  split at h
  · cases h
    simp only [updCle_canonical_iff, canonical_ite, signal_canonical_iff, ite_self]
  · cases h

theorem collPump_canonical (e n : Nat) {s : State} (hs : s.Canonical) : (collPump e n s).Canonical := by
  induction n generalizing s with
  | zero => exact hs
  | succ n ih =>
    unfold collPump
    split
    · exact hs
    next w _ =>
    split
    next t h =>
      refine ih (orElse_canonical (heldStep_canonical hs e w) ?_ h)
      exact fun _ h => orElse_canonical (ownStep_canonical hs e w) (fun t h => (passStep_canonical_iff s e w t h).2 hs) h
    · exact .ite ((updJob_canonical_iff ..).2 ((setRegF_canonical_iff ..).2 hs)) hs

theorem pump_canonical {s : State} (hs : s.Canonical) (e : Nat) : (s.pump e).Canonical := by
  grind [pump, collPump_canonical]

@[simp] theorem collEnd_canonical_iff (s : State) (e status : Nat) : (s.collEnd e status).Canonical ↔ s.Canonical := by
  simp only [collEnd, endJob_canonical_iff, setRegF_canonical_iff]

theorem collStart_canonical {s : State} (hs : s.Canonical) (e : Nat) (w : List W64) : (s.collStart e w).Canonical := by
  grind [collStart, setCle_canonical_iff, setRegF_canonical_iff, collEnd_canonical_iff, memRead_canonical, pump_canonical,
    updJob_canonical_iff]

theorem collRun_canonical {s : State} (hs : s.Canonical) (e op : Nat) : (s.collRun e op).Canonical := by
  grind [collRun, pump_canonical, setRegF_canonical_iff, collStart_canonical, takeToken_canonical_iff, updJob_canonical_iff]

theorem fxReduceScatter_canonical {s : State} (hs : s.Canonical) (e : Nat) : (s.fxReduceScatter e).Canonical := by
  grind [fxReduceScatter, collRun_canonical]

theorem fxAllGather_canonical {s : State} (hs : s.Canonical) (e : Nat) : (s.fxAllGather e).Canonical := by
  grind [fxAllGather, collRun_canonical]

theorem fxAllReduce_canonical {s : State} (hs : s.Canonical) (e : Nat) : (s.fxAllReduce e).Canonical := by
  grind [fxAllReduce, collRun_canonical]

theorem fxRingPass_canonical {s : State} (hs : s.Canonical) (e : Nat) : (s.fxRingPass e).Canonical := by
  grind [fxRingPass, collRun_canonical]

theorem fxColl_canonical {s : State} (hs : s.Canonical) : s.fxColl.Canonical := by
  unfold fxColl
  split
  · exact hs
  next x t h =>
    have hpay := (payload_canonical_iff t x).2 ((takeLocal_canonical_iff s _ _ h).2 hs)
    dsimp only
    split
    · exact (bump_canonical_iff ..).2 hpay
    · refine .ite ((bump_canonical_iff ..).2 hpay) (pump_canonical ((updCle_canonical_iff ..).2 ?_) _)
      exact (bump_canonical_iff ..).2 hpay

theorem fxCollCredit_canonical {s : State} (hs : s.Canonical) : s.fxCollCredit.Canonical := by
  unfold fxCollCredit
  split
  · exact hs
  next x t h =>
    have ht := (takeLocal_canonical_iff s _ _ h).2 hs
    dsimp only
    split
    · exact ht
    · exact .ite ht (pump_canonical ((updCle_canonical_iff ..).2 ht) _)

@[simp] theorem fxCollComplete_canonical_iff (s : State) (e : Nat) : (s.fxCollComplete e).Canonical ↔ s.Canonical := by
  unfold fxCollComplete
  split <;> simp only [signal_canonical_iff, collEnd_canonical_iff, canonical_ite, ite_self]

@[simp] theorem fxCollTimeout_canonical_iff (s : State) (e : Nat) : (s.fxCollTimeout e).Canonical ↔ s.Canonical := by
  unfold fxCollTimeout
  split <;> simp only [collEnd_canonical_iff, canonical_ite, ite_self]

/-! ### Machine/Firmware -/

@[simp] theorem fwEnd_canonical_iff (s : State) (status : Nat) (res : List W64) :
    (s.fwEnd status res).Canonical ↔ s.Canonical := by
  simp only [fwEnd, endJob_canonical_iff]

theorem firmware_canonical {s : State} (hs : s.Canonical) (op : Nat) (body : State → List W64 → State)
    (hbody : ∀ s a2, s.Canonical → (body s a2).Canonical) :
    (s.firmware op body).Canonical := by
  grind [firmware, fwEnd_canonical_iff]

theorem writeBank_canonical {s : State} (hs : s.Canonical) (pc bank : Nat) (bs : List Byte) :
    (s.writeBank pc bank bs).Canonical :=
  updClu_canonical hs pc fun _ hc => ⟨smWf_smSetL _ _ _ (smWf_filter _ _ hc.1), smWf_filter _ _ hc.2⟩

theorem loadWrite_canonical {s : State} (hs : s.Canonical) (b : List Byte) (bank : Nat) (sm : SlotMap) :
    (s.loadWrite b bank sm).Canonical := by
  grind [loadWrite, writeBank_canonical, Canonical.foldl, canonical_mk, canonical_eta]

theorem loadBody_canonical {s : State} (hs : s.Canonical) (w : List W64) : (s.loadBody w).Canonical := by
  grind [loadBody, fwEnd_canonical_iff, memRead_canonical, loadWrite_canonical, updJob_canonical_iff]

theorem fxLoad_canonical {s : State} (hs : s.Canonical) : s.fxLoad.Canonical := by
  grind [fxLoad, firmware_canonical, wakeUp_canonical_iff, loadBody_canonical]

@[simp] theorem fxSlotMapApply_canonical_iff (s : State) (t : Nat) : (s.fxSlotMapApply t).Canonical ↔ s.Canonical := by
  simp only [fxSlotMapApply]
  split
  · rfl
  split
  · rfl
  split
  all_goals
    simp only [canonical_ite, fwEnd_canonical_iff, setReg_canonical_iff, unpin_canonical_iff, canonical_mk, canonical_eta,
      foldl_canonical_iff,
      implies_true, ite_self]
    refine (foldl_canonical_iff (fun s u => ?_) _ _).trans Iff.rfl
    split
    · rfl
    · simp only [setReg_canonical_iff, setRegF_canonical_iff, foldl_canonical_iff, implies_true]

theorem fxStart_canonical {s : State} (hs : s.Canonical) : s.fxStart.Canonical := by
  grind [fxStart, firmware_canonical, wakeUp_canonical_iff, fwEnd_canonical_iff, updJob_canonical_iff, updClu_canonical,
    Canonical.foldl, CluSt.wf]

theorem startCore_canonical {s : State} (hs : s.Canonical) (pc : Nat) : (s.startCore pc).Canonical := by
  grind [startCore, setReg_canonical_iff, updClu_canonical, setRegF_canonical_iff, updUnit_canonical, moveOn_canonical,
    Canonical.foldl, UnitSt.wf, CluSt.wf]

theorem fxProgramStart_canonical {s : State} (hs : s.Canonical) : s.fxProgramStart.Canonical := by
  grind [fxProgramStart, fwEnd_canonical_iff, startCore_canonical, Canonical.foldl, canonical_mk, canonical_eta]

theorem unblock_canonical {s : State} (hs : s.Canonical) (id : Nat) : (s.unblock id).Canonical := by
  grind [unblock, clearPending_canonical_iff, setStream_canonical, Canonical.foldl]

theorem fxGrant_canonical {s : State} (hs : s.Canonical) : s.fxGrant.Canonical := firmware_canonical hs 3 _ fun _ _ hs => by
  refine .ite ((fwEnd_canonical_iff ..).2 hs) ((fwEnd_canonical_iff ..).2 ((closeFaults_canonical_iff _).2 ?_))
  exact Canonical.foldl (pages_canonical hs _ _) (fun s i hs => unblock_canonical hs i) _

theorem fxRevoke_canonical {s : State} (hs : s.Canonical) : s.fxRevoke.Canonical := firmware_canonical hs 4 _ fun _ _ hs =>
  .ite ((fwEnd_canonical_iff ..).2 hs) (.ite hs ((fwEnd_canonical_iff ..).2 (pages_canonical hs _ _)))

theorem fxPageRefuse_canonical {s : State} (hs : s.Canonical) : s.fxPageRefuse.Canonical := by
  grind [fxPageRefuse, firmware_canonical, fwEnd_canonical_iff, streamHalt_canonical, Canonical.foldl, canonical_mk,
    canonical_eta]

theorem resetUnitSt_canonical {s : State} (hs : s.Canonical) (pu : Nat) : (s.resetUnitSt pu).Canonical := by
  grind [resetUnitSt, sendAbort_canonical, stopUnit_canonical, updUnit_canonical, settlePending_canonical_iff,
    setReg_canonical_iff, clrBit_canonical_iff, Canonical.foldl, UnitSt.wf]

theorem resetCluster_canonical {s : State} (hs : s.Canonical) (pc : Nat) : (s.resetCluster pc).Canonical := by
  grind [resetCluster, squash_canonical, resetUnitSt_canonical, setReg_canonical_iff, endCheck_canonical_iff,
    closeFaults_canonical_iff, setClu_canonical, Canonical.foldl, CluSt.wf]

theorem fxClusterReset_canonical {s : State} (hs : s.Canonical) : s.fxClusterReset.Canonical := by
  grind [fxClusterReset, firmware_canonical, fwEnd_canonical_iff, resetCluster_canonical, Canonical.foldl]

theorem dropProgram_canonical {s : State} (hs : s.Canonical) : s.dropProgram.Canonical := by
  have hclear : ∀ s : State, s.Canonical → ((List.range 224).foldl (fun s pc =>
      s.updClu pc fun c => { c with store := [], spoison := [] }) s).Canonical := fun s hs =>
    Canonical.foldl hs (fun s pc hs => updClu_canonical hs pc fun _ _ => ⟨rfl, rfl⟩) _
  simp only [dropProgram, canonical_mk, canonical_eta]
  refine hclear _ ?_
  simp only [foldl_canonical_iff, setReg_canonical_iff, unpin_canonical_iff, implies_true, hs]

theorem dueTests_canonical {s : State} (hs : s.Canonical) : s.dueTests.Canonical := by
  grind [dueTests, updUnit_canonical, setBit_canonical_iff, Canonical.foldl, UnitSt.wf]

theorem fxUnload_canonical {s : State} (hs : s.Canonical) : s.fxUnload.Canonical := by
  grind [fxUnload, firmware_canonical, fwEnd_canonical_iff, resetCluster_canonical, dueTests_canonical, dropProgram_canonical,
    Canonical.foldl]

@[simp] theorem closeTxn_canonical_iff (s : State) (w : Who) (result : Nat) : (s.closeTxn w result).Canonical ↔ s.Canonical := by
  unfold closeTxn
  split <;> simp only [setRegF_canonical_iff, canonical_mk, canonical_eta, canonical_ite, ite_self]

theorem fxHostInterfaceReset_canonical {s : State} (hs : s.Canonical) : s.fxHostInterfaceReset.Canonical := by
  grind [fxHostInterfaceReset, fxPageRequestResponse_canonical, setRegF_canonical_iff, closeTxn_canonical_iff, Canonical.foldl,
    canonical_mk, canonical_eta]

/-! ### Machine/Harvest -/

@[simp] theorem peekSlot_canonical_iff (s : State) (n o k : Nat) : (s.peekSlot n o k).1.Canonical ↔ s.Canonical := by
  simp only [peekSlot, freeBytes_canonical_iff, fst_ite_canonical, ite_self]

@[simp] theorem slotRecord_canonical_iff (s : State) (n : Nat) : (s.slotRecord n).1.Canonical ↔ s.Canonical := by
  simp only [slotRecord, peekSlot_canonical_iff]

@[simp] theorem readSlot_canonical_iff (s : State) (n : Nat) : (s.readSlot n).Canonical ↔ s.Canonical := by
  simp only [readSlot, slotRecord_canonical_iff, setRegF_canonical_iff]

theorem setFlash_canonical {s : State} (hs : s.Canonical) (f : FlashSt → FlashSt)
    (hf : smWf 0#8 s.flash.data = true → smWf 0#8 (f s.flash).data = true) : (s.setFlash f).Canonical := by
  obtain ⟨hbytes, hpoison, hhost, hpages, hflash, hrest⟩ := hs
  exact ⟨hbytes, hpoison, hhost, hpages, hf hflash, hrest⟩

theorem flashBegin_canonical {s : State} (hs : s.Canonical) (n : Nat) : (s.flashBegin n).Canonical := by
  grind [flashBegin, setRegF_canonical_iff, setFlash_canonical, canonical_mk, canonical_eta]

theorem rereadSlot_canonical {s : State} (hs : s.Canonical) (n : Nat) : (s.rereadSlot n).Canonical := by
  grind [rereadSlot, readSlot_canonical_iff, flashBegin_canonical]

theorem flashAbandon_canonical {s : State} (hs : s.Canonical) (n : Nat) : (s.flashAbandon n).Canonical := by
  grind [flashAbandon, setFlash_canonical, bump_canonical_iff, setRegF_canonical_iff, canonical_mk, canonical_eta]

@[simp] theorem rMin_canonical_iff (s : State) : s.rMin.1.Canonical ↔ s.Canonical := by
  unfold rMin
  split <;> simp only [freeWord_canonical_iff]

theorem segmentCheck_canonical {s : State} (hs : s.Canonical) (n cap p : Nat) : (s.segmentCheck n cap p).Canonical := by
  simp only [segmentCheck]
  repeat' split
  all_goals grind [rMin_canonical_iff, setRegF_canonical_iff, clrBit_canonical_iff, setFlash_canonical, bump_canonical_iff,
    setBit_canonical_iff]

theorem fxFlashSegmentStart_canonical {s : State} (hs : s.Canonical) (n cap p : Nat) :
    (s.fxFlashSegmentStart n cap p).Canonical := by
  grind [fxFlashSegmentStart, segmentCheck_canonical]

theorem fxHoldupRecheck_canonical {s : State} (hs : s.Canonical) (n cap p : Nat) : (s.fxHoldupRecheck n cap p).Canonical := by
  grind [fxHoldupRecheck, segmentCheck_canonical]

theorem segmentDone_canonical {s : State} (hs : s.Canonical) (n : Nat) (commit : Bool) : (s.segmentDone n commit).Canonical := by
  unfold segmentDone
  split
  · exact hs
  next g _ =>
    refine .ite hs ?_
    have hwrite : ∀ a bs (gens : FlashSt → List FlashGen),
        (s.setFlash fun f => { f with data := smSetL 0#8 f.data a bs, gens := gens f }).Canonical :=
      fun a bs gens => setFlash_canonical hs _ fun h => smWf_smSetL _ _ _ h
    refine .ite ?_ (hwrite _ _ _)
    exact (setRegF_canonical_iff ..).2 ((setRegF_canonical_iff ..).2 (setFlash_canonical (hwrite _ _ _) _ fun h => h))

theorem fxFlashSegmentDone_canonical {s : State} (hs : s.Canonical) (n rate : Nat) : (s.fxFlashSegmentDone n rate).Canonical := by
  grind [fxFlashSegmentDone, setFlash_canonical, segmentDone_canonical]

@[simp] theorem updH_canonical_iff (s : State) (f : HJob → HJob) : (s.updH f).Canonical ↔ s.Canonical := by
  simp only [updH, canonical_mk, canonical_eta]

@[simp] theorem sendReleases_canonical_iff (s : State) (is : List Nat) : (s.sendReleases is).Canonical ↔ s.Canonical := by
  unfold sendReleases
  split <;> simp only [signal_canonical_iff, updH_canonical_iff, canonical_ite, ite_self, foldl_canonical_iff, implies_true]

theorem readManifest_canonical {s : State} (hs : s.Canonical) (w : List W64) : (s.readManifest w).1.Canonical := by
  grind [readManifest, memRead_canonical, updH_canonical_iff]

@[simp] theorem releaseAcked_canonical_iff (s : State) : s.releaseAcked.Canonical ↔ s.Canonical := by
  unfold releaseAcked
  split <;> simp only [sendReleases_canonical_iff, canonical_ite, ite_self]

theorem releaseRest_canonical {s : State} (hs : s.Canonical) (h : HJob) : (s.releaseRest h).Canonical := by
  grind [releaseRest, readManifest_canonical, sendReleases_canonical_iff]

theorem hvEnd_canonical {s : State} (hs : s.Canonical) (status : Nat) : (s.hvEnd status).Canonical := by
  grind [hvEnd, releaseRest_canonical, clrBit_canonical_iff, memWrite_canonical, signal_canonical_iff, record_canonical_iff,
    setRegF_canonical_iff, canonical_mk, canonical_eta]

theorem hvData_canonical {s : State} (hs : s.Canonical) (h : HJob) : (s.hvData h).1.Canonical := by
  grind [hvData, memRead_canonical]

theorem hvSend_canonical (x1 : Nat) {x2 : State} (hs : x2.Canonical) : (hvSend x1 x2).Canonical := by
  fun_induction hvSend <;> grind [hvData_canonical, updH_canonical_iff, send_canonical_iff]

theorem hvPump_canonical {s : State} (hs : s.Canonical) : s.hvPump.Canonical := by
  grind [hvPump, hvSend_canonical]

theorem hvPhase_canonical {s : State} (hs : s.Canonical) (ph : Nat) : (s.hvPhase ph).Canonical := by
  grind [hvPhase, hvPump_canonical, updH_canonical_iff]

theorem holderEnd_canonical {s : State} (hs : s.Canonical) (status : Nat) : (s.holderEnd status).Canonical := by
  grind [holderEnd, hvPhase_canonical, updH_canonical_iff, hvEnd_canonical]

theorem segmentEnd_canonical {s : State} (hs : s.Canonical) : s.segmentEnd.Canonical := by
  grind [segmentEnd, hvEnd_canonical, send_canonical_iff, hvPhase_canonical, updH_canonical_iff]

theorem hvAcked_canonical {s : State} (hs : s.Canonical) : s.hvAcked.Canonical := by
  grind [hvAcked, hvPump_canonical, hvPhase_canonical, hvEnd_canonical, updH_canonical_iff, segmentEnd_canonical,
    holderEnd_canonical]

theorem hvFail_canonical {s : State} (hs : s.Canonical) (status : Nat) : (s.hvFail status).Canonical := by
  grind [hvFail, updH_canonical_iff, hvEnd_canonical, holderEnd_canonical]

theorem fxPutAck_canonical {s : State} (hs : s.Canonical) : s.fxPutAck.Canonical := by
  unfold fxPutAck
  split
  · exact hs
  next x t h =>
    have ht := (takeLocal_canonical_iff s _ _ h).2 hs
    refine .ite (copyAck_canonical ht ..) (.ite (copyAck_canonical ht ..) ?_)
    split
    · exact ht
    · refine .ite ht (.ite (hvFail_canonical ht _) (hvAcked_canonical ?_))
      exact (releaseAcked_canonical_iff _).2 ((updH_canonical_iff ..).2 ht)

theorem fxTransferTimeout_canonical {s : State} (hs : s.Canonical) (hub : Nat) : (s.fxTransferTimeout hub).Canonical := by
  grind [fxTransferTimeout, hvFail_canonical, copyTimeout_canonical_iff]

theorem fxHarvestRingPoll_canonical {s : State} (hs : s.Canonical) : s.fxHarvestRingPoll.Canonical := by
  simp only [fxHarvestRingPoll]
  repeat' split
  all_goals grind [memRead_canonical, setRegF_canonical_iff, hvEnd_canonical, updH_canonical_iff, canonical_mk, canonical_eta]

@[simp] theorem fxHarvestTokenRelease_canonical_iff (s : State) : s.fxHarvestTokenRelease.Canonical ↔ s.Canonical := by
  grind [fxHarvestTokenRelease, takeToken_canonical_iff, updH_canonical_iff, setRegF_canonical_iff]

theorem fxHarvestTokenTimeout_canonical {s : State} (hs : s.Canonical) : s.fxHarvestTokenTimeout.Canonical := by
  grind [fxHarvestTokenTimeout, hvEnd_canonical]

theorem hvRun_canonical {s : State} (hs : s.Canonical) (op : Nat) (body : State → List W64 → State)
    (hbody : ∀ s a2, s.Canonical → (body s a2).Canonical) :
    (s.hvRun op body).Canonical := by
  grind [hvRun, hvAcked_canonical]

theorem fxEquinox_canonical {s : State} (hs : s.Canonical) : s.fxEquinox.Canonical := by
  grind [fxEquinox, hvRun_canonical, readManifest_canonical, hvEnd_canonical, memWrite_canonical, updH_canonical_iff,
    setRegF_canonical_iff, collStart_canonical, setTgt_canonical_iff]

theorem agreed_canonical {s : State} (hs : s.Canonical) (w : List W64) : (s.agreed w).1.Canonical := by
  grind [agreed, memRead_canonical]

theorem fxEquinoxAgreed_canonical {s : State} (hs : s.Canonical) : s.fxEquinoxAgreed.Canonical := by
  grind [fxEquinoxAgreed, setTgt_canonical_iff, hvEnd_canonical, agreed_canonical, setRegF_canonical_iff, hvPhase_canonical,
    updH_canonical_iff]

theorem fxHarvestCopyCommit_canonical {s : State} (hs : s.Canonical) : s.fxHarvestCopyCommit.Canonical := by
  grind [fxHarvestCopyCommit, hvPhase_canonical, releaseAcked_canonical_iff]

theorem fxRecord_canonical {s : State} (hs : s.Canonical) : s.fxRecord.Canonical := by
  grind [fxRecord, hvRun_canonical, memRead_canonical, hvEnd_canonical, hvPhase_canonical, updH_canonical_iff]

theorem readRanges_canonical {s : State} (hs : s.Canonical) (w : List W64) : (s.readRanges w).1.Canonical := by
  grind [readRanges, memRead_canonical, Canonical.foldl_fst]

theorem fxDigest_canonical {s : State} (hs : s.Canonical) : s.fxDigest.Canonical := by
  grind [fxDigest, hvRun_canonical, readRanges_canonical, hvEnd_canonical, memWrite_canonical]

theorem fxCapture_canonical {s : State} (hs : s.Canonical) : s.fxCapture.Canonical := by
  grind [fxCapture, hvRun_canonical, readRanges_canonical, hvEnd_canonical, hostWrite_canonical, memWriteP_canonical]

theorem fxVerify_canonical {s : State} (hs : s.Canonical) : s.fxVerify.Canonical := by
  grind [fxVerify, hvRun_canonical, memRead_canonical, hvEnd_canonical, memWrite_canonical]

theorem fxList_canonical {s : State} (hs : s.Canonical) : s.fxList.Canonical := by
  grind [fxList, hvRun_canonical, freeBytes_canonical_iff, hvEnd_canonical, memWrite_canonical]

theorem restoreHere_canonical {s : State} (hs : s.Canonical) (w : List W64) (r man : List Byte) (g : Option FlashGen) :
    (s.restoreHere w r man g).Canonical := by
  grind [restoreHere, memWrite_canonical, memRead_canonical, memWriteP_canonical, send_canonical_iff, hvEnd_canonical,
    flashBegin_canonical, readSlot_canonical_iff, Canonical.foldl_fst]

theorem restoreSource_canonical {s : State} (hs : s.Canonical) (w : List W64) (g : Option FlashGen) :
    (s.restoreSource w g).1.Canonical := by
  cases g with
  | some g =>
    rw [restoreSource]
    exact hs
  | none =>
    rw [restoreSource]
    have hread := memRead_canonical hs (s.slotBase (dfld w 3 62 62)) 20480 0
    split
    · exact hs
    generalize s.memRead (s.slotBase (dfld w 3 62 62)) 20480 0 = m at hread ⊢
    obtain ⟨t, bytes, poison⟩ := m
    dsimp only
    split
    · exact hread
    split
    · exact hread
    split
    · exact hread
    · exact hread

theorem fxRestore_canonical {s : State} (hs : s.Canonical) : s.fxRestore.Canonical := by
  grind [fxRestore, hvRun_canonical, restoreSource_canonical, hvEnd_canonical, restoreHere_canonical, setBit_canonical_iff,
    hvPhase_canonical, updH_canonical_iff]

theorem fxHarvestPut_canonical {s : State} (hs : s.Canonical) : s.fxHarvestPut.Canonical := by
  unfold fxHarvestPut
  split
  · exact hs
  next x t h =>
    have ht : t.Canonical := by
      split at h
      · cases h
      · exact (takeLocal_canonical_iff s _ _ h).2 hs
    have hpay := (payload_canonical_iff t x).2 ht
    dsimp only
    split
    · exact (send_canonical_iff ..).2 hpay
    next k _ =>
      refine .ite ((send_canonical_iff ..).2 hpay) ((send_canonical_iff ..).2 ?_)
      have hwrite : ∀ (c : Prop) [Decidable c] a bs ps,
          ((if c then (t.payload x).2.flashAbandon k else (t.payload x).2).memWriteP a bs ps 0).Canonical :=
        fun c _ a bs ps => memWriteP_canonical ((flashAbandon_canonical hpay k).ite hpay) ..
      have hread := fun (c : Prop) [Decidable c] {t : State} (ht : t.Canonical) =>
        Canonical.ite (c := c) ((readSlot_canonical_iff t k).2 ht) ht
      exact .ite (flashBegin_canonical (hread _ (hwrite ..)) k) (hread _ (hwrite ..))

theorem fxGenerationRecordReread_canonical {s : State} (hs : s.Canonical) : s.fxGenerationRecordReread.Canonical := by
  unfold fxGenerationRecordReread
  repeat' split
  all_goals grind [Canonical.foldl, rereadSlot_canonical]

theorem fence_canonical {s : State} (hs : s.Canonical) : s.fence.Canonical := by
  unfold fence
  refine (setRegF_canonical_iff ..).2 (hvEnd_canonical ?_ _)
  have hfence := Canonical.foldl ((setBit_canonical_iff s (rSnap 0x48) 32).2 hs)
    (fun s (x : Nat × Nat) hs => fenceCluster_canonical hs x.2) (s.setBit (rSnap 0x48) 32).present
  rw [foldl_canonical_iff, foldl_canonical_iff, foldl_canonical_iff]
  · exact hfence
  · simp only [canonical_ite, upeFail_canonical_iff, ite_self, implies_true]
  · intro s h
    split
    · simp only [canonical_ite, endJob_canonical_iff, ite_self]
    · rfl
  · intro s e
    split
    · simp only [canonical_ite, setTgt_canonical_iff, setRegF_canonical_iff, collEnd_canonical_iff, ite_self]
    · rfl

theorem fxIsolationTimeout_canonical {s : State} (hs : s.Canonical) : s.fxIsolationTimeout.Canonical := by
  grind [fxIsolationTimeout, fence_canonical]

@[simp] theorem ringWrite_canonical_iff (s : State) (v : W64) : (s.ringWrite v).Canonical ↔ s.Canonical := by
  simp only [ringWrite, setReg_canonical_iff, setRegF_canonical_iff, canonical_ite, ite_self]

@[simp] theorem fxSnapRingEnable_canonical_iff (s : State) (v : W64) : (s.fxSnapRingEnable v).Canonical ↔ s.Canonical := by
  simp only [fxSnapRingEnable, ringWrite_canonical_iff, canonical_ite, ite_self]

/-! ### Machine/Map -/

@[simp] theorem setHnd_canonical_iff (s : State) (lvl ix : Nat) (h : HandlerSt) :
    (s.setHnd lvl ix h).Canonical ↔ s.Canonical := by
  simp only [setHnd, canonical_mk, canonical_eta]

theorem updEh_canonical {s : State} (hs : s.Canonical) (lvl ix : Nat) (f : State → Nat → State)
    (hf : ∀ s a2, s.Canonical → (f s a2).Canonical) :
    (s.updEh lvl ix f).Canonical := by
  grind [updEh]

theorem showEh_canonical {s : State} (hs : s.Canonical) (lvl ix : Nat) : (s.showEh lvl ix).Canonical := by
  grind [showEh, updEh_canonical, setRegF_canonical_iff]

@[simp] theorem countErr_canonical_iff (s : State) (cls : Nat) : (s.countErr cls).Canonical ↔ s.Canonical := by
  unfold countErr
  split <;> simp only [bump_canonical_iff]

@[simp] theorem errRecord_canonical_iff (s : State) (e : Err) (lvl count : Nat) (disc : Bool) :
    (s.errRecord e lvl count disc).Canonical ↔ s.Canonical := by
  simp only [errRecord, record_canonical_iff, canonical_ite, ite_self]

@[simp] theorem discardErr_canonical_iff (s : State) (e : Err) : (s.discardErr e).Canonical ↔ s.Canonical := by
  simp only [discardErr, errRecord_canonical_iff, countErr_canonical_iff]

theorem silence_canonical {s : State} (hs : s.Canonical) (lvl ix : Nat) : (s.silence lvl ix).Canonical := by
  grind [silence, setHnd_canonical_iff, showEh_canonical, discardErr_canonical_iff, Canonical.foldl, canonical_mk, canonical_eta]

theorem revive_canonical {s : State} (hs : s.Canonical) (c : Nat) : (s.revive c).Canonical := by
  grind [revive, showEh_canonical, setHnd_canonical_iff, Canonical.foldl]

@[simp] theorem publish_canonical_iff (s : State) : s.publish.Canonical ↔ s.Canonical := by
  simp only [publish, setRegF_canonical_iff, setReg_canonical_iff, bump_canonical_iff, canonical_ite, ite_self]

@[simp] theorem setFaults_canonical_iff (s : State) (pu : Nat) (f : List (BitVec 66)) :
    (s.setFaults pu f).Canonical ↔ s.Canonical := by
  simp only [setFaults, setReg_canonical_iff, bump_canonical_iff, setRegF_canonical_iff, foldl_canonical_iff, implies_true]

@[simp] theorem selfTest_canonical_iff (s : State) (d : Nat) (t : SelfTest) : (s.selfTest d t).Canonical ↔ s.Canonical := by
  simp only [selfTest, setReg_canonical_iff, setFaults_canonical_iff, foldl_canonical_iff, implies_true]

theorem emptyCluster_canonical {s : State} (hs : s.Canonical) (pc : Nat) : (s.emptyCluster pc).Canonical := by
  unfold emptyCluster
  refine setClu_canonical ?_ pc fun _ => ⟨rfl, rfl⟩
  simp only [setReg_canonical_iff, foldl_canonical_iff, implies_true]
  refine Canonical.foldl hs (fun s u hs => ?_) _
  refine setUnit_canonical ((clrBit_canonical_iff ..).2 ?_) _ fun _ => ⟨rfl, rfl⟩
  rw [foldl_canonical_iff fun s o => setReg_canonical_iff ..]
  exact (sendAbort_canonical hs _).ite hs

theorem endDead_canonical {s : State} (hs : s.Canonical) (pc : Nat) (q : Option Nat) : (s.endDead pc q).Canonical := by
  grind [endDead, endCheck_canonical_iff, updClu_canonical, CluSt.wf, canonical_mk, canonical_eta]

theorem poisonChan_canonical {s : State} (hs : s.Canonical) (ch : Nat) : (s.poisonChan ch).Canonical := by
  obtain ⟨hbytes, hpoison, hrest⟩ := hs
  exact ⟨hbytes, smWf_smSetL _ _ _ hpoison, hrest⟩

theorem poisonWait_canonical {s : State} (hs : s.Canonical) (w : Wait) : (s.poisonWait w).Canonical := by
  grind [poisonWait, putSector_canonical, Canonical.foldl]

/-! ### Machine/Errors -/

theorem arriveAt_canonical (x1 : Nat) {x2 : State} (hs : x2.Canonical) (x3 : Nat) (x4 : Err) :
    (arriveAt x1 x2 x3 x4).Canonical := by
  fun_induction arriveAt <;> grind [showEh_canonical, setHnd_canonical_iff, updEh_canonical, bump_canonical_iff,
    errRecord_canonical_iff, countErr_canonical_iff]

theorem deliverErr_canonical {s : State} (hs : s.Canonical) (e : Err) : (s.deliverErr e).Canonical := by
  grind [deliverErr, discardErr_canonical_iff, arriveAt_canonical]

@[simp] theorem fatalRecord_canonical_iff (s : State) (e : Err) : (s.fatalRecord e).Canonical ↔ s.Canonical := by
  simp only [fatalRecord, freeWord_canonical_iff, errRecord_canonical_iff, canonical_ite, ite_self]

theorem detected_canonical {s : State} (hs : s.Canonical) (e : Err) : (s.detected e).Canonical := by
  unfold detected
  dsimp only
  split
  · split
    · refine updUnit_canonical hs _ fun u hu => ?_
      have hset := smWf_smSet false (fld e.detail 9 0 * 64 + fld e.detail 21 16) true hu.2
      exact ⟨hu.1, hset⟩
    · exact hs
  · refine .ite hs (.ite (poisonSector_canonical hs ..) (.ite ((bump_canonical_iff ..).2 hs) ?_))
    exact (markUe_canonical hs ..).ite hs

theorem seeNow_canonical {s : State} (hs : s.Canonical) (e : Err) : (s.seeNow e).Canonical := by
  grind [seeNow, updUnit_canonical, detectNow_canonical_iff, UnitSt.wf]

theorem detectErr_canonical {s : State} (hs : s.Canonical) (defer : Bool) (e : Err) : (s.detectErr defer e).Canonical := by
  grind [detectErr, seeNow_canonical, detected_canonical, raiseSpec_canonical, deliverErr_canonical]

@[simp] theorem errEvent_canonical_iff (s : State) (e : Err) (lvl count alm : Nat) :
    (s.errEvent e lvl count alm).Canonical ↔ s.Canonical := by
  simp only [errEvent, updMmc_canonical_iff, canonical_mk, canonical_eta]

@[simp] theorem report_canonical_iff (s : State) (e : Err) (lvl count : Nat) :
    (s.report e lvl count).Canonical ↔ s.Canonical := by
  simp only [report, errEvent_canonical_iff, errRecord_canonical_iff]

@[simp] theorem reportLimited_canonical_iff (s : State) (e : Err) (lvl ix : Nat) :
    (s.reportLimited e lvl ix).Canonical ↔ s.Canonical := by
  simp only [reportLimited, report_canonical_iff, canonical_mk, canonical_eta, canonical_ite, ite_self]

@[simp] theorem fxRateLimitReport_canonical_iff (s : State) (lvl ix code : Nat) :
    (s.fxRateLimitReport lvl ix code).Canonical ↔ s.Canonical := by
  simp only [fxRateLimitReport]
  split
  · rfl
  split
  · rfl
  · simp only [report_canonical_iff, canonical_mk, canonical_eta]

@[simp] theorem strikeErr_canonical_iff (s : State) (lvl ix : Nat) : (s.strikeErr lvl ix).1.Canonical ↔ s.Canonical := by
  unfold strikeErr
  split <;> simp only [freeWord_canonical_iff]

theorem fxPkgErrInj_canonical {s : State} (hs : s.Canonical) (v : W64) : (s.fxPkgErrInj v).Canonical := by
  grind [fxPkgErrInj, deliverErr_canonical]

theorem mirror_canonical {s : State} (hs : s.Canonical) (whole : Bool) : (s.mirror whole).Canonical := by
  grind [mirror, setFlash_canonical, setRegF_canonical_iff]

theorem fxAlmanacMirror_canonical {s : State} (hs : s.Canonical) : s.fxAlmanacMirror.Canonical := by
  grind [fxAlmanacMirror, mirror_canonical]

theorem fxAlmanacRestore_canonical {s : State} (hs : s.Canonical) : s.fxAlmanacRestore.Canonical := by
  grind [fxAlmanacRestore, setRegF_canonical_iff, setBit_canonical_iff, setFlash_canonical, putRecords_canonical_iff,
    clrBit_canonical_iff, Canonical.foldl, canonical_mk, canonical_eta]

@[simp] theorem fxOpsecTick_canonical_iff (s : State) : s.fxOpsecTick.Canonical ↔ s.Canonical := by
  simp only [fxOpsecTick, bump_canonical_iff, updChan_canonical_iff, canonical_ite, ite_self, foldl_canonical_iff, implies_true]

@[simp] theorem saveTime_canonical_iff (s : State) : s.saveTime.Canonical ↔ s.Canonical := by
  simp only [saveTime, updMmc_canonical_iff]

@[simp] theorem fxTimeBaseSave_canonical_iff (s : State) : s.fxTimeBaseSave.Canonical ↔ s.Canonical := by
  simp only [fxTimeBaseSave, saveTime_canonical_iff, canonical_ite, ite_self]

/-! ### Machine/Power -/

@[simp] theorem setVmv_canonical_iff (s : State) (d p : Nat) : (s.setVmv d p).Canonical ↔ s.Canonical := by
  simp only [setVmv, setRegF_canonical_iff]

@[simp] theorem setF_canonical_iff (s : State) (d p : Nat) : (s.setF d p).Canonical ↔ s.Canonical := by
  simp only [setF, setRegF_canonical_iff]

@[simp] theorem setV_canonical_iff (s : State) (d p : Nat) : (s.setV d p).Canonical ↔ s.Canonical := by
  simp only [setV, setVmv_canonical_iff, setRegF_canonical_iff]

@[simp] theorem opRefuse_canonical_iff (s : State) (d : Nat) : (s.opRefuse d).Canonical ↔ s.Canonical := by
  simp only [opRefuse, bump_canonical_iff]

@[simp] theorem slew_canonical_iff (s : State) (d p : Nat) (ds : List Nat) : (s.slew d p ds).Canonical ↔ s.Canonical := by
  simp only [slew, setVmv_canonical_iff, setBit_canonical_iff, updPwr_canonical_iff]

@[simp] theorem fxPwrOpVWr_canonical_iff (s : State) (d : Nat) (v : W64) : (s.fxPwrOpVWr d v).Canonical ↔ s.Canonical := by
  simp only [fxPwrOpVWr, opRefuse_canonical_iff, slew_canonical_iff, canonical_ite, ite_self]

@[simp] theorem fxPwrOpFWr_canonical_iff (s : State) (d : Nat) (v : W64) : (s.fxPwrOpFWr d v).Canonical ↔ s.Canonical := by
  simp only [fxPwrOpFWr, opRefuse_canonical_iff, setF_canonical_iff, canonical_ite, ite_self, foldl_canonical_iff, implies_true]

@[simp] theorem opTarget_canonical_iff (s : State) (ds : List Nat) (p : Nat) : (s.opTarget ds p).Canonical ↔ s.Canonical := by
  simp only [opTarget, setF_canonical_iff, slew_canonical_iff, canonical_ite, ite_self, foldl_canonical_iff, implies_true]

@[simp] theorem opRequest_canonical_iff (s : State) (d p : Nat) : (s.opRequest d p).Canonical ↔ s.Canonical := by
  simp only [opRequest, opRefuse_canonical_iff, opTarget_canonical_iff, canonical_ite, ite_self]

@[simp] theorem fxPwrOpTWr_canonical_iff (s : State) (d : Nat) (v : W64) : (s.fxPwrOpTWr d v).Canonical ↔ s.Canonical := by
  simp only [fxPwrOpTWr, opRefuse_canonical_iff, opRequest_canonical_iff, canonical_ite, ite_self]

@[simp] theorem fxVoltageSlewDone_canonical_iff (s : State) (d : Nat) : (s.fxVoltageSlewDone d).Canonical ↔ s.Canonical := by
  unfold fxVoltageSlewDone
  split <;> simp only [setV_canonical_iff, updPwr_canonical_iff, clrBit_canonical_iff, setF_canonical_iff, canonical_ite,
    ite_self,
    foldl_canonical_iff, implies_true]

@[simp] theorem fxPwrStretchWrite_canonical_iff (s : State) (v : W64) : (s.fxPwrStretchWrite v).Canonical ↔ s.Canonical := by
  simp only [fxPwrStretchWrite, setRegF_canonical_iff, canonical_ite, ite_self]

@[simp] theorem untrain_canonical_iff (s : State) : s.untrain.Canonical ↔ s.Canonical := by
  simp only [untrain, setRegF_canonical_iff, canonical_ite, ite_self, foldl_canonical_iff, implies_true]

@[simp] theorem restoreMargins_canonical_iff (s : State) : s.restoreMargins.Canonical ↔ s.Canonical := by
  simp only [restoreMargins, setRegF_canonical_iff, setReg_canonical_iff, foldl_canonical_iff, implies_true]

@[simp] theorem toD0_canonical_iff (s : State) : s.toD0.Canonical ↔ s.Canonical := by
  simp only [toD0, emit_canonical_iff, updPwr_canonical_iff, canonical_ite, ite_self]

@[simp] theorem failFn_canonical_iff (s : State) (b : Nat) : (s.failFn b).Canonical ↔ s.Canonical := by
  simp only [failFn, raiseCode_canonical_iff, setReady_canonical_iff, setBit_canonical_iff, canonical_ite, ite_self]

@[simp] theorem failDown_canonical_iff (s : State) (b : Nat) : (s.failDown b).Canonical ↔ s.Canonical := by
  simp only [failDown, failFn_canonical_iff, foldl_canonical_iff, implies_true]

@[simp] theorem setStage_canonical_iff (s : State) (v : Nat) : (s.setStage v).Canonical ↔ s.Canonical := by
  simp only [setStage, setRegF_canonical_iff, emit_canonical_iff, canonical_ite, ite_self]

@[simp] theorem boot_canonical_iff (s : State) (b : BootVerdict) (last : Nat) (failBefore : W64) :
    (s.boot b last failBefore).Canonical ↔ s.Canonical := by
  simp only [boot]
  split <;> simp only [setRegF_canonical_iff, record_canonical_iff, updMmc_canonical_iff, failFn_canonical_iff,
    setStage_canonical_iff,
    publish_canonical_iff, failDown_canonical_iff, canonical_ite, ite_self, foldl_canonical_iff, implies_true]

@[simp] theorem fxPerstDeassert_canonical_iff (s : State) : s.fxPerstDeassert.Canonical ↔ s.Canonical := by
  simp only [fxPerstDeassert, toD0_canonical_iff, updPwr_canonical_iff, wakeUp_canonical_iff, canonical_ite, ite_self]

@[simp] theorem fxD3hotEntry_canonical_iff (s : State) : s.fxD3hotEntry.Canonical ↔ s.Canonical := by
  simp only [fxD3hotEntry, updPwr_canonical_iff]

@[simp] theorem fxD3hotToD0_canonical_iff (s : State) : s.fxD3hotToD0.Canonical ↔ s.Canonical := by
  simp only [fxD3hotToD0, wakeUp_canonical_iff, toD0_canonical_iff, canonical_ite, ite_self]

@[simp] theorem stackFail_canonical_iff (s : State) (d i : Nat) (refused : Bool) :
    (s.stackFail d i refused).Canonical ↔ s.Canonical := by
  simp only [stackFail, failFn_canonical_iff, canonical_ite, ite_self]

@[simp] theorem defaultTest_canonical_iff (s : State) (c : Nat) : (s.defaultTest c).Canonical ↔ s.Canonical := by
  simp only [defaultTest, freeWord_canonical_iff, setReg_canonical_iff, updChan_canonical_iff]

@[simp] theorem stackReady_canonical_iff (s : State) (d i : Nat) (ch : List (Option (Fin 6))) :
    (s.stackReady d i ch).Canonical ↔ s.Canonical := by
  grind [stackReady, defaultTest_canonical_iff, setRegF_canonical_iff, retireChan_canonical_iff, setReady_canonical_iff,
    foldl_canonical_iff]

theorem dieReady_canonical {s : State} (hs : s.Canonical) (d : Nat) (t : SelfTest) : (s.dieReady d t).Canonical := by
  grind [dieReady, selfTest_canonical_iff, setFlash_canonical, setVmv_canonical_iff, publish_canonical_iff,
    setReady_canonical_iff]

theorem journalScan_canonical {s : State} (hs : s.Canonical) : s.journalScan.Canonical := by
  unfold journalScan
  refine Canonical.foldl ((setReady_canonical_iff ..).2 ?_) (fun s n hs => ?_) _
  · rw [foldl_canonical_iff]
    · refine setFlash_canonical ?_ _ fun h => h
      rw [foldl_canonical_iff]
      · exact hs
      · simp only [canonical_ite, setRegF_canonical_iff, ite_self, implies_true]
    · intro s n
      split
      · exact setRegF_canonical_iff ..
      · rfl
  · exact (canonical_mk ..).2 (flashBegin_canonical hs n)

@[simp] theorem bootStage_canonical_iff (s : State) : s.bootStage.Canonical ↔ s.Canonical := by
  simp only [bootStage, setStage_canonical_iff, canonical_ite, ite_self]

theorem fxFunctionReady_canonical {s : State} (hs : s.Canonical) (f : Func) (o : ReadyOutcome) :
    (s.fxFunctionReady f o).Canonical := by
  unfold fxFunctionReady
  repeat' split
  all_goals grind [bootStage_canonical_iff, publish_canonical_iff, stackFail_canonical_iff, failDown_canonical_iff,
    setRegF_canonical_iff, setReady_canonical_iff, setStage_canonical_iff, dieReady_canonical, stackReady_canonical_iff,
    journalScan_canonical]

@[simp] theorem pwrRequest_canonical_iff (s : State) (st bit : Nat) : (s.pwrRequest st bit).Canonical ↔ s.Canonical := by
  simp only [pwrRequest, wakeUp_canonical_iff, setRegF_canonical_iff, updPwr_canonical_iff, fxPortSleep_canonical_iff,
    canonical_ite, ite_self,
    foldl_canonical_iff, implies_true]

@[simp] theorem fxReqActive_canonical_iff (s : State) : s.fxReqActive.Canonical ↔ s.Canonical := by
  simp only [fxReqActive, pwrRequest_canonical_iff]

@[simp] theorem fxReqIdle_canonical_iff (s : State) : s.fxReqIdle.Canonical ↔ s.Canonical := by
  simp only [fxReqIdle, pwrRequest_canonical_iff]

@[simp] theorem fxReqDormant_canonical_iff (s : State) : s.fxReqDormant.Canonical ↔ s.Canonical := by
  simp only [fxReqDormant, pwrRequest_canonical_iff]

@[simp] theorem fxReqSolstice_canonical_iff (s : State) : s.fxReqSolstice.Canonical ↔ s.Canonical := by
  simp only [fxReqSolstice, pwrRequest_canonical_iff]

@[simp] theorem stopFns_canonical_iff (s : State) (mask : Nat) : (s.stopFns mask).Canonical ↔ s.Canonical := by
  simp only [stopFns, updPwr_canonical_iff, setReadyWord_canonical_iff]

theorem flushAll_canonical {s : State} (hs : s.Canonical) : s.flushAll.Canonical := by
  grind [flushAll, writeBack_canonical, setRegF_canonical_iff, setSlice_canonical_iff, Canonical.foldl]

theorem enterSolstice_canonical {s : State} (hs : s.Canonical) : s.enterSolstice.Canonical := by
  have hoff : ∀ (t : State), t.chanBytes = s.chanBytes → t.chanPoison = s.chanPoison → t.hostMem = s.hostMem → t.pages = s.pages →
      t.flash = s.flash → t.units = [] → t.clus = [] → t.Canonical := by
    intro t hb hp hm hg hf hu hc
    obtain ⟨h1, h2, h3, h4, h5, -⟩ := hs
    unfold Canonical
    rw [hb, hp, hm, hg, hf, hu, hc]
    exact ⟨h1, h2, h3, h4, h5, rfl, rfl⟩
  simp only [enterSolstice, restoreMargins_canonical_iff, canonical_ite, setRegF_canonical_iff, ite_self]
  exact hoff _ rfl rfl rfl rfl rfl rfl rfl

@[simp] theorem diesToOp4_canonical_iff (s : State) : s.diesToOp4.Canonical ↔ s.Canonical := by
  simp only [diesToOp4, clrBit_canonical_iff, setV_canonical_iff, setF_canonical_iff, updPwr_canonical_iff, canonical_ite,
    ite_self,
    foldl_canonical_iff, implies_true]

@[simp] theorem portsLow_canonical_iff (s : State) : s.portsLow.Canonical ↔ s.Canonical := by
  simp only [portsLow, lowPower_canonical_iff, canonical_ite, ite_self, foldl_canonical_iff, implies_true]

theorem entrySteps_canonical {s : State} (hs : s.Canonical) (st n : Nat) : (s.entrySteps st n).Canonical := by
  grind [entrySteps, stopFns_canonical_iff, portsLow_canonical_iff, flushAll_canonical, diesToOp4_canonical_iff,
    enterSolstice_canonical]

theorem fxPowerEntryComplete_canonical {s : State} (hs : s.Canonical) : s.fxPowerEntryComplete.Canonical := by
  simp only [fxPowerEntryComplete]
  repeat' split
  all_goals grind [beginWake_canonical_iff, bump_canonical_iff, stopFns_canonical_iff, entrySteps_canonical,
    freeWord_canonical_iff, wakeUp_canonical_iff, setRegF_canonical_iff]

@[simp] theorem fxPwrTimerExpiry_canonical_iff (s : State) : s.fxPwrTimerExpiry.Canonical ↔ s.Canonical := by
  simp only [fxPwrTimerExpiry, wakeUp_canonical_iff, canonical_ite, ite_self]

/-! ### Machine/Monitor -/

@[simp] theorem fxMonitorSample_canonical_iff (s : State) (b n v : Nat) : (s.fxMonitorSample b n v).Canonical ↔ s.Canonical := by
  simp only [fxMonitorSample, raiseCode_canonical_iff, canonical_mk, canonical_eta, canonical_ite, ite_self]

@[simp] theorem closeWindow_canonical_iff (s : State) (b n : Nat) : (s.closeWindow b n).Canonical ↔ s.Canonical := by
  simp only [closeWindow, setReg_canonical_iff, bump_canonical_iff, setRegF_canonical_iff, canonical_mk, canonical_eta,
    foldl_canonical_iff,
    implies_true]

@[simp] theorem fxWindowClose_canonical_iff (s : State) (b n : Nat) : (s.fxWindowClose b n).Canonical ↔ s.Canonical := by
  simp only [fxWindowClose, closeWindow_canonical_iff, canonical_ite, ite_self]

@[simp] theorem fxMonClose_canonical_iff (s : State) (b n : Nat) : (s.fxMonClose b n).Canonical ↔ s.Canonical := by
  simp only [fxMonClose, closeWindow_canonical_iff, canonical_ite, ite_self]

@[simp] theorem stretchUpdate_canonical_iff (s : State) (d : Nat) : (s.stretchUpdate d).Canonical ↔ s.Canonical := by
  simp only [stretchUpdate, setRegF_canonical_iff]

@[simp] theorem fxThermalControl_canonical_iff (s : State) (d tj hot : Nat) (aged : Bool) :
    (s.fxThermalControl d tj hot aged).Canonical ↔ s.Canonical := by
  simp only [fxThermalControl, setRegF_canonical_iff, stretchUpdate_canonical_iff, bump_canonical_iff, opRequest_canonical_iff,
    raiseCode_canonical_iff, canonical_ite, ite_self]

@[simp] theorem fxPowerControl_canonical_iff (s : State) (sample avg vin : Nat) (ms tenMs : Bool) :
    (s.fxPowerControl sample avg vin ms tenMs).Canonical ↔ s.Canonical := by
  simp only [fxPowerControl, setRegF_canonical_iff, stretchUpdate_canonical_iff, raiseCode_canonical_iff, canonical_ite, ite_self,
    foldl_canonical_iff, implies_true]

@[simp] theorem startTest_canonical_iff (s : State) (u : Nat) : (s.startTest u).Canonical ↔ s.Canonical := by
  unfold startTest
  split <;> simp only [setBit_canonical_iff, canonical_ite, ite_self]

@[simp] theorem fxJubileeDue_canonical_iff (s : State) (d : Nat) : (s.fxJubileeDue d).Canonical ↔ s.Canonical := by
  simp only [fxJubileeDue, setBit_canonical_iff, canonical_ite, ite_self]

@[simp] theorem fxJubileeStart_canonical_iff (s : State) (d : Nat) (v : W64) :
    (s.fxJubileeStart d v).Canonical ↔ s.Canonical := by
  simp only [fxJubileeStart, setRegF_canonical_iff, clrBit_canonical_iff, setBit_canonical_iff, canonical_ite, ite_self]

@[simp] theorem fxJubileeRun_canonical_iff (s : State) (d : Nat) : (s.fxJubileeRun d).Canonical ↔ s.Canonical := by
  simp only [fxJubileeRun, setBit_canonical_iff, clrBit_canonical_iff, updPwr_canonical_iff, setReady_canonical_iff,
    startTest_canonical_iff,
    canonical_ite, ite_self, foldl_canonical_iff, implies_true]

@[simp] theorem fxJubileeComplete_canonical_iff (s : State) (d : Nat) (runs : List MarginRun) :
    (s.fxJubileeComplete d runs).Canonical ↔ s.Canonical := by
  simp only [fxJubileeComplete, setReg_canonical_iff, bump_canonical_iff, clrBit_canonical_iff, setRegF_canonical_iff,
    updMmc_canonical_iff,
    setV_canonical_iff, setF_canonical_iff, updPwr_canonical_iff, publish_canonical_iff, setReady_canonical_iff,
      raise_canonical_iff, canonical_ite, ite_self]

/-! ### Machine/Bar0 -/

@[simp] theorem setTxn_canonical_iff (s : State) (w : Who) (t : TxnSt) : (s.setTxn w t).Canonical ↔ s.Canonical := by
  unfold setTxn
  split <;> simp only [canonical_mk, canonical_eta]

@[simp] theorem fxPkgTxnBegin_canonical_iff (s : State) (w : Who) (_v : W64) :
    (s.fxPkgTxnBegin w _v).Canonical ↔ s.Canonical := by
  simp only [fxPkgTxnBegin, setTxn_canonical_iff, setRegF_canonical_iff, canonical_ite, ite_self]

@[simp] theorem stage_canonical_iff (s : State) (w : Who) (k : Nat) (p : Machine.Part) (x : W64) :
    (s.stage w k p x).Canonical ↔ s.Canonical := by
  simp only [stage, bump_canonical_iff, setTxn_canonical_iff, setRegF_canonical_iff, canonical_ite, ite_self]

theorem commitReg_canonical {s : State} (hs : s.Canonical) (w : Who) (k : Nat) (v : W64) : (s.commitReg w k v).Canonical := by
  simp only [commitReg]
  repeat' split
  all_goals grind [setRegF_canonical_iff, setTxn_canonical_iff, setBit_canonical_iff, flashAbandon_canonical, calm_canonical,
    memWrite_canonical, Canonical.foldl, canonical_mk, canonical_eta]

theorem fxPkgTxnCommit_canonical {s : State} (hs : s.Canonical) (w : Who) (v : W64) : (s.fxPkgTxnCommit w v).Canonical := by
  grind [fxPkgTxnCommit, setRegF_canonical_iff, closeTxn_canonical_iff, commitReg_canonical, Canonical.foldl]

@[simp] theorem fxPkgTxnRollback_canonical_iff (s : State) (w : Who) (v : W64) :
    (s.fxPkgTxnRollback w v).Canonical ↔ s.Canonical := by
  simp only [fxPkgTxnRollback, closeTxn_canonical_iff, canonical_ite, ite_self]

@[simp] theorem fxTxnTimeout_canonical_iff (s : State) (w : Who) : (s.fxTxnTimeout w).Canonical ↔ s.Canonical := by
  simp only [fxTxnTimeout, closeTxn_canonical_iff]

theorem shadowWrite_canonical {s : State} (hs : s.Canonical) (pu sl o : Nat) (p : Machine.Part) (x : W64) :
    (s.shadowWrite pu sl o p x).Canonical := by
  grind [shadowWrite, setReg_canonical_iff, updUnit_canonical, setRegF_canonical_iff, UnitSt.wf]

@[simp] theorem activeWrite_canonical_iff (s : State) (pu sl o : Nat) (p : Machine.Part) (x : W64) :
    (s.activeWrite pu sl o p x).Canonical ↔ s.Canonical := by
  simp only [activeWrite, setRegF_canonical_iff, canonical_ite, ite_self]

theorem pstoreWrite_canonical {s : State} (hs : s.Canonical) (pc o : Nat) (bs : List Byte) :
    (s.pstoreWrite pc o bs).Canonical := by
  unfold pstoreWrite
  refine .ite ?_ (updClu_canonical hs pc fun c hc => ⟨smWf_smSetL _ _ _ hc.1, ?_⟩)
  · simpa only [bump_canonical_iff, setBit_canonical_iff] using hs
  · dsimp only
    split
    · exact smWf_smSet _ _ _ hc.2
    · exact hc.2

theorem fxShadowBlockWrite_canonical {s : State} (hs : s.Canonical) (u sl off size : Nat) (v : W64) :
    (s.fxShadowBlockWrite u sl off size v).Canonical := by
  grind [fxShadowBlockWrite, gate_canonical, shadowWrite_canonical]

theorem fxActiveBlockLiveWrite_canonical {s : State} (hs : s.Canonical) (u sl off size : Nat) (v : W64) :
    (s.fxActiveBlockLiveWrite u sl off size v).Canonical := by
  grind [fxActiveBlockLiveWrite, gate_canonical, activeWrite_canonical_iff]

theorem fxPstoreWindowWrite_canonical {s : State} (hs : s.Canonical) (c off size : Nat) (v : W64) :
    (s.fxPstoreWindowWrite c off size v).Canonical := by
  grind [fxPstoreWindowWrite, gate_canonical, pstoreWrite_canonical]

theorem queueWrite_canonical {s : State} (hs : s.Canonical) (n word : Nat) (y : W64) : (s.queueWrite n word y).Canonical := by
  unfold queueWrite
  repeat' split
  all_goals grind [fxQueueDisable_canonical_iff, qcfgErr_canonical_iff, fxQueueEnable_canonical, qWrite0_canonical_iff,
    setReg_canonical_iff]

@[simp] theorem storePlain_canonical_iff (s : State) (k : Nat) (y : W64) (fs : List RegFld) :
    (s.storePlain k y fs).Canonical ↔ s.Canonical := by
  grind [storePlain, setRegF_canonical_iff, foldl_canonical_iff]

theorem pkgAct_canonical {s : State} (hs : s.Canonical) (w : Who) (k : Nat) (p : Machine.Part) (y : W64) :
    ∀ t, (s.pkgAct w k p y) = some t → t.Canonical := by
  unfold pkgAct
  repeat' split
  all_goals grind [fxPkgErrInj_canonical, fxPkgTxnBegin_canonical_iff, fxPkgTxnCommit_canonical, fxPkgTxnRollback_canonical_iff,
    setRegF_canonical_iff, pwrRequest_canonical_iff, fxPwrStretchWrite_canonical_iff, fxPwrOpTWr_canonical_iff,
    fxPwrOpFWr_canonical_iff, fxPwrOpVWr_canonical_iff, emit_canonical_iff, clrBit_canonical_iff]

theorem hubAct_canonical_iff (s : State) (w : Who) (k : Nat) (p : Machine.Part) (y : W64) :
    ∀ t, (s.hubAct w k p y) = some t → (t.Canonical ↔ s.Canonical) := by
  simp only [hubAct]
  grind [setRegF_canonical_iff, fxClrCnt_canonical_iff, fxLnkEnable_canonical_iff, fxLnkRetrain_canonical_iff,
    fxLanternSend_canonical_iff,
    ringWrite_canonical_iff, fxVigilStart_canonical_iff, fxFabRetire_canonical_iff, fxFabClrMon_canonical_iff,
      setRt_canonical_iff, updFab_canonical_iff]

theorem dieAct_canonical {s : State} (hs : s.Canonical) (k : Nat) (y : W64) : ∀ t, (s.dieAct k y) = some t → t.Canonical := by
  grind [dieAct, fxUnpinAll_canonical_iff, fxMscFlush_canonical_iff, fxTgStop_canonical, fxTgStart_canonical_iff,
    fxJubileeStart_canonical_iff, fxCcBreak_canonical, fxCcResume_canonical_iff, clrBit_canonical_iff, setBit_canonical_iff]

theorem regWriteAt_canonical {s : State} (hs : s.Canonical) (w : Who) (k : Nat) (p : Machine.Part) (x : W64) :
    (s.regWriteAt w k p x).Canonical := by
  grind [regWriteAt, queueWrite_canonical, pkgAct_canonical, hubAct_canonical_iff, dieAct_canonical, stage_canonical_iff,
    storePlain_canonical_iff, fxMonClose_canonical_iff]

theorem landed_canonical {s : State} (hs : s.Canonical) (w : Option Who) (a : Nat) (f : State → State)
    (hf : ∀ s, s.Canonical → (f s).Canonical) :
    (s.landed w a f).Canonical := by
  grind [landed, bump_canonical_iff]

theorem fxRegisterWrite_canonical {s : State} (hs : s.Canonical) (w : Who) (off size : Nat) (v : W64) :
    (s.fxRegisterWrite w off size v).Canonical := by
  grind [fxRegisterWrite, bump_canonical_iff, pstoreWrite_canonical, shadowWrite_canonical, activeWrite_canonical_iff,
    regWriteAt_canonical]

@[simp] theorem fxDieLinkRelock_canonical_iff (s : State) (d : Nat) (longer : Bool) :
    (s.fxDieLinkRelock d longer).Canonical ↔ s.Canonical := by
  simp only [fxDieLinkRelock, canonical_mk, canonical_eta]

@[simp] theorem fxHbmPhyLockLoss_canonical_iff (s : State) (ch : Nat) : (s.fxHbmPhyLockLoss ch).Canonical ↔ s.Canonical := by
  simp only [fxHbmPhyLockLoss, updChan_canonical_iff, setRegF_canonical_iff, canonical_ite, ite_self]

/-! ### Machine/Mgmt -/

@[simp] theorem answerMgmt_canonical_iff (s : State) (code : Nat) (bs : List Byte) :
    (s.answerMgmt code bs).Canonical ↔ s.Canonical := by
  simp only [answerMgmt, emit_canonical_iff]

theorem plain_canonical {s : State} (hs : s.Canonical) (f : State → State) (hf : ∀ s, s.Canonical → (f s).Canonical) :
    (s.plain f).Canonical := by
  grind [plain, answerMgmt_canonical_iff]

theorem session_canonical {s : State} (hs : s.Canonical) (auth : Bool) (f : State → State)
    (hf : ∀ s, s.Canonical → (f s).Canonical) :
    (s.session auth f).Canonical := by
  grind [session, plain_canonical, answerMgmt_canonical_iff]

theorem accept_canonical {s : State} (hs : s.Canonical) (ok : Bool) (f : State → State)
    (hf : ∀ s, s.Canonical → (f s).Canonical) :
    (s.accept ok f).Canonical := by
  grind [accept, answerMgmt_canonical_iff]

theorem fxRegRead_canonical {s : State} (hs : s.Canonical) (off size : Nat) : (s.fxRegRead off size).Canonical := by
  grind [fxRegRead, plain_canonical, answerMgmt_canonical_iff, canonical_mk, canonical_eta]

theorem fxRegWrite_canonical {s : State} (hs : s.Canonical) (auth : Bool) (off size : Nat) (v : W64) :
    (s.fxRegWrite auth off size v).Canonical := by
  grind [fxRegWrite, session_canonical, accept_canonical, fxRegisterWrite_canonical]

theorem settleFlash_canonical {s : State} (hs : s.Canonical) : s.settleFlash.Canonical := by
  grind [settleFlash, segmentDone_canonical, mirror_canonical, Canonical.foldl]

theorem fxPowerState_canonical {s : State} (hs : s.Canonical) (auth : Bool) (req : Nat) :
    (s.fxPowerState auth req).Canonical := by
  grind [fxPowerState, session_canonical, accept_canonical, pwrRequest_canonical_iff]

theorem fxWake_canonical {s : State} (hs : s.Canonical) : s.fxWake.Canonical := by
  grind [fxWake, plain_canonical, accept_canonical, wakeUp_canonical_iff]

theorem fxAdmitModule_canonical {s : State} (hs : s.Canonical) (auth : Bool) (gen : Nat) :
    (s.fxAdmitModule auth gen).Canonical := session_canonical hs auth _ fun s hs => accept_canonical hs true _ fun s hs => by
  have hgen := (setRegF_canonical_iff s (rFab 0) 47 32 gen).2 hs
  refine .ite ((setRegF_canonical_iff ..).2 ((clrBit_canonical_iff ..).2 ?_)) hgen
  exact Canonical.foldl hgen (fun s pc hs => resetCluster_canonical hs pc) _

theorem fxRetireNotice_canonical {s : State} (hs : s.Canonical) (auth : Bool) (gen : Nat) :
    (s.fxRetireNotice auth gen).Canonical := by
  grind [fxRetireNotice, session_canonical, accept_canonical, calm_canonical, fence_canonical]

theorem fxChannelRetire_canonical {s : State} (hs : s.Canonical) (auth : Bool) (ch : Nat) :
    (s.fxChannelRetire auth ch).Canonical := by
  grind [fxChannelRetire, session_canonical, accept_canonical, resume_canonical, release_canonical, retireChan_canonical_iff]

theorem fxChannelTest_canonical {s : State} (hs : s.Canonical) (auth : Bool) (ch : Nat) :
    (s.fxChannelTest auth ch).Canonical := by
  grind [fxChannelTest, session_canonical, accept_canonical, setRegF_canonical_iff]

theorem fxChannelTrain_canonical {s : State} (hs : s.Canonical) (auth : Bool) (ch : Nat) (passed : Bool) (spared : Nat) :
    (s.fxChannelTrain auth ch passed spared).Canonical := by
  grind [fxChannelTrain, session_canonical, accept_canonical, setRegF_canonical_iff, retireChan_canonical_iff, resume_canonical,
    release_canonical]

theorem fxColumnTest_canonical {s : State} (hs : s.Canonical) (auth : Bool) (u : Option Nat) :
    (s.fxColumnTest auth u).Canonical := by
  grind [fxColumnTest, session_canonical, accept_canonical, startTest_canonical_iff, Canonical.foldl]

theorem fxReadAlmanac_canonical {s : State} (hs : s.Canonical) (archive : Bool) (ix : Nat) :
    (s.fxReadAlmanac archive ix).Canonical := by
  grind [fxReadAlmanac, plain_canonical, answerMgmt_canonical_iff]

theorem fxClearAlmanac_canonical {s : State} (hs : s.Canonical) (auth : Bool) : (s.fxClearAlmanac auth).Canonical := by
  grind [fxClearAlmanac, session_canonical, accept_canonical, setFlash_canonical, setReg_canonical_iff, record_canonical_iff,
    canonical_mk, canonical_eta]

theorem fxReadBringup_canonical {s : State} (hs : s.Canonical) (n : Nat) : (s.fxReadBringup n).Canonical := by
  grind [fxReadBringup, plain_canonical, freeWord_canonical_iff, freeBytes_canonical_iff, answerMgmt_canonical_iff]

theorem fxActivate_canonical {s : State} (hs : s.Canonical) (auth : Bool) : (s.fxActivate auth).Canonical := by
  grind [fxActivate, session_canonical, accept_canonical, setRegF_canonical_iff, updMmc_canonical_iff]

theorem fxTestAccess_canonical {s : State} (hs : s.Canonical) (auth : Bool) : (s.fxTestAccess auth).Canonical := by
  grind [fxTestAccess, session_canonical, accept_canonical, updMmc_canonical_iff]

theorem fxSetAnchor_canonical {s : State} (hs : s.Canonical) (auth : Bool) (digest : BitVec 384) :
    (s.fxSetAnchor auth digest).Canonical := by
  grind [fxSetAnchor, session_canonical, accept_canonical, updMmc_canonical_iff]

@[simp] theorem writeImage_canonical_iff (s : State) (bank : Bool) (image svn : Nat) :
    (s.writeImage bank image svn).Canonical ↔ s.Canonical := by
  simp only [writeImage, updMmc_canonical_iff]

@[simp] theorem fxPldmFirmwareUpdate_canonical_iff (s : State) (image svn : Nat) (activateFirmware : Bool) :
    (s.fxPldmFirmwareUpdate image svn activateFirmware).Canonical ↔ s.Canonical := by
  simp only [fxPldmFirmwareUpdate, writeImage_canonical_iff, updMmc_canonical_iff, canonical_ite, ite_self]

@[simp] theorem fxPldmSensorRead_canonical_iff (s : State) (id_ : Nat) : (s.fxPldmSensorRead id_).Canonical ↔ s.Canonical := by
  simp only [fxPldmSensorRead, answerMgmt_canonical_iff, canonical_ite, ite_self]

@[simp] theorem fxPldmEventRetrieval_canonical_iff (s : State) : s.fxPldmEventRetrieval.Canonical ↔ s.Canonical := by
  simp only [fxPldmEventRetrieval]
  split
  · rfl
  split
  · rfl
  · simp only [emit_canonical_iff, updMmc_canonical_iff]

@[simp] theorem spdmAnswer_canonical_iff (s : State) : s.spdmAnswer.Canonical ↔ s.Canonical := by
  simp only [spdmAnswer, freeWord_canonical_iff, freeBytes_canonical_iff, emit_canonical_iff]

@[simp] theorem fxSpdmRequest_canonical_iff (s : State) (r : SpdmReq) : (s.fxSpdmRequest r).Canonical ↔ s.Canonical := by
  grind [fxSpdmRequest, spdmAnswer_canonical_iff, updMmc_canonical_iff]

@[simp] theorem fxI3cAddressAssign_canonical_iff (s : State) (o : I3cOp) : (s.fxI3cAddressAssign o).Canonical ↔ s.Canonical := by
  simp only [fxI3cAddressAssign, updMmc_canonical_iff, canonical_ite, ite_self]

@[simp] theorem fxXmodemBundle_canonical_iff (s : State) (image svn : Nat) :
    (s.fxXmodemBundle image svn).Canonical ↔ s.Canonical := by
  simp only [fxXmodemBundle, writeImage_canonical_iff, canonical_ite, ite_self]

@[simp] theorem fxTapIntrusiveInstruction_canonical_iff (s : State) (i : TapInstr) :
    (s.fxTapIntrusiveInstruction i).Canonical ↔ s.Canonical := by
  simp only [fxTapIntrusiveInstruction, setReadyWord_canonical_iff, updMmc_canonical_iff, canonical_ite, ite_self]

@[simp] theorem fxTrst_canonical_iff (s : State) : s.fxTrst.Canonical ↔ s.Canonical := by
  simp only [fxTrst]

/-! ### Losses and resets -/

theorem declareDead_canonical {s : State} (hs : s.Canonical) (c : Nat) (spare : Bool) : (s.declareDead c spare).Canonical := by
  grind [declareDead, silence_canonical, emptyCluster_canonical, endDead_canonical, revive_canonical, closeFaults_canonical_iff,
    publish_canonical_iff, bump_canonical_iff, setRegF_canonical_iff, updClu_canonical, CluSt.wf, canonical_mk, canonical_eta]

theorem loseClusters_canonical {s : State} (hs : s.Canonical) (r : Nat) (dead : Bool) : (s.loseClusters r dead).Canonical := by
  grind [loseClusters, Canonical.foldl, emptyCluster_canonical, endDead_canonical, closeFaults_canonical_iff,
    setReg_canonical_iff,
    updClu_canonical, CluSt.wf, canonical_mk, canonical_eta]

theorem loseRegion_canonical {s : State} (hs : s.Canonical) (r : Nat) (readable : Bool) :
    (s.loseRegion r readable).Canonical := by
  grind [loseRegion, Canonical.foldl, silence_canonical, loseClusters_canonical, setSlice_canonical_iff, writeBack_canonical,
    poisonChan_canonical, poisonWait_canonical, setReg_canonical_iff, publish_canonical_iff, canonical_mk, canonical_eta]

theorem loseDie_canonical {s : State} (hs : s.Canonical) (d : Nat) : (s.loseDie d).Canonical := by
  grind [loseDie, Canonical.foldl, silence_canonical, loseClusters_canonical, setSlice_canonical_iff, setReg_canonical_iff,
    setTgt_canonical_iff, setReadyWord_canonical_iff, publish_canonical_iff, serve_canonical, canonical_mk, canonical_eta]

theorem setFlash_gens_canonical {s : State} (hs : s.Canonical) (g : List FlashGen → List FlashGen) :
    (s.setFlash fun f => { f with gens := g f.gens }).Canonical := setFlash_canonical hs _ id

theorem loseHub1_canonical {s : State} (hs : s.Canonical) : s.loseHub1.Canonical := by
  unfold loseHub1
  extract_lets s₁ s₂ s₃ s₄ s₅ s₆ w
  have h₁ : s₁.Canonical := (publish_canonical_iff _).2 (hs.foldl (fun _ _ h => loseClusters_canonical h _ _) _)
  clear_value s₁
  have h₂ : s₂.Canonical := h₁.foldl (fun _ _ h => (setTgt_canonical_iff ..).2 h) _
  clear_value s₂
  have h₃ : s₃.Canonical := h₂.foldl (fun _ _ h => (setLnk_canonical_iff ..).2 ((setPort_canonical_iff ..).2 h)) _
  clear_value s₃
  have h₄ : s₄.Canonical := h₃.foldl (fun _ _ h => (setCle_canonical_iff ..).2 h) _
  clear_value s₄
  have h₅ : s₅.Canonical := setFlash_gens_canonical h₄ (·.map fun g => { g with run := false })
  clear_value s₅
  have h₆ : s₆.Canonical := (updFab_canonical_iff ..).2 h₅
  clear_value s₆
  exact hs.ite ((setReadyWord_canonical_iff ..).2 ((canonical_mk ..).2 h₆))

/-- What is left of a lost module is the host's memory and the flash. -/
theorem loseModule_canonical {s : State} (hs : s.Canonical) : s.loseModule.Canonical := by
  obtain ⟨-, -, hhost, -, hflash, -⟩ := hs
  exact ⟨rfl, rfl, hhost, rfl, hflash, rfl, rfl⟩

theorem errAction_canonical {s : State} (hs : s.Canonical) (e : Err) : (s.errAction e).1.Canonical := by
  unfold errAction
  split
  · exact hs
  split
  · dsimp only
    split
    · exact declareDead_canonical hs _ _
    · exact hs
  · exact loseRegion_canonical hs _ _
  · exact loseDie_canonical hs _
  · exact loseHub1_canonical hs
  · exact (loseDie_canonical hs _).ite (loseHub1_canonical hs)
  · exact hs

theorem fatalRecord_loseModule_canonical {s : State} (hs : s.Canonical) (e : Err) : (s.fatalRecord e).loseModule.Canonical :=
  loseModule_canonical ((fatalRecord_canonical_iff s e).2 hs)

theorem fxErrorArrival_canonical {s : State} (hs : s.Canonical) (a : Nat ⊕ Err) : (s.fxErrorArrival a).Canonical := by
  unfold fxErrorArrival
  split
  · split
    · exact hs
    · exact deliverErr_canonical ((canonical_mk ..).2 hs) _
  · split
    · exact hs
    · exact (fatalRecord_loseModule_canonical hs _).ite (hs.ite (detectErr_canonical hs _ _))

theorem fxErrorHandlingEnd_canonical {s : State} (hs : s.Canonical) (lvl ix : Nat) : (s.fxErrorHandlingEnd lvl ix).Canonical := by
  grind [fxErrorHandlingEnd, errAction_canonical, countErr_canonical_iff, updEh_canonical, bump_canonical_iff,
    reportLimited_canonical_iff,
    setHnd_canonical_iff, showEh_canonical]

theorem fxHandlerStrike_canonical {s : State} (hs : s.Canonical) (lvl : Nat) (x : Strike) :
    (s.fxHandlerStrike lvl x).Canonical := by
  grind [fxHandlerStrike, updEh_canonical, bump_canonical_iff, errRecord_canonical_iff, fatalRecord_loseModule_canonical,
    setHnd_canonical_iff, strikeErr_canonical_iff, silence_canonical, arriveAt_canonical]

theorem fxColumnTestDone_canonical {s : State} (hs : s.Canonical) (u : Nat) (faults : List (BitVec 66)) :
    (s.fxColumnTestDone u faults).Canonical := by
  unfold fxColumnTestDone
  split
  · exact hs
  next pu _ =>
    have hset : ((s.clrBit (rUnit pu 8) 1).setFaults pu faults).Canonical := by
      simpa only [setFaults_canonical_iff, clrBit_canonical_iff] using hs
    refine hs.ite (hset.ite (.ite ?_ ?_))
    · exact (raise_canonical_iff ..).2 (declareDead_canonical ((setBit_canonical_iff ..).2 hset) _ _)
    · simpa only [raiseCode_canonical_iff, publish_canonical_iff, setReg_canonical_iff, setBit_canonical_iff] using hset

theorem fxDieClockLoss_canonical {s : State} (hs : s.Canonical) (d : Nat) : (s.fxDieClockLoss d).Canonical := by
  unfold fxDieClockLoss
  refine hs.ite ((raiseCode_canonical_iff ..).2 (loseDie_canonical ((setBit_canonical_iff ..).2 hs) d))

theorem fxThermalTrip_canonical {s : State} (hs : s.Canonical) (dom sensor temp : Nat) :
    (s.fxThermalTrip dom sensor temp).Canonical := by
  unfold fxThermalTrip
  refine hs.ite (.ite (hs.ite ?_) (.ite (fatalRecord_loseModule_canonical hs _) (hs.ite ?_)))
  · exact (raiseCode_canonical_iff ..).2 (loseDie_canonical hs dom)
  · exact (raise_canonical_iff ..).2 (loseHub1_canonical hs)

theorem fxRootClockLoss_canonical {s : State} (hs : s.Canonical) : s.fxRootClockLoss.Canonical := by
  unfold fxRootClockLoss
  refine hs.ite (fatalRecord_loseModule_canonical ?_ _)
  have hword := (freeWord_canonical_iff s).2 hs
  simp only [canonical_ite, clrBit_canonical_iff, bump_canonical_iff, hword, ite_self]

theorem inputLost_canonical {s : State} (hs : s.Canonical) (m : InputLoss) (cause : Nat) : (s.inputLost m cause).Canonical := by
  grind [inputLost, Canonical.foldl, segmentDone_canonical, loseModule_canonical, countErr_canonical_iff, errRecord_canonical_iff,
    mirror_canonical, saveTime_canonical_iff, updPwr_canonical_iff]

/-- A reset clears the module's memories and leaves the host's and the flash. -/
theorem clearModule_canonical {s : State} (hs : s.Canonical) (rs : SMap W64) : (s.clearModule rs).Canonical := by
  obtain ⟨-, -, hhost, -, hflash, -⟩ := (toD0_canonical_iff s).2 hs
  exact ⟨rfl, rfl, hhost, rfl, hflash, rfl, rfl⟩

/-- A cold reset leaves a fenced reserve, which is a part of the channels (R431). -/
theorem coldClear_canonical {s : State} (hs : s.Canonical) (commanded : Bool) : (s.coldClear commanded).Canonical := by
  unfold coldClear
  have hclear := clearModule_canonical hs (s.regs.filter fun x => x.1 == 0x40000 || x.1 == 0x40008)
  generalize s.clearModule _ = c at hclear
  obtain ⟨hbytes, hpoison, -⟩ := hs
  rw [restoreMargins_canonical_iff, updMmc_canonical_iff]
  split
  · obtain ⟨-, -, hrest⟩ := hclear
    exact ⟨smWf_filter _ _ hbytes, smWf_filter _ _ hpoison, hrest⟩
  · exact hclear

/-- A warm reset keeps the channels and the page table (R481). -/
theorem warmClear_canonical {s : State} (hs : s.Canonical) : s.warmClear.Canonical := by
  unfold warmClear
  have hclear := clearModule_canonical hs (s.regs.filterMap warmReg)
  generalize s.clearModule _ = c at hclear
  obtain ⟨hbytes, hpoison, -, hpages, -⟩ := hs
  obtain ⟨-, -, hhost, -, hflash, hunits, hclus⟩ := hclear
  simp only [restoreMargins_canonical_iff, untrain_canonical_iff, canonical_ite, setRegF_canonical_iff, ite_self]
  exact ⟨hbytes, hpoison, hhost, hpages, hflash, hunits, hclus⟩

theorem warmReset_canonical {s : State} (hs : s.Canonical) (b : BootVerdict) (last : Nat) : (s.warmReset b last).Canonical :=
  (boot_canonical_iff ..).2 (warmClear_canonical hs)

theorem fxPowerOnColdReset_canonical {s : State} (hs : s.Canonical) (b : BootVerdict) (maddr : Nat) :
    (s.fxPowerOnColdReset b maddr).Canonical := by
  unfold fxPowerOnColdReset
  extract_lets fail short c c1 c2 now c3
  have hc : c.Canonical := coldClear_canonical hs false
  clear_value c
  have hc1 : c1.Canonical := (setReg_canonical_iff ..).2 ((canonical_mk ..).2 hc)
  clear_value c1
  have hc2 : c2.Canonical := setFlash_canonical ((setBit_canonical_iff ..).2 hc1) _ id
  clear_value c2
  have hc3 : c3.Canonical := (updMmc_canonical_iff ..).2 ((setReg_canonical_iff ..).2 hc2)
  clear_value c3
  exact (boot_canonical_iff ..).2 hc3

theorem fxColdReset_canonical {s : State} (hs : s.Canonical) (auth : Bool) (b : BootVerdict) (maddr : Nat) :
    (s.fxColdReset auth b maddr).Canonical := by
  refine session_canonical hs _ _ fun s hs => (boot_canonical_iff ..).2 ((updMmc_canonical_iff ..).2 (coldClear_canonical ?_
    true))
  exact settleFlash_canonical ((answerMgmt_canonical_iff ..).2 hs)

theorem fxPerstAssert_canonical {s : State} (hs : s.Canonical) (b : BootVerdict) : (s.fxPerstAssert b).Canonical := by
  unfold fxPerstAssert
  exact hs.ite (.ite ((updPwr_canonical_iff ..).2 hs) ((updPwr_canonical_iff ..).2 (warmReset_canonical hs b 2)))

theorem fxWarmReset_canonical {s : State} (hs : s.Canonical) (auth : Bool) (b : BootVerdict) :
    (s.fxWarmReset auth b).Canonical := by
  refine session_canonical hs _ _ fun s hs => warmReset_canonical ?_ b 3
  exact settleFlash_canonical ((answerMgmt_canonical_iff ..).2 hs)

/-- A lost keep store empties the page table (R510). -/
theorem dropKeep_canonical {s : State} (hs : s.Canonical) : s.dropKeep.Canonical := by
  obtain ⟨hbytes, hpoison, hhost, -, hflash, hunits, hclus⟩ := hs
  simp only [dropKeep, raiseCode_canonical_iff, setBit_canonical_iff, setVmv_canonical_iff, restoreMargins_canonical_iff,
    setRegF_canonical_iff, canonical_ite, foldl_canonical_iff, implies_true, ite_self, canonical_mk]
  exact ⟨hbytes, hpoison, hhost, rfl, hflash, hunits, hclus⟩

theorem fxWakeComplete_canonical {s : State} (hs : s.Canonical) (copies : Bool × Bool) : (s.fxWakeComplete copies).Canonical := by
  unfold fxWakeComplete
  exact hs.ite ((updPwr_canonical_iff ..).2 ((setRegF_canonical_iff ..).2 ((dropKeep_canonical hs).ite hs)))

/-! ### Every command -/

theorem next_canonical {t u : State} (h : (.next u : Host.Outcome State Fault Refusal) = .next t) (hu : u.Canonical) :
    t.Canonical := by
  cases h
  exact hu

theorem exec_canonical {s t : State} (hs : s.Canonical) (c : Instr) (hexec : exec c s = .next t) : t.Canonical := by
  cases c with
  | cfg c => exact next_canonical hexec (fxCfg_canonical hs _)
  | dcrcCheck u sl => exact next_canonical hexec (orWait_canonical hs _ fun s hs => fxDcrcCheck_canonical hs _ _)
  | patch c => exact next_canonical hexec (fxPatch_canonical hs _)
  | patchTakeEffect c => exact next_canonical hexec (orWait_canonical hs _ fun s hs => fxPatchTakeEffect_canonical hs _)
  | go c => exact next_canonical hexec (fxGo_canonical hs _)
  | goAdmit u sl => exact next_canonical hexec (fxGoAdmit_canonical hs _ _)
  | goPrepare u sl t => exact next_canonical hexec (orWait_canonical hs _ fun s hs => fxGoPrepare_canonical hs _ _ _ _)
  | goStart u sl => exact next_canonical hexec (fxGoStart_canonical hs _ _)
  | strm c => exact next_canonical hexec (fxStrm_canonical hs _)
  | waittok c => exact next_canonical hexec (fxWaittok_canonical hs _)
  | waittokRelease c => exact next_canonical hexec (fxWaittokRelease_canonical hs _)
  | tokenTimeout c => exact next_canonical hexec (fxTokenTimeout_canonical hs _)
  | sigtok c => exact next_canonical hexec (fxSigtok_canonical hs _)
  | tokenAdd j => exact next_canonical hexec (fxTokenAdd_canonical hs _)
  | replay c => exact next_canonical hexec (fxReplay_canonical hs _)
  | swap c => exact next_canonical hexec (fxSwap_canonical hs _)
  | swapTakeEffect c => exact next_canonical hexec ((fxSwapTakeEffect_canonical_iff _ _).2 hs)
  | fence c => exact next_canonical hexec (fxFence_canonical hs _)
  | fenceRelease c => exact next_canonical hexec (fxFenceRelease_canonical hs _)
  | halt c => exact next_canonical hexec (fxHalt_canonical hs _)
  | programEnd c => exact next_canonical hexec (fxProgramEnd_canonical hs _)
  | passStart u e => exact next_canonical hexec (fxPassStart_canonical hs _ _)
  | drainStart u e parity => exact next_canonical hexec (fxDrainStart_canonical hs _ _ _)
  | descriptorComplete u sl => exact next_canonical hexec (fxDescriptorComplete_canonical hs _ _)
  | scaleReport j => exact next_canonical hexec (orWait_canonical hs _ fun s hs => fxScaleReport_canonical hs _)
  | scaleClose j => exact next_canonical hexec (orWait_canonical hs _ fun s hs => fxScaleClose_canonical hs _)
  | chainRowArrive u => exact next_canonical hexec (fxChainRowArrive_canonical hs _)
  | chainAbort u => exact next_canonical hexec (fxChainAbort_canonical hs _)
  | watchdog u => exact next_canonical hexec (fxWatchdog_canonical hs _)
  | streamStart u => exact next_canonical hexec (orWait_canonical hs _ fun s hs => fxStreamStart_canonical hs _)
  | streamIssue u g => exact next_canonical hexec (fxStreamIssue_canonical hs _ _)
  | elementDelivery u g k t => exact next_canonical hexec (fxElementDelivery_canonical hs _ _ _ _)
  | faultTimeout u g k => exact next_canonical hexec (fxFaultTimeout_canonical hs _ _ _)
  | sliceRequest r => exact next_canonical hexec (fxSliceRequest_canonical hs _)
  | lineFill ch line sectors => exact next_canonical hexec (fxLineFill_canonical hs _ _ _)
  | retrainWindowOpen ch => exact next_canonical hexec ((fxRetrainWindowOpen_canonical_iff _ _).2 hs)
  | retrainReopen ch spared => exact next_canonical hexec (resume_canonical (fxRetrainReopen_canonical hs _ _))
  | retrainTimeout ch restored => exact next_canonical hexec (resume_canonical (fxRetrainTimeout_canonical hs _ _ _))
  | fallbackTrainingDone ch passed => exact next_canonical hexec (resume_canonical (fxFallbackTrainingDone_canonical hs _ _ _))
  | migrationUnitMove d => exact next_canonical hexec (fxMigrationUnitMove_canonical hs _ _)
  | patrolRead ch sector o => exact next_canonical hexec (fxPatrolRead_canonical hs _ _ _)
  | tgStart ch v => exact next_canonical hexec (gate_canonical hs _ _ fun s hs => (fxTgStart_canonical_iff s _ _).2 hs)
  | tgStop ch v => exact next_canonical hexec (gate_canonical hs _ _ fun s hs => fxTgStop_canonical hs _ _ _)
  | tgProgramEnd ch faulty => exact next_canonical hexec (fxTgProgramEnd_canonical hs _ _)
  | mscFlush sl => exact next_canonical hexec (gate_canonical hs _ _ fun s hs => (fxMscFlush_canonical_iff s _).2 hs)
  | mscFlushDone sl => exact next_canonical hexec (fxMscFlushDone_canonical hs _)
  | unpinAll sl => exact next_canonical hexec (gate_canonical hs _ _ fun s hs => (fxUnpinAll_canonical_iff s _).2 hs)
  | upeJobTake d => exact next_canonical hexec (orWait_canonical hs _ fun s hs => fxUpeJobTake_canonical hs _)
  | upeTokenRelease d => exact next_canonical hexec (orWait_canonical hs _ fun s hs => fxUpeTokenRelease_canonical hs _)
  | upeTokenTimeout d => exact next_canonical hexec ((fxUpeTokenTimeout_canonical_iff _ _).2 hs)
  | update d => exact next_canonical hexec (orWait_canonical hs _ fun s hs => fxUpdate_canonical hs _)
  | norm d => exact next_canonical hexec (orWait_canonical hs _ fun s hs => fxNorm_canonical hs _)
  | statBlend d => exact next_canonical hexec (orWait_canonical hs _ fun s hs => fxStatBlend_canonical hs _)
  | rootPrep d => exact next_canonical hexec (orWait_canonical hs _ fun s hs => fxRootPrep_canonical hs _)
  | rootT d => exact next_canonical hexec (orWait_canonical hs _ fun s hs => fxRootT_canonical hs _)
  | upeJobComplete d => exact next_canonical hexec (orWait_canonical hs _ fun s hs => (fxUpeJobComplete_canonical_iff s _).2 hs)
  | linkTrainingDone p => exact next_canonical hexec ((fxLinkTrainingDone_canonical_iff _ _).2 hs)
  | trainFail p => exact next_canonical hexec ((fxTrainFail_canonical_iff _ _).2 hs)
  | initSend p => exact next_canonical hexec ((fxInitSend_canonical_iff _ _).2 hs)
  | initFlit p f => exact next_canonical hexec ((fxInitFlit_canonical_iff _ _ _).2 hs)
  | codewordReceive p cw => exact next_canonical hexec ((fxCodewordReceive_canonical_iff _ _ _).2 hs)
  | linkFlit p f => exact next_canonical hexec ((fxLinkFlit_canonical_iff _ _ _).2 hs)
  | nakRepeat p => exact next_canonical hexec ((fxNakRepeat_canonical_iff _ _).2 hs)
  | ackTimer p => exact next_canonical hexec ((fxAckTimer_canonical_iff _ _).2 hs)
  | replayTimeout p => exact next_canonical hexec ((fxReplayTimeout_canonical_iff _ _).2 hs)
  | lockLoss p => exact next_canonical hexec ((fxLockLoss_canonical_iff _ _).2 hs)
  | partnerSignalLoss p => exact next_canonical hexec ((fxPartnerSignalLoss_canonical_iff _ _).2 hs)
  | reinject p => exact next_canonical hexec ((fxReinject_canonical_iff _ _).2 hs)
  | autoRetrain p => exact next_canonical hexec ((fxAutoRetrain_canonical_iff _ _).2 hs)
  | lnkRetrain p => exact next_canonical hexec (portGate_canonical hs _ _ fun s hs => (fxLnkRetrain_canonical_iff s _).2 hs)
  | lnkEnable p on => exact next_canonical hexec (portGate_canonical hs _ _ fun s hs => (fxLnkEnable_canonical_iff s _ _).2 hs)
  | lanternSend p => exact next_canonical hexec (portGate_canonical hs _ _ fun s hs => (fxLanternSend_canonical_iff s _).2 hs)
  | clrCnt p => exact next_canonical hexec (portGate_canonical hs _ _ fun s hs => (fxClrCnt_canonical_iff s _).2 hs)
  | portSleep p => exact next_canonical hexec ((fxPortSleep_canonical_iff _ _).2 hs)
  | sleep p => exact next_canonical hexec ((fxSleep_canonical_iff _ _).2 hs)
  | sleepAck p => exact next_canonical hexec ((fxSleepAck_canonical_iff _ _).2 hs)
  | sleepAckTimeout p => exact next_canonical hexec ((fxSleepAckTimeout_canonical_iff _ _).2 hs)
  | signalDetectWake p => exact next_canonical hexec ((fxSignalDetectWake_canonical_iff _ _).2 hs)
  | lanternDetect p bursts => exact next_canonical hexec ((fxLanternDetect_canonical_iff _ _ _).2 hs)
  | autoWakeLantern p => exact next_canonical hexec ((fxAutoWakeLantern_canonical_iff _ _).2 hs)
  | packetRoute src => exact next_canonical hexec ((fxPacketRoute_canonical_iff _ _).2 hs)
  | packetForward src => exact next_canonical hexec ((fxPacketForward_canonical_iff _ _).2 hs)
  | put => exact next_canonical hexec (orWait_canonical hs _ fun s hs => fxPut_canonical hs)
  | putAck => exact next_canonical hexec (orWait_canonical hs _ fun s hs => fxPutAck_canonical hs)
  | msg => exact next_canonical hexec (orWait_canonical hs _ fun s hs => fxMsg_canonical hs)
  | token => exact next_canonical hexec ((fxToken_canonical_iff _).2 hs)
  | coll => exact next_canonical hexec (orWait_canonical hs _ fun s hs => fxColl_canonical hs)
  | collCredit => exact next_canonical hexec (orWait_canonical hs _ fun s hs => fxCollCredit_canonical hs)
  | vigilStart w v => exact next_canonical hexec (gate_canonical hs _ _ fun s hs => (fxVigilStart_canonical_iff s _ _).2 hs)
  | vigilStop => exact next_canonical hexec ((fxVigilStop_canonical_iff _).2 hs)
  | vigilCount => exact next_canonical hexec ((fxVigilCount_canonical_iff _).2 hs)
  | vigilCommit => exact next_canonical hexec ((fxVigilCommit_canonical_iff _).2 hs)
  | vigilRollback => exact next_canonical hexec ((fxVigilRollback_canonical_iff _).2 hs)
  | vigilResume => exact next_canonical hexec ((fxVigilResume_canonical_iff _).2 hs)
  | vigilReply => exact next_canonical hexec ((fxVigilReply_canonical_iff _).2 hs)
  | vigilStageTimeout => exact next_canonical hexec ((fxVigilStageTimeout_canonical_iff _).2 hs)
  | vigilSelfResume => exact next_canonical hexec ((fxVigilSelfResume_canonical_iff _).2 hs)
  | fabRetire v => exact next_canonical hexec (gate_canonical hs _ _ fun s hs => (fxFabRetire_canonical_iff s _).2 hs)
  | fabClrMon => exact next_canonical hexec (gate_canonical hs _ _ fun s hs => (fxFabClrMon_canonical_iff s).2 hs)
  | copyOut h => exact next_canonical hexec (orWait_canonical hs _ fun s hs => fxCopyOut_canonical hs _)
  | transferTimeout h => exact next_canonical hexec (orWait_canonical hs _ fun s hs => fxTransferTimeout_canonical hs _)
  | reduceScatter e => exact next_canonical hexec (orWait_canonical hs _ fun s hs => fxReduceScatter_canonical hs _)
  | allGather e => exact next_canonical hexec (orWait_canonical hs _ fun s hs => fxAllGather_canonical hs _)
  | allReduce e => exact next_canonical hexec (orWait_canonical hs _ fun s hs => fxAllReduce_canonical hs _)
  | ringPass e => exact next_canonical hexec (orWait_canonical hs _ fun s hs => fxRingPass_canonical hs _)
  | collComplete e => exact next_canonical hexec ((fxCollComplete_canonical_iff _ _).2 hs)
  | collTimeout e => exact next_canonical hexec ((fxCollTimeout_canonical_iff _ _).2 hs)
  | bar4Read off len => exact next_canonical hexec (fxBar4Read_canonical hs _ _)
  | bar4Write off data => exact next_canonical hexec (fxBar4Write_canonical hs _ _)
  | doorbell off size v => exact next_canonical hexec (fxDoorbell_canonical hs _ _ _)
  | doorbellArm off size v => exact next_canonical hexec (fxDoorbellArm_canonical hs _ _ _)
  | queueEnable q v => exact next_canonical hexec (gate_canonical hs _ _ fun s hs => fxQueueEnable_canonical hs _ _)
  | queueDisable q v => exact next_canonical hexec (gate_canonical hs _ _ fun s hs => (fxQueueDisable_canonical_iff s _ _).2 hs)
  | sqFetch q r => exact next_canonical hexec (orWait_canonical hs _ fun s hs => fxSqFetch_canonical hs _ _)
  | sqEntryTake tgt => exact next_canonical hexec ((fxSqEntryTake_canonical_iff _ _).2 hs)
  | completionPost tgt => exact next_canonical hexec (orWait_canonical hs _ fun s hs => fxCompletionPost_canonical hs _)
  | msixSend q => exact next_canonical hexec ((fxMsixSend_canonical_iff _ _ _).2 hs)
  | eventDelivery => exact next_canonical hexec (fxEventDelivery_canonical hs)
  | load => exact next_canonical hexec (orWait_canonical hs _ fun s hs => fxLoad_canonical hs)
  | slotMapApply t => exact next_canonical hexec ((fxSlotMapApply_canonical_iff _ _).2 hs)
  | start => exact next_canonical hexec (fxStart_canonical hs)
  | programStart => exact next_canonical hexec (fxProgramStart_canonical hs)
  | grant => exact next_canonical hexec (fxGrant_canonical hs)
  | revoke => exact next_canonical hexec (fxRevoke_canonical hs)
  | pageRefuse => exact next_canonical hexec (fxPageRefuse_canonical hs)
  | clusterReset => exact next_canonical hexec (fxClusterReset_canonical hs)
  | unload => exact next_canonical hexec (fxUnload_canonical hs)
  | atsTranslationResponse u g k r w logSize => exact next_canonical hexec (fxAtsTranslationResponse_canonical hs _ _ _ _ _ _)
  | pageRequestResponse u g k r => exact next_canonical hexec (fxPageRequestResponse_canonical hs _ _ _ _)
  | atsInvalidation addr len => exact next_canonical hexec ((fxAtsInvalidation_canonical_iff _ _ _).2 hs)
  | priEnableClear => exact next_canonical hexec (fxPriEnableClear_canonical hs)
  | hostInterfaceReset => exact next_canonical hexec (fxHostInterfaceReset_canonical hs)
  | harvestRingPoll => exact next_canonical hexec (orWait_canonical hs _ fun s hs => fxHarvestRingPoll_canonical hs)
  | harvestTokenRelease => exact next_canonical hexec (orWait_canonical hs _ fun s hs => (fxHarvestTokenRelease_canonical_iff s).2 hs)
  | equinox => exact next_canonical hexec (orWait_canonical hs _ fun s hs => fxEquinox_canonical hs)
  | equinoxAgreed => exact next_canonical hexec (orWait_canonical hs _ fun s hs => fxEquinoxAgreed_canonical hs)
  | harvestCopyCommit => exact next_canonical hexec (orWait_canonical hs _ fun s hs => fxHarvestCopyCommit_canonical hs)
  | record => exact next_canonical hexec (orWait_canonical hs _ fun s hs => fxRecord_canonical hs)
  | digest => exact next_canonical hexec (orWait_canonical hs _ fun s hs => fxDigest_canonical hs)
  | restore => exact next_canonical hexec (orWait_canonical hs _ fun s hs => fxRestore_canonical hs)
  | verify => exact next_canonical hexec (orWait_canonical hs _ fun s hs => fxVerify_canonical hs)
  | capture => exact next_canonical hexec (orWait_canonical hs _ fun s hs => fxCapture_canonical hs)
  | list => exact next_canonical hexec (orWait_canonical hs _ fun s hs => fxList_canonical hs)
  | harvestPut => exact next_canonical hexec (orWait_canonical hs _ fun s hs => fxHarvestPut_canonical hs)
  | generationRecordReread => exact next_canonical hexec (orWait_canonical hs _ fun s hs => fxGenerationRecordReread_canonical hs)
  | flashSegmentStart slot eCap pHold => exact next_canonical hexec (fxFlashSegmentStart_canonical hs _ _ _)
  | holdupRecheck slot eCap pHold => exact next_canonical hexec (fxHoldupRecheck_canonical hs _ _ _)
  | flashSegmentDone d => exact next_canonical hexec (fxFlashSegmentDone_canonical hs _ _)
  | isolationTimeout => exact next_canonical hexec (orWait_canonical hs _ fun s hs => fxIsolationTimeout_canonical hs)
  | perstDeassert => exact next_canonical hexec ((fxPerstDeassert_canonical_iff _).2 hs)
  | functionReady f o => exact next_canonical hexec (fxFunctionReady_canonical hs _ _)
  | pwrOpVWr d v => exact next_canonical hexec (landed_canonical hs _ _ _ fun s hs => (fxPwrOpVWr_canonical_iff s _ _).2 hs)
  | pwrOpFWr d v => exact next_canonical hexec (landed_canonical hs _ _ _ fun s hs => (fxPwrOpFWr_canonical_iff s _ _).2 hs)
  | pwrOpTWr d v => exact next_canonical hexec (landed_canonical hs _ _ _ fun s hs => (fxPwrOpTWr_canonical_iff s _ _).2 hs)
  | voltageSlewDone d => exact next_canonical hexec ((fxVoltageSlewDone_canonical_iff _ _).2 hs)
  | pwrStretchWrite v => exact next_canonical hexec (landed_canonical hs _ _ _ fun s hs => (fxPwrStretchWrite_canonical_iff s _).2 hs)
  | reqActive => exact next_canonical hexec (landed_canonical hs _ _ _ fun s hs => (fxReqActive_canonical_iff s).2 hs)
  | reqIdle => exact next_canonical hexec (landed_canonical hs _ _ _ fun s hs => (fxReqIdle_canonical_iff s).2 hs)
  | reqDormant => exact next_canonical hexec (landed_canonical hs _ _ _ fun s hs => (fxReqDormant_canonical_iff s).2 hs)
  | reqSolstice => exact next_canonical hexec (landed_canonical hs _ _ _ fun s hs => (fxReqSolstice_canonical_iff s).2 hs)
  | powerEntryComplete => exact next_canonical hexec (fxPowerEntryComplete_canonical hs)
  | d3hotToD0 => exact next_canonical hexec ((fxD3hotToD0_canonical_iff _).2 hs)
  | pwrTimerExpiry => exact next_canonical hexec ((fxPwrTimerExpiry_canonical_iff _).2 hs)
  | rateLimitReport lvl ix code => exact next_canonical hexec ((fxRateLimitReport_canonical_iff _ _ _ _).2 hs)
  | pkgErrInj v => exact next_canonical hexec (fxPkgErrInj_canonical hs _)
  | almanacMirror => exact next_canonical hexec (fxAlmanacMirror_canonical hs)
  | almanacRestore => exact next_canonical hexec (fxAlmanacRestore_canonical hs)
  | opsecTick => exact next_canonical hexec ((fxOpsecTick_canonical_iff _).2 hs)
  | timeBaseSave => exact next_canonical hexec ((fxTimeBaseSave_canonical_iff _).2 hs)
  | monitorSample b n v => exact next_canonical hexec ((fxMonitorSample_canonical_iff _ _ _ _).2 hs)
  | windowClose b n => exact next_canonical hexec ((fxWindowClose_canonical_iff _ _ _).2 hs)
  | monClose b n => exact next_canonical hexec (gate_canonical hs _ _ fun s hs => (fxMonClose_canonical_iff s _ _).2 hs)
  | thermalControl d tj hot aged => exact next_canonical hexec ((fxThermalControl_canonical_iff _ _ _ _ _).2 hs)
  | powerControl sample avg10 vin msDue tenMsDue => exact next_canonical hexec ((fxPowerControl_canonical_iff _ _ _ _ _ _).2 hs)
  | jubileeDue d => exact next_canonical hexec ((fxJubileeDue_canonical_iff _ _).2 hs)
  | jubileeStart d v => exact next_canonical hexec (gate_canonical hs _ _ fun s hs => (fxJubileeStart_canonical_iff s _ _).2 hs)
  | jubileeRun d => exact next_canonical hexec ((fxJubileeRun_canonical_iff _ _).2 hs)
  | jubileeComplete d runs => exact next_canonical hexec ((fxJubileeComplete_canonical_iff _ _ _).2 hs)
  | regRead off size => exact next_canonical hexec (fxRegRead_canonical hs _ _)
  | regWrite auth off size v => exact next_canonical hexec (fxRegWrite_canonical hs _ _ _ _)
  | powerState auth req => exact next_canonical hexec (fxPowerState_canonical hs _ _)
  | wake => exact next_canonical hexec (fxWake_canonical hs)
  | admitModule auth gen => exact next_canonical hexec (fxAdmitModule_canonical hs _ _)
  | retireNotice auth gen => exact next_canonical hexec (fxRetireNotice_canonical hs _ _)
  | channelRetire auth ch => exact next_canonical hexec (fxChannelRetire_canonical hs _ _)
  | channelTest auth ch => exact next_canonical hexec (fxChannelTest_canonical hs _ _)
  | columnTest auth u => exact next_canonical hexec (fxColumnTest_canonical hs _ _)
  | readAlmanac archive ix => exact next_canonical hexec (fxReadAlmanac_canonical hs _ _)
  | clearAlmanac auth => exact next_canonical hexec (fxClearAlmanac_canonical hs _)
  | readBringup n => exact next_canonical hexec (fxReadBringup_canonical hs _)
  | activate auth => exact next_canonical hexec (fxActivate_canonical hs _)
  | testAccess auth => exact next_canonical hexec (fxTestAccess_canonical hs _)
  | setAnchor auth digest => exact next_canonical hexec (fxSetAnchor_canonical hs _ _)
  | channelTrain auth ch passed spared => exact next_canonical hexec (fxChannelTrain_canonical hs _ _ _ _)
  | pldmFirmwareUpdate image svn activateFirmware => exact next_canonical hexec ((fxPldmFirmwareUpdate_canonical_iff _ _ _ _).2 hs)
  | pldmSensorRead id => exact next_canonical hexec ((fxPldmSensorRead_canonical_iff _ _).2 hs)
  | spdmRequest r => exact next_canonical hexec ((fxSpdmRequest_canonical_iff _ _).2 hs)
  | i3cAddressAssign o => exact next_canonical hexec ((fxI3cAddressAssign_canonical_iff _ _).2 hs)
  | xmodemBundle image svn => exact next_canonical hexec ((fxXmodemBundle_canonical_iff _ _ _).2 hs)
  | tapIntrusiveInstruction j => exact next_canonical hexec ((fxTapIntrusiveInstruction_canonical_iff _ _).2 hs)
  | trst => exact next_canonical hexec ((fxTrst_canonical_iff _).2 hs)
  | pkgTxnBegin w v => exact next_canonical hexec (landed_canonical hs _ _ _ fun s hs => (fxPkgTxnBegin_canonical_iff s _ _).2 hs)
  | pkgTxnCommit w v => exact next_canonical hexec (landed_canonical hs _ _ _ fun s hs => fxPkgTxnCommit_canonical hs _ _)
  | pkgTxnRollback w v => exact next_canonical hexec (landed_canonical hs _ _ _ fun s hs => (fxPkgTxnRollback_canonical_iff s _ _).2 hs)
  | txnTimeout w => exact next_canonical hexec ((fxTxnTimeout_canonical_iff _ _).2 hs)
  | shadowBlockWrite u sl off size v => exact next_canonical hexec (fxShadowBlockWrite_canonical hs _ _ _ _ _)
  | activeBlockLiveWrite u sl off size v => exact next_canonical hexec (fxActiveBlockLiveWrite_canonical hs _ _ _ _ _)
  | pstoreWindowWrite c off size v => exact next_canonical hexec (fxPstoreWindowWrite_canonical hs _ _ _ _)
  | swapReq c => exact next_canonical hexec (gate_canonical hs _ _ fun s hs => (fxSwapReq_canonical_iff s _).2 hs)
  | ccBreak c => exact next_canonical hexec (gate_canonical hs _ _ fun s hs => fxCcBreak_canonical hs _)
  | ccResume c => exact next_canonical hexec (gate_canonical hs _ _ fun s hs => (fxCcResume_canonical_iff s _).2 hs)
  | snapRingEnable v => exact next_canonical hexec (gate_canonical hs _ _ fun s hs => (fxSnapRingEnable_canonical_iff s _).2 hs)
  | registerWrite w off size v => exact next_canonical hexec (fxRegisterWrite_canonical hs _ _ _ _)
  | dieLinkRelock d longer => exact next_canonical hexec ((fxDieLinkRelock_canonical_iff _ _ _).2 hs)
  | hbmPhyLockLoss ch => exact next_canonical hexec ((fxHbmPhyLockLoss_canonical_iff _ _).2 hs)
  | harvestTokenTimeout => exact next_canonical hexec (orWait_canonical hs _ fun s hs => fxHarvestTokenTimeout_canonical hs)
  | transferTokenTimeout h => exact next_canonical hexec ((fxTransferTokenTimeout_canonical_iff _ _).2 hs)
  | d3hotEntry => exact next_canonical hexec ((fxD3hotEntry_canonical_iff _).2 hs)
  | pldmEventRetrieval => exact next_canonical hexec ((fxPldmEventRetrieval_canonical_iff _).2 hs)
  | columnTestDone u l => exact next_canonical hexec (fxColumnTestDone_canonical hs _ _)
  | dieClockLoss d => exact next_canonical hexec (fxDieClockLoss_canonical hs _)
  | errorArrival a => exact next_canonical hexec (fxErrorArrival_canonical hs _)
  | errorHandlingEnd lvl ix => exact next_canonical hexec (fxErrorHandlingEnd_canonical hs _ _)
  | handlerStrike lvl x => exact next_canonical hexec (fxHandlerStrike_canonical hs _ _)
  | inputCurrentLimit m => exact next_canonical hexec (inputLost_canonical hs _ _)
  | inputOvervoltage m => exact next_canonical hexec (inputLost_canonical hs _ _)
  | inputUndervoltage m => exact next_canonical hexec (inputLost_canonical hs _ _)
  | perstAssert b => exact next_canonical hexec (fxPerstAssert_canonical hs _)
  | powerOnColdReset b maddr => exact next_canonical hexec (fxPowerOnColdReset_canonical hs _ _)
  | coldReset auth b maddr => exact next_canonical hexec (fxColdReset_canonical hs _ _ _)
  | rootClockLoss => exact next_canonical hexec (fxRootClockLoss_canonical hs)
  | thermalTrip dom sensor temp => exact next_canonical hexec (fxThermalTrip_canonical hs _ _ _)
  | wakeComplete copies => exact next_canonical hexec (fxWakeComplete_canonical hs _)
  | warmReset auth b => exact next_canonical hexec (fxWarmReset_canonical hs _ _)

end State
end Sys2Proof.Machine

namespace Sys2Proof

open Machine State

/-- Settles O6: a command writes a memory only entry by entry, filters it or empties it, and each of these keeps the
canonical form; the commands' effects are built from functions that do nothing else to it. -/
theorem memoriesStayCanonical : Obligations.MemoriesStayCanonical := by
  intro s t hwf hstep
  rw [← canonical_iff] at hwf ⊢
  unfold step at hstep
  split at hstep
  case h_1 => exact next_canonical hstep hwf
  case h_2 c cs _ => exact exec_canonical (s := s.withQueue cs) hwf c hstep

end Sys2Proof

/-! ## Obligation O15: chain rows, aborts and scale records -/

namespace Sys2Proof.Machine

/-! ### Bytes written into a record -/

@[simp] theorem length_leBytes (n v : Nat) : (leBytes n v).length = n := by
  induction n generalizing v with
  | zero => rfl
  | succ n ih => simp [leBytes, ih]

theorem leVal_lt (bs : List Byte) : leVal bs < 256 ^ bs.length := by
  induction bs with
  | nil => simp [leVal]
  | cons b bs ih =>
    have hb := b.isLt
    rw [leVal, List.length_cons, Nat.pow_succ]
    omega

@[simp] theorem leVal_leBytes (n v : Nat) : leVal (leBytes n v) = v % 256 ^ n := by
  induction n generalizing v with
  | zero => simp [leBytes, leVal, Nat.mod_one]
  | succ n ih =>
    rw [leBytes, leVal, ih, BitVec.toNat_ofNat, pow_succ' 256 n, Nat.mod_mul]

@[simp] theorem length_splice (old bs : List Byte) (lo : Nat) :
    (splice old lo bs).length = min lo old.length + bs.length + (old.length - (lo + bs.length)) := by
  simp [splice, Nat.add_assoc]

theorem take_splice {old bs : List Byte} {lo k : Nat} (h : lo + bs.length ≤ old.length) (hk : k ≤ lo) :
    (splice old lo bs).take k = old.take k := by
  rw [splice, List.append_assoc, List.take_append_of_le_length (by rw [List.length_take]; omega), List.take_take,
    Nat.min_eq_left hk]

theorem drop_splice {old bs : List Byte} {lo k : Nat} (h : lo + bs.length ≤ old.length) (hk : lo + bs.length ≤ k) :
    (splice old lo bs).drop k = old.drop k := by
  have hlen : (old.take lo ++ bs).length = lo + bs.length := by
    rw [List.length_append, List.length_take]
    omega
  rw [splice, List.drop_append, hlen, List.drop_of_length_le (by omega), List.drop_drop, List.nil_append]
  congr 1
  omega

namespace State

theorem recNat_lt (bs : List Byte) (o n : Nat) : recNat bs o n < 256 ^ n :=
  (leVal_lt _).trans_le (Nat.pow_le_pow_right (by decide) (List.length_take_le _ _))

/-- The field that was written. -/
theorem recNat_splice_same {old bs : List Byte} {o n : Nat} (h : o + bs.length ≤ old.length) (hn : bs.length = n) :
    recNat (splice old o bs) o n = leVal bs := by
  have hlen : (old.take o).length = o := by rw [List.length_take]; omega
  rw [recNat, splice, List.append_assoc, List.drop_left' hlen, List.take_left' hn]

/-- A field beside the one that was written. -/
theorem recNat_splice_ne {old bs : List Byte} {lo o n : Nat} (h : lo + bs.length ≤ old.length)
    (hd : o + n ≤ lo ∨ lo + bs.length ≤ o) : recNat (splice old lo bs) o n = recNat old o n := by
  unfold recNat
  rcases hd with hd | hd
  · rw [List.take_drop, take_splice h hd, ← List.take_drop]
  · rw [drop_splice h hd]

/-! ### A report at its record (R152) -/

/-- The flags of a record after a report. -/
def reportFlags (bs : List Byte) (p : Report) : Nat :=
  (if 0 < p.novf then 1 else recNat bs 5 1 % 2) + 2 * (if 0 < p.nnf then 1 else recNat bs 5 1 / 2 % 2) +
    recNat bs 5 1 / 4 * 4

theorem applyReport_fields {bs : List Byte} (p : Report) (h : bs.length = 64) :
    recNat (applyReport bs p) 5 1 = reportFlags bs p ∧
    recNat (applyReport bs p) 6 2 = min (recNat bs 6 2 + 1) 65535 ∧
    recNat (applyReport bs p) 8 4 = min (recNat bs 8 4 + p.novf) (2 ^ 32 - 1) ∧
    recNat (applyReport bs p) 12 4 = min (recNat bs 12 4 + p.nnf) (2 ^ 32 - 1) := by
  have hflags : reportFlags bs p < 256 := by
    have h5 := recNat_lt bs 5 1
    unfold reportFlags
    split <;> split <;> omega
  have heq : applyReport bs p =
      splice (splice (splice (splice (splice bs 5 (leBytes 1 (reportFlags bs p))) 6 _) 8 _) 12 _) 20 _ := rfl
  rw [heq]
  simp (disch := (simp [h] <;> omega)) only [recNat_splice_same, recNat_splice_ne, leVal_leBytes]
  refine ⟨?_, ?_, ?_, ?_⟩ <;> omega

/-- A report touches the flags, the counts and the maximum only. -/
theorem applyReport_leaves {bs : List Byte} (p : Report) (h : bs.length = 64) :
    (applyReport bs p).length = 64 ∧ (applyReport bs p).take 5 = bs.take 5 ∧
    recNat (applyReport bs p) 16 4 = recNat bs 16 4 ∧ (applyReport bs p).drop 24 = bs.drop 24 := by
  unfold applyReport
  extract_lets st ovf nnf w
  simp (disch := (simp [h] <;> omega)) only [w, length_splice, length_leBytes, recNat_splice_ne, take_splice,
    drop_splice, h]
  simp

open Claims in
/-- A report counts itself and what it brings, and sets the flags of what it counts. -/
theorem applyReport_counts (bs : List Byte) (p : Report) (h : bs.length = 64) :
    at' (applyReport bs p) 6 2 = min (at' bs 6 2 + 1) 65535 ∧
    at' (applyReport bs p) 8 4 = min (at' bs 8 4 + p.novf) (2 ^ 32 - 1) ∧
    at' (applyReport bs p) 12 4 = min (at' bs 12 4 + p.nnf) (2 ^ 32 - 1) ∧
    (0 < p.novf → at' (applyReport bs p) 5 1 % 2 = 1) ∧ (0 < p.nnf → at' (applyReport bs p) 5 1 / 2 % 2 = 1) ∧
    (applyReport bs p).length = 64 ∧ (applyReport bs p).take 5 = bs.take 5 ∧
    at' (applyReport bs p) 16 4 = at' bs 16 4 ∧ (applyReport bs p).drop 24 = bs.drop 24 := by
  obtain ⟨hflags, hnrep, hovf, hnnf⟩ := applyReport_fields p h
  refine ⟨hnrep, hovf, hnnf, fun hp => ?_, fun hp => ?_, applyReport_leaves p h⟩
  · show recNat _ 5 1 % 2 = 1
    rw [hflags, reportFlags, if_pos hp]
    omega
  · show recNat _ 5 1 / 2 % 2 = 1
    rw [hflags, reportFlags, if_pos hp]
    split <;> omega

/-! ### A CLOSE at its record (R153) -/

/-- HLEN and HPOS of a record whose window index has moved on. -/
def closedWindow (bs : List Byte) : Nat :=
  recNat bs 3 1 / 128 * 128 + (recNat bs 3 1 / 16 % 8 + 1) % (recNat bs 3 1 % 16) * 16 + recNat bs 3 1 % 16

/-- A record closed with `next` as its new T_NEXT. -/
def closeWith (bs : List Byte) (next : Byte) : List Byte :=
  splice (splice (splice (splice (splice (splice (splice (splice bs
    (32 + 4 * (recNat bs 3 1 / 16 % 8)) ((bs.drop 20).take 4))
    0 [BitVec.ofInt 8 (sgn 8 (recNat bs 1 1))]) 1 [next]) 3 (leBytes 1 (closedWindow bs))) 5 (leBytes 1 0))
    6 (leBytes 2 0)) 16 (leBytes 4 (recNat bs 16 4 + 1))) 20 (leBytes 4 0)

/-- With the scale held, T_NEXT stays. -/
theorem applyClose_eq (bs : List Byte) (f : Byte) : ∃ next : Byte, applyClose bs f = closeWith bs next ∧
    (recNat bs 4 1 % 2 = 0 → next = BitVec.ofNat 8 (recNat bs 1 1)) :=
  ⟨_, rfl, fun h => if_pos h⟩

/-- A byte read as a signed value and written back. -/
theorem toNat_ofInt_sgn {v : Nat} (h : v < 256) : (BitVec.ofInt 8 (sgn 8 v)).toNat = v := by
  rw [BitVec.toNat_ofInt, sgn]
  split <;> omega

/-- The window index of a closed record, and that its length stays. -/
theorem closedWindow_fields {bs : List Byte} (hpos : 1 ≤ recNat bs 3 1 % 16) (hlen : recNat bs 3 1 % 16 ≤ 8) :
    closedWindow bs < 256 ∧ closedWindow bs % 16 = recNat bs 3 1 % 16 ∧
      closedWindow bs / 16 % 8 = (recNat bs 3 1 / 16 % 8 + 1) % (recNat bs 3 1 % 16) := by
  have h3 := recNat_lt bs 3 1
  have hmod := Nat.mod_lt (recNat bs 3 1 / 16 % 8 + 1) hpos
  unfold closedWindow
  generalize (recNat bs 3 1 / 16 % 8 + 1) % (recNat bs 3 1 % 16) = q at hmod ⊢
  omega

theorem closeWith_fields {bs : List Byte} (next : Byte) (h : bs.length = 64) :
    (closeWith bs next).length = 64 ∧
    recNat (closeWith bs next) 0 1 = recNat bs 1 1 ∧ recNat (closeWith bs next) 1 1 = next.toNat ∧
    recNat (closeWith bs next) 3 1 = closedWindow bs % 256 ∧ recNat (closeWith bs next) 5 1 = 0 ∧
    recNat (closeWith bs next) 6 2 = 0 ∧ recNat (closeWith bs next) 8 8 = recNat bs 8 8 ∧
    recNat (closeWith bs next) 16 4 = (recNat bs 16 4 + 1) % 2 ^ 32 ∧ recNat (closeWith bs next) 20 4 = 0 ∧
    recNat (closeWith bs next) (32 + 4 * (recNat bs 3 1 / 16 % 8)) 4 = recNat bs 20 4 := by
  have hlo : 32 ≤ 32 + 4 * (recNat bs 3 1 / 16 % 8) := by omega
  have hhi : 32 + 4 * (recNat bs 3 1 / 16 % 8) + 4 ≤ 64 := by omega
  unfold closeWith
  generalize 32 + 4 * (recNat bs 3 1 / 16 % 8) = o at hlo hhi ⊢
  have hmax : ((bs.drop 20).take 4).length = 4 := by simp [h]
  have hslot : recNat (splice bs o ((bs.drop 20).take 4)) o 4 = recNat bs 20 4 := recNat_splice_same (by omega) hmax
  have hamax : recNat (splice bs o ((bs.drop 20).take 4)) 8 8 = recNat bs 8 8 := recNat_splice_ne (by omega) (by omega)
  have hlen : (splice bs o ((bs.drop 20).take 4)).length = 64 := by rw [length_splice]; omega
  generalize splice bs o ((bs.drop 20).take 4) = bs1 at hslot hamax hlen ⊢
  have hbyte : ∀ b : Byte, leVal [b] = b.toNat := fun b => by simp [leVal]
  simp (disch := (simp [hlen] <;> omega)) only [recNat_splice_same, recNat_splice_ne, leVal_leBytes, hbyte, hslot,
    hamax, toNat_ofInt_sgn (recNat_lt bs 1 1)]
  simp [hlen]

open Claims in
/-- A CLOSE moves the window on, puts T_NEXT in T's place and counts itself; the counts stay. -/
theorem applyClose_moves (bs : List Byte) (f : Byte) (h : bs.length = 64) (hpos : 1 ≤ at' bs 3 1 % 16)
    (hlen : at' bs 3 1 % 16 ≤ 8) :
    (applyClose bs f).length = 64 ∧ at' (applyClose bs f) 0 1 = at' bs 1 1 ∧
    at' (applyClose bs f) 5 1 = 0 ∧ at' (applyClose bs f) 6 2 = 0 ∧
    at' (applyClose bs f) 16 4 = (at' bs 16 4 + 1) % 2 ^ 32 ∧ at' (applyClose bs f) 20 4 = 0 ∧
    at' (applyClose bs f) (32 + 4 * (at' bs 3 1 / 16 % 8)) 4 = at' bs 20 4 ∧
    at' (applyClose bs f) 3 1 % 16 = at' bs 3 1 % 16 ∧
    at' (applyClose bs f) 3 1 / 16 % 8 = (at' bs 3 1 / 16 % 8 + 1) % (at' bs 3 1 % 16) ∧
    (at' bs 4 1 % 2 = 0 → at' (applyClose bs f) 1 1 = at' bs 1 1) ∧
    at' (applyClose bs f) 8 8 = at' bs 8 8 := by
  obtain ⟨next, heq, hheld⟩ := applyClose_eq bs f
  obtain ⟨hsize, ht, htnext, hwin, hflags, hnrep, hcounts, hcloses, hmax, hslot⟩ := closeWith_fields next h
  obtain ⟨hbyte, hwlen, hwpos⟩ := closedWindow_fields hpos hlen
  rw [Nat.mod_eq_of_lt hbyte] at hwin
  rw [heq]
  refine ⟨hsize, ht, hflags, hnrep, hcloses, hmax, hslot, ?_, ?_, fun hctrl => ?_, hcounts⟩
  · exact (congrArg (· % 16) hwin).trans hwlen
  · exact (congrArg (· / 16 % 8) hwin).trans hwpos
  · refine htnext.trans ?_
    rw [hheld hctrl, BitVec.toNat_ofNat]
    exact Nat.mod_eq_of_lt (recNat_lt bs 1 1)

/-! ### What accesses to device memory change -/

/-- The registers that accesses to device memory write: MSC_STAT of a slice and MIG of a die (R294, R306). -/
def memReg (a : Nat) : Prop := ∃ k, a = rMsc k 0 ∨ a = rDie k 0x18

theorem not_memReg_order : ¬memReg 0x30 := by
  rintro ⟨k, h | h⟩ <;> simp only [rMsc, rDie, rRgn] at h <;> omega

theorem not_memReg_closes (d : Nat) : ¬memReg (rDie d 0x28) := by
  rintro ⟨k, h | h⟩ <;> simp only [rMsc, rDie, rRgn] at h <;> omega

/-- A change of device memory, its slices and channels, the registers of `memReg`, the free values used, what waits and
the errors in flight alone. -/
structure MemOnly (s t : State) : Prop where
  reg  : ∀ a, ¬memReg a → t.reg a = s.reg a
  rest : t = { s with
    regs := t.regs, ctr := t.ctr, slices := t.slices, chans := t.chans, chanBytes := t.chanBytes
    chanPoison := t.chanPoison, errFlight := t.errFlight, waited := t.waited }

namespace MemOnly

variable {s t v : State}

theorem refl (s : State) : MemOnly s s := ⟨fun _ _ => rfl, rfl⟩

theorem trans (h : MemOnly s t) (g : MemOnly t v) : MemOnly s v where
  reg a ha := (g.reg a ha).trans (h.reg a ha)
  rest := g.rest.trans (congrArg (fun x : State => { x with
    regs := v.regs, ctr := v.ctr, slices := v.slices, chans := v.chans, chanBytes := v.chanBytes
    chanPoison := v.chanPoison, errFlight := v.errFlight, waited := v.waited }) h.rest)

theorem setRegF (s : State) {a : Nat} (hi lo x : Nat) (h : memReg a) : MemOnly s (s.setRegF a hi lo x) where
  reg _ hb := reg_setRegF_ne s hi lo x fun hba => hb (hba ▸ h)
  rest := rfl

theorem bump (s : State) {a : Nat} (hi lo n : Nat) (h : memReg a) : MemOnly s (s.bump a hi lo n) := setRegF s hi lo _ h

theorem foldl {α : Type} {f : State → α → State} (hf : ∀ s a, MemOnly s (f s a)) (l : List α) (s : State) :
    MemOnly s (l.foldl f s) := by
  induction l generalizing s with
  | nil => exact refl s
  | cons a l ih => exact (hf s a).trans (ih _)

theorem foldl_fst {α β : Type} {f : State × β → α → State × β} (l : List α) (z : State × β)
    (hf : ∀ z a, MemOnly z.1 (f z a).1) : MemOnly z.1 (l.foldl f z).1 := by
  induction l generalizing z with
  | nil => exact refl z.1
  | cons a l ih => exact (hf z a).trans (ih _)

end MemOnly

theorem setSlice_memOnly (s : State) (k : Nat) (x : SliceSt) : MemOnly s (s.setSlice k x) := ⟨fun _ _ => rfl, rfl⟩

theorem hold_memOnly (s : State) (b : Bool) : MemOnly s (s.hold b) := by
  cases b <;> exact ⟨fun _ _ => rfl, rfl⟩

theorem putSector_memOnly (s : State) (ch off : Nat) (bs : List Byte) (poison : Bool) :
    MemOnly s (s.putSector ch off bs poison) := ⟨fun _ _ => rfl, rfl⟩

theorem countPins_memOnly (s : State) (r : Nat) : MemOnly s (s.countPins r) := .setRegF s _ _ _ ⟨r, .inl rfl⟩

theorem freeBytes_memOnly (s : State) (n : Nat) : MemOnly s (s.freeBytes n).2 := ⟨fun _ _ => rfl, rfl⟩

theorem moveUnit_memOnly (s : State) (ch x : Nat) (bad : List Bool) : MemOnly s (s.moveUnit ch x bad) := by
  unfold moveUnit
  split
  · exact .refl s
  extract_lets target slice sectors moved marked
  have hmarked : MemOnly s marked := ⟨fun _ _ => rfl, rfl⟩
  split
  · exact hmarked.trans (.bump marked _ _ _ ⟨ch / 64, .inr rfl⟩)
  · exact hmarked

theorem writeBack_memOnly (s : State) (l : Line) : MemOnly s (s.writeBack l) := by
  refine MemOnly.trans ?_ (MemOnly.foldl (fun t i => putSector_memOnly t _ _ _ _) _ _)
  split
  · exact moveUnit_memOnly s _ _ _
  · exact .refl s

theorem makeRoom_memOnly {s t : State} {ch ln : Nat} (h : s.makeRoom ch ln = some t) : MemOnly s t := by
  unfold makeRoom at h
  dsimp only at h
  split at h
  · cases h
    exact .refl s
  split at h
  · cases h
  · cases h
    refine MemOnly.trans ?_ (setSlice_memOnly _ _ _)
    split
    · exact writeBack_memOnly s _
    · exact .refl s

theorem place_memOnly (s : State) (l : Line) (hint : Nat) : MemOnly s (s.place l hint) := by
  unfold place
  dsimp only
  split
  · refine MemOnly.trans ?_ (countPins_memOnly _ _)
    split
    · exact setSlice_memOnly s _ _
    · exact (setSlice_memOnly s _ _).trans (.bump _ _ _ _ ⟨_, .inl rfl⟩)
  · exact setSlice_memOnly s _ _

theorem hit_memOnly (s : State) (l : Line) (hint : Nat) : MemOnly s (s.hit l hint) := by
  unfold hit
  split
  · exact place_memOnly s l 1
  · exact .refl s

theorem dropLine_memOnly (s : State) (l : Line) : MemOnly s (s.dropLine l) := by
  have hclean := (setSlice_memOnly s (sliceOf l.ch) ((s.slice (sliceOf l.ch)).drop l.ch l.line)).trans
    (countPins_memOnly _ (sliceOf l.ch))
  unfold dropLine
  dsimp only
  split
  · refine (hclean.trans (.bump _ _ _ _ ⟨_, .inl rfl⟩)).trans (.foldl (fun t i => ?_) _ _)
    exact MemOnly.trans (t := { t with ctr := t.ctr + 1 }) ⟨fun _ _ => rfl, rfl⟩ (putSector_memOnly _ _ _ _ _)
  · exact hclean

theorem access_memOnly (s : State) (ch ln hint : Nat) : MemOnly s (s.access ch ln hint).1 := by
  unfold access
  dsimp only
  split
  · exact hit_memOnly s _ hint
  split
  · exact .refl s
  split
  · exact hold_memOnly s true
  · next h => exact ((makeRoom_memOnly h).trans (place_memOnly _ _ _)).trans (hold_memOnly _ _)

theorem seen_memOnly (s : State) (bs : List Byte) (poison : Bool) : MemOnly s (s.seen bs poison).1 := by
  cases poison
  · exact .refl s
  · exact freeBytes_memOnly s _

theorem readLine_memOnly (s : State) (ch ln lo n hint : Nat) : MemOnly s (s.readLine ch ln lo n hint).1 := by
  unfold readLine
  split
  · exact freeBytes_memOnly s n
  dsimp only
  generalize hline : (if hint = 2 then _ else _ : State × Line) = x
  have hx : MemOnly s x.1 := by
    rw [← hline]
    split
    · split
      · exact dropLine_memOnly s _
      · exact hold_memOnly s _
    · exact access_memOnly s ch ln hint
  exact hx.trans (.foldl_fst _ (x.1, []) fun z b => seen_memOnly z.1 [b.1] b.2)

theorem writeLine_memOnly (s : State) (ch ln lo : Nat) (bs : List Byte) (ps : List Bool) (hint : Nat) :
    MemOnly s (s.writeLine ch ln lo bs ps hint) := by
  unfold writeLine
  split
  · exact ⟨fun _ _ => rfl, rfl⟩
  dsimp only
  generalize hmoved : (if s.chState ch = 5 ∧ s.migrating ch = true then _ else _ : State) = t
  generalize hline : (if bs.length = 128 then _ else _ : State × Line) = x
  have ht : MemOnly s t := by
    rw [← hmoved]
    split
    · exact moveUnit_memOnly s _ _ _
    · exact .refl s
  have hx : MemOnly t x.1 := by
    rw [← hline]
    split
    · split
      · exact hit_memOnly t _ _
      split
      · exact .refl t
      split
      · exact hold_memOnly t true
      · next hroom => exact (makeRoom_memOnly hroom).trans (place_memOnly _ _ _)
    · exact access_memOnly t ch ln _
  refine (ht.trans hx).trans ?_
  split
  · exact setSlice_memOnly _ _ _
  · exact writeBack_memOnly _ _

theorem memRead_memOnly (s : State) (a n hint : Nat) : MemOnly s (s.memRead a n hint).1 := by
  unfold memRead
  exact .foldl_fst _ (s, [], []) fun z _ => readLine_memOnly z.1 _ _ _ _ _

theorem memWrite_memOnly (s : State) (a : Nat) (bs : List Byte) (hint : Nat) : MemOnly s (s.memWrite a bs hint) := by
  unfold memWrite memWriteP
  exact .foldl_fst _ (s, bs, _) fun z _ => writeLine_memOnly z.1 _ _ _ _ _ _

theorem MemOnly.scaleQ {s t : State} (h : MemOnly s t) : t.scaleQ = s.scaleQ := by rw [h.rest]

theorem MemOnly.units {s t : State} (h : MemOnly s t) : t.units = s.units := by rw [h.rest]

theorem MemOnly.clus {s t : State} (h : MemOnly s t) : t.clus = s.clus := by rw [h.rest]

theorem MemOnly.out {s t : State} (h : MemOnly s t) : t.out = s.out := by rw [h.rest]

/-- The channels of the device addresses stay where they are. -/
theorem MemOnly.chanAddr {s t : State} (h : MemOnly s t) (a : Nat) : t.chanAddr a = s.chanAddr a := by
  unfold State.chanAddr
  rw [h.reg _ not_memReg_order]

/-! ### SCALE_REPORT and SCALE_CLOSE -/

/-- A command whose accesses go on takes its effect. -/
theorem orWait_of_goesOn {s : State} {f : State → State} (h : Claims.goesOn f s) :
    s.orWait f = { f (Claims.fresh s) with waited := s.waited } :=
  ((orWait_cases s f).resolve_left fun hw => by simp [h] at hw).2

/-- A report of the queue at its record. -/
theorem fxScaleReport_eq {s : State} {i : Nat} {x : ScaleUpd} {p : Report} (hx : s.scaleQ[i]? = some x)
    (hp : x.report = some p) {m : State × List Byte × List Bool} (hm : m = s.memRead x.addr 64 0) :
    s.fxScaleReport i = { m.1.memWrite (x.addr + 5) (((applyReport m.2.1 p).drop 5).take 19) 0 with
      scaleQ := if x.close then s.scaleQ.set i { x with report := none } else s.scaleQ.eraseIdx i } := by
  have hq : (m.1.memWrite (x.addr + 5) (((applyReport m.2.1 p).drop 5).take 19) 0).scaleQ = s.scaleQ :=
    MemOnly.scaleQ ((hm ▸ memRead_memOnly s x.addr 64 0).trans (memWrite_memOnly m.1 _ _ 0))
  simp only [fxScaleReport, hx, hp, putRecord, ← hm, Nat.reduceSub, hq]

open Claims in
/-- SCALE_REPORT: the record's slice applies the report, and the update goes on to its CLOSE or ends. -/
theorem scaleReport_applies (s : State) (i : Nat) (x : ScaleUpd) (p : Report) (m : State × List Byte × List Bool)
    (hx : s.scaleQ[i]? = some x) (hp : x.report = some p) (hm : m = (fresh s).memRead x.addr 64 0)
    (hgo : goesOn (·.fxScaleReport i) s) :
    ∃ t, exec (.scaleReport i) s = .next t ∧
      t.scaleQ = (if x.close = true then s.scaleQ.set i { x with report := none } else s.scaleQ.eraseIdx i) ∧
      t = { m.1.memWrite (x.addr + 5) (((applyReport m.2.1 p).drop 5).take 19) 0 with
        scaleQ := t.scaleQ, waited := s.waited } := by
  have hexec : exec (.scaleReport i) s = .next (s.orWait (·.fxScaleReport i)) := rfl
  rw [orWait_of_goesOn hgo, fxScaleReport_eq (s := fresh s) hx hp hm] at hexec
  generalize m.1.memWrite (x.addr + 5) _ 0 = w at hexec ⊢
  exact ⟨_, hexec, rfl, rfl⟩

/-- A CLOSE of a record without reports: it is read and left as it is. -/
theorem fxScaleClose_of_unreported {s : State} {i : Nat} {x : ScaleUpd} (hx : s.scaleQ[i]? = some x)
    (hp : x.report = none) (hc : x.close = true) {m : State × List Byte × List Bool}
    (hm : m = State.memRead { s with scaleQ := s.scaleQ.eraseIdx i } x.addr 64 0) (h : recNat m.2.1 6 2 = 0) :
    s.fxScaleClose i = m.1 := by
  subst hm
  simp [fxScaleClose, hx, hp, hc, h]

/-- What a CLOSE writes of its record, in a state `s` that has read it (R153). -/
def putClosed (s : State) (addr : Nat) (bs : List Byte) : State :=
  (((s.putRecord addr 0 2 bs).putRecord addr 3 4 bs).putRecord addr 5 24 bs).putRecord addr 32 64 bs

theorem putClosed_memOnly (s : State) (addr : Nat) (bs : List Byte) : MemOnly s (s.putClosed addr bs) :=
  (((memWrite_memOnly s _ _ 0).trans (memWrite_memOnly _ _ _ 0)).trans (memWrite_memOnly _ _ _ 0)).trans
    (memWrite_memOnly _ _ _ 0)

/-- The closes of a die counted, and the flags of the closed record (R156). -/
def countClose (s : State) (die flags : Nat) : State :=
  ((s.bump (rDie die 0x28) 63 32 1).bump (rDie die 0x28) 31 16 (flags % 2)).bump (rDie die 0x28) 15 0 (flags / 2 % 2)

theorem countClose_closes (s : State) (die flags : Nat) :
    (s.countClose die flags).regF (rDie die 0x28) 63 32 = (s.regF (rDie die 0x28) 63 32 + 1) % 2 ^ 32 := by
  unfold countClose
  rw [bump, regF_setRegF_other _ _ _ _ _ _ _ (by decide) (by decide) (by decide), bump,
    regF_setRegF_other _ _ _ _ _ _ _ (by decide) (by decide) (by decide), regF_bump _ _ _ _ _ (by decide) (by decide)]

theorem countClose_rest (s : State) (die flags : Nat) :
    s.countClose die flags = { s with regs := (s.countClose die flags).regs } := by
  unfold countClose bump setRegF setReg
  rfl

/-- A CLOSE of a record with reports, counted at the die that the address had when it was read. -/
theorem fxScaleClose_of_reported {s : State} {i : Nat} {x : ScaleUpd} (hx : s.scaleQ[i]? = some x)
    (hp : x.report = none) (hc : x.close = true) {m : State × List Byte × List Bool}
    (hm : m = State.memRead { s with scaleQ := s.scaleQ.eraseIdx i } x.addr 64 0) (h : recNat m.2.1 6 2 ≠ 0) :
    ∃ c, MemOnly m.1 c ∧ s.fxScaleClose i = c.countClose ((m.1.chanAddr x.addr).1 / 64) (recNat m.2.1 5 1) := by
  have hput := (freeBytes_memOnly m.1 1).trans
    (putClosed_memOnly _ x.addr (applyClose m.2.1 ((m.1.freeBytes 1).1.headD 0#8)))
  refine ⟨_, hput, ?_⟩
  rw [← hput.chanAddr]
  simp only [fxScaleClose, hx, hp, hc, h, ← hm, Option.isSome_none, Bool.not_true, Bool.or_false, Bool.false_eq_true,
    if_false]
  rfl

/-- What that CLOSE leaves. -/
theorem fxScaleClose_counts {s : State} {i : Nat} {x : ScaleUpd} (hx : s.scaleQ[i]? = some x)
    (hp : x.report = none) (hc : x.close = true) {m : State × List Byte × List Bool}
    (hm : m = State.memRead { s with scaleQ := s.scaleQ.eraseIdx i } x.addr 64 0) (h : recNat m.2.1 6 2 ≠ 0) :
    ∃ t, s.fxScaleClose i = t ∧ t.scaleQ = s.scaleQ.eraseIdx i ∧
      t.regF (rDie ((m.1.chanAddr x.addr).1 / 64) 0x28) 63 32 =
        (m.1.regF (rDie ((m.1.chanAddr x.addr).1 / 64) 0x28) 63 32 + 1) % 2 ^ 32 ∧
      t.units = s.units ∧ t.clus = s.clus ∧ t.out = s.out := by
  obtain ⟨c, hput, hclose⟩ := fxScaleClose_of_reported hx hp hc hm h
  have hall : MemOnly { s with scaleQ := s.scaleQ.eraseIdx i } c := (hm ▸ memRead_memOnly _ x.addr 64 0).trans hput
  generalize (m.1.chanAddr x.addr).1 / 64 = die at hclose ⊢
  have hcount := countClose_closes c die (recNat m.2.1 5 1)
  have hrest := countClose_rest c die (recNat m.2.1 5 1)
  generalize c.countClose die (recNat m.2.1 5 1) = t at hclose hcount hrest
  refine ⟨t, hclose, ?_, ?_, ?_, ?_, ?_⟩
  · rw [hrest, hall.scaleQ]
  · rw [hcount, regF, hput.reg _ (not_memReg_closes die), regF]
  · rw [hrest, hall.units]
  · rw [hrest, hall.clus]
  · rw [hrest, hall.out]

open Claims in
/-- SCALE_CLOSE of a record without reports. -/
theorem scaleClose_leaves_unreported (s : State) (i : Nat) (x : ScaleUpd) (m : State × List Byte × List Bool)
    (hx : s.scaleQ[i]? = some x) (hp : x.report = none) (hc : x.close = true)
    (hm : m = State.memRead { fresh s with scaleQ := s.scaleQ.eraseIdx i } x.addr 64 0)
    (hgo : goesOn (·.fxScaleClose i) s) (h : at' m.2.1 6 2 = 0) :
    ∃ t, exec (.scaleClose i) s = .next t ∧ t.scaleQ = s.scaleQ.eraseIdx i ∧ t = { m.1 with waited := s.waited } := by
  have hexec : exec (.scaleClose i) s = .next (s.orWait (·.fxScaleClose i)) := rfl
  rw [orWait_of_goesOn hgo, fxScaleClose_of_unreported (s := fresh s) hx hp hc hm h] at hexec
  refine ⟨_, hexec, ?_, rfl⟩
  rw [hm]
  exact (memRead_memOnly { fresh s with scaleQ := s.scaleQ.eraseIdx i } x.addr 64 0).scaleQ

open Claims in
/-- SCALE_CLOSE of a record with reports: its die counts it. -/
theorem scaleClose_counts (s : State) (i : Nat) (x : ScaleUpd) (m : State × List Byte × List Bool)
    (hx : s.scaleQ[i]? = some x) (hp : x.report = none) (hc : x.close = true)
    (hm : m = State.memRead { fresh s with scaleQ := s.scaleQ.eraseIdx i } x.addr 64 0)
    (hgo : goesOn (·.fxScaleClose i) s) (h : at' m.2.1 6 2 ≠ 0) :
    ∃ t, exec (.scaleClose i) s = .next t ∧ t.scaleQ = s.scaleQ.eraseIdx i ∧
      t.regF (rDie ((m.1.chanAddr x.addr).1 / 64) 0x28) 63 32 =
        (m.1.regF (rDie ((m.1.chanAddr x.addr).1 / 64) 0x28) 63 32 + 1) % 2 ^ 32 ∧
      t.units = s.units ∧ t.clus = s.clus ∧ t.out = s.out := by
  have hexec : exec (.scaleClose i) s = .next (s.orWait (·.fxScaleClose i)) := rfl
  obtain ⟨t, ht, hleaves⟩ := fxScaleClose_counts (s := fresh s) hx hp hc hm h
  rw [orWait_of_goesOn hgo, ht] at hexec
  exact ⟨_, hexec, hleaves⟩

/-! ### CHAIN_ROW_ARRIVE -/

/-- A change of the accesses that unit `pu` remembers alone. -/
structure SlipsOnly (pu : Nat) (s t : State) : Prop where
  unit   : t.unit pu = { s.unit pu with slips := (t.unit pu).slips }
  others : ∀ k, k ≠ pu → t.unit k = s.unit k
  rest   : t = { s with units := t.units }

namespace SlipsOnly

variable {pu : Nat} {s t v : State}

theorem refl (pu : Nat) (s : State) : SlipsOnly pu s s := ⟨rfl, fun _ _ => rfl, rfl⟩

theorem trans (h : SlipsOnly pu s t) (g : SlipsOnly pu t v) : SlipsOnly pu s v where
  unit := g.unit.trans (congrArg (fun x : UnitSt => { x with slips := (v.unit pu).slips }) h.unit)
  others k hk := (g.others k hk).trans (h.others k hk)
  rest := g.rest.trans (congrArg (fun x : State => { x with units := v.units }) h.rest)

theorem noteUse (s : State) (x : SlipRec) : SlipsOnly pu s (s.noteUse pu x) where
  unit := by rw [State.noteUse, unit_updUnit]
  others k hk := unit_updUnit_ne s _ hk
  rest := rfl

end SlipsOnly

/-- No access to `port` of unit `pu` is remembered in cycle `cyc`. -/
def portFree (s : State) (pu port cyc : Nat) : Prop := ∀ y ∈ (s.unit pu).slips, y.port = port → y.cyc ≠ cyc

/-- A remembered access leaves the other ports free. -/
theorem portFree_noteUse {s : State} {pu port cyc : Nat} {x : SlipRec} (h : s.portFree pu port cyc)
    (hx : x.port ≠ port) : (s.noteUse pu x).portFree pu port cyc := by
  intro y hy hport
  rw [noteUse, unit_updUnit] at hy
  rcases List.mem_cons.1 hy with rfl | hmem
  · exact absurd hport hx
  · exact h y (List.mem_of_mem_filter hmem) hport

/-- The owner's own access to a port that is free in its cycle is only remembered (R217). -/
theorem portUse_own {s : State} {pu u port agent cyc word : Nat} {k : Cmd} (undo : List (Nat × Byte)) (pois : Bool)
    (hown : Claims.owned s u port (ownerOf k.task agent) cyc) (hfree : s.portFree pu port cyc) :
    ∃ x : SlipRec, x.port = port ∧ s.portUse pu u port agent cyc word k undo pois = (s.noteUse pu x, none) := by
  have hnone : ((s.unit pu).slips.find? fun y => y.port == port && y.cyc == cyc) = none := by
    simpa [List.find?_eq_none] using show ∀ y ∈ (s.unit pu).slips, y.port = port → y.cyc ≠ cyc from hfree
  have huse : s.portUse pu u port agent cyc word k undo pois = (s.noteUse pu
      { slip := false, port := port, cyc := cyc, owner := ownerOf k.task agent, source := k.source, word := word
        prov := k.prov, serial := k.serial, undo := undo, pois := pois
        last := s.regF (rUnit pu 0x60) 23 0 }, none) := by
    simp only [portUse, hnone, show Machine.judge _ _ _ _ _ = _ from hown]
  exact ⟨_, rfl, huse⟩

/-- The access of a landing row's `i`-th list of values to its port of the chain buffer (port class 2). -/
def landStep (pu u : Nat) (k : Cmd) (x : ChainRow) (z : State × Option HaltInfo) (i : Nat) : State × Option HaltInfo :=
  if (x.vals.getD i []).isEmpty then z
  else
    let y := z.1.portUse pu u (0x2000 + arrBase x.eng + i) 0x016 x.cyc 0 k [] false
    (y.1, firstHalt z.2 y.2)

/-- A row whose ports are all its own and free takes them without a refusal. -/
theorem landStep_fold {pu u : Nat} {k : Cmd} {x : ChainRow} (l : List Nat) (hl : l.Nodup) (s : State)
    (hports : ∀ i ∈ l, x.vals.getD i [] ≠ [] →
      Claims.owned s u (0x2000 + arrBase x.eng + i) (ownerOf k.task 0x016) x.cyc ∧
        s.portFree pu (0x2000 + arrBase x.eng + i) x.cyc) :
    ∃ t, l.foldl (landStep pu u k x) (s, none) = (t, none) ∧ SlipsOnly pu s t := by
  induction l generalizing s with
  | nil => exact ⟨s, rfl, .refl pu s⟩
  | cons i l ih =>
    obtain ⟨hi, hl⟩ := List.nodup_cons.1 hl
    rw [List.foldl_cons]
    by_cases hempty : x.vals.getD i [] = []
    · rw [landStep, if_pos (by rw [hempty]; rfl)]
      exact ih hl s fun j hj => hports j (List.mem_cons_of_mem _ hj)
    · obtain ⟨hown, hfree⟩ := hports i List.mem_cons_self hempty
      obtain ⟨y, hy, huse⟩ := portUse_own (word := 0) [] false hown hfree
      have hstep : landStep pu u k x (s, none) i = (s.noteUse pu y, none) := by
        rw [landStep, if_neg (by simpa using hempty), huse]
        rfl
      rw [hstep]
      obtain ⟨t, ht, hslips⟩ := ih hl (s.noteUse pu y) fun j hj hj0 => by
        obtain ⟨hjown, hjfree⟩ := hports j (List.mem_cons_of_mem _ hj) hj0
        have hne : y.port ≠ 0x2000 + arrBase x.eng + j := by
          have : i ≠ j := fun hij => hi (hij ▸ hj)
          omega
        exact ⟨hjown, portFree_noteUse hjfree hne⟩
      exact ⟨t, ht, (SlipsOnly.noteUse s y).trans hslips⟩

/-- Without an own row of the engine nothing is added at the chain adder. -/
theorem chainMatch_of_no_own {s : State} {pu e : Nat} (h : ∀ y ∈ (s.unit pu).chain.own, y.eng ≠ e) (u n : Nat) :
    s.chainMatch pu u e n = (s, none) := by
  have hnone : ((s.unit pu).chain.own.find? fun y => y.eng == e) = none := by
    simpa [List.find?_eq_none] using h
  cases n with
  | zero => rfl
  | succ n =>
    rw [chainMatch]
    simp only [hnone]
    cases (s.unit pu).chain.buf.find? fun y => y.eng == e <;> rfl

/-- The oldest row taken off a unit's link. -/
def popRow (s : State) (pu : Nat) (rest : List ChainRow) : State :=
  s.updUnit pu fun v => { v with chain := { v.chain with link := rest } }

/-- The command that a row's accesses belong to: the chain descriptor of its engine, under the row's task. -/
def rowCmd (s : State) (pu : Nat) (x : ChainRow) : Cmd :=
  match (s.unit pu).runs.find? fun r => r.slot == x.eng && dDrain r.desc == 2 with
  | some r => { r.cmd with task := x.task }
  | none => { task := x.task, serial := 0, source := 5, prov := {} }

theorem rowCmd_task (s : State) (pu : Nat) (x : ChainRow) : (s.rowCmd pu x).task = x.task := by
  unfold rowCmd
  split <;> rfl

/-- A row in the chain buffer. -/
def bufferRow (s : State) (pu : Nat) (x : ChainRow) : State :=
  s.updUnit pu fun v => { v with chain := { v.chain with buf := v.chain.buf ++ [x] } }

/-- A row that lands, its ports taken, or halts the unit. -/
def landRow (s : State) (pu u : Nat) (x : ChainRow) : State :=
  let z := (List.range x.vals.length).foldl (landStep pu u (s.rowCmd pu x) x) (s, none)
  match z.2 with
  | some h => z.1.haltAt pu u h
  | none => orHalt ((z.1.bufferRow pu x).chainMatch pu u x.eng 130) pu u

variable {s : State} {u pu : Nat} {x : ChainRow} {rest : List ChainRow}

/-- What the gateway asks of a row. -/
def rowPasses (s : State) (pu : Nat) (x : ChainRow) : Prop := x.src.1 = pu / 4 ∨ s.gatewayOk x.src.1 x.src.2 = true

theorem popRow_passes (h : s.rowPasses pu x) (rest : List ChainRow) :
    ¬(x.src.1 ≠ pu / 4 ∧ (!(s.popRow pu rest).gatewayOk x.src.1 x.src.2) = true) := by
  rintro ⟨hne, hbad⟩
  have hok : (s.popRow pu rest).gatewayOk x.src.1 x.src.2 = true := h.resolve_left hne
  simp [hok] at hbad

/-- A row that passes the gateway to a halted unit is discarded. -/
theorem fxChainRowArrive_of_halted (hpu : s.physUnit u = some pu) (hlink : (s.unit pu).chain.link = x :: rest)
    (hgate : s.rowPasses pu x) (hhalt : s.unitHalted pu = true)
    (hown : ∀ y ∈ (s.unit pu).chain.own, ¬(y.eng = x.eng ∧ y.pass = x.pass)) :
    s.fxChainRowArrive u = s.popRow pu rest := by
  have hcond : ((s.popRow pu rest).unitHalted pu &&
      !((s.popRow pu rest).unit pu).chain.own.any fun y => y.eng == x.eng && y.pass == x.pass) = true := by
    rw [popRow, unit_updUnit]
    simpa [show State.unitHalted _ pu = true from hhalt] using hown
  unfold fxChainRowArrive
  simp only [hpu, hlink]
  exact (if_neg (popRow_passes hgate rest)).trans (if_pos hcond)

/-- A row that passes the gateway to a running unit lands. -/
theorem fxChainRowArrive_of_running (hpu : s.physUnit u = some pu) (hlink : (s.unit pu).chain.link = x :: rest)
    (hgate : s.rowPasses pu x) (hrun : s.unitHalted pu = false) :
    s.fxChainRowArrive u = (s.popRow pu rest).landRow pu u x := by
  have hcond : ¬((s.popRow pu rest).unitHalted pu &&
      !((s.popRow pu rest).unit pu).chain.own.any fun y => y.eng == x.eng && y.pass == x.pass) = true := by
    simp [show (s.popRow pu rest).unitHalted pu = false from hrun]
  unfold fxChainRowArrive
  simp only [hpu, hlink]
  exact (if_neg (popRow_passes hgate rest)).trans (if_neg hcond)

/-- Without a refused port and a partner the row waits in the chain buffer. -/
theorem landRow_of_alone (hports : ∀ i < x.vals.length, x.vals.getD i [] ≠ [] →
      Claims.owned s u (0x2000 + arrBase x.eng + i) (ownerOf x.task 0x016) x.cyc ∧
        s.portFree pu (0x2000 + arrBase x.eng + i) x.cyc)
    (hown : ∀ y ∈ (s.unit pu).chain.own, y.eng ≠ x.eng) :
    ∃ t, SlipsOnly pu s t ∧ s.landRow pu u x = t.bufferRow pu x := by
  obtain ⟨t, ht, hslips⟩ := landStep_fold (k := s.rowCmd pu x) (List.range x.vals.length) List.nodup_range s
    fun i hi => by simpa only [rowCmd_task] using hports i (List.mem_range.1 hi)
  have hown' : ∀ y ∈ ((t.bufferRow pu x).unit pu).chain.own, y.eng ≠ x.eng := by
    rw [bufferRow, unit_updUnit, hslips.unit]
    exact hown
  refine ⟨t, hslips, ?_⟩
  rw [landRow, ht]
  show orHalt ((t.bufferRow pu x).chainMatch pu u x.eng 130) pu u = _
  rw [chainMatch_of_no_own hown']
  rfl

open Claims in
/-- CHAIN_ROW_ARRIVE on a running unit. -/
theorem chainRowArrive_lands (s : State) (u : UnitIx) (pu : Nat) (x : ChainRow) (rest : List ChainRow)
    (hcomes : rowComes s u pu x rest) (hrun : s.unitHalted pu = false)
    (hports : ∀ i < x.vals.length, x.vals.getD i [] ≠ [] →
      owned s u.val (0x2000 + arrBase x.eng + i) (ownerOf x.task 0x016) x.cyc ∧
      ∀ y ∈ (s.unit pu).slips, y.port = 0x2000 + arrBase x.eng + i → y.cyc ≠ x.cyc)
    (hown : ∀ y ∈ (s.unit pu).chain.own, y.eng ≠ x.eng) :
    ∃ t, exec (.chainRowArrive u) s = .next t ∧ (t.unit pu).chain.link = rest ∧
      (t.unit pu).chain.buf = (s.unit pu).chain.buf ++ [x] ∧
      t.unit pu = { s.unit pu with
        chain := { (s.unit pu).chain with link := rest, buf := (s.unit pu).chain.buf ++ [x] }
        slips := (t.unit pu).slips } ∧
      (∀ k, k ≠ pu → t.unit k = s.unit k) ∧ t = { s with units := t.units } := by
  obtain ⟨hpu, hlink, hgate⟩ := hcomes
  have hpop : (s.popRow pu rest).unit pu = { s.unit pu with chain := { (s.unit pu).chain with link := rest } } :=
    unit_updUnit s pu _
  obtain ⟨v, hslips, hv⟩ := landRow_of_alone (s := s.popRow pu rest) (u := u.val) (x := x)
    (by unfold portFree; rw [hpop]; exact hports) (by rw [hpop]; exact hown)
  have hexec : exec (.chainRowArrive u) s = .next (v.bufferRow pu x) := by
    show Host.Outcome.next (s.fxChainRowArrive u.val) = _
    rw [fxChainRowArrive_of_running hpu hlink hgate hrun, hv]
  have hunit : (v.bufferRow pu x).unit pu = { s.unit pu with
      chain := { (s.unit pu).chain with link := rest, buf := (s.unit pu).chain.buf ++ [x] }
      slips := (v.unit pu).slips } := by
    rw [bufferRow, unit_updUnit, hslips.unit, hpop]
  refine ⟨_, hexec, ?_, ?_, ?_, fun k hk => ?_, ?_⟩
  · rw [hunit]
  · rw [hunit]
  · rw [hunit]
  · rw [bufferRow, unit_updUnit_ne _ _ hk, hslips.others k hk, popRow, unit_updUnit_ne _ _ hk]
  · exact congrArg (fun y : State => { y with units := (v.bufferRow pu x).units }) hslips.rest

open Claims in
/-- CHAIN_ROW_ARRIVE on a halted unit. -/
theorem chainRowArrive_discards (s : State) (u : UnitIx) (pu : Nat) (x : ChainRow) (rest : List ChainRow)
    (hcomes : rowComes s u pu x rest) (hhalt : s.unitHalted pu = true)
    (hown : ∀ y ∈ (s.unit pu).chain.own, ¬(y.eng = x.eng ∧ y.pass = x.pass)) :
    ∃ t, exec (.chainRowArrive u) s = .next t ∧
      t.unit pu = { s.unit pu with chain := { (s.unit pu).chain with link := rest } } ∧
      (∀ k, k ≠ pu → t.unit k = s.unit k) ∧ t = { s with units := t.units } := by
  obtain ⟨hpu, hlink, hgate⟩ := hcomes
  have hexec : exec (.chainRowArrive u) s = .next (s.popRow pu rest) :=
    congrArg Host.Outcome.next (fxChainRowArrive_of_halted hpu hlink hgate hhalt hown)
  exact ⟨_, hexec, unit_updUnit s pu _, fun k hk => unit_updUnit_ne s _ hk, rfl⟩

/-! ### CHAIN_ABORT -/

/-- The signals of the predecessor forgotten. -/
def clearSignals (s : State) (pu : Nat) : State :=
  s.updUnit pu fun v => { v with chain := { v.chain with abort := false, dead := false } }

open Claims in
/-- CHAIN_ABORT where no member waits for rows: the model forgets the signal, as log 28 chooses. -/
theorem chainAbort_forgets (s : State) (u : UnitIx) (pu : Nat) (hpu : s.physUnit u.val = some pu)
    (hrun : chainRun s u pu = none) :
    ∃ t, exec (.chainAbort u) s = .next t ∧
      t.unit pu = { s.unit pu with chain := { (s.unit pu).chain with abort := false, dead := false } } ∧
      (∀ k, k ≠ pu → t.unit k = s.unit k) ∧ t = { s with units := t.units } := by
  have hexec : exec (.chainAbort u) s = .next (s.clearSignals pu) := by
    show Host.Outcome.next (s.fxChainAbort u.val) = _
    simp only [fxChainAbort, hpu, show List.find? _ _ = _ from hrun]
    rfl
  exact ⟨_, hexec, unit_updUnit s pu _, fun k hk => unit_updUnit_ne s _ hk, rfl⟩

open Claims in
theorem not_unitReg_rRgn (pc r : Nat) : ¬unitReg pc (rRgn r 0) := by
  unfold unitReg regClu0 rRgn
  omega

theorem UnitWrites.physUnit {pu : Nat} {s t : State} (h : UnitWrites pu s t) (v : Nat) : t.physUnit v = s.physUnit v :=
  physUnit_congr (fun r => h.reg _ (not_unitReg_rRgn _ r)) v

/-- A logical unit and its physical one have the same place in their clusters. -/
theorem physUnit_mod {s : State} {v pu : Nat} (h : s.physUnit v = some pu) : pu % 4 = v % 4 := by
  obtain ⟨pc, -, rfl⟩ := Option.map_eq_some_iff.1 h
  omega

/-- The physical cluster of a logical one lies in its region. -/
theorem physClu_region {s : State} {c pc : Nat} (h : s.physClu c = some pc) : pc / 7 = c / 6 := by
  have h7 : s.regF (rRgn (c / 6) 0) (3 * (c % 6) + 2) (3 * (c % 6)) < 8 := by
    have hlt := regF_lt s (rRgn (c / 6) 0) (3 * (c % 6) + 2) (3 * (c % 6))
    rwa [show 3 * (c % 6) + 2 + 1 - 3 * (c % 6) = 3 by omega] at hlt
  unfold physClu at h
  dsimp only at h
  split at h
  · cases h
  · cases h
    omega

/-- The number that a unit in use reports has its place in the cluster. -/
theorem logUnit_mod {s : State} {v pu : Nat} (h : s.physUnit v = some pu) : s.logUnit pu % 4 = pu % 4 := by
  obtain ⟨pc, hpc, rfl⟩ := Option.map_eq_some_iff.1 h
  have hpu : (pc * 4 + v % 4) / 4 = pc := by omega
  have hlog : s.logClu pc ≠ none := by
    intro hnone
    have hfind := List.findSome?_eq_none_iff.1 hnone (v / 4 % 6) (List.mem_range.2 (Nat.mod_lt _ (by decide)))
    rw [physClu_region hpc, show v / 4 / 6 * 6 + v / 4 % 6 = v / 4 by omega, if_pos hpc] at hfind
    cases hfind
  unfold logUnit
  rw [hpu]
  cases hc : s.logClu pc with
  | none => exact absurd hc hlog
  | some c =>
    dsimp only
    omega

/-- An abort is sent to another unit than the one that halts. -/
theorem sendAbort_unit {s : State} {v pu : Nat} (h : s.physUnit v = some pu) :
    (s.sendAbort (s.logUnit pu)).unit pu = s.unit pu := by
  have hmod := logUnit_mod h
  unfold sendAbort
  split
  · next q hq =>
    have hq4 := physUnit_mod hq
    exact unit_updUnit_ne s _ (by omega)
  · rfl

/-! ### CHAIN_ABORT at a member that waits for rows (R137) -/

/-- What the later steps of a halt keep of an abort: its subcode, CHAIN_ABORT_SEEN and the signal from the
predecessor. -/
structure AbortKept (pu : Nat) (s t : State) : Prop where
  sub   : t.regF (rUnit pu 0x140) 63 56 = s.regF (rUnit pu 0x140) 63 56
  seen  : t.bit (rUnit pu 0x58) 1 = s.bit (rUnit pu 0x58) 1
  abort : (t.unit pu).chain.abort = (s.unit pu).chain.abort

namespace AbortKept

variable {pu : Nat} {s t v : State}

theorem trans (h : AbortKept pu s t) (g : AbortKept pu t v) : AbortKept pu s v :=
  ⟨g.sub.trans h.sub, g.seen.trans h.seen, g.abort.trans h.abort⟩

/-- A change that writes no register. -/
theorem of_regs (hreg : ∀ a, t.reg a = s.reg a) (habort : (t.unit pu).chain.abort = (s.unit pu).chain.abort) :
    AbortKept pu s t := by
  refine ⟨?_, ?_, habort⟩
  · rw [regF, regF, hreg]
  · rw [bit, bit, regF, regF, hreg]

theorem refl (pu : Nat) (s : State) : AbortKept pu s s := ⟨rfl, rfl, rfl⟩

end AbortKept

theorem settlePending_abort (s : State) (pu : Nat) : AbortKept pu s (s.settlePending pu) := by
  have hclr : AbortKept pu s (s.setRegF (rUnit pu 0x140) 54 54 0) := by
    refine ⟨regF_setRegF_other _ _ _ _ _ _ _ (by decide) (by decide) (by decide), ?_, by rw [setRegF_acc_unit]⟩
    rw [bit, bit, regF_setRegF_ne _ _ _ _ _ _ (rUnit_ne pu (by decide))]
  unfold settlePending
  dsimp only
  split
  · split
    · exact .refl pu s
    · exact hclr
  · exact hclr

theorem dropChain_abort (s : State) (pu : Nat) : AbortKept pu s (s.dropChain pu) := by
  unfold dropChain
  split
  · exact .refl pu s
  · refine ⟨regF_setRegF_ne _ _ _ _ _ _ (rUnit_ne pu (by decide)), ?_, by rw [clrBit_acc_unit]⟩
    rw [bit, bit, clrBit, regF_setRegF_other _ _ _ _ _ _ _ (by decide) (by decide) (by decide)]

theorem stopUnit_abort (s : State) (pu tick : Nat) (keep : RunSt → Bool) :
    AbortKept pu s (s.stopUnit pu tick keep) := by
  unfold stopUnit
  refine .of_regs (fun a => updUnit_acc_reg s _ _ a) ?_
  rw [unit_updUnit]
  simp only [UnitSt.killAll]
  split <;> rfl

theorem sendAbort_abort {s : State} {v pu : Nat} (h : s.physUnit v = some pu) :
    AbortKept pu s (s.sendAbort (s.logUnit pu)) := by
  refine .of_regs (fun a => ?_) (by rw [sendAbort_unit h])
  unfold sendAbort
  split <;> rfl

theorem leaveWork_abort {s : State} {v pu : Nat} (h : s.physUnit v = some pu) (chained : Bool) :
    AbortKept pu s (s.leaveWork pu chained) := by
  have hset := (settlePending_kept s pu).trans (dropChain_kept _ pu)
  refine ((settlePending_abort s pu).trans (dropChain_abort _ pu)).trans ?_
  cases chained
  · exact .refl pu _
  · exact sendAbort_abort ((hset.physUnit v).trans h)

theorem reportHalt_abort (s : State) (pu : Nat) (e : Err) : AbortKept pu s (s.reportHalt e) :=
  .of_regs (reportHalt_reg s e) (by rw [reportHalt_unit])

/-- A stream fault records its subcode (R278). -/
theorem setHaltRegs_abort (s : State) (pu : Nat) {h : HaltInfo} (hr : h.reason = 0x0B) (hs : h.sub < 64) :
    (s.setHaltRegs pu h false).regF (rUnit pu 0x140) 63 56 = h.sub ∧
      (s.setHaltRegs pu h false).bit (rUnit pu 0x58) 1 = s.bit (rUnit pu 0x58) 1 ∧
      ((s.setHaltRegs pu h false).unit pu).chain.abort = (s.unit pu).chain.abort := by
  unfold setHaltRegs
  dsimp only
  rw [if_pos hr]
  refine ⟨?_, ?_, ?_⟩
  · rw [regF_setReg_ne _ _ _ _ (rUnit_ne pu (by decide)), regF, reg_setRegF,
      fld_setFld_sub _ _ _ _ _ _ (by decide) (by decide) (by decide) (by decide) (by decide), bitsOf]
    omega
  · have hne : ∀ {a : Nat}, 0x58 ≠ a → rUnit pu 0x58 ≠ rUnit pu a := rUnit_ne pu
    rw [bit, bit, regF_setReg_ne _ _ _ _ (hne (by decide)), regF_setRegF_ne _ _ _ _ _ _ (hne (by decide)),
      regF_setRegF_ne _ _ _ _ _ _ (hne (by decide)), regF_setReg_ne _ _ _ _ (hne (by decide))]
  · rw [setReg_acc_unit, setRegF_acc_unit, setRegF_acc_unit, setReg_acc_unit]

/-- A running unit halts with a stream fault: the subcode that is shown, and what the halt keeps. -/
theorem haltUnit_abort {s : State} {v pu : Nat} (hpu : s.physUnit v = some pu) (hrun : s.unitHalted pu = false)
    {h : HaltInfo} (hr : h.reason = 0x0B) (hs : h.sub < 64) :
    (s.haltUnit pu h).regF (rUnit pu 0x140) 63 56 = h.sub ∧
      (s.haltUnit pu h).bit (rUnit pu 0x58) 1 = s.bit (rUnit pu 0x58) 1 ∧
      ((s.haltUnit pu h).unit pu).chain.abort = (s.unit pu).chain.abort := by
  obtain ⟨hsub, hseen, habort⟩ := setHaltRegs_abort s pu hr hs
  obtain ⟨s1, h1, -, hset⟩ := setHaltRegs_leaves s pu h
  rw [h1] at hsub hseen habort
  obtain ⟨s2, h2, -, -, -, hreg2, -⟩ := stopUnit_leaves s1 pu h.prov.ticket (survives h)
  have hstop : AbortKept pu s1 s2 := h2 ▸ stopUnit_abort s1 pu _ _
  have hpu2 : s2.physUnit v = some pu := (physUnit_congr (fun r => hreg2 _) v).trans ((hset.physUnit v).trans hpu)
  have hkept := (hstop.trans (leaveWork_abort hpu2 (s.runsChain pu))).trans
    (reportHalt_abort _ pu (s.haltErr pu h false))
  rw [haltUnit_eq h hrun, h1, h2]
  exact ⟨hkept.sub.trans hsub, hkept.seen.trans hseen, hkept.abort.trans habort⟩

/-- The halt of a member whose chain descriptor `r` is aborted; `ab` where its predecessor sent the abort. -/
def abortHalt (r : RunSt) (ab : Bool) : HaltInfo :=
  { reason := 0x0B, source := 5, prov := r.prov, task := dTask r.desc, serial := dSerial r.desc
    sub := if ab then 7 else 8 }

/-- The signals forgotten, CHAIN_ABORT_SEEN set and the fault registers cleared, before the member halts. -/
def seeAbort (s : State) (pu : Nat) : State := ((s.clearSignals pu).setBit (rUnit pu 0x58) 1).clearSflt pu

theorem seeAbort_writes (s : State) (pu : Nat) : UnitWrites pu s (s.seeAbort pu) := by
  have hsig : UnitWrites pu s (s.clearSignals pu) :=
    ⟨fun _ _ => rfl, by rw [clearSignals, unit_updUnit], by rw [clearSignals, unit_updUnit],
      by rw [clearSignals, unit_updUnit], rfl⟩
  unfold seeAbort clearSflt
  exact ((((hsig.trans (.setReg pu _ _ (by decide))).trans (.setReg pu _ _ (by decide))).trans
    (.setReg pu _ _ (by decide))).trans (.setReg pu _ _ (by decide))).trans (.setReg pu _ _ (by decide))

theorem seeAbort_leaves (s : State) (pu : Nat) : (s.seeAbort pu).bit (rUnit pu 0x58) 1 = true ∧
    (s.seeAbort pu).unitHalted pu = s.unitHalted pu ∧ ((s.seeAbort pu).unit pu).chain.abort = false := by
  have hreg : ∀ a, a ≠ rUnit pu 0x140 → a ≠ rUnit pu 0x148 → a ≠ rUnit pu 0x150 → a ≠ rUnit pu 0x158 →
      (s.seeAbort pu).reg a = ((s.clearSignals pu).setBit (rUnit pu 0x58) 1).reg a := fun a h1 h2 h3 h4 => by
    rw [seeAbort, clearSflt, reg_setReg_ne _ _ h4, reg_setReg_ne _ _ h3, reg_setRegF_ne _ _ _ _ h2,
      reg_setReg_ne _ _ h1]
  have hne : ∀ {a b : Nat}, a ≠ b → rUnit pu a ≠ rUnit pu b := rUnit_ne pu
  refine ⟨?_, ?_, ?_⟩
  · rw [bit, regF, hreg _ (hne (by decide)) (hne (by decide)) (hne (by decide)) (hne (by decide))]
    exact bit_setBit _ _ _ (by decide)
  · rw [unitHalted, unitHalted, regF, hreg _ (hne (by decide)) (hne (by decide)) (hne (by decide)) (hne (by decide)),
      reg_setBit_ne _ _ (hne (by decide))]
    rfl
  · rw [seeAbort, clearSflt, setReg_acc_unit, setReg_acc_unit, setRegF_acc_unit, setReg_acc_unit, setBit_acc_unit,
      clearSignals, unit_updUnit]

/-- A member that waits for rows and meets an abort, or a dead link, halts. -/
theorem fxChainAbort_of_halts {s : State} {u pu : Nat} {r : RunSt} (hpu : s.physUnit u = some pu)
    (hr : ((s.unit pu).runs.find? fun r => r.slot != 2 && dDrain r.desc == 2 && decide (dFirst r.desc < u)) = some r)
    (hrun : s.unitHalted pu = false) {ab : Bool}
    (hab : ab = ((s.unit pu).chain.abort && (s.unit pu).chain.link.isEmpty && !s.stillSends (u - 1)))
    (hcause : ab = true ∨ s.linkDead pu u = true) :
    s.fxChainAbort u = (s.seeAbort pu).haltUnit pu (abortHalt r ab) := by
  have hcond : ¬(s.unitHalted pu || !(ab || s.linkDead pu u)) = true := by
    rw [hrun]
    rcases hcause with h | h <;> simp [h]
  unfold fxChainAbort
  simp only [hpu, hr, ← hab]
  exact if_neg hcond

open Claims in
/-- CHAIN_ABORT at a member that waits for rows. -/
theorem chainAbort_halts (s : State) (u : UnitIx) (pu : Nat) (r : RunSt) (hpu : s.physUnit u.val = some pu)
    (hr : chainRun s u pu = some r) (hrun : s.unitHalted pu = false)
    (hcause : abortCame s u pu ∨ s.linkDead pu u.val = true) (hprov : provFits r.prov) :
    ∃ t, exec (.chainAbort u) s = .next t ∧ t.regF (rUnit pu 0x100) 63 56 = 0x0B ∧ t.bit (rUnit pu 0x58) 1 = true ∧
      t.regF (rUnit pu 0x140) 63 56 = (if abortCame s u pu then 7 else 8) ∧
      (t.unit pu).queues = [] ∧ (t.unit pu).chain.abort = false ∧ (t.unit pu).tile = (s.unit pu).tile ∧
      (∀ a, ¬unitReg (pu / 4) a → t.reg a = s.reg a) ∧
      t = { s with regs := t.regs, units := t.units, errFlight := t.errFlight, faults := t.faults } := by
  have hab : decide (abortCame s u pu) =
      ((s.unit pu).chain.abort && (s.unit pu).chain.link.isEmpty && !s.stillSends (u.val - 1)) := by
    rw [Bool.eq_iff_iff]
    simp [and_assoc]
  have hfx := fxChainAbort_of_halts hpu hr hrun hab (hcause.imp decide_eq_true id)
  obtain ⟨h, hh⟩ : ∃ h, h = abortHalt r (decide (abortCame s u pu)) := ⟨_, rfl⟩
  have hr0B : h.reason = 0x0B := by rw [hh, abortHalt]
  have hsub : h.sub = if abortCame s u pu then 7 else 8 := by simp only [hh, abortHalt, decide_eq_true_eq]
  have hsub64 : h.sub < 64 := by
    rw [hsub]
    split <;> decide
  have hwrites := seeAbort_writes s pu
  obtain ⟨hseen1, hrun1, habort1⟩ := seeAbort_leaves s pu
  generalize s.seeAbort pu = s1 at hfx hwrites hseen1 hrun1 habort1
  have hrun' := hrun1.trans hrun
  obtain ⟨hsub', hseen, habort⟩ := haltUnit_abort ((hwrites.physUnit u.val).trans hpu) hrun' hr0B hsub64
  obtain ⟨t, ht, hword, hq, -, htile, -, hreg, hrest⟩ := haltUnit_halts s1 h hrun'
  obtain ⟨hreason, -, -⟩ := haltWord_fields (h := h) (by omega) (hh ▸ hprov) (hh ▸ fld_lt _ 50 48) (hh ▸ fld_lt _ 31 0)
    (hh ▸ show 5 < 8 by decide)
  rw [← hh, ht] at hfx
  rw [ht] at hsub' hseen habort
  refine ⟨t, congrArg Host.Outcome.next hfx, ?_, hseen.trans hseen1, hsub'.trans hsub, hq, habort.trans habort1,
    htile.trans hwrites.tile, fun a ha => (hreg a ha).trans (hwrites.reg a ha), ?_⟩
  · rw [regF, hword, hreason, hr0B]
  · exact hrest.trans (congrArg (fun y : State =>
      { y with regs := t.regs, units := t.units, errFlight := t.errFlight, faults := t.faults }) hwrites.rest)

end State
end Sys2Proof.Machine

namespace Sys2Proof
open Machine State

/-- Settles O15: a clause each for the row that lands or is discarded, the abort that halts or is forgotten, the report
and the CLOSE, the last two at their record and over its bytes. -/
theorem chainRowsAndScaleUpdatesArrive : Obligations.ChainRowsAndScaleUpdatesArrive := by
  unfold Obligations.ChainRowsAndScaleUpdatesArrive
  exact ⟨chainRowArrive_lands, chainRowArrive_discards, chainAbort_halts, chainAbort_forgets, scaleReport_applies,
    applyReport_counts, scaleClose_leaves_unreported, scaleClose_counts,
    fun bs f h hpos hlen _ => applyClose_moves bs f h hpos hlen⟩

end Sys2Proof
